-- ==== Sys2Proof/Word.lean ====
section
/-! DEFINITION. The word types of the SPK-9420 and the one shape in which sparse storage is held. -/

namespace Sys2Proof

/-- A 64-bit scalar or address register, or a control register (R111, R6). -/
abbrev Word := BitVec 64

/-- A byte of memory. -/
abbrev Byte := BitVec 8

/-- A vector register, 1,024 bits (R111). -/
abbrev VWord := BitVec 1024

/-- A mask of 32 lanes (R59). -/
abbrev Mask := BitVec 32

/-- Storage of `w`-bit entries by number: numbers strictly rising, and no entry equal to zero, which is what a number
that is not listed reads as.  Memory is a `Store 8`, a list of `Host.Cell`. -/
abbrev Store (w : Nat) := List (Nat × BitVec w)

end Sys2Proof
end

