-- ==== Sys2Proof/Machine/Store.lean ====
section
/-! DEFINITION. Sparse storage and sparse tables: the one place where an entry is read, written or removed. -/

namespace Sys2Proof

/-- Entry `k`, zero where it is not listed (DESIGN CHOICE, log 2). -/
def Store.get {w : Nat} : Store w → Nat → BitVec w
  | [], _ => 0
  | (k', v) :: rest, k => if k = k' then v else Store.get rest k

/-- Write entry `k`, keeping the canonical form: numbers rising, no zero listed. -/
def Store.set {w : Nat} : Store w → Nat → BitVec w → Store w
  | [], k, v => if v = 0 then [] else [(k, v)]
  | (k', v') :: rest, k, v =>
    if k < k' then (if v = 0 then (k', v') :: Store.set rest k v else (k, v) :: (k', v') :: rest)
    else if k = k' then (if v = 0 then Store.set rest k v else (k, v) :: rest)
    else (k', v') :: Store.set rest k v

/-- Every number listed is above `lo`, the numbers rise and no zero is listed. -/
def Store.wfAbove {w : Nat} : Store w → Nat → Bool
  | [], _ => true
  | (k, v) :: rest, lo => decide (lo ≤ k) && decide (v ≠ 0) && Store.wfAbove rest (k + 1)

/-- The canonical form of storage. -/
def Store.wf {w : Nat} (m : Store w) : Bool := Store.wfAbove m 0

/-- Bytes `a`, `a + 1`, …, `a + n - 1`. -/
def Store.bytes (m : Store 8) (a : Nat) : Nat → List Byte
  | 0 => []
  | n + 1 => m.get a :: Store.bytes m (a + 1) n

/-- Write bytes from address `a` up. -/
def Store.setBytes (m : Store 8) (a : Nat) : List Byte → Store 8
  | [] => m
  | b :: bs => Store.setBytes (m.set a b) (a + 1) bs

/-- Write entries from number `k` up. -/
def Store.setAll {w : Nat} (m : Store w) (k : Nat) : List (BitVec w) → Store w
  | [] => m
  | b :: bs => Store.setAll (m.set k b) (k + 1) bs

/-- Entries `k`, `k + 1`, … of which there are `n`. -/
def Store.slice {w : Nat} (m : Store w) (k : Nat) : Nat → List (BitVec w)
  | 0 => []
  | n + 1 => m.get k :: Store.slice m (k + 1) n

/-- Entries whose number satisfies `p` read zero from now on. -/
def Store.clear {w : Nat} (m : Store w) (p : Nat → Bool) : Store w := m.filter fun kv => !p kv.1

/-- A table of records by number, numbers rising. -/
abbrev Table (α : Type) := List (Nat × α)

/-- The record of number `k`. -/
def Table.find? {α : Type} : Table α → Nat → Option α
  | [], _ => none
  | (k', v) :: rest, k => if k = k' then some v else Table.find? rest k

/-- Put the record of number `k`. -/
def Table.put {α : Type} : Table α → Nat → α → Table α
  | [], k, v => [(k, v)]
  | (k', v') :: rest, k, v =>
    if k < k' then (k, v) :: (k', v') :: rest
    else if k = k' then (k, v) :: rest
    else (k', v') :: Table.put rest k v

/-- Remove the record of number `k`. -/
def Table.drop {α : Type} (t : Table α) (k : Nat) : Table α := t.filter fun kv => !(kv.1 == k)

/-- The number below `n` bits that little-endian bytes hold (R2). -/
def leNat : List Byte → Nat
  | [] => 0
  | b :: bs => b.toNat + 256 * leNat bs

/-- `n` little-endian bytes of a number (R2). -/
def natLe : Nat → Nat → List Byte
  | 0, _ => []
  | n + 1, x => BitVec.ofNat 8 x :: natLe n (x / 256)

/-- First element of a list that satisfies `p`, with its position. -/
def findPos {α : Type} (p : α → Bool) : List α → Nat → Option (Nat × α)
  | [], _ => none
  | x :: xs, i => if p x then some (i, x) else findPos p xs (i + 1)

/-- Take bits `[lo + len - 1 : lo]` of a number. -/
def bitsOf (x lo len : Nat) : Nat := (x >>> lo) % 2 ^ len

end Sys2Proof
end

