-- ==== Sys2Proof/Machine/Flags.lean ====
section
/-! DEFINITION. Binary floating point by exact values and one rounding, the status flags, conversions, and the MX block
rules (R23 to R47). -/

namespace Sys2Proof.Machine

open Sys2Proof

/-- Status flags in the order of FPSTAT: NV, DZ, OF, UF, NX, SN (R32). -/
abbrev FpFlags := BitVec 6

/-- Invalid. -/
def flagNV : FpFlags := 1#6
/-- Divide-by-zero. -/
def flagDZ : FpFlags := 2#6
/-- Overflow. -/
def flagOF : FpFlags := 4#6
/-- Underflow. -/
def flagUF : FpFlags := 8#6
/-- Inexact. -/
def flagNX : FpFlags := 16#6
/-- A signalling NaN was an operand. -/
def flagSN : FpFlags := 32#6

/-- A binary format: exponent and fraction widths (R23). -/
structure Fmt where
  expBits : Nat
  fracBits : Nat
  deriving DecidableEq, Repr

/-- binary64. -/
def fmt64 : Fmt := ⟨11, 52⟩
/-- binary32. -/
def fmt32 : Fmt := ⟨8, 23⟩
/-- binary16. -/
def fmt16 : Fmt := ⟨5, 10⟩
/-- bfloat16. -/
def fmtB16 : Fmt := ⟨8, 7⟩

/-- Exponent bias. -/
def Fmt.bias (f : Fmt) : Nat := 2 ^ (f.expBits - 1) - 1

/-- Smallest normal exponent. -/
def Fmt.emin (f : Fmt) : Int := 1 - (f.bias : Int)

/-- Code of +∞. -/
def Fmt.infCode (f : Fmt) : Nat := (2 ^ f.expBits - 1) * 2 ^ f.fracBits

/-- The sign bit as a number. -/
def Fmt.signBit (f : Fmt) (neg : Bool) : Nat := if neg then 2 ^ (f.expBits + f.fracBits) else 0

/-- The format of an FP type code (R58). -/
def fmtOf (ty : BitVec 4) : Fmt :=
  match ty.toNat with
  | 8 => fmt64
  | 9 => fmt32
  | 10 => fmt16
  | _ => fmtB16

/-- An exact value: sign, magnitude and a power of two. -/
structure Dy where
  neg : Bool
  man : Nat
  exp : Int
  deriving DecidableEq, Repr

/-- A floating-point datum.  A NaN keeps its fraction aligned to 52 bits, so that a narrower format keeps the high-order
fraction bits that fit (R26). -/
inductive Fp where
  | nan (neg : Bool) (frac : Nat)
  | inf (neg : Bool)
  | fin (d : Dy)
  deriving DecidableEq, Repr

/-- Read a datum of format `f` (R23). -/
def Fp.ofBits (f : Fmt) (x : Nat) : Fp :=
  let neg := bitsOf x (f.expBits + f.fracBits) 1 == 1
  let e := bitsOf x f.fracBits f.expBits
  let m := bitsOf x 0 f.fracBits
  if e = 2 ^ f.expBits - 1 then
    if m = 0 then .inf neg else .nan neg (m <<< (52 - f.fracBits))
  else if e = 0 then .fin ⟨neg, m, f.emin - f.fracBits⟩
  else .fin ⟨neg, 2 ^ f.fracBits + m, f.emin - f.fracBits + (e - 1 : Nat)⟩

/-- A NaN is signalling when its most significant fraction bit is 0 (R25). -/
def Fp.signalling : Fp → Bool
  | .nan _ m => bitsOf m 51 1 == 0
  | _ => false

/-- The datum is a NaN. -/
def Fp.isNan : Fp → Bool
  | .nan _ _ => true
  | _ => false

/-- The datum is zero. -/
def Fp.isZero : Fp → Bool
  | .fin d => d.man == 0
  | _ => false

/-- Sign of a datum. -/
def Fp.negative : Fp → Bool
  | .nan n _ => n
  | .inf n => n
  | .fin d => d.neg

/-- Change the sign of a number, and never of a NaN (R136). -/
def Fp.neg : Fp → Fp
  | .nan n m => .nan n m
  | .inf n => .inf (!n)
  | .fin d => .fin { d with neg := !d.neg }

/-- Drop `sh` low bits of a magnitude in direction `rm` (R29), and say whether anything was lost. -/
def roundShift (rm : BitVec 2) (neg : Bool) (m sh : Nat) : Nat × Bool :=
  let hi := m >>> sh
  let lo := m % 2 ^ sh
  let up :=
    match rm.toNat with
    | 0 => decide (2 * lo > 2 ^ sh) || (decide (2 * lo = 2 ^ sh) && hi % 2 == 1)
    | 1 => false
    | 2 => !neg && lo != 0
    | _ => neg && lo != 0
  if sh = 0 then (m, false) else (if up then hi + 1 else hi, lo != 0)

/-- Round a magnitude to a multiple of `2 ^ q`. -/
def quantize (rm : BitVec 2) (d : Dy) (q : Int) : Nat × Bool :=
  if q ≤ d.exp then (d.man <<< (d.exp - q).toNat, false) else roundShift rm d.neg d.man (q - d.exp).toNat

/-- Exponent of the leading bit of a nonzero value: the floor of the logarithm of its magnitude. -/
def Dy.top (d : Dy) : Int := d.exp + (Nat.log2 d.man : Nat)

/-- RoundTo of R30: round an exact value once to format `f`, with overflow as R29 and underflow detected after rounding. -/
def roundTo (f : Fmt) (rm : BitVec 2) (d : Dy) : Nat × FpFlags :=
  if d.man = 0 then (f.signBit d.neg, 0) else
    let qmin := f.emin - f.fracBits
    let q0 := d.top - f.fracBits
    let q := max q0 qmin
    let (m, inexact) := quantize rm d q
    let code := (q - qmin).toNat * 2 ^ f.fracBits + m
    let free := (quantize rm d q0).1
    let tiny := decide (d.top < f.emin) && !(decide (d.top = f.emin - 1) && decide (free = 2 ^ (f.fracBits + 1)))
    if f.infCode ≤ code then
      let toInf := rm = 0#2 || (rm = 2#2 && !d.neg) || (rm = 3#2 && d.neg)
      (f.signBit d.neg + (if toInf then f.infCode else f.infCode - 1), flagOF ||| flagNX)
    else
      (f.signBit d.neg + code,
        (if inexact then flagNX else 0) ||| (if inexact && tiny then flagUF else 0))

/-- The canonical quiet NaN (R25). -/
def Fmt.canonNan (f : Fmt) : Nat := f.infCode + 2 ^ (f.fracBits - 1)

/-- A NaN made quiet in format `f` (R26 item 2). -/
def Fmt.quietNan (f : Fmt) (neg : Bool) (frac : Nat) : Nat :=
  f.signBit neg + f.infCode + ((frac ||| 2 ^ 51) >>> (52 - f.fracBits))

/-- The first NaN of the operands, quiet, in format `f` (R26 item 2). -/
def firstNan (f : Fmt) : List Fp → Option Nat
  | [] => none
  | .nan n m :: _ => some (f.quietNan n m)
  | _ :: rest => firstNan f rest

/-- A signalling NaN operand sets NV and SN (R34). -/
def snanFlags (xs : List Fp) : FpFlags := if xs.any Fp.signalling then flagNV ||| flagSN else 0

/-- Signed magnitude of a value on the grid `2 ^ e`, where `e` is at most its exponent. -/
def Dy.onGrid (d : Dy) (e : Int) : Int :=
  let m : Int := d.man <<< (d.exp - e).toNat
  if d.neg then -m else m

/-- Exact sum; an exact zero sum of values that are not zeros of one sign is +0, and -0 under RDN (R128). -/
def Dy.add (rm : BitVec 2) (a b : Dy) : Dy :=
  if a.man = 0 && b.man = 0 then ⟨if a.neg = b.neg then a.neg else rm = 3#2, 0, 0⟩ else
    let e := min a.exp b.exp
    let z := a.onGrid e + b.onGrid e
    if z = 0 then ⟨rm = 3#2, 0, 0⟩ else ⟨decide (z < 0), z.natAbs, e⟩

/-- Exact product. -/
def Dy.mul (a b : Dy) : Dy := ⟨a.neg != b.neg, a.man * b.man, a.exp + b.exp⟩

/-- Exact comparison of finite values. -/
def Dy.lt (a b : Dy) : Bool :=
  let e := min a.exp b.exp
  decide (a.onGrid e < b.onGrid e)

/-- `a < b` for data that are not NaNs. -/
def Fp.lt : Fp → Fp → Bool
  | .inf n, .inf m => n && !m
  | .inf n, .fin _ => n
  | .fin _, .inf m => !m
  | .fin a, .fin b => Dy.lt a b
  | _, _ => false

/-- Sum of two data in format `f` (R128). -/
def fpAdd (f : Fmt) (rm : BitVec 2) (a b : Fp) : Nat × FpFlags :=
  match firstNan f [a, b] with
  | some n => (n, snanFlags [a, b])
  | none =>
    match a, b with
    | .inf n, .inf m => if n = m then (f.signBit n + f.infCode, 0) else (f.canonNan, flagNV)
    | .inf n, _ => (f.signBit n + f.infCode, 0)
    | _, .inf m => (f.signBit m + f.infCode, 0)
    | .fin x, .fin y => roundTo f rm (Dy.add rm x y)
    | _, _ => (f.canonNan, flagNV)

/-- Difference (R128); the NaN operand keeps its sign. -/
def fpSub (f : Fmt) (rm : BitVec 2) (a b : Fp) : Nat × FpFlags := fpAdd f rm a b.neg

/-- Product (R128). -/
def fpMul (f : Fmt) (rm : BitVec 2) (a b : Fp) : Nat × FpFlags :=
  match firstNan f [a, b] with
  | some n => (n, snanFlags [a, b])
  | none =>
    let neg := a.negative != b.negative
    match a, b with
    | .fin x, .fin y => roundTo f rm (Dy.mul x y)
    | _, _ => if a.isZero || b.isZero then (f.canonNan, flagNV) else (f.signBit neg + f.infCode, 0)

/-- Fused product and sum with one rounding (R26, R128): `negP` and `negC` negate product and addend (R136). -/
def fpFma (f : Fmt) (rm : BitVec 2) (negP negC : Bool) (a b c : Fp) : Nat × FpFlags :=
  match firstNan f [a, b, c] with
  | some n => (n, snanFlags [a, b, c])
  | none =>
    let c := if negC then c.neg else c
    let pn := (a.negative != b.negative) != negP
    match a, b, c with
    | .fin x, .fin y, .fin z => roundTo f rm (Dy.add rm { Dy.mul x y with neg := pn } z)
    | .fin _, .fin _, .inf n => (f.signBit n + f.infCode, 0)
    | _, _, _ =>
      if a.isZero || b.isZero then (f.canonNan, flagNV) else
        match c with
        | .inf n => if n = pn then (f.signBit n + f.infCode, 0) else (f.canonNan, flagNV)
        | _ => (f.signBit pn + f.infCode, 0)

/-- Quotient of nonzero values with a sticky bit below every bit that a rounding keeps. -/
def Dy.div (a b : Dy) : Dy :=
  let k := 140 + Nat.log2 b.man
  let n := a.man <<< k
  let q := n / b.man
  ⟨a.neg != b.neg, 2 * q + (if n % b.man = 0 then 0 else 1), a.exp - b.exp - k - 1⟩

/-- Quotient (R128). -/
def fpDiv (f : Fmt) (rm : BitVec 2) (a b : Fp) : Nat × FpFlags :=
  match firstNan f [a, b] with
  | some n => (n, snanFlags [a, b])
  | none =>
    let neg := a.negative != b.negative
    match a, b with
    | .inf _, .inf _ => (f.canonNan, flagNV)
    | .inf _, _ => (f.signBit neg + f.infCode, 0)
    | _, .inf _ => (f.signBit neg, 0)
    | .fin x, .fin y =>
      if y.man = 0 then
        if x.man = 0 then (f.canonNan, flagNV) else (f.signBit neg + f.infCode, flagDZ)
      else if x.man = 0 then (f.signBit neg, 0)
      else roundTo f rm (Dy.div x y)
    | _, _ => (f.canonNan, flagNV)

/-- Integer square root, one bit of the root at a time from bit `k - 1` down. -/
def isqrt (n : Nat) : Nat → Nat → Nat
  | 0, r => r
  | k + 1, r => let c := r + 2 ^ k; if c * c ≤ n then isqrt n k c else isqrt n k r

/-- Square root of a positive value with a sticky bit. -/
def Dy.sqrt (a : Dy) : Dy :=
  let k := if (a.exp - 160) % 2 = 0 then 160 else 161
  let n := a.man <<< k
  let r := isqrt n (Nat.log2 n / 2 + 1) 0
  ⟨false, 2 * r + (if r * r = n then 0 else 1), (a.exp - k) / 2 - 1⟩

/-- Square root (R128). -/
def fpSqrt (f : Fmt) (rm : BitVec 2) (a : Fp) : Nat × FpFlags :=
  match a with
  | .nan n m => (f.quietNan n m, snanFlags [a])
  | .inf n => if n then (f.canonNan, flagNV) else (f.infCode, 0)
  | .fin d =>
    if d.man = 0 then (f.signBit d.neg, 0)
    else if d.neg then (f.canonNan, flagNV)
    else roundTo f rm (Dy.sqrt d)

/-- minimumNumber, or maximumNumber with `big` (R34), given the operands' codes. -/
def fpMinMax (f : Fmt) (big : Bool) (xa xb : Nat) : Nat × FpFlags :=
  let a := Fp.ofBits f xa
  let b := Fp.ofBits f xb
  let fl := snanFlags [a, b]
  if a.isNan && b.isNan then (f.canonNan, fl)
  else if a.isNan then (xb, fl)
  else if b.isNan then (xa, fl)
  else
    let less := a.lt b || (!(b.lt a) && a.negative && !b.negative)
    (if less != big then xa else xb, fl)

/-- Comparison `cc` of R128: eq, ne, lt, le, gt, ge, un, ord. -/
def fpCmp (cc : BitVec 3) (a b : Fp) : Bool × FpFlags :=
  let nan := a.isNan || b.isNan
  let lt := !nan && a.lt b
  let gt := !nan && b.lt a
  let eq := !nan && !lt && !gt
  let sn := snanFlags [a, b]
  let sig := if nan then flagNV ||| sn else sn
  match cc.toNat with
  | 0 => (eq, sn)
  | 1 => (!eq, sn)
  | 2 => (lt, sig)
  | 3 => (lt || eq, sig)
  | 4 => (gt, sig)
  | 5 => (gt || eq, sig)
  | 6 => (nan, sn)
  | _ => (!nan, sn)

/-- Class mask of R27. -/
def fpClass (f : Fmt) (x : Nat) : Nat :=
  let normal (d : Dy) : Bool := decide (2 ^ f.fracBits ≤ d.man)
  match Fp.ofBits f x with
  | .nan n m => if (Fp.nan n m).signalling then 0x100 else 0x200
  | .inf n => if n then 1 else 0x80
  | .fin d =>
    if d.man = 0 then (if d.neg then 8 else 0x10)
    else if normal d then (if d.neg then 2 else 0x40)
    else if d.neg then 4 else 0x20

/-- Width of an element type (R58, R130). -/
def elemWidth (ty : BitVec 4) : Nat :=
  match ty.toNat with
  | 0 => 8
  | 1 => 16
  | 2 => 32
  | 3 => 64
  | 4 => 8
  | 5 => 16
  | 6 => 32
  | 7 => 64
  | 8 => 64
  | 9 => 32
  | _ => 16

/-- The type is a signed integer type. -/
def elemSigned (ty : BitVec 4) : Bool := decide (ty.toNat < 4)

/-- The type is an FP type. -/
def elemFp (ty : BitVec 4) : Bool := decide (8 ≤ ty.toNat)

/-- An integer element's value, signed or unsigned by its type (R45). -/
def intVal (w : Nat) (signed : Bool) (x : Nat) : Int :=
  let y := x % 2 ^ w
  if signed && decide (2 ^ w ≤ 2 * y) then (y : Int) - (2 ^ w : Nat) else y

/-- Smallest value of an integer type. -/
def typeMin (w : Nat) (signed : Bool) : Int := if signed then -((2 ^ (w - 1) : Nat) : Int) else 0

/-- Largest value of an integer type. -/
def typeMax (w : Nat) (signed : Bool) : Int := if signed then ((2 ^ (w - 1) : Nat) : Int) - 1 else ((2 ^ w : Nat) : Int) - 1

/-- Clamp to an integer type's range. -/
def clampTo (w : Nat) (signed : Bool) (x : Int) : Int := max (typeMin w signed) (min (typeMax w signed) x)

/-- The low `w` bits of an integer. -/
def intCode (w : Nat) (x : Int) : Nat := (x % (2 ^ w : Nat)).toNat

/-- Round an exact value to an integer, and say whether it changed. -/
def roundInt (rm : BitVec 2) (d : Dy) : Int × Bool :=
  let (m, inexact) := quantize rm d 0
  (if d.neg then -(m : Int) else m, inexact)

/-- FP to integer (R47). -/
def fpToInt (w : Nat) (signed : Bool) (rm : BitVec 2) (a : Fp) : Nat × FpFlags :=
  match a with
  | .nan _ _ => (0, flagNV ||| snanFlags [a])
  | .inf n => (intCode w (if n then typeMin w signed else typeMax w signed), flagNV)
  | .fin d =>
    let (z, inexact) := roundInt rm d
    let c := clampTo w signed z
    if c = z then (intCode w z, if inexact then flagNX else 0) else (intCode w c, flagNV)

/-- FP to FP (R47). -/
def fpToFp (f : Fmt) (rm : BitVec 2) (a : Fp) : Nat × FpFlags :=
  match a with
  | .nan n m => (f.quietNan n m, snanFlags [a])
  | .inf n => (f.signBit n + f.infCode, 0)
  | .fin d => roundTo f rm d

/-- Conv of R139 and the pairs of `fcvt` (R47), between type codes of R58. -/
def convElem (rm : BitVec 2) (src dst : BitVec 4) (x : Nat) : Nat × FpFlags :=
  let wS := elemWidth src
  let wT := elemWidth dst
  if elemFp src then
    let a := Fp.ofBits (fmtOf src) x
    if elemFp dst then fpToFp (fmtOf dst) rm a else fpToInt wT (elemSigned dst) rm a
  else
    let z := intVal wS (elemSigned src) x
    if elemFp dst then roundTo (fmtOf dst) rm ⟨decide (z < 0), z.natAbs, 0⟩
    else (intCode wT (clampTo wT (elemSigned dst) z), 0)

/-- An MX element type in the coding of R58: 0 E4M3, 1 E5M2, 2 E2M3, 3 E3M2, 4 E2M1, 5 MXINT8. -/
abbrev MxType := Nat

/-- Exponent and mantissa widths, bias, emax and the code of the largest finite value of an E and M type (R39). -/
def mxShape (t : MxType) : Nat × Nat × Nat × Nat × Nat :=
  match t with
  | 0 => (4, 3, 7, 8, 0x7E)
  | 1 => (5, 2, 15, 15, 0x7B)
  | 2 => (2, 3, 1, 2, 0x1F)
  | 3 => (3, 2, 3, 4, 0x1F)
  | _ => (2, 1, 1, 2, 0x7)

/-- Largest normal exponent of an MX element type (R39, R40). -/
def mxEmax (t : MxType) : Nat := if t = 5 then 0 else (mxShape t).2.2.2.1

/-- Bits of an MX element. -/
def mxBits (t : MxType) : Nat := match t with | 2 => 6 | 3 => 6 | 4 => 4 | _ => 8

/-- Value of an MX element before its scale (R39, R40). -/
def mxValue (t : MxType) (x : Nat) : Fp :=
  if t = 5 then
    let k := intVal 8 true x
    .fin ⟨decide (k < 0), k.natAbs, -6⟩
  else
    let (eb, mb, bias, _, _) := mxShape t
    let neg := bitsOf x (eb + mb) 1 == 1
    let e := bitsOf x mb eb
    let m := bitsOf x 0 mb
    if t = 0 && e = 15 && m = 7 then .nan false (2 ^ 51)
    else if t = 1 && e = 31 then (if m = 0 then .inf neg else .nan false (2 ^ 51))
    else if e = 0 then .fin ⟨neg, m, 1 - (bias : Int) - mb⟩
    else .fin ⟨neg, 2 ^ mb + m, (e : Int) - bias - mb⟩

/-- Round a value to an MX element, saturating, and say whether NX is set (R43). -/
def mxEncode (t : MxType) (d : Dy) : Nat × Bool :=
  if t = 5 then
    let (m, inexact) := quantize 0 { d with exp := d.exp + 6 } 0
    let m' := min m 127
    (intCode 8 (if d.neg then -(m' : Int) else m'), inexact || m' != m)
  else
    let (eb, mb, bias, _, maxc) := mxShape t
    let sign := if d.neg then 2 ^ (eb + mb) else 0
    if d.man = 0 then (sign, false) else
      let qmin := 1 - (bias : Int) - mb
      let q := max (d.top - mb) qmin
      let (m, inexact) := quantize 0 d q
      let code := (q - qmin).toNat * 2 ^ mb + m
      if maxc < code then (sign + maxc, true) else (sign + code, inexact)

/-- Largest magnitude of a block as its leading exponent, `none` when every value is zero. -/
def blockTop : List Fp → Option Int
  | [] => none
  | .fin d :: rest =>
    if d.man = 0 then blockTop rest else
      match blockTop rest with
      | none => some d.top
      | some e => some (max d.top e)
  | _ :: rest => blockTop rest

/-- A packed block: scale, elements and flags (R43). -/
structure MxBlock where
  scale : Nat
  elems : List Nat
  flags : FpFlags
  deriving DecidableEq, Repr

/-- PackBlock of R43. -/
def packBlock (t : MxType) (xs : List Fp) : MxBlock :=
  let bad (x : Fp) : Bool := match x with | .fin _ => false | _ => true
  if xs.any bad then
    ⟨0xFF, xs.map fun _ => 0, flagNV ||| (if xs.any Fp.signalling then flagSN else 0)⟩
  else
    let X : Int := match blockTop xs with
      | none => -127
      | some e => max (-127) (min 127 (e - mxEmax t))
    let enc := xs.map fun x => match x with
      | .fin d => mxEncode t { d with exp := d.exp - X }
      | _ => (0, false)
    ⟨(X + 127).toNat, enc.map (·.1), if enc.any (·.2) then flagNX else 0⟩

/-- Expand of R44: element times scale, rounded once to format `f`. -/
def expandMx (t : MxType) (f : Fmt) (elem scale : Nat) : Nat × FpFlags :=
  if scale = 0xFF then (f.canonNan, 0) else
    match mxValue t elem with
    | .nan _ _ => (f.canonNan, 0)
    | .inf n => (f.signBit n + f.infCode, 0)
    | .fin d => roundTo f 0 { d with exp := d.exp + scale - 127 }

end Sys2Proof.Machine
end

