-- ==== Sys2Proof/Config.lean ====
section
/-! DEFINITION. What the manual fixes for every SPK-9420 as counts, and what it leaves open: the values left open are
constants without a body, so nothing can be proved of them (notes/assumptions 11, 12, 13, 14). -/

namespace Sys2Proof.Config

/-- Core contexts in consignments (R10). -/
def numContexts : Nat := 768

/-- First context number of the depot cores (R11). -/
def depotBase : Nat := 768

/-- First context number of the outriders (R12). -/
def outriderBase : Nat := 800

/-- Last 64 KiB frame of package HBM (R432). -/
def lastFrame : Nat := 5859367

/-- Base cycles of 0.25 ns in a tick of 10 ns (R4). -/
def baseCyclesPerTick : Nat := 40

/-- Package bytes of device memory that the page map reaches (R432). -/
def hbmBytes : Nat := 65536 * (lastFrame + 1)

/-- FREE VALUE.  A word the manual leaves open, one for each number (DESIGN CHOICE, log 13). -/
opaque freeWord : Nat → BitVec 64

/-- FREE VALUE.  What the contents of the caches settle for one access at one point of it: whether its line stands in the L1 or the
L2, whether its translation is cached, where its walk starts (R432, R433; DESIGN CHOICE, log 9). -/
opaque cacheChoice : Nat → Nat → Nat

/-- FREE VALUE.  Cycles of the host completer's own time for one access (R18; DESIGN CHOICE, log 66). -/
opaque completerTime : Nat → Nat

/-- FREE VALUE.  The two PCI Express ports serve one host (R21; DESIGN CHOICE, log 67). -/
opaque oneHost : Bool

/-- FREE VALUE.  Whether a peer answers a request that has left over Genketal (R377; DESIGN CHOICE, log 78). -/
opaque peerAnswers : Nat → Bool

/-- FREE VALUE.  What a package address outside the map reads as, in a base cycle (R432; DESIGN CHOICE, log 68). -/
opaque outsideByte : Nat → Nat → BitVec 8

/-- FREE VALUE.  Energy in nanojoules that the meter of a serai reads in a window of 100 ticks (R349; DESIGN CHOICE, log 11). -/
opaque energyOf : Nat → Nat → Nat

/-- FREE VALUE.  Peak milliamperes that the meter of a serai reads in a window of 100 ticks (R349; DESIGN CHOICE, log 11). -/
opaque peakOf : Nat → Nat → Nat

/-- FREE VALUE.  Energy in nanojoules of the package in a window of 100 ticks (R349; DESIGN CHOICE, log 11). -/
opaque packageEnergy : Nat → Nat

/-- FREE VALUE.  Uncore energy in nanojoules of the interval of 1,000 ticks before the one numbered (R347; DESIGN CHOICE,
log 11). -/
opaque uncoreEnergy : Nat → Nat

/-- FREE VALUE.  The SHA-384 digest of bytes (R411, R412, R418; PRESUMED, log 12). -/
opaque sha384 : List Byte → Vector Byte 48

/-- FREE VALUE.  Whether an RSASSA-PSS signature verifies over a measurement: modulus, measurement, signature (R412;
PRESUMED, log 12). -/
opaque rsaVerifies : List Byte → List Byte → List Byte → Bool

/-- FREE VALUE.  Whether an SLH-DSA signature verifies over a measurement: key, measurement, signature (R412; PRESUMED, log
12). -/
opaque slhVerifies : List Byte → List Byte → List Byte → Bool

/-- FREE VALUE.  The fused digest of the RSA key (R412; PRESUMED, log 12). -/
opaque fusedRsaDigest : Vector Byte 48

/-- FREE VALUE.  The fused digest of the SLH-DSA key (R412; PRESUMED, log 12). -/
opaque fusedSlhDigest : Vector Byte 48

/-- FREE VALUE.  The fused minimum security version (R412; PRESUMED, log 12). -/
opaque fusedMinSvn : Nat

/-- FREE VALUE.  Boot ROM version (R418; PRESUMED, log 12). -/
opaque bootRomVersion : BitVec 32

/-- FREE VALUE.  The identity's certificate chain (R417; PRESUMED, log 12). -/
opaque certificateChain : List Byte

/-- FREE VALUE.  RSASSA-PSS signature of the identity (R417, R418; PRESUMED, log 12). -/
opaque identityRsa : List Byte → Vector Byte 384

/-- FREE VALUE.  SLH-DSA-SHA2-192s signature of the identity's second key (R418; PRESUMED, log 12). -/
opaque identitySlh : List Byte → Vector Byte 16224

/-- FREE VALUE.  The largest transfer and the largest message of the mailboxes, as CAPABILITIES reports them (R417; PRESUMED, log 12). -/
opaque spdmSizes : BitVec 64

/-- FREE VALUE.  The responder's nonce of a signed answer, one for each number (R418; PRESUMED, log 12). -/
opaque spdmNonce : Nat → Vector Byte 32

/-- FREE VALUE.  Number of ticks, at most 64 after reduction, from a RESUME or TRESUME to the rejoin (R250, R371; DEDUCED,
log 10). -/
opaque rejoinDelay : Nat → Nat

/-- FREE VALUE.  Entry address of the firmware body in the address space the firmware sets (R226, R411; DESIGN CHOICE, log
4). -/
opaque firmwareEntry : BitVec 64

/-- FREE VALUE.  Package address to which the outrider of die 0 loads the firmware body (R411; DESIGN CHOICE, log 4). -/
opaque firmwareBase : Nat

/-- FREE VALUE.  The address space that the firmware sets for the outriders (R226; DESIGN CHOICE, log 4). -/
opaque firmwareAsid : Nat

end Sys2Proof.Config
end

