-- ==== Sys2Proof/Syntax.lean ====
section
/-! DEFINITION. The instructions and events of the SPK-9420: one constructor for each row of spec/opcode_table.json.
An instruction of a slot carries the fields of its slot's format (R55 to R66); an event carries what names it. -/

namespace Sys2Proof

/-- Fields of an S-slot word (R55). -/
structure SW where
  sd : BitVec 6
  sa : BitVec 6
  sb : BitVec 6
  fn : BitVec 6
  imm : BitVec 32
  deriving DecidableEq, Repr

/-- Fields of a VA or VB word (R57); `slotB` is true in VB. -/
structure VW where
  slotB : Bool
  vd : BitVec 10
  va : BitVec 10
  vb : BitVec 10
  vc : BitVec 10
  sel : BitVec 3
  ty : BitVec 4
  bcb : BitVec 1
  fn : BitVec 8
  deriving DecidableEq, Repr

/-- Fields of an M-slot word (R60). -/
structure MW where
  ta : BitVec 4
  tb : BitVec 4
  ar : BitVec 5
  sp : BitVec 6
  flags : BitVec 13
  tail : BitVec 24
  deriving DecidableEq, Repr

/-- Fields of an L-slot or T-slot word (R61). -/
structure LW where
  dr : BitVec 10
  ab : BitVec 5
  si : BitVec 6
  off : BitVec 24
  fn : BitVec 8
  sc : BitVec 3
  deriving DecidableEq, Repr

/-- Fields of a C-slot word (R63). -/
structure CW where
  ca : BitVec 5
  cb : BitVec 5
  cs : BitVec 6
  ci : BitVec 16
  tail : BitVec 24
  deriving DecidableEq, Repr

/-- Fields of a Y-slot word (R66); the common fields act with every opcode. -/
structure YW where
  yws : BitVec 8
  ywt : BitVec 10
  bv : BitVec 1
  bi : BitVec 6
  lff : BitVec 1
  lfl : BitVec 1
  lvl : BitVec 3
  rm : BitVec 1
  rsv : BitVec 1
  co : BitVec 24
  deriving DecidableEq, Repr

/-- A data flit of the collective engine as it arrives at a rank (R395 to R397): the table, its sequence number, what the
sender's command says (compared under R396; mode 3 is a gather), the segment, how many hops it has made, whether it carries a
final value, the wire values (an E4M3 or E5M2 block as its scale and its 32 elements), and the elements that are poisoned. -/
structure Flit where
  table : Nat
  cseq : Nat
  count : Nat
  mode : Nat
  ety : Nat
  wire : Nat
  root : Nat
  segment : Nat
  hop : Nat
  final : Bool
  data : List (BitVec 32)
  bad : List Nat
  deriving DecidableEq, Repr

/-- A host read or write through a BAR (R404, R405). -/
structure HostAccess where
  port : Nat
  write : Bool
  atomic : Bool
  offset : Nat
  size : Nat
  data : List Byte
  deriving DecidableEq, Repr

/-- A pace message (R383). -/
structure PaceMsg where
  type : Nat
  emerg : Bool
  src : Nat
  cvn : Nat
  limit : Nat
  ceil : Nat
  eff : Nat
  round : Nat
  sent : Nat
  deriving DecidableEq, Repr

/-- A request of a peer package that reaches this package's home slice: a read, a write, or an atomic with its operation
numbered from `amo.add`, its operand, its compare value and signedness (R235, R242, R375). -/
structure PeerReq where
  pkg : Nat
  write : Bool
  addr : Nat
  size : Nat
  data : List Byte
  atomic : Option (Nat × Word × Word × Bool)
  deriving DecidableEq, Repr

/-- An SPDM request that the model takes as it stands: the port of its mailbox, its two parameters and its body (R417). -/
structure SpdmReq where
  port : Nat
  p1 : Nat
  p2 : Nat
  body : List Byte
  deriving DecidableEq, Repr

/-- What an SPDM request that draws a signature says of it: the kind of summary hash that CHALLENGE asks for, or the slot whose key
GET_MEASUREMENTS asks for, the nonce, and the requester's context (R418). -/
structure SpdmAsk where
  param : Nat
  nonce : List Byte
  context : List Byte
  deriving DecidableEq, Repr

/-- Where an uncorrectable error strikes (R372): a 32-bit lane of a vector register, mask register 2 to 7, or the stack as 1. -/
inductive Place where
  | memory (addr : Nat)
  | scratch (gid addr : Nat)
  | side (gid addr : Nat)
  | tileStore (gid word : Nat)
  | tile (cid bit : Nat)
  | tileScale (cid index : Nat)
  | scalar (cid reg : Nat)
  | address (cid reg : Nat)
  | vector (cid reg lane : Nat)
  | mask (cid reg : Nat)
  | line (cid : Nat)
  | farEntry (cid entry : Nat)
  | stepData (die entry : Nat)
  deriving DecidableEq, Repr

/-- Every operation and event of the part, each whole and indivisible (95_what_each_step_holds.md). -/
inductive Instr where
  | nop (slot : BitVec 3) (body : BitVec 56)  -- NOP, R51
  | hint (slot : BitVec 3) (code : BitVec 4) (body : BitVec 56)  -- HINT, R52
  | add (x : SW)  -- ADD, R121
  | sub (x : SW)  -- SUB, R121
  | and (x : SW)  -- AND, R121
  | or (x : SW)  -- OR, R121
  | xor (x : SW)  -- XOR, R121
  | andn (x : SW)  -- ANDN, R121
  | shl (x : SW)  -- SHL, R122
  | shr (x : SW)  -- SHR, R122
  | sra (x : SW)  -- SRA, R122
  | rotl (x : SW)  -- ROTL, R122
  | min (x : SW)  -- MIN, R121
  | max (x : SW)  -- MAX, R121
  | scmp (x : SW)  -- SCMP, R121
  | sel (x : SW)  -- SEL, R121
  | li (x : SW)  -- LI, R121
  | lih (x : SW)  -- LIH, R121
  | addi (x : SW)  -- ADDI, R121
  | mov (x : SW)  -- MOV, R121
  | clz (x : SW)  -- CLZ, R121
  | ctz (x : SW)  -- CTZ, R121
  | popc (x : SW)  -- POPC, R121
  | bfx (x : SW)  -- BFX, R122
  | bfi (x : SW)  -- BFI, R122
  | s2a (x : SW)  -- S2A, R121
  | a2s (x : SW)  -- A2S, R121
  | mul (x : SW)  -- MUL, R121
  | mulh (x : SW)  -- MULH, R123
  | div (x : SW)  -- DIV, R123
  | rem (x : SW)  -- REM, R123
  | mfc (x : SW)  -- MFC, R124
  | mtc (x : SW)  -- MTC, R124
  | faddD (x : SW)  -- FADD_D, R128
  | fsubD (x : SW)  -- FSUB_D, R128
  | fmulD (x : SW)  -- FMUL_D, R128
  | fmaD (x : SW)  -- FMA_D, R128
  | fdivD (x : SW)  -- FDIV_D, R128
  | fsqrtD (x : SW)  -- FSQRT_D, R128
  | fminD (x : SW)  -- FMIN_D, R128
  | fmaxD (x : SW)  -- FMAX_D, R128
  | fcmpD (x : SW)  -- FCMP_D, R128
  | fclassD (x : SW)  -- FCLASS_D, R27
  | fcvt (x : SW)  -- FCVT, R129
  | vadd (x : VW)  -- VADD, R134
  | vsub (x : VW)  -- VSUB, R134
  | vand (x : VW)  -- VAND, R133
  | vor (x : VW)  -- VOR, R133
  | vxor (x : VW)  -- VXOR, R133
  | vshl (x : VW)  -- VSHL, R134
  | vshr (x : VW)  -- VSHR, R134
  | vsra (x : VW)  -- VSRA, R134
  | vmin (x : VW)  -- VMIN, R133
  | vmax (x : VW)  -- VMAX, R133
  | vabs (x : VW)  -- VABS, R134
  | vneg (x : VW)  -- VNEG, R134
  | vcmp (x : VW)  -- VCMP, R134
  | vsel (x : VW)  -- VSEL, R133
  | vclz (x : VW)  -- VCLZ, R133
  | vpopc (x : VW)  -- VPOPC, R133
  | vidx (x : VW)  -- VIDX, R133
  | vmov (x : VW)  -- VMOV, R133
  | vsplat (x : VW)  -- VSPLAT, R133
  | vmul (x : VW)  -- VMUL, R135
  | vmulh (x : VW)  -- VMULH, R135
  | vmadd (x : VW)  -- VMADD, R135
  | vfadd (x : VW)  -- VFADD, R137
  | vfsub (x : VW)  -- VFSUB, R137
  | vfmin (x : VW)  -- VFMIN, R137
  | vfmax (x : VW)  -- VFMAX, R137
  | vfcmp (x : VW)  -- VFCMP, R137
  | vfmul (x : VW)  -- VFMUL, R137
  | vfma (x : VW)  -- VFMA, R137
  | vfms (x : VW)  -- VFMS, R137
  | vfnma (x : VW)  -- VFNMA, R137
  | vfdiv (x : VW)  -- VFDIV, R137
  | vfsqrt (x : VW)  -- VFSQRT, R137
  | vfclass (x : VW)  -- VFCLASS, R137
  | vcvt (x : VW)  -- VCVT, R138
  | vmxpack (x : VW)  -- VMXPACK, R141
  | vmxunpack (x : VW)  -- VMXUNPACK, R142
  | vred (x : VW)  -- VRED, R143
  | vscan (x : VW)  -- VSCAN, R143
  | vperm (x : VW)  -- VPERM, R144
  | vrot (x : VW)  -- VROT, R144
  | vext (x : VW)  -- VEXT, R144
  | v2s (x : VW)  -- V2S, R145
  | vhashSrp (x : VW)  -- VHASH_SRP, R146
  | mpush (x : VW)  -- MPUSH, R109
  | minv (x : VW)  -- MINV, R109
  | mpop (x : VW)  -- MPOP, R109
  | mand (x : VW)  -- MAND, R109
  | mor (x : VW)  -- MOR, R109
  | mcnt (x : VW)  -- MCNT, R109
  | mlease (x : MW)  -- MLEASE, R179
  | mfree (x : MW)  -- MFREE, R180
  | tld (x : MW)  -- TLD, R175
  | tst (x : MW)  -- TST, R175
  | mma (x : MW)  -- MMA, R194
  | mmaBs (x : MW)  -- MMA_BS, R195
  | mmaNm (x : MW)  -- MMA_NM, R197
  | mzero (x : MW)  -- MZERO, R198
  | tsld (x : MW)  -- TSLD, R216
  | tsst (x : MW)  -- TSST, R216
  | ld (x : LW)  -- LD, R158
  | vld (x : LW)  -- VLD, R158
  | vlds (x : LW)  -- VLDS, R158
  | vldx (x : LW)  -- VLDX, R159
  | ldf (x : LW)  -- LDF, R238
  | vldf (x : LW)  -- VLDF, R238
  | popf (x : LW)  -- POPF, R239
  | vpopf (x : LW)  -- VPOPF, R239
  | rlyTake (x : LW)  -- RLY_TAKE, R163
  | st (x : LW)  -- ST, R158
  | vst (x : LW)  -- VST, R158
  | vsts (x : LW)  -- VSTS, R158
  | vstx (x : LW)  -- VSTX, R159
  | rlyGive (x : LW)  -- RLY_GIVE, R164
  | stg (x : LW)  -- STG, R240
  | vstg (x : LW)  -- VSTG, R240
  | amoAdd (x : LW)  -- AMO_ADD, R242
  | amoMin (x : LW)  -- AMO_MIN, R242
  | amoMax (x : LW)  -- AMO_MAX, R242
  | amoAnd (x : LW)  -- AMO_AND, R242
  | amoOr (x : LW)  -- AMO_OR, R242
  | amoXor (x : LW)  -- AMO_XOR, R242
  | amoSwap (x : LW)  -- AMO_SWAP, R242
  | amoCas (x : LW)  -- AMO_CAS, R242
  | amoFadd (x : LW)  -- AMO_FADD, R242
  | fenceAcq (x : LW)  -- FENCE_ACQ, R265
  | fenceRel (x : LW)  -- FENCE_REL, R265
  | fenceAr (x : LW)  -- FENCE_AR, R265
  | rlyInit (x : CW)  -- RLY_INIT, R162
  | cpLin (x : CW)  -- CP_LIN, R292
  | cpTen (x : CW)  -- CP_TEN, R294
  | cpGat (x : CW)  -- CP_GAT, R293
  | cpSct (x : CW)  -- CP_SCT, R293
  | cpFill (x : CW)  -- CP_FILL, R292
  | drain (x : CW)  -- DRAIN, R282
  | scProbe (x : CW)  -- SC_PROBE, R310
  | scCommit (x : CW)  -- SC_COMMIT, R312
  | scDrop (x : CW)  -- SC_DROP, R313
  | colRedRoot (x : CW)  -- COL_RED_ROOT, R397
  | colRedAll (x : CW)  -- COL_RED_ALL, R397
  | colRedScat (x : CW)  -- COL_RED_SCAT, R397
  | colGat (x : CW)  -- COL_GAT, R397
  | launch (x : CW)  -- LAUNCH, R355
  | ltrig (x : CW)  -- LTRIG, R354
  | br (x : YW)  -- BR, R95
  | bz (x : YW)  -- BZ, R95
  | bnz (x : YW)  -- BNZ, R95
  | bmNone (x : YW)  -- BM_NONE, R95
  | bmAny (x : YW)  -- BM_ANY, R95
  | jmp (x : YW)  -- JMP, R95
  | call (x : YW)  -- CALL, R98
  | ret (x : YW)  -- RET, R98
  | loopImm (x : YW)  -- LOOP_IMM, R103
  | loopReg (x : YW)  -- LOOP_REG, R103
  | loopx (x : YW)  -- LOOPX, R103
  | yield (x : YW)  -- YIELD, R85
  | halt (x : YW)  -- HALT, R100
  | xim (x : YW)  -- XIM, R101
  | mark (x : YW)  -- MARK, R246
  | wait (x : YW)  -- WAIT, R272
  | semAdd (x : YW)  -- SEM_ADD, R272
  | semSet (x : YW)  -- SEM_SET, R272
  | semRd (x : YW)  -- SEM_RD, R272
  | phReg (x : YW)  -- PH_REG, R277
  | phDrop (x : YW)  -- PH_DROP, R277
  | phArr (x : YW)  -- PH_ARR, R277
  | phWait (x : YW)  -- PH_WAIT, R278
  | phArw (x : YW)  -- PH_ARW, R278
  | dupcmp (x : YW)  -- DUPCMP, R118
  | trap (x : YW)  -- TRAP, R370
  | sys (x : YW)  -- SYS, R370
  | eret (x : YW)  -- ERET, R370
  | paceAnn (x : YW)  -- PACE_ANN, R391
  | paceAnnE (x : YW)  -- PACE_ANN_E, R390
  | paceJoin (x : YW)  -- PACE_JOIN, R391
  | paceLeave (x : YW)  -- PACE_LEAVE, R391
  | colFlitReceive (die : Nat) (flit : Flit)  -- COL_FLIT_RECEIVE, R397
  | tollCount (frame slot times : Nat)  -- TOLL_COUNT, R235
  | queueOpen (queue : Nat)  -- QUEUE_OPEN, R333
  | queueClose (queue : Nat)  -- QUEUE_CLOSE, R356
  | queueKill (queue : Nat)  -- QUEUE_KILL, R356
  | queueDoorbell (queue prod : Nat)  -- QUEUE_DOORBELL, R333
  | preemptSuspend (queue seq : Nat)  -- PREEMPT_SUSPEND, R358
  | preemptKill (queue seq : Nat)  -- PREEMPT_KILL, R361
  | preemptRelease (queue seq : Nat)  -- PREEMPT_RELEASE, R360
  | resume (seq asid : Nat)  -- RESUME, R250
  | tresumeResume (unit who asid : Nat)  -- TRESUME_RESUME, R371
  | tresumeAbort (unit who asid : Nat)  -- TRESUME_ABORT, R371
  | xlinv (value : Word)  -- XLINV, R232
  | errcntWrite (value : Word)  -- ERRCNT_WRITE, R374
  | errcnt2Write (value : Word)  -- ERRCNT2_WRITE, R416
  | merrClear (value : Word)  -- MERR_CLEAR, R415
  | qpartWrite (value : Word)  -- QPART_WRITE, R407
  | pwinWrite (value : Word)  -- PWIN_WRITE, R406
  | fllsetWrite (value : Word)  -- FLLSET_WRITE, R379
  | throttleWrite (value : Word)  -- THROTTLE_WRITE, R380
  | controlRegisterWrite (index : Nat) (value : Word)  -- CONTROL_REGISTER_WRITE, R124
  | bootFlash  -- BOOT_FLASH, R413
  | bootReboot  -- BOOT_REBOOT, R414
  | hostBar0Access (access : HostAccess)  -- HOST_BAR0_ACCESS, R404
  | hostBar2Access (access : HostAccess)  -- HOST_BAR2_ACCESS, R405
  | functionLevelReset (port : Nat)  -- FUNCTION_LEVEL_RESET, R408
  | getVersion (port : Nat)  -- GET_VERSION, R417
  | getCapabilities (req : SpdmReq)  -- GET_CAPABILITIES, R417
  | negotiateAlgorithms (req : SpdmReq)  -- NEGOTIATE_ALGORITHMS, R417
  | getDigests (port : Nat)  -- GET_DIGESTS, R417
  | getCertificate (port slot offset length : Nat)  -- GET_CERTIFICATE, R417
  | challenge (port slot : Nat) (ask : SpdmAsk)  -- CHALLENGE, R418
  | getMeasurements (port index : Nat) (signed : Bool) (ask : SpdmAsk)  -- GET_MEASUREMENTS, R418
  | spdmUnsupportedRequest (port code : Nat)  -- SPDM_UNSUPPORTED_REQUEST, R417
  | correctableError (hbm : Bool) (times : Nat)  -- CORRECTABLE_ERROR, R372
  | uncorrectableError (place : Place)  -- UNCORRECTABLE_ERROR, R372
  | tempSample (die temp : Nat)  -- TEMP_SAMPLE, R393
  | hbmTempSample (stack temp : Nat)  -- HBM_TEMP_SAMPLE, R393
  | linkTraining (pkg tick : Nat)  -- LINK_TRAINING, R376
  | peerRequestTimeout (id : Nat)  -- PEER_REQUEST_TIMEOUT, R377
  | annReceive (msg : PaceMsg)  -- ANN_RECEIVE, R387
  | hbReceive (msg : PaceMsg)  -- HB_RECEIVE, R385
  | joinReceive (msg : PaceMsg)  -- JOIN_RECEIVE, R385
  | welcomeReceive (msg : PaceMsg)  -- WELCOME_RECEIVE, R385
  | leaveReceive (msg : PaceMsg)  -- LEAVE_RECEIVE, R385
  | peerMemoryRequest (req : PeerReq)  -- PEER_MEMORY_REQUEST, R375
  | pcieCorrectableError (port : Nat)  -- PCIE_CORRECTABLE_ERROR, R416
  | resultLanding (cid : Nat)  -- RESULT_LANDING, R90
  | quantumEnd (core : Nat)  -- QUANTUM_END, R85
  | trapEventPost (asid : Nat)  -- TRAP_EVENT_POST, R367
  | leaseGrant (serai : Nat)  -- LEASE_GRANT, R182
  | leaseIdleExpiry (serai : Nat)  -- LEASE_IDLE_EXPIRY, R183
  | arrayCommandStart (serai : Nat)  -- ARRAY_COMMAND_START, R200
  | arrayUpdateBegin (serai : Nat)  -- ARRAY_UPDATE_BEGIN, R212
  | arrayCommandComplete (serai : Nat)  -- ARRAY_COMMAND_COMPLETE, R199
  | mfreeMarkerSignal (serai : Nat)  -- MFREE_MARKER_SIGNAL, R180
  | tileCommandStart (core : Nat)  -- TILE_COMMAND_START, R174
  | tileCommandComplete (core : Nat)  -- TILE_COMMAND_COMPLETE, R177
  | tsCopyStart (serai : Nat)  -- TS_COPY_START, R211
  | tsCopyBeat (serai : Nat)  -- TS_COPY_BEAT, R220
  | tsCopyYield (serai : Nat)  -- TS_COPY_YIELD, R221
  | tsCopyComplete (serai : Nat)  -- TS_COPY_COMPLETE, R219
  | rlyInitStart (serai : Nat)  -- RLY_INIT_START, R162
  | rlyInitComplete (serai : Nat)  -- RLY_INIT_COMPLETE, R162
  | droverCommandStart (drover : Nat)  -- DROVER_COMMAND_START, R285
  | droverChunkCommit (drover : Nat)  -- DROVER_CHUNK_COMMIT, R290
  | chunkTagWrite (drover : Nat)  -- CHUNK_TAG_WRITE, R291
  | droverCommandComplete (drover : Nat)  -- DROVER_COMMAND_COMPLETE, R289
  | drainStart (cid : Nat)  -- DRAIN_START, R282
  | drainComplete (cid : Nat)  -- DRAIN_COMPLETE, R282
  | scCommandStart (serai : Nat)  -- SC_COMMAND_START, R306
  | scDirectoryPoint (serai : Nat)  -- SC_DIRECTORY_POINT, R314
  | scCommandComplete (serai : Nat)  -- SC_COMMAND_COMPLETE, R309
  | colCommandStart (die : Nat)  -- COL_COMMAND_START, R395
  | colCommandComplete (die : Nat)  -- COL_COMMAND_COMPLETE, R398
  | colTimeout (die : Nat)  -- COL_TIMEOUT, R399
  | launchComplete (unit : Nat)  -- LAUNCH_COMPLETE, R355
  | pageWalkComplete (cid entry : Nat)  -- PAGE_WALK_COMPLETE, R433
  | faultQueueWrite (asid : Nat)  -- FAULT_QUEUE_WRITE, R249
  | farLoadArrival (cid entry : Nat)  -- FAR_LOAD_ARRIVAL, R238
  | parkEventPost (asid : Nat)  -- PARK_EVENT_POST, R251
  | storePublicationDone (cid : Nat)  -- STORE_PUBLICATION_DONE, R266
  | atomicPerform (id : Nat)  -- ATOMIC_PERFORM, R242
  | shadowStackSpillFill (cid : Nat)  -- SHADOW_STACK_SPILL_FILL, R99
  | phaserRegistrationApply (op : Nat)  -- PHASER_REGISTRATION_APPLY, R279
  | phaserDropApply (op : Nat)  -- PHASER_DROP_APPLY, R277
  | phaserArrivalCount (op : Nat)  -- PHASER_ARRIVAL_COUNT, R279
  | phaseDelivery (op : Nat)  -- PHASE_DELIVERY, R276
  | phTimeout (cid : Nat)  -- PH_TIMEOUT, R278
  | waitTimeout (cid : Nat)  -- WAIT_TIMEOUT, R272
  | schedulerSelection (die : Nat)  -- SCHEDULER_SELECTION, R345
  | scratchImageCopyDone (gid : Nat)  -- SCRATCH_IMAGE_COPY_DONE, R346
  | groupStart (gid : Nat)  -- GROUP_START, R346
  | powerInterval  -- POWER_INTERVAL, R347
  | overdrawWindow  -- OVERDRAW_WINDOW, R349
  | overdrawCapRise (serai : Nat)  -- OVERDRAW_CAP_RISE, R349
  | clockRaise (serai : Nat)  -- CLOCK_RAISE, R378
  | consignmentComplete (cons : Nat)  -- CONSIGNMENT_COMPLETE, R351
  | completionRecordWrite (cons : Nat)  -- COMPLETION_RECORD_WRITE, R334
  | watchdogExpiry (cons : Nat)  -- WATCHDOG_EXPIRY, R352
  | queueClosed (queue : Nat)  -- QUEUE_CLOSED, R333
  | packetFetch (queue : Nat)  -- PACKET_FETCH, R337
  | launchPacket (queue : Nat)  -- LAUNCH_PACKET, R339
  | waitseqPacket (queue : Nat)  -- WAITSEQ_PACKET, R341
  | evwaitPacket (queue : Nat)  -- EVWAIT_PACKET, R341
  | evsigPacket (queue : Nat)  -- EVSIG_PACKET, R341
  | graphPacket (queue : Nat)  -- GRAPH_PACKET, R342
  | eventObjectPoll (queue : Nat)  -- EVENT_OBJECT_POLL, R341
  | contextFreeze (cid : Nat)  -- CONTEXT_FREEZE, R358
  | suspendSaveComplete (cons : Nat)  -- SUSPEND_SAVE_COMPLETE, R358
  | groupRejoin (cid : Nat)  -- GROUP_REJOIN, R250
  | contextRejoin (cid : Nat)  -- CONTEXT_REJOIN, R371
  | xlinvDone  -- XLINV_DONE, R232
  | powerOn  -- POWER_ON, R412
  | msixMessage (port vector : Nat)  -- MSIX_MESSAGE, R410
  | roundBoundary  -- ROUND_BOUNDARY, R382
  | heartbeatSend  -- HEARTBEAT_SEND, R384
  | welcomeSend (pkg : Nat)  -- WELCOME_SEND, R385
  | peerSilent (pkg : Nat)  -- PEER_SILENT, R389
  | peerDeparted (pkg : Nat)  -- PEER_DEPARTED, R389
  | membershipLapse  -- MEMBERSHIP_LAPSE, R385
  | launchCommandStart (unit : Nat)  -- LAUNCH_COMMAND_START, R355
  | bundleFetch (cid : Nat)  -- BUNDLE_FETCH, R373
  | globalStorePerform (id : Nat)  -- GLOBAL_STORE_PERFORM, R282
  deriving DecidableEq, Repr

end Sys2Proof
end

