-- ==== Sys2Proof/Machine/State.lean ====
section
/-! DEFINITION. The state of one package, as plain data: every register, queue and record that the manual names, the reasons
a step can stop, and the state after reset.  INVENTORY.md lists every piece with its rule and its reset value. -/

namespace Sys2Proof.Machine

open Sys2Proof

/-- Trap causes (R363). -/
inductive Cause where
  | illop | priv | lwin | latconf | align | spbound | tsbound | access | fpx | snan | mxx | nmv | pcwbad | cfi | mstk
  | softerr | markov | eccu | timeout | sys | brk
  deriving DecidableEq, Repr

/-- Why the machine stops with a fault.  It never does: every exception of the manual is taken, and what a package address outside
the map reads as is a free value (DESIGN CHOICE, log 68). -/
inductive Fault where
  deriving DecidableEq, Repr

/-- Why a step has no meaning. -/
inductive Refusal where
  /-- The instruction is not modelled yet.  Raised by an arm of `exec` only.  Safe. -/
  | notModelled (mnemonic : String)
  /-- An event of the device that its own rules do not enable in this state, so that no step of the machine is this
  event.  Raised by the meanings of internal events; `step` never chooses such an event.  Safe. -/
  | notEnabled (event : String)
  deriving DecidableEq, Repr

/-- One loop level (R102 to R107). -/
structure LoopLevel where
  active : Bool
  iter : Nat
  count : Nat
  start : Word
  body : Nat
  sar : BitVec 5
  stride : Word
  deriving DecidableEq, Repr

/-- A control transfer whose delay bundles are not all issued (R94). -/
structure Xfer where
  target : Word
  left : Nat
  deriving DecidableEq, Repr

/-- What a pending result writes when it lands (R71, R90, R109, R126). -/
inductive Dest where
  | s (r : BitVec 6)
  | a (r : BitVec 5)
  | v (r : BitVec 10)
  | m (r : BitVec 3)
  | stack
  | cr (index : BitVec 12)
  deriving DecidableEq, Repr

/-- A pending result, or one held in the replay buffer (R36, R87, R90, R131).  `due` is a cycle of the unit's count, and
in the replay buffer the cycles that remain.  `flags` gives for NV, DZ, OF, UF, NX and SN in turn the governing mask bits
of the elements that raised it (R35, R132 item 4); a scalar result uses bit 0.  `struck` is FPCTL in the cycle in which a result that
raises an enabled flag has landed (R36, R127). -/
structure Result where
  dest : Dest
  value : VWord
  lanes : VWord
  stack : List Mask
  due : Nat
  slot : Nat
  order : Nat
  issued : Int
  pc : Word
  flags : List Mask
  quiet : Bool
  handler : Bool
  poisoned : Bool
  struck : Option Word
  deriving DecidableEq, Repr

/-- What a far-load entry holds (R237): `coming` is WAITING with the read performed and its data on the way (R238). -/
inductive FarData where
  | walking
  | waiting
  | coming (data : VWord) (bad : Bool)
  | arrived (data : VWord)
  | notPresent (seq : Nat)
  | access
  | poisoned
  deriving DecidableEq, Repr

/-- Which pop takes a far-load entry, and what fills it (R237, R238, R242, R307). -/
inductive FarKind where
  | load | vector | atomic | verdict
  deriving DecidableEq, Repr

/-- A far-load queue entry (R237).  `due` is the unit cycle of its next event and `arrive` that of its arrival once it has been
translated; `value` is what an atomic or a probe has returned and the entry has not yet received.  `own` gives for each byte what
the context's gate held of it at issue (R246), `left` is the tick in which its request was sent (R377), and `src` the writes that the read returned: context, core and identity of each
(R257). -/
structure FarEntry where
  id : Nat
  kind : FarKind
  ea : Word
  size : Nat
  signed : Bool
  data : FarData
  held : Bool
  order : Nat
  due : Nat
  value : Option VWord
  pc : Word
  arrive : Nat
  left : Nat
  own : List (Option Byte)
  src : List (Nat × Nat × Nat)
  deriving DecidableEq, Repr

/-- A physical place: MT of the leaf and the address (R230): 0 package HBM, 1 peer, 2 host memory behind port 0, 3 host memory
behind port 1 where the ports serve two hosts (R21). -/
structure PAddr where
  mt : Nat
  addr : Nat
  deriving DecidableEq, Repr

/-- One element of a store after translation. -/
structure Piece where
  at_ : PAddr
  data : List Byte
  deriving DecidableEq, Repr

/-- A gate entry of an open region (R246), or a release that waits for the region's commit (R257). -/
inductive GateOp where
  | scratch (side : Bool) (writes : List (Nat × List Byte))
  | global (ea : Word) (pieces : List Piece)
  | give (rb : Nat)
  | release (scope id : Nat)
  deriving DecidableEq, Repr

/-- A phaser registration as the parcel's table holds it (R274, R279). -/
structure PhReg where
  ph : Nat
  mode : Nat
  ap : Nat
  wp : Nat
  deriving DecidableEq, Repr

/-- What a mark records (R247, R280). -/
structure Recorded where
  pc : Word
  xfer : Option Xfer
  lchk : Bool
  dup : Bool
  fpctl : Word
  fpstat : Word
  ssp : Word
  shadow : List Word
  tshape : Store 64
  m : Store 32
  stack : List Mask
  loops : List LoopLevel
  wps : List (Nat × Nat)
  phWait : List (Nat × Nat × Bool)
  deriving DecidableEq, Repr

/-- An open restart region (R245 to R247).  `since` is the issue order of its first bundle; `shadowS` numbers scalar
registers from 0 and address registers from 64. -/
structure Region where
  saved : Recorded
  since : Nat
  gate : List GateOp
  shadowS : List (Nat × Word)
  shadowV : List (Nat × VWord)
  takes : List (Nat × Nat × Nat)
  deriving DecidableEq, Repr

/-- A bundle line as the context's instruction cache holds it (R373). -/
inductive Line where
  | bytes (data : List Byte)
  | notPresent
  | access
  | poisoned
  deriving DecidableEq, Repr

/-- Condition of a context (R80, R84, R248, R353, R358, R367). -/
inductive Status where
  | idle
  | starting
  | ready
  | halted
  | stopped
  | outriderStopped
  deriving DecidableEq, Repr

/-- A recorded deferred exception (R202, R219): `copy` for a tile-store copy, `number` of commands pushed before it,
MXSTAT bits it raised, when it completed, its signal semaphore if any, and whether it has been observed. -/
structure Deferred where
  copy : Bool
  number : Nat
  bits : BitVec 8
  nmv : Bool
  at_ : Int
  sem : Option Nat
  observed : Bool
  deriving DecidableEq, Repr

/-- A completed command that a later observation may name (R202). -/
structure DoneMark where
  copy : Bool
  number : Nat
  sem : Option Nat
  deriving DecidableEq, Repr

/-- A completed command whose flags are tested against the enables (R202). -/
structure Finish where
  copy : Bool
  number : Nat
  flags : BitVec 8
  sem : Option Nat
  deriving DecidableEq, Repr

/-- What hardware has added to a context's counters and flags in cycle `cycle`, with the deferred record as it stood before: a register
write that takes effect in that cycle comes before it (R126 item 3). -/
structure Finished where
  cycle : Nat
  skips : Nat
  done : Nat
  skipped : Nat
  list : List Finish
  deferred : Option Deferred
  dn : Nat
  doneMarks : List DoneMark
  deriving DecidableEq, Repr

/-- The context registers of R125 that are stored (views of CTXCTL, RBCTL.COUNT and CYCLE are computed). -/
structure CtxRegs where
  lchk : Bool
  dup : Bool
  fpctl : Word
  fpstat : Word
  mxstat : Word
  skips : Word
  planesDone : Word
  planesSkipped : Word
  ssp : Word
  tcause : Word
  tpc : Word
  tslot : Word
  tval : Word
  tlat : Word
  tepc : Word
  thand : Word
  rbDrop : Bool
  tscr0 : Word
  tscr1 : Word
  tshape : Store 64
  deriving DecidableEq, Repr

/-- A semaphore change that waits for a release of its context to cycle `till`, with its identity (R257, R266). -/
structure SemHeld where
  till : Nat
  id : Nat
  set : Bool
  n : Nat
  amount : Int
  deriving DecidableEq, Repr

/-- One context with its parcel (R10, R80, R111).  `phWait` lists the holds of `ph.arw` (R278): phaser, timeout, and whether the
handler made it.  `waitSince` and `holdSince` are the base cycles from which the next bundle's own wait and the hold on it are
timed (R272, R278).  `walk` gives the address of the bundle whose stores are being translated and the cycle in which that ends
(R240), `fetchWalk` the same for its fetch and `fillWalk` for the shadow stack (R433).  `reads` lists the writes that the context
has read: context, core and identity (R257); `lastStore` is the identity after its newest store posted on its core
(R256).  `semReads` lists the semaphores that `sem.rd` has read since the last acquire, each with the next identity (R272).
`finished` keeps what hardware has added in a cycle (R126). -/
structure Ctx where
  status : Status
  cons : Option Nat
  parcel : Nat
  gid : Nat
  asid : Nat
  priv : Bool
  fgrp : Nat
  ntregs : Nat
  frozen : Bool
  parked : Option Nat
  pc : Word
  xfer : Option Xfer
  line : Option (Word × Line)
  s : Store 64
  a : Store 64
  v : Store 1024
  vwritten : BitVec 32
  m : Store 32
  stack : List Mask
  loops : List LoopLevel
  regs : CtxRegs
  cycle0 : Nat
  cycles : Nat
  pend : List Result
  replay : List Result
  held : Option Result
  aside : Option (List LoopLevel × Option Xfer)
  returning : Option Nat
  far : List FarEntry
  region : Option Region
  shadow : List Word
  tile : Store 8
  tileScale : Store 8
  phregs : List PhReg
  phWait : List (Nat × Nat × Bool)
  waitSince : Option Nat
  holdSince : Option Nat
  walk : Option (Word × Nat)
  fetchWalk : Option (Word × Nat)
  fillWalk : Option (Word × Nat)
  reads : List (Nat × Nat × Nat)
  lastStore : Nat
  deferred : Option Deferred
  dn : Nat
  arrayPushed : Nat
  copyPushed : Nat
  doneMarks : List DoneMark
  order : Nat
  release : Option Nat
  acquireAt : Nat
  notBefore : Nat
  seen : Nat
  semReads : List (Nat × Nat)
  heldSem : List SemHeld
  leaseWanted : Option (Nat × Nat)
  finished : Option Finished
  deriving DecidableEq, Repr

/-- The issue state of a core (R85, R86). -/
structure Core where
  holder : Option Nat
  since : Nat
  lastCtx : Option Nat
  nextIssue : Nat
  waited : Nat
  tried : Nat
  deriving DecidableEq, Repr

/-- State of a relay-buffer slot (R161): released in a cycle and free from the next (R164), the command that fills it, the cycle of
its last write, its holder. -/
inductive SlotState where
  | free
  | freed (cycle : Nat)
  | filling (cmd : Nat)
  | filled (cycle : Nat)
  | taken (cid order : Nat) (given : Bool)
  deriving DecidableEq, Repr

/-- A relay buffer of a serai group (R160 to R165); `init` is a set-up that the next cycle sees: BASE, SLOT, COUNT (R162). -/
structure Relay where
  phys : Nat
  gen : Nat
  base : Nat
  slot : Nat
  count : Nat
  ready : Bool
  running : Bool
  fill : Nat
  fillOff : Nat
  take : Nat
  slots : List SlotState
  init : Option (Nat × Nat × Nat)
  deriving DecidableEq, Repr

/-- A phaser record (R274); `regs` holds the phaser's own view of each registration: context, mode, AP, and the phase it
joined (R279). -/
structure Phaser where
  phase : Nat
  nsig : Nat
  quorum : Nat
  arr0 : Nat
  arr1 : Nat
  regs : List (Nat × Nat × Nat × Nat)
  deriving DecidableEq, Repr

/-- A serai group, a depot parcel's core, or an outrider's core: what its parcels share (R147, R207, R268, R273).  Of the copy of its scratch
image, `copyAt` is the cycle of the next chunk or of the end, `copyNext` that chunk, and `copyPath` the longest path so far (R299, R346). -/
structure Group where
  cons : Option Nat
  index : Nat
  qgroup : Nat
  unit : Nat
  cores : List Nat
  resident : Bool
  started : Bool
  startTick : Nat
  imageDone : Bool
  copyAt : Nat
  copyNext : Nat
  copyPath : Nat
  spBase : Nat
  spLim : Nat
  tsBase : Nat
  tsLim : Nat
  nsems : Nat
  nrelays : Nat
  sp : Store 8
  side : Store 8
  ts : Store 32
  sems : Store 17
  relays : List Relay
  phasers : List (Nat × Phaser)
  seen : List (Nat × Nat)
  deriving DecidableEq, Repr

/-- The unit a command queue belongs to (R174, R181, R211, R162, R285, R306, R355, R395, R282).  Drovers 0 to 191 are those
of the serais, 192 + d is that of depot core d; launch units 0 to 47 are those of the serais, 48 + d of depot core d. -/
inductive QueueId where
  | array (serai : Nat)
  | tile (core : Nat)
  | copy (serai : Nat)
  | relay (serai : Nat)
  | drover (drover : Nat)
  | drain (cid : Nat)
  | step (serai : Nat)
  | coll (die : Nat)
  | launch (unit : Nat)
  deriving DecidableEq, Repr

/-- What a command does, with the operands that travel with it (R50). -/
inductive CmdOp where
  | tile (store : Bool) (reg : Nat) (base stride shape : Word) (scale : Bool)
  | product (kind : Nat) (ta tb : Nat) (pos pcw shapeA shapeB : Word)
  | zero (pos extent : Word)
  | marker
  | copy (store : Bool) (pos desc : Word) (prune pat : Bool)
  | relayInit (rb base slot count : Nat)
  | drover (kind : Nat) (desc first : Nat)
  | drain (cls scope : Nat) (rel : Bool) (ph : Option Nat) (trigger : Bool)
  | step (kind : Nat) (desc stepNo : Nat) (verdict : Option Nat)
  | coll (mode : Nat) (desc : Nat)
  | launch (desc queue : Nat)
  deriving DecidableEq, Repr

/-- Where the mask search of a command stands: its row-block, and in it the column indexes' address and the range left (R195). -/
structure Probe where
  q : Nat
  range : Option (Nat × Nat × Nat)
  deriving DecidableEq, Repr

/-- A command in a queue, running or waiting.  `pushed`, `start`, `due` are cycles of its unit (ticks in the collective
engine).  `work` counts beats, chunks or segments done, `aux`, `occ` and `lead` are times its kind needs; a drain that arrives keeps in
`lead` the phase of its arrival.  A collective keeps the local
input behind its descriptor in `copyOf`, its poison by element in `present`, the ranks of its table in `ring`, and the final segments
in `finals`; `probe` is an array command's mask search under way, `struck` the rows and columns that poison reaches in what it has
latched, and `masked` the row-blocks of whose mask the search has read poison.  `reached` numbers the chunks that wait at a relay unit in
the order in which they reached it, 0 where none of the command's waits (R331). -/
structure Cmd where
  id : Nat
  queue : QueueId
  cid : Nat
  gid : Nat
  pc : Word
  tail : BitVec 24
  op : CmdOp
  number : Nat
  pushed : Nat
  start : Option Nat
  due : Nat
  occ : Nat
  aux : Nat
  lead : Nat
  ring : List (Nat × Nat)
  probe : Option Probe
  struck : List Nat × List Nat
  masked : List Nat
  hold : Nat
  updating : Bool
  work : Nat
  copyOf : List Byte
  latA : Store 8
  latB : Store 8
  present : List Bool
  flags : BitVec 8
  verdict : Nat
  metric : Word
  fault : Option (Nat × Nat × Nat)
  refused : Nat
  finals : List Flit
  reached : Nat
  deriving DecidableEq, Repr

/-- The lease of an array (R178, R179, R183): holder, budget left, priority of its `mlease`, and the tick since which it
has neither pushed nor stood blocked while a request stands. -/
structure Lease where
  holder : Nat
  budget : Nat
  prio : Nat
  idle : Nat
  deriving DecidableEq, Repr

/-- A standing lease request (R182). -/
structure LeaseReq where
  cid : Nat
  prio : Nat
  passed : Nat
  budget : Nat
  resume : Bool
  since : Nat
  deriving DecidableEq, Repr

/-- A serai's clock, throttle and lease (R13, R178, R378 to R380, R349). -/
structure Serai where
  clk : Nat
  phase : Nat
  cyc : Nat
  changed : Option Nat
  ocap : Nat
  overdrawn : Nat
  level : Nat
  lease : Option Lease
  grantFrom : Nat
  lastHolder : Option Nat
  reqs : List LeaseReq
  deriving DecidableEq, Repr

/-- A scratchpad write of a context that takes effect at the end of the cycle (R155). -/
structure Late where
  cid : Nat
  gid : Nat
  side : Bool
  addr : Nat
  data : List Byte
  deriving DecidableEq, Repr

/-- A release that a store happens-before (R257): a fence of a context at a scope, with its core and the next identity at its
effect; the arrival at a phase of a phaser, `owner` the group of a local phaser, the consignment of a package phaser; the completion
signal of a drain at a semaphore of a core of a group, with its identity (R283); an `ltrig` of a consignment; or a fence that waits in a
gate, by its identity (R257). -/
inductive Rel where
  | fence (cid core scope next : Nat)
  | phase (owner n phase : Nat)
  | signal (gid core n id : Nat)
  | trigger (cons : Nat)
  | gated (id : Nat)
  deriving DecidableEq, Repr

/-- Whose write it is (R254): a plain store, an atomic, an engine's, or one of the host or of the device itself. -/
inductive WriteKind where
  | plain | atomic | engine | host
  deriving DecidableEq, Repr

/-- A write to global memory that is not yet in storage: a posted plain store (R240, R254, R258), or a write already performed.
`core` is the core in whose L1 store path it stands, or from which it came, `stood` the other cores in whose paths its context has
put it (R359), and `head` the first piece of its store.  `pub` lists the scopes at which it is published, each
with the core whose release did so; `hb` the contexts whose later operations it happens-before, each with the identity from which,
its own and those of its core apart (R256); `rel` the releases that it happens-before.  `born` is the base cycle in which it
entered the coherence order.  A store that a release holds back waits to cycle `wait` of its unit, and `ask` are the
publications that then take effect (R266).  `left` is the tick in which it was sent (R377). -/
structure Posted where
  id : Nat
  cid : Nat
  core : Nat
  cons : Option Nat
  kind : WriteKind
  piece : Piece
  pub : List (Nat × Nat)
  rel : List Rel
  performed : Bool
  due : Nat
  hb : List (Nat × Nat)
  born : Nat
  wait : Nat
  ask : List (Nat × Nat)
  left : Nat
  stood : List Nat
  head : Nat
  deriving DecidableEq, Repr

/-- An atomic on its way to its home point (R242); a release holds it back to cycle `wait`, and it left in tick `left` (R266, R377).
-/
structure AtomicReq where
  id : Nat
  cid : Nat
  op : Nat
  at_ : PAddr
  size : Nat
  signed : Bool
  operand : Word
  compare : Word
  fetch : Option Nat
  due : Nat
  left : Nat
  wait : Nat
  deriving DecidableEq, Repr

/-- An operation of a parcel on its way to a phaser, a test that arrivals carried over from ARR1 call for, or the delivery of
a phase to a group (R275, R276, R279). -/
inductive PhAct where
  | register (mode quorum ap : Nat)
  | drop
  | arrive
  | carried
  | deliver (phase : Nat)
  deriving DecidableEq, Repr

/-- One such operation; `held` is true while it waits at the phaser or, for a drain's arrival, for the drain. -/
structure PhOp where
  id : Nat
  cid : Nat
  gid : Nat
  cons : Option Nat
  ph : Nat
  act : PhAct
  due : Nat
  held : Bool
  deriving DecidableEq, Repr

/-- A LAUNCH packet's fields (R338). -/
structure Packet where
  dep : Bool
  early : Bool
  entry : Word
  args : Word
  handler : Word
  depot : Word
  scqBase : Word
  scQuota : Nat
  p : Nat
  c : Nat
  s : Nat
  q : Nat
  d : Nat
  fg : Nat
  tregs : Nat
  spg : Nat
  tsg : Nat
  relays : Nat
  depots : Nat
  g : Nat
  sems : Nat
  phn : Nat
  energy : Nat
  current : Nat
  argStride : Nat
  wdog : Nat
  event : Word
  simg : Word
  slen : Nat
  deriving DecidableEq, Repr

/-- State of a consignment (R353). -/
inductive ConsState where
  | accepted | running | suspending | suspended | draining | completing | killing | complete
  deriving DecidableEq, Repr

/-- An accepted consignment (R339 to R361).  `saved` lists its saved groups in order; `bound` the quarter and depot cores of
each quarter group; `ended` orders those whose record waits, and `asked` is the tick of the last suspend or of the kill. -/
structure Cons where
  queue : Nat
  seq : Nat
  asid : Nat
  die : Nat
  pk : Packet
  state : ConsState
  nextGroup : Nat
  halted : Nat
  triggered : List Nat
  skips : Nat
  energy : Nat
  overdraw : Nat
  accepted : Nat
  watch : Nat
  status : Nat
  reason : Nat
  pred : Option Nat
  phasers : List (Nat × Phaser)
  bound : List (Nat × Nat × List Nat)
  saved : List Nat
  releaseAfter : Bool
  graph : Option Nat
  params : Nat
  doneSeq : Nat
  ended : Nat
  asked : Nat
  deriving DecidableEq, Repr

/-- State of a queue (R333). -/
inductive QState where
  | closed | open_ | closing | error
  deriving DecidableEq, Repr

/-- A work queue (R332 to R334): `k` packets have been consumed since it was opened, `done` lists completed packets beyond
COMPLETED (a completed packet without a record as its number plus 2^32), `records` the record in each slot of the completion
ring, `issuers` the consignment that appended a packet by `launch` (R355). -/
structure Queue where
  st : QState
  ring : Word
  rsize : Nat
  asid : Nat
  cls : Nat
  dev : Bool
  stat : Word
  cpl : Word
  csize : Nat
  prod : Nat
  k : Nat
  expect : Nat
  consumed : Nat
  completed : Nat
  done : List Nat
  records : List (Nat × Nat)
  nrec : Nat
  packet : Option (List Byte)
  pollTick : Nat
  passed : Nat
  raises : Nat
  lastLaunch : Option Nat
  issuers : List (Nat × Nat)
  deriving DecidableEq, Repr

/-- A graph replay (R342): the record that stands for it among the consignments, the graph object, its pool block, and the
address of that block.  Its packets run in a queue of their own, number 8,192 + `anchor`. -/
structure Replay where
  anchor : Nat
  object : Word
  block : Nat
  params : Nat
  deriving DecidableEq, Repr

/-- A step-cache directory entry (R305); the command that locks it, and the base cycle from which it is free again (R314). -/
structure SCEntry where
  valid : Bool
  tag : Word
  owner : Nat
  freeAt : Nat
  lock : Option Nat
  maxSkip : Nat
  run : Nat
  ity : Nat
  inb : Nat
  outb : Nat
  unit : Nat
  step : Nat
  deriving DecidableEq, Repr

/-- A fault-queue entry under way (R249). -/
structure FaultRec where
  asid : Nat
  bytes : List Byte
  deriving DecidableEq, Repr

/-- An event under way to an event queue (R251, R367). -/
structure EventRec where
  asid : Nat
  kind : Nat
  after : Option Nat
  bytes : List Byte
  deriving DecidableEq, Repr

/-- A context or group that waits for its rejoin at a tick (R250, R371); `trap` marks those of TRESUME. -/
structure Rejoin where
  cid : Nat
  at_ : Nat
  trap : Bool
  deriving DecidableEq, Repr

/-- What leaves the package, oldest first: pace messages, flits, interrupts, mailbox responses, host read completions
(R383, R395, R410, R417, R404). -/
inductive Out where
  | pace (target : Nat) (flit : List Byte)
  | flit (pkg die : Nat) (flit : Flit)
  | interrupt (port vector : Nat)
  | doe (port : Nat) (code : Nat) (bytes : List Byte)
  | completion (port : Nat) (bytes : List Byte)
  | unsupported (port : Nat)
  | peerData (pkg : Nat) (bytes : List Byte)
  deriving DecidableEq, Repr

/-- View of a convoy peer (R382). -/
inductive View where
  | absent | live | silent | departed
  deriving DecidableEq, Repr

/-- A peer record (R382). -/
structure Peer where
  pkg : Nat
  view : View
  limit : Nat
  announced : List (Nat × Nat)
  last : Nat
  frozen : Nat
  joinAt : Option (Nat × Nat)
  leaveAt : Option Nat
  deriving DecidableEq, Repr

/-- The pace unit; `counts` holds the limits that count in CEIL since the last boundary, by package, and `capped` that F counts in it;
`emergencies` holds the emergency limits that cap the clocks, each with its own boundary (R381 to R390). -/
structure Pace where
  ceil : Nat
  lim : Nat
  emergencies : List (Nat × Nat)
  mstate : Nat
  frozen : Bool
  freeze : Nat
  counts : List (Nat × Nat)
  capped : Bool
  emerg : Nat
  late : Nat
  pending : List (Nat × Nat)
  boundary : Nat
  cprime : Nat
  welcomes : Nat
  peers : List Peer
  owe : List (Nat × Nat)
  pkg : Nat
  cvn : Nat
  stoppedAt : Option Nat
  deriving DecidableEq, Repr

/-- A temperature monitor (R392): the stored word, and for each step that is set the tick in which it was set. -/
structure Tmon where
  temp : Nat
  thr : Nat
  hyst : Nat
  alert : Bool
  aen : Bool
  sem : Nat
  href : Nat
  hcap : Nat
  sinceSet : List (Nat × Nat)
  deriving DecidableEq, Repr

/-- What a mailbox has said and heard, for the transcripts of SPDM: the messages up to the negotiation, those of the certificates, and
those of the measurements since the last signature (R417, R418; PRESUMED, log 12). -/
structure SpdmLog where
  first : List Byte
  certs : List Byte
  measured : List Byte
  deriving DecidableEq, Repr

/-- Package registers and boot state; `memEn`, `busEn`, `msixEn` and `atomicEn` are the enables of each port's configuration space; `windows` is PWIN as accesses that arrive now meet it (R406), and `prBusy` lists the actions of PREEMPT and TRESUME that are not complete, each the consignment and
1 for a suspend, 2 for a kill, 3 for an abort; `bumps` lists what hardware has added to ERRCNT, ERRCNT2 and MERR in this base cycle, each the
register, the place and the amount (R126) (R228, R232, R332, R357, R371, R374, R394, R404 to R416). -/
structure PkgRegs where
  astab : Word
  tollbase : Word
  qtab : Word
  coltab : Word
  cvtab : Word
  xlBusy : Option Nat
  prBusy : List (Nat × Nat)
  target : Nat
  errcnt : Word
  errcnt2 : Word
  bumps : List (Nat × Nat × Nat)
  split : Nat
  pwin : Word
  windows : Word
  bootState : Nat
  bootCause : Nat
  svn : Nat
  merr : Word
  msixDue : List (Nat × Nat)
  msixLast : List (Nat × Nat)
  memEn : List Bool
  busEn : List Bool
  msixEn : List Bool
  atomicEn : List Bool
  mailbox : List SpdmLog
  colCount : Store 64
  poweredOn : Bool
  trained : Bool
  deriving DecidableEq, Repr

/-- How an issued slot instruction is being handled: `whole` checks and acts, `check` records the checks' verdict only,
`act` acts where every slot of the bundle has passed (R50). -/
inductive Phase where
  | whole | check | act
  deriving DecidableEq, Repr

/-- What the issue checks of a slot answer (R50, R84); `stall` holds the core at the bundle without a block (R100, R232,
R380). -/
inductive Verdict where
  | ok
  | block
  | stall
  | trap (c : Cause) (tval : Word)
  | fault (seqKind : Nat) (addr : Word) (level : Nat)
  deriving DecidableEq, Repr

/-- The bundle under issue: its context, the Y common fields, the immediate of an `xim` (R56), its address, the verdicts of
the slots checked so far, the target of a transfer it has taken, its slots that push a far-load entry (R237), and the identity from which on
its own effects are numbered (R256). -/
structure Issue where
  cid : Nat
  phase : Phase
  common : YW
  xim : Option (BitVec 24)
  pc : Word
  verdicts : List (Nat × Verdict)
  next : Option Word
  pushers : List Nat
  first : Nat
  deriving DecidableEq, Repr

/-- A configuration register of a port that the manual names (R405, R408, R409, R410). -/
inductive CfgReg where
  | command | deviceCapabilities2 | deviceControl2 | msixControl
  deriving DecidableEq, Repr

/-- What happens outside the package and is no row of the operation table: a host stores to its own memory (R267), writes or reads
the configuration space of a port (R408, R409), or the serial flash begins or ends to fail (R412). -/
inductive OutsideAct where
  | store (port addr : Nat) (data : List Byte)
  | configWrite (port : Nat) (reg : CfgReg) (value : Nat)
  | configRead (port : Nat) (reg : CfgReg)
  | flashFails (bad : Bool)
  deriving DecidableEq, Repr

/-- A change of a semaphore by a context (R257): group, core and number of the semaphore, context, core and identity. -/
structure SemWrite where
  gid : Nat
  core : Nat
  n : Nat
  cid : Nat
  id : Nat
  deriving DecidableEq, Repr

/-- The state of a package; `flits` holds what has arrived at a collective engine for a command that has not started (R395).
`hostMem` is the memory of the host behind port 0, `hostMem1` that of a second host behind port 1 (R21), `acts` what is about to
happen outside, and `flashBad` says that a read of the flash meets an uncorrectable error (R412). -/
structure State where
  now : Nat
  tick : Nat
  issue : Issue
  inputs : List Instr
  outbox : List Out
  free : Nat
  nextId : Nat
  ctxs : List (Nat × Ctx)
  cores : List (Nat × Core)
  groups : List (Nat × Group)
  serais : List (Nat × Serai)
  cmds : List Cmd
  mem : Store 8
  hostMem : Store 8
  hostMem1 : Store 8
  acts : List OutsideAct
  semWrites : List SemWrite
  peerMem : Store 8
  posted : List Posted
  late : List Late
  atomics : List AtomicReq
  phops : List PhOp
  cons : List (Nat × Cons)
  queues : List (Nat × Queue)
  replays : List Replay
  steps : List (Nat × List SCEntry)
  faultsOut : List FaultRec
  eventsOut : List EventRec
  flits : List (Nat × Flit)
  lastServed : List (Nat × Nat)
  lastSelect : List (Nat × Nat)
  lastPower : Nat
  lastWindow : Nat
  lastRound : Nat
  lastBeat : Nat
  pk : PkgRegs
  pace : Pace
  tmons : List (Nat × Tmon)
  poison : List Place
  flash : List Byte
  flashBad : Bool
  staging : Store 8
  rejoins : List Rejoin
  freeRelayGen : Nat
  deriving DecidableEq, Repr

/-- Context registers at parcel start (R81, R368; DESIGN CHOICE, log 63). -/
def CtxRegs.start : CtxRegs where
  lchk := false
  dup := false
  fpctl := 0
  fpstat := 0
  mxstat := 0
  skips := 0
  planesDone := 0
  planesSkipped := 0
  ssp := 0
  tcause := 0
  tpc := 0
  tslot := 0
  tval := 0
  tlat := 0
  tepc := 0
  thand := 0
  rbDrop := false
  tscr0 := 0
  tscr1 := 0
  tshape := []

/-- An inactive loop level (R81). -/
def LoopLevel.off : LoopLevel := ⟨false, 0, 0, 0, 0, 0, 0⟩

/-- A context that holds no parcel, every register at its start value (R80, R81; DESIGN CHOICE, log 63). -/
def Ctx.idle : Ctx where
  status := .idle
  cons := none
  parcel := 0
  gid := 0
  asid := 0
  priv := false
  fgrp := 0
  ntregs := 0
  frozen := false
  parked := none
  pc := 0
  xfer := none
  line := none
  s := []
  a := []
  v := []
  vwritten := 0
  m := []
  stack := []
  loops := List.replicate 6 .off
  regs := .start
  cycle0 := 0
  cycles := 0
  pend := []
  replay := []
  held := none
  aside := none
  returning := none
  far := []
  region := none
  shadow := []
  tile := []
  tileScale := []
  phregs := []
  phWait := []
  waitSince := none
  holdSince := none
  walk := none
  fetchWalk := none
  fillWalk := none
  reads := []
  lastStore := 0
  deferred := none
  dn := 0
  arrayPushed := 0
  copyPushed := 0
  doneMarks := []
  order := 0
  release := none
  acquireAt := 0
  notBefore := 0
  seen := 0
  semReads := []
  heldSem := []
  leaseWanted := none
  finished := none

/-- A core that has issued nothing (DESIGN CHOICE, log 63). -/
def Core.fresh : Core := ⟨none, 0, none, 0, 0, 0⟩

/-- A group with no allotment (DESIGN CHOICE, log 63). -/
def Group.empty : Group where
  cons := none
  index := 0
  qgroup := 0
  unit := 0
  cores := []
  resident := false
  started := false
  startTick := 0
  imageDone := true
  copyAt := 0
  copyNext := 0
  copyPath := 0
  spBase := 0
  spLim := 0
  tsBase := 0
  tsLim := 0
  nsems := 0
  nrelays := 0
  sp := []
  side := []
  ts := []
  sems := []
  relays := []
  phasers := []
  seen := []

/-- A phaser record at phase 0 (R273). -/
def Phaser.fresh : Phaser := ⟨0, 0, 0, 0, 0, []⟩

/-- A serai after reset: 4,000 MHz, no cap, no lease (R13, R379, R380; DESIGN CHOICE, log 63). -/
def Serai.fresh : Serai where
  clk := 160
  phase := 0
  cyc := 0
  changed := none
  ocap := 0
  overdrawn := 0
  level := 0
  lease := none
  grantFrom := 0
  lastHolder := none
  reqs := []

/-- A closed queue (R333; DESIGN CHOICE, log 63). -/
def Queue.closed : Queue where
  st := .closed
  ring := 0
  rsize := 0
  asid := 0
  cls := 0
  dev := false
  stat := 0
  cpl := 0
  csize := 0
  prod := 0
  k := 0
  expect := 0
  consumed := 0
  completed := 0
  done := []
  records := []
  nrec := 0
  packet := none
  pollTick := 0
  passed := 0
  raises := 0
  lastLaunch := none
  issuers := []

/-- A temperature monitor after reset (R392). -/
def Tmon.fresh : Tmon := ⟨0, 0x1FF, 5, false, false, 0, 0, 0, []⟩

/-- The pace unit after reset (R381; DESIGN CHOICE, log 3). -/
def Pace.fresh : Pace where
  ceil := 160
  lim := 160
  emergencies := []
  mstate := 0
  frozen := false
  freeze := 0
  counts := []
  capped := false
  emerg := 0
  late := 0
  pending := []
  boundary := 0
  cprime := 160
  welcomes := 0
  peers := []
  owe := []
  pkg := 0
  cvn := 0
  stoppedAt := none

/-- Package registers after reset, each as its register map states (R228, R332, R374, R379, R394, R406, R407, R414 to R416;
PRESUMED, log 6). -/
def PkgRegs.fresh : PkgRegs where
  astab := 0
  tollbase := 0
  qtab := 0
  coltab := 0
  cvtab := 0
  xlBusy := none
  prBusy := []
  target := 160
  errcnt := 0
  errcnt2 := 0
  bumps := []
  split := 64
  pwin := 0x0200_0000_0200_0000#64
  windows := 0x0200_0000_0200_0000#64
  bootState := 0
  bootCause := 0
  svn := 0
  merr := 0
  msixDue := []
  msixLast := []
  memEn := [false, false]
  busEn := [false, false]
  msixEn := [false, false]
  atomicEn := [false, false]
  mailbox := [⟨[], [], []⟩, ⟨[], [], []⟩]
  colCount := []
  poweredOn := false
  trained := false

/-- Y common fields that do nothing: no wait, no broadcast, no flags (R66). -/
def YW.quiet : YW := ⟨0, 0, 0, 0, 0, 0, 0, 0, 0, 0⟩

/-- No bundle under issue. -/
def Issue.idle : Issue := ⟨0, .whole, YW.quiet, none, 0, [], none, [], 0⟩

/-- The package right after reset: nothing launched, every queue CLOSED, every register at its reset value, memory with
nothing listed.  The boot ROM has not yet read the image (R412; DESIGN CHOICE, log 2; DESIGN CHOICE, log 3; DESIGN CHOICE, log 7; DESIGN CHOICE, log 13; DEDUCED, log 16; DESIGN CHOICE, log 63). -/
def State.reset : State where
  now := 0
  tick := 0
  issue := .idle
  inputs := []
  outbox := []
  free := 0
  nextId := 0
  ctxs := []
  cores := []
  groups := []
  serais := []
  cmds := []
  mem := []
  hostMem := []
  hostMem1 := []
  acts := []
  semWrites := []
  peerMem := []
  posted := []
  late := []
  atomics := []
  phops := []
  cons := []
  queues := []
  replays := []
  steps := []
  faultsOut := []
  eventsOut := []
  flits := []
  lastServed := []
  lastSelect := []
  lastPower := 0
  lastWindow := 0
  lastRound := 0
  lastBeat := 0
  pk := .fresh
  pace := .fresh
  tmons := []
  poison := []
  flash := []
  flashBad := false
  staging := []
  rejoins := []
  freeRelayGen := 0

end Sys2Proof.Machine
end

