-- ==== Sys2Proof/Machine/Access.lean ====
section
/-! DEFINITION. Access to the records of the state: who is who in the package, clocks, registers, pending results and
semaphores (R10 to R13, R80 to R92, R111, R268 to R270). -/

namespace Sys2Proof.Machine

open Sys2Proof

/-- What a meaning answers. -/
abbrev Res := Host.Outcome State Fault Refusal

/-! ## Records -/

/-- The context of number `cid`. -/
def State.ctx (s : State) (cid : Nat) : Ctx := (Table.find? s.ctxs cid).getD .idle

/-- Put a context. -/
def State.setCtx (s : State) (cid : Nat) (c : Ctx) : State := { s with ctxs := Table.put s.ctxs cid c }

/-- Change a context. -/
def State.modCtx (s : State) (cid : Nat) (f : Ctx → Ctx) : State := s.setCtx cid (f (s.ctx cid))

/-- The core of number `k`. -/
def State.core (s : State) (k : Nat) : Core := (Table.find? s.cores k).getD .fresh

/-- Change a core. -/
def State.modCore (s : State) (k : Nat) (f : Core → Core) : State := { s with cores := Table.put s.cores k (f (s.core k)) }

/-- The group of number `g`. -/
def State.group (s : State) (g : Nat) : Group := (Table.find? s.groups g).getD .empty

/-- Change a group. -/
def State.modGroup (s : State) (g : Nat) (f : Group → Group) : State :=
  { s with groups := Table.put s.groups g (f (s.group g)) }

/-- The serai of number `k`; a serai that nothing has touched runs at 4,000 MHz since reset. -/
def State.serai (s : State) (k : Nat) : Serai := (Table.find? s.serais k).getD { Serai.fresh with cyc := s.now }

/-- Change a serai. -/
def State.modSerai (s : State) (k : Nat) (f : Serai → Serai) : State :=
  { s with serais := Table.put s.serais k (f (s.serai k)) }

/-- The consignment of number `k`. -/
def State.con? (s : State) (k : Nat) : Option Cons := Table.find? s.cons k

/-- Change a consignment that exists. -/
def State.modCon (s : State) (k : Nat) (f : Cons → Cons) : State :=
  match s.con? k with
  | some c => { s with cons := Table.put s.cons k (f c) }
  | none => s

/-- The queue of number `q`. -/
def State.queue (s : State) (q : Nat) : Queue := (Table.find? s.queues q).getD .closed

/-- Change a queue. -/
def State.modQueue (s : State) (q : Nat) (f : Queue → Queue) : State :=
  { s with queues := Table.put s.queues q (f (s.queue q)) }

/-- Temperature monitor `i`. -/
def State.tmon (s : State) (i : Nat) : Tmon := (Table.find? s.tmons i).getD .fresh

/-- Change a temperature monitor. -/
def State.modTmon (s : State) (i : Nat) (f : Tmon → Tmon) : State :=
  { s with tmons := Table.put s.tmons i (f (s.tmon i)) }

/-- Change the package registers. -/
def State.modPk (s : State) (f : PkgRegs → PkgRegs) : State := { s with pk := f s.pk }

/-- Change the pace unit. -/
def State.modPace (s : State) (f : Pace → Pace) : State := { s with pace := f s.pace }

/-- Change the command of identity `id`. -/
def State.modCmd (s : State) (id : Nat) (f : Cmd → Cmd) : State :=
  { s with cmds := s.cmds.map fun c => if c.id = id then f c else c }

/-- Remove the command of identity `id`. -/
def State.dropCmd (s : State) (id : Nat) : State := { s with cmds := s.cmds.filter fun c => c.id != id }

/-- A new identity. -/
def State.fresh (s : State) : State := { s with nextId := s.nextId + 1 }

/-- Send something out of the package. -/
def State.send (s : State) (o : Out) : State := { s with outbox := s.outbox ++ [o] }

/-- The next value of a count of free values (DESIGN CHOICE, log 13). -/
def State.takeFree (s : State) : Word × State := (Config.freeWord s.free, { s with free := s.free + 1 })

/-! ## Who is who (R10 to R12) -/

/-- Records of contexts beyond the hardware contexts: a number from 1,024 up is a parcel that has halted and whose context
another parcel has taken, a number from 2^64 up a saved parcel (R80, R359). -/
def savedBase : Nat := 2 ^ 64

/-- The hardware context behind a record: a halted parcel's commands still act at its unit. -/
def locOf (cid : Nat) : Nat := if cid < savedBase then cid % 1024 else cid

/-- A context of a serai. -/
def isSerai (cid : Nat) : Bool := decide (locOf cid < Config.depotBase)

/-- The context of a depot core. -/
def isDepot (cid : Nat) : Bool := decide (Config.depotBase ≤ locOf cid) && decide (locOf cid < Config.outriderBase)

/-- The context of an outrider. -/
def isOutrider (cid : Nat) : Bool := decide (Config.outriderBase ≤ locOf cid) && decide (locOf cid < 1000)

/-- Serai of a serai context. -/
def seraiOf (cid : Nat) : Nat := locOf cid / 16

/-- Core key of a context: 4 × serai + core, or the context's own number for a depot core and an outrider. -/
def coreOf (cid : Nat) : Nat := if isSerai cid then locOf cid / 4 else locOf cid

/-- First context of a core. -/
def firstCtxOf (core : Nat) : Nat := if core < 192 then 4 * core else core

/-- Number of contexts of a core (R10 to R12; DESIGN CHOICE, log 5). -/
def ctxsOfCore (core : Nat) : Nat := if core < 192 then 4 else 1

/-- Serai of a core key below 192. -/
def seraiOfCore (core : Nat) : Nat := core / 4

/-- Quarter of a core key: 6 serais and 4 depot cores each; an outrider lies in none, written 100 + die. -/
def quarterOfCore (core : Nat) : Nat :=
  if core < 192 then core / 24 else if core < Config.outriderBase then (core - Config.depotBase) / 4
  else 100 + (core - Config.outriderBase)

/-- Die of a core key. -/
def dieOfCore (core : Nat) : Nat :=
  if core < 192 then core / 96 else if core < Config.outriderBase then (core - Config.depotBase) / 16
  else core - Config.outriderBase

/-- Die of a context. -/
def dieOf (cid : Nat) : Nat := dieOfCore (coreOf cid)

/-- UNIT and WHO of an event that names a context (R249, R367). -/
def unitOf (cid : Nat) : Nat := if isSerai cid then seraiOf cid else 64 + (locOf cid - Config.depotBase)

/-- WHO of an event that names a context. -/
def whoOf (cid : Nat) : Nat := if isSerai cid then locOf cid % 16 else 0

/-- The context that UNIT and WHO name, if any. -/
def ctxNamed (unit who : Nat) : Option Nat :=
  if unit < 48 then (if who < 16 then some (16 * unit + who) else none)
  else if 64 ≤ unit && unit < 96 && who = 0 then some (Config.depotBase + (unit - 64)) else none

/-! ## Clocks (R4, R13, R322, R403) -/

/-- Cycle count of the unit a context lies in. -/
def State.cycleOf (s : State) (cid : Nat) : Nat :=
  if isSerai cid then (s.serai (seraiOf cid)).cyc else if isDepot cid then s.now / 2 else s.now / 4

/-- Cycle count of a core. -/
def State.coreCycle (s : State) (core : Nat) : Nat := s.cycleOf (firstCtxOf core)

/-- The core has not yet asked its contexts in its present cycle. -/
def State.untried (s : State) (core : Nat) : Bool := decide ((s.core core).tried ≠ s.coreCycle core + 1)

/-- Clock of a serai in 25 MHz steps. -/
def State.clkOf (s : State) (serai : Nat) : Nat := (s.serai serai).clk

/-- Count of a path at a serai's clock (R19). -/
def scaleCount (clk c : Nat) : Nat := 24 + ((c - 24) * clk + 159) / 160

/-- Count of a path as a context sees it: scaled for a serai (R19), R323 and R403 for the others. -/
def State.pathCount (s : State) (cid c : Nat) : Nat :=
  if isSerai cid then scaleCount (s.clkOf (seraiOf cid)) c
  else if isDepot cid then (c + 1) / 2 else (c + 3) / 4

/-! ## Registers -/

/-- Scalar register, s0 reading zero (R54). -/
def Ctx.rs (c : Ctx) (r : BitVec 6) : Word := if r = 0 then 0 else c.s.get r.toNat

/-- Address register, a0 reading zero (R54). -/
def Ctx.ra (c : Ctx) (r : BitVec 5) : Word := if r = 0 then 0 else c.a.get r.toNat

/-- Vector register. -/
def Ctx.rv (c : Ctx) (r : BitVec 10) : VWord := c.v.get r.toNat

/-- Write a scalar register, s0 discarding (R54). -/
def Ctx.ws (c : Ctx) (r : BitVec 6) (x : Word) : Ctx := if r = 0 then c else { c with s := c.s.set r.toNat x }

/-- Write an address register, a0 discarding (R54). -/
def Ctx.wa (c : Ctx) (r : BitVec 5) (x : Word) : Ctx := if r = 0 then c else { c with a := c.a.set r.toNat x }

/-- Write the enabled bits of a vector register and mark its group written (R114, R131). -/
def Ctx.wv (c : Ctx) (r : BitVec 10) (x lanes : VWord) : Ctx :=
  { c with
    v := c.v.set r.toNat ((c.rv r &&& ~~~lanes) ||| (x &&& lanes))
    vwritten := c.vwritten ||| ((1 : BitVec 32) <<< (r.toNat / 32)) }

/-- Top of the mask stack; an empty stack reads as all ones (R108). -/
def Ctx.topMask (c : Ctx) : Mask := c.stack.head?.getD (BitVec.allOnes 32)

/-- Mask of selector 1 to 7 (R108). -/
def Ctx.mask (c : Ctx) (sel : Nat) : Mask := if sel = 1 then c.topMask else c.m.get sel

/-- Depth of the mask stack. -/
def Ctx.depth (c : Ctx) : Nat := c.stack.length

/-- Number of entries of the replay buffer (R368). -/
def Ctx.rbCount (c : Ctx) : Nat := c.replay.length + (if c.held.isSome then 1 else 0)

/-- INH of TCAUSE. -/
def CtxRegs.inh (r : CtxRegs) : Bool := r.tcause.getLsbD 63

/-! ## The bundle under issue -/

/-- The context whose bundle is under issue. -/
def State.me (s : State) : Ctx := s.ctx s.issue.cid

/-- The broadcast port (R68). -/
def State.bcast (s : State) : Word := s.me.rs s.issue.common.bi

/-- Change the context whose bundle is under issue. -/
def State.modMe (s : State) (f : Ctx → Ctx) : State := s.modCtx s.issue.cid f

/-- Cycle of the unit whose bundle is under issue. -/
def State.myCycle (s : State) : Nat := s.cycleOf s.issue.cid

/-- Start a result of the bundle under issue: it lands after `lat` cycles (R71, R90). -/
def State.startResult (s : State) (slot : Nat) (dest : Dest) (value lanes : VWord) (stack : List Mask) (lat : Nat)
    (flags : List Mask) : State :=
  let cid := s.issue.cid
  s.modCtx cid fun c =>
    { c with
      order := c.order + 1
      pend := c.pend ++
        [{ dest := dest, value := value, lanes := lanes, stack := stack, due := s.cycleOf cid + lat, slot := slot,
           order := c.order, issued := s.cycleOf cid, pc := s.issue.pc, flags := flags, quiet := false,
           handler := c.regs.inh, poisoned := false, struck := none }] }

/-- Start a scalar result; a write to s0 is discarded (R54). -/
def State.landS (s : State) (slot : Nat) (r : BitVec 6) (x : Word) (lat : Nat) : State :=
  if r = 0 then s else s.startResult slot (.s r) (x.setWidth 1024) 0 [] lat []

/-- Flags of a scalar result as landing masks. -/
def scalarFlags (f : FpFlags) : List Mask :=
  if f = 0 then [] else (List.range 6).map fun i => if f.getLsbD i then 1 else 0

/-- Start a scalar floating-point result.  Its flags land also where the result goes to s0 (R54, R127). -/
def State.landFp (s : State) (slot : Nat) (r : BitVec 6) (x : Word) (lat : Nat) (f : FpFlags) : State :=
  if r = 0 && f = 0 then s else s.startResult slot (.s r) (x.setWidth 1024) 0 [] lat (scalarFlags f)

/-- Start an address result; a write to a0 is discarded (R54). -/
def State.landA (s : State) (slot : Nat) (r : BitVec 5) (x : Word) (lat : Nat) : State :=
  if r = 0 then s else s.startResult slot (.a r) (x.setWidth 1024) 0 [] lat []

/-- Start a vector result on the enabled bits `lanes` (R131). -/
def State.landV (s : State) (slot : Nat) (r : BitVec 10) (x lanes : VWord) (lat : Nat) (flags : List Mask) : State :=
  s.startResult slot (.v r) x lanes [] lat flags

/-- Start a mask result of latency 1: selector 1 replaces the top of the stack (R108, R109). -/
def State.landM (s : State) (slot : Nat) (sel : Nat) (x : Mask) : State :=
  if sel = 1 then s.startResult slot .stack 0 0 (x :: s.me.stack.drop 1) 1 []
  else s.startResult slot (.m (BitVec.ofNat 3 sel)) (x.setWidth 1024) 0 [] 1 []

/-- Start a new mask stack, visible from the next cycle (R109). -/
def State.landStack (s : State) (slot : Nat) (st : List Mask) : State := s.startResult slot .stack 0 0 st 1 []

/-- Start a control-register write (R124, R126). -/
def State.landCr (s : State) (slot : Nat) (idx : BitVec 12) (x : Word) (lat : Nat) : State :=
  s.startResult slot (.cr idx) (x.setWidth 1024) 0 [] lat []

/-! ## Semaphores (R268, R269) -/

/-- Place of semaphore `n` of a core in its group's store. -/
def Group.semKey (g : Group) (core n : Nat) : Nat :=
  let i := match findPos (fun k => k == core) g.cores 0 with | some (i, _) => i | none => 0
  256 * i + n

/-- Value of semaphore `n`. -/
def State.semVal (s : State) (gid core n : Nat) : Nat :=
  let g := s.group gid
  ((g.sems.get (g.semKey core n)).extractLsb' 0 16).toNat

/-- SAT of semaphore `n`. -/
def State.semSat (s : State) (gid core n : Nat) : Bool :=
  let g := s.group gid
  (g.sems.get (g.semKey core n)).getLsbD 16

/-- Write value and SAT of a semaphore. -/
def State.semPut (s : State) (gid core n v : Nat) (sat : Bool) : State :=
  s.modGroup gid fun g =>
    { g with sems := g.sems.set (g.semKey core n) ((if sat then 1#1 else 0#1) ++ BitVec.ofNat 16 v) }

/-- Clamp to the range of a semaphore, and say whether that changed the value (R269). -/
def semClamp (x : Int) : Nat × Bool := if x < 0 then (0, true) else if 65535 < x then (65535, true) else (x.toNat, false)

/-- Add to a semaphore, setting SAT when the sum is clamped (R269). -/
def State.semChange (s : State) (gid core n : Nat) (d : Int) : State :=
  let (v, c) := semClamp ((s.semVal gid core n : Int) + d)
  s.semPut gid core n v (s.semSat gid core n || c)

/-- Set a semaphore: SAT is cleared, and set when the value is clamped (R272). -/
def State.semAssign (s : State) (gid core n : Nat) (x : Int) : State :=
  let (v, c) := semClamp x
  s.semPut gid core n v c

end Sys2Proof.Machine
end

