-- ==== Sys2Proof/Machine/Memory.lean ====
section
/-! DEFINITION. Memory: what a viewer of global memory reads, publication of plain stores, translation, the scratchpad as
its loads see it, and the device structures of an address space (R152 to R156, R226 to R231, R252 to R264, R432). -/

namespace Sys2Proof.Machine

open Sys2Proof

/-! ## Who sees a store (R252, R258, R259) -/

/-- Viewer: the home point of an address, where every published store stands. -/
def viewHome : Nat := 1000
/-- Viewer: a host, which lies in the system scope alone. -/
def viewHost : Nat := 1001
/-- Viewer: a peer package of this package's convoy. -/
def viewPeer : Nat := 1002
/-- Viewer: a package outside the convoy. -/
def viewOutside : Nat := 1003
/-- Viewer: an engine of a serai. -/
def viewSerai (serai : Nat) : Nat := 2000 + serai
/-- Viewer: the drover of a depot core. -/
def viewDepot (depot : Nat) : Nat := 3000 + depot
/-- Viewer: an engine of a die. -/
def viewDie (die : Nat) : Nat := 4000 + die

/-- Serai, quarter and die in which a core or an engine lies; a number of its own where it lies in no such unit (R252). -/
def viewPlace (q : Nat) : Nat × Nat × Nat :=
  if 4000 ≤ q then (q, q, q - 4000)
  else if 3000 ≤ q then (q, (q - 3000) / 4, (q - 3000) / 16)
  else if 2000 ≤ q then (q - 2000, (q - 2000) / 6, (q - 2000) / 24)
  else (if q < 192 then seraiOfCore q else 10000 + q, quarterOfCore q, dieOfCore q)

/-- Publication at a level of the unit that contains core `w` reaches viewer `q` (R252, R258); at context or core scope it reaches
no other core. -/
def scopeHas (scope w q : Nat) : Bool :=
  if q = viewHome then decide (2 ≤ scope)
  else if q = viewHost || q = viewOutside then decide (7 ≤ scope)
  else if q = viewPeer then decide (6 ≤ scope)
  else if w = q then true
  else match scope with
    | 0 => false
    | 1 => false
    | 2 => (viewPlace w).1 == (viewPlace q).1
    | 3 => (viewPlace w).2.1 == (viewPlace q).2.1
    | 4 => (viewPlace w).2.2 == (viewPlace q).2.2
    | _ => true

/-- Storage behind a memory type (R21, R230; DESIGN CHOICE, log 2; DESIGN CHOICE, log 67). -/
def State.backing (s : State) (mt : Nat) : Store 8 :=
  match mt with
  | 0 => s.mem
  | 1 => s.peerMem
  | 2 => s.hostMem
  | _ => s.hostMem1

/-- Replace the storage behind a memory type. -/
def State.setBacking (s : State) (mt : Nat) (m : Store 8) : State :=
  match mt with
  | 0 => { s with mem := m }
  | 1 => { s with peerMem := m }
  | 2 => { s with hostMem := m }
  | _ => { s with hostMem1 := m }

/-- The byte a store's element gives to an address, if it covers it. -/
def Piece.byteAt (p : Piece) (mt a : Nat) : Option Byte :=
  if p.at_.mt = mt && p.at_.addr ≤ a then p.data[a - p.at_.addr]? else none

/-- The write stands in the coherence order (R254): it is published beyond its core, or it is no plain store. -/
def Posted.out (p : Posted) : Bool := p.pub.any fun x => decide (2 ≤ x.1)

/-- A plain store that stands in the L1 store path of core `q`: posted there, or brought there by its context (R256, R359; DESIGN
CHOICE, log 8). -/
def Posted.ofCore (p : Posted) (q : Nat) : Bool := p.kind == .plain && (p.core == q || p.stood.contains q)

/-- A write shows to viewer `q`: published at a scope that reaches it, or a plain store of its own core (R256, R259; DESIGN
CHOICE, log 8). -/
def Posted.shows (q : Nat) (p : Posted) : Bool := p.ofCore q || p.pub.any fun x => scopeHas x.1 x.2 q

/-- What a read of core `q` with identity `lim` may return: of the plain stores of its own core those posted before it issued
(R256, R259). -/
def Posted.showsTo (q lim : Nat) (p : Posted) : Bool := if p.ofCore q then decide (p.id < lim) else p.shows q

/-- Overlay the bytes of the writes that show, oldest first: those in the coherence order, or the others. -/
def overlay (vis : Posted → Bool) (mt a : Nat) (out : Bool) : List Posted → Byte → Byte
  | [], b => b
  | p :: rest, b =>
    let b' := if p.out = out && vis p then (p.piece.byteAt mt a).getD b else b
    overlay vis mt a out rest b'

/-- The newest byte among the writes that show: a store of the own core that no release has published yet comes last.  Outside the
package map it is a free value (R432; DESIGN CHOICE, log 68). -/
def State.byteBy (s : State) (vis : Posted → Bool) (mt a : Nat) : Byte :=
  if mt = 0 && Config.hbmBytes ≤ a then Config.outsideByte s.now a
  else overlay vis mt a false s.posted (overlay vis mt a true s.posted ((s.backing mt).get a))

/-- The byte that viewer `q` reads: the newest published store it may see, or a store of its own core that no release has
published yet (R259; DESIGN CHOICE, log 8). -/
def State.byteSeen (s : State) (q mt a : Nat) : Byte := s.byteBy (Posted.shows q) mt a

/-- Bytes that viewer `q` reads. -/
def State.bytesSeen (s : State) (q mt : Nat) (a : Nat) : Nat → List Byte
  | 0 => []
  | n + 1 => s.byteSeen q mt a :: State.bytesSeen s q mt (a + 1) n

/-- What a context's own gated stores hold of a byte, if anything (R246). -/
def gateByte (mt a : Nat) : List GateOp → Option Byte → Option Byte
  | [], b => b
  | .global _ ps :: rest, b =>
    gateByte mt a rest (ps.foldl (fun b p => match p.byteAt mt a with | some x => some x | none => b) b)
  | _ :: rest, b => gateByte mt a rest b

/-- The gate of a context's open region. -/
def Ctx.gate (c : Ctx) : List GateOp := match c.region with | some r => r.gate | none => []

/-- The byte that a context reads. -/
def State.ctxByte (s : State) (cid mt a : Nat) : Byte :=
  (gateByte mt a (s.ctx cid).gate none).getD (s.byteSeen (coreOf cid) mt a)

/-- Bytes that a context reads. -/
def State.ctxBytes (s : State) (cid mt : Nat) (a : Nat) : Nat → List Byte
  | 0 => []
  | n + 1 => s.ctxByte cid mt a :: State.ctxBytes s cid mt (a + 1) n

/-! ## Writes at home and publication (R254, R258, R264) -/

/-- Two byte ranges meet. -/
def rangesMeet (a n b m : Nat) : Bool := decide (a < b + m) && decide (b < a + n)

/-- The element of a posted store meets a range. -/
def Posted.meets (p : Posted) (mt a n : Nat) : Bool :=
  p.piece.at_.mt == mt && rangesMeet p.piece.at_.addr p.piece.data.length a n

/-- Poison in a range of package memory is cleared by a write that covers it. -/
def clearPoison (mt a n : Nat) (ps : List Place) : List Place :=
  ps.filter fun p => match p with
    | .memory b => !(mt == 0 && decide (a ≤ b) && decide (b < a + n))
    | _ => true

/-- The write enters the coherence order after another of the same cycle (R254): engine writes after core writes, those of cores in
ascending number. -/
def Posted.after (p x : Posted) : Bool :=
  let rank (y : Posted) : Nat := match y.kind with | .plain => 0 | .atomic => 0 | .engine => 1 | .host => 2
  decide (rank x < rank p) || (rank x == rank p && rank x == 0 && decide (x.core < p.core))

/-- Writes enter the coherence order in this cycle, each before those of the cycle that come after it (R254). -/
def State.enter (s : State) (xs : List Posted) : State :=
  xs.foldl (fun s x =>
    let x := { x with born := s.now }
    let later (y : Posted) : Bool := !y.out || (y.born == s.now && y.after x)
    { s with posted := (s.posted.takeWhile fun y => !later y) ++ x :: (s.posted.dropWhile fun y => !later y) }) s

/-- A write that is performed at home: an atomic's or an engine's (R242, R254). -/
def Posted.atHome (kind : WriteKind) (id cid mt a : Nat) (data : List Byte) : Posted where
  id := id
  cid := cid
  core := coreOf cid
  cons := none
  kind := kind
  piece := ⟨⟨mt, a⟩, data⟩
  pub := [(7, coreOf cid)]
  rel := []
  performed := true
  due := 0
  hb := []
  born := 0
  wait := 0
  ask := []
  left := 0
  stood := []
  head := id

/-- Perform a write at home (R242, R254). -/
def State.performed (s : State) (kind : WriteKind) (id cid mt a : Nat) (data : List Byte) : State :=
  ({ s with poison := clearPoison mt a data.length s.poison } : State).enter [Posted.atHome kind id cid mt a data]

/-- The bytes at home that a write of this cycle finds: those of the writes before it in the coherence order (R242, R254, R264). -/
def State.homeBefore (s : State) (x : Posted) (mt a n : Nat) : List Byte :=
  let vis (p : Posted) : Bool := p.out && !(p.born == s.now && p.after x)
  (List.range n).map fun i => s.byteBy vis mt (a + i)

/-- An engine writes global memory for a context (R254). -/
def State.engineWrite (s : State) (cid mt a : Nat) (data : List Byte) : State :=
  { s.performed .engine s.nextId cid mt a data with nextId := s.nextId + 1 }

/-- Write bytes as the latest in the coherence order: a host's write, or one of the device's own structures (R254; DESIGN CHOICE, log
8). -/
def State.writeHome (s : State) (mt a : Nat) (data : List Byte) : State :=
  let s := { s with poison := clearPoison mt a data.length s.poison }
  if s.posted.any fun p => p.out && p.meets mt a data.length then
    { s.performed .host s.nextId Config.outriderBase mt a data with nextId := s.nextId + 1 }
  else s.setBacking mt ((s.backing mt).setBytes a data)

/-- A read that issued before a store of its own core and has not been performed yet (R259). -/
def FarEntry.unread (e : FarEntry) : Bool :=
  (e.kind == .load || e.kind == .vector) &&
    (match e.data with | .walking => true | .waiting => true | .notPresent _ => true | _ => false)

/-- A WAITING far load whose read has not been performed (R237). -/
def FarEntry.sought (e : FarEntry) : Bool := e.unread && (match e.data with | .notPresent _ => false | _ => true)

/-- The read of a far load has been performed and its data is on the way. -/
def FarEntry.onWay (e : FarEntry) : Bool := match e.data with | .coming _ _ => e.kind == .load || e.kind == .vector | _ => false

/-- Some such read of the store's core stands. -/
def State.readStands (s : State) (p : Posted) : Bool :=
  p.kind == .plain && s.ctxs.any fun x => p.ofCore (coreOf x.1) && x.2.far.any fun e => e.unread && decide (e.id < p.id)

/-- This package and a peer are members of its convoy (R252, R382). -/
def State.convoyHas (s : State) (pkg : Nat) : Bool :=
  decide (2 ≤ s.pace.mstate) && (pkg == s.pace.pkg || s.pace.peers.any fun p => p.pkg == pkg && (p.view == .live || p.view == .silent))

/-- The scope at which a store is published to every agent that reads its memory: the convoy's for the memory of a member of the
convoy (R267 item 4; DESIGN CHOICE, log 8). -/
def State.wholeScope (s : State) (p : PAddr) : Nat := if p.mt = 1 && s.convoyHas (bitsOf p.addr 40 12) then 6 else 7

/-- A write may move into storage: every agent sees it, and no read stands that must not. -/
def State.settles (s : State) (p : Posted) : Bool :=
  (p.pub.any fun x => decide (s.wholeScope p.piece.at_ ≤ x.1)) && p.performed && p.born != s.now && !s.readStands p

/-- Move the writes at the head of the coherence order into storage. -/
def settle : List Posted → State → List Posted × State
  | [], s => ([], s)
  | p :: rest, s =>
    if p.out then
      if s.settles p then
        settle rest (s.setBacking p.piece.at_.mt ((s.backing p.piece.at_.mt).setBytes p.piece.at_.addr p.piece.data))
      else (p :: rest, s)
    else let (l, s') := settle rest s; (p :: l, s')

/-- Settle the writes of earlier cycles. -/
def State.settleAll (s : State) : State := let (l, s') := settle s.posted s; { s' with posted := l }

/-- A release still holds the store back (R266). -/
def State.waits (s : State) (p : Posted) : Bool := decide (s.cycleOf p.cid < p.wait)

/-- Publish the posted stores that `p` names at a scope of core `core`: they enter the coherence order now unless they stand in it
already (R254, R258); of a store that a release holds back the publication waits (R266; DESIGN CHOICE, log 8). -/
def State.publish (s : State) (scope core : Nat) (p : Posted → Bool) : State :=
  let add (x : Posted) : Posted := if x.pub.contains (scope, core) then x else { x with pub := x.pub ++ [(scope, core)] }
  let now (x : Posted) : Bool := p x && !s.waits x
  let enters (x : Posted) : Bool := now x && !x.out && decide (2 ≤ scope)
  let mark (x : Posted) : Posted :=
    if now x then add x else if p x then { x with ask := x.ask ++ [(scope, core)] } else x
  ({ s with posted := (s.posted.filter fun x => !enters x).map mark } : State).enter ((s.posted.filter enters).map add)

/-- A posted store happens-before the next operation of context `cid`: its own, one of its core's posted before the context's
last read, or one it acquired (R256; DESIGN CHOICE, log 8). -/
def Posted.before (x : Posted) (s : State) (cid : Nat) : Bool :=
  x.cid == cid || (x.hb.any fun h => h.1 == cid) ||
    (x.kind == .plain && x.core == coreOf cid && decide (x.id < (s.ctx cid).seen))

/-- The stores that `p` names happen-before what context `cid` does from now on. -/
def State.link (s : State) (cid : Nat) (p : Posted → Bool) : State :=
  let f (x : Posted) : Posted :=
    if p x && !(x.hb.any fun h => h.1 == cid) then { x with hb := (cid, s.nextId) :: x.hb } else x
  { s with posted := s.posted.map f }

/-- The core of context `cid` returns those writes of the coherence order that `p` names, wherever they have been published: they
happen-before its reads (R259). -/
def State.showTo (s : State) (cid : Nat) (p : Posted → Bool) : State :=
  let q := coreOf cid
  { s with posted := s.posted.map fun x => if p x && x.out && !x.shows q then { x with pub := x.pub ++ [(1, q)] } else x }

/-- The stores that `p` names happen-before what context `cid` does from now on, and it returns them (R256, R259). -/
def State.acquire (s : State) (cid : Nat) (p : Posted → Bool) : State := (s.link cid p).showTo cid p

/-- What stands for the contexts of core `q` among those that a store happens-before: what it happens-before is every later read of
that core (R256). -/
def coreMark (q : Nat) : Nat := 2 ^ 80 + q

/-- The store happens-before the newest store that context `k` has posted on its core (R256). -/
def Posted.beforeStore (x : Posted) (s : State) (k : Nat) : Bool :=
  let n := (s.ctx k).lastStore
  (x.hb.any fun h => h.1 == k && decide (h.2 < n)) || (x.cid == k && x.core != coreOf k && decide (x.id < n))

/-- A read of context `cid` issues: the stores of its core posted so far happen-before what follows, with all that happened-before
them (R256 item 2; DESIGN CHOICE, log 8). -/
def State.noteRead (s : State) (cid : Nat) : State :=
  let mates := (s.ctxs.map (·.1)).filter fun k => k != cid && coreOf k == coreOf cid
  (s.link cid fun x => (x.hb.any fun h => h.1 == coreMark (coreOf cid)) || mates.any (x.beforeStore s)).modCtx cid fun c =>
    { c with seen := s.nextId }

/-- Context `cid` leaves its core: what happened-before it still does, and what happened-before the stores that it leaves in the
core's store path happens-before the later reads of that core (R256, R359). -/
def State.leaveCore (s : State) (cid : Nat) : State :=
  let s' := (s.link (coreMark (coreOf cid)) fun x => x.beforeStore s cid).link cid fun x => x.cid != cid && x.before s cid
  s'.modCtx cid fun c => { c with seen := 0, lastStore := 0 }

/-- The wait for phase `ph` of phaser `n` returns to context `cid`: the stores that happen-before an arrival at that phase or an
earlier one happen-before what follows (R257). -/
def State.acquirePhase (s : State) (cid owner n ph : Nat) : State :=
  s.acquire cid fun x => x.rel.any fun r => match r with
    | .phase o m k => o == owner && m == n && decide (0 ≤ (BitVec.ofNat 32 ph - BitVec.ofNat 32 k).toInt)
    | _ => false

/-- The stores whose drain has signalled at semaphore `n` of a core of a group, with an identity below `lim` (R257, R283). -/
def Posted.signalled (x : Posted) (gid core n lim : Nat) : Bool :=
  x.rel.any fun r => match r with
    | .signal g k m id => g == gid && k == core && m == n && decide (id < lim)
    | _ => false

/-- Context `cid` observes the completion signals at semaphore `n` of its core: the stores that a drain awaited happen-before what
follows (R257, R283). -/
def State.acquireSignal (s : State) (cid n : Nat) : State :=
  s.acquire cid fun x => x.signalled (s.ctx cid).gid (coreOf cid) n s.nextId

/-- Context `cid` acquires at a scope: where it has read a write that follows a release in program order, and each lies in the
other's scope, the stores that happen-before the release happen-before what follows; and so do those of the signals that a `sem.rd`
of it has observed (R257, R272). -/
def State.acquireFence (s : State) (cid scope : Nat) : State :=
  let c := s.ctx cid
  let within (sc w q : Nat) (own : Bool) : Bool := if sc = 0 then own else w == q || scopeHas sc w q
  let pairs (r : Rel) : Bool := match r with
    | .fence k core sc next =>
      c.reads.any fun w => w.1 == k && decide (next ≤ w.2.2) && within sc core (coreOf cid) (k == cid) &&
        within scope (coreOf cid) w.2.1 (k == cid)
    | _ => false
  s.acquire cid fun x => x.rel.any pairs || c.semReads.any fun n => x.signalled c.gid (coreOf cid) n.1 n.2

/-- Path to the farthest home that a scope reaches (R266). -/
def releaseCount (scope : Nat) : Nat :=
  match scope with
  | 0 => 120 | 1 => 120 | 2 => 120 | 3 => 176 | 4 => 176 | 5 => 260 | _ => 2560

/-- Number of 64-byte lines that hold some pieces. -/
def linesOf (ps : List Piece) : Nat :=
  (ps.map fun p => (p.at_.mt, p.at_.addr / 64)).eraseDups.length

/-- The cycles for which releases still hold back some of a list of stores (R266). -/
def State.heldFor (s : State) (l : List Posted) : Nat := (l.map fun x => x.wait - s.cycleOf x.cid).foldl max 0

/-- A release of context `cid` at a scope takes effect as `rels`: it publishes the stores that `b` names, and holds back the context's
later writes until its publication is complete, `C + n` cycles from now, and not before an earlier release lets go of a store that it
publishes (R258, R266; DEDUCED, log 83).  Answers the state and the cycle of its completion. -/
def State.releaseOf (s : State) (cid scope : Nat) (rels : List Rel) (b : Posted → Bool) : Nat × State :=
  let new := s.posted.filter fun x => b x && !(x.pub.any fun y => decide (scope ≤ y.1))
  let done := s.cycleOf cid + max (s.pathCount cid (releaseCount scope) + linesOf (new.map (·.piece))) (s.heldFor new)
  let s' : State := { s with posted := s.posted.map fun x => if b x then { x with rel := x.rel ++ rels } else x }
  (done, (s'.publish scope (coreOf cid) b).modCtx cid fun c => { c with release := some (max (c.release.getD 0) done) })

/-- A release of what happens-before it now (R258). -/
def State.releaseAs (s : State) (cid scope : Nat) (rels : List Rel) : Nat × State :=
  s.releaseOf cid scope rels fun x => x.before s cid

/-- The release of a fence at a scope. -/
def State.releaseAt (s : State) (cid scope : Nat) : Nat × State :=
  s.releaseAs cid scope [.fence cid (coreOf cid) scope s.nextId]

/-- A choice that the contents of caches settle, one for each access and point of it (R432, R433; DESIGN CHOICE, log 9). -/
def cacheHit (n point : Nat) : Bool := Config.cacheChoice n point % 2 == 0

/-- Home quarter of a package address (R432). -/
def homeQuarter (addr : Nat) : Nat := 4 * ((addr / 65536) % 8 / 4) + (addr / 65536) % 8 % 4

/-- Of three rows the one that matches where the home quarter lies from a core (R432). -/
def rowFrom (core addr own other far : Nat) : Nat :=
  if quarterOfCore core = homeQuarter addr then own else if dieOfCore core = homeQuarter addr / 4 then other else far

/-- Count from a context to the memory or the L2 slice of a place (R18, R323, R432), where `hit` says that the line stands in the
slice.  The host completer's own time is a free value, and a depot core takes half the host row, the completer's time as it stands
(DESIGN CHOICE, log 9; DESIGN CHOICE, log 66). -/
def State.homePath (s : State) (cid n : Nat) (hit : Bool) (p : PAddr) : Nat :=
  let core := coreOf cid
  if isDepot cid then
    match p.mt with
    | 0 => if hit && quarterOfCore core == homeQuarter p.addr then 40 else rowFrom core p.addr 260 320 480
    | 1 => 1180
    | _ => 600 + Config.completerTime n
  else
    match p.mt with
    | 0 => s.pathCount cid (if hit then rowFrom core p.addr 120 176 260 else rowFrom core p.addr 1640 1696 1880)
    | 1 => s.pathCount cid 2560
    | _ => s.pathCount cid (1200 + Config.completerTime n)

/-- The line of an access stands in its core's L1 (R432); a depot core has none. -/
def inL1 (cid n : Nat) : Bool := !isDepot cid && cacheHit n 0

/-- Count of the path of access `n` of a context to a place (R18, R323, R432; DESIGN CHOICE, log 9). -/
def State.pathTo (s : State) (cid n : Nat) (p : PAddr) : Nat :=
  if inL1 cid n then s.pathCount cid 24 else s.homePath cid n (cacheHit n 1) p

/-- A plain store of a context as it is posted, `head` the first piece of its store (R240, R266). -/
def State.newStore (s : State) (cid head : Nat) (piece : Piece) : Posted where
  id := s.nextId
  cid := cid
  core := coreOf cid
  cons := (s.ctx cid).cons
  kind := .plain
  piece := piece
  pub := []
  rel := []
  performed := false
  due := max (s.cycleOf cid) ((s.ctx cid).release.getD 0) + s.homePath cid s.nextId (cacheHit s.nextId 1) piece.at_ / 2
  hb := []
  born := 0
  wait := (s.ctx cid).release.getD 0
  ask := []
  left := s.tick
  stood := []
  head := head

/-- Post a piece of a plain store of a context (R240, R246, R266). -/
def State.postPiece (s : State) (cid head : Nat) (piece : Piece) : State :=
  ({ s with nextId := s.nextId + 1, posted := s.posted ++ [s.newStore cid head piece] } : State).modCtx cid fun c =>
    { c with lastStore := s.nextId + 1 }

/-- Post a plain store of one piece. -/
def State.post (s : State) (cid : Nat) (piece : Piece) : State := s.postPiece cid s.nextId piece

/-! ## Translation (R226 to R231) -/

/-- What an access does to the page it meets. -/
inductive Acc where
  | read | write | fetch | push | pop
  deriving DecidableEq, Repr

/-- Outcome of a walk (R231). -/
inductive Walk where
  | ok (p : PAddr)
  | absent (level : Nat)
  | access
  deriving DecidableEq, Repr

/-- A structure of `n` bytes lies in the package map (R432). -/
def devOk (a n : Nat) : Bool := decide (a + n ≤ Config.hbmBytes)

/-- A number of a device structure, as the home point holds it. -/
def State.devNum (s : State) (a n : Nat) : Nat := leNat (s.bytesSeen viewHome 0 a n)

/-- Address of the descriptor of an address space (R227, R228). -/
def State.descAddr (s : State) (asid : Nat) : Nat := (s.pk.astab.toNat % 2 ^ 52) / 128 * 128 + 128 * asid

/-- A field of the descriptor of an address space. -/
def State.descNum (s : State) (asid off n : Nat) : Nat := s.devNum (s.descAddr asid + off) n

/-- The descriptor of an address space lies in the map and is VALID (R227). -/
def State.descValid (s : State) (asid : Nat) : Bool := s.descNum asid 20 4 % 2 == 1

/-- Bytes that a leaf maps at a level (R229). -/
def leafBytes (level : Nat) : Nat := match level with | 1 => 2 ^ 16 | 2 => 2 ^ 21 | _ => 2 ^ 30

/-- Bytes of a table at a level (R229). -/
def tableBytes (level : Nat) : Nat := match level with | 1 => 256 | 4 => 2 ^ 21 | _ => 4096

/-- Index of a virtual address at a level (R229). -/
def levelIndex (level va : Nat) : Nat :=
  match level with
  | 1 => bitsOf va 16 5
  | 2 => bitsOf va 21 9
  | 3 => bitsOf va 30 9
  | _ => bitsOf va 39 18

/-- An entry is malformed at a level (R230). -/
def entryBad (level e : Nat) : Bool :=
  let leaf := bitsOf e 1 1 == 1
  let mt := bitsOf e 6 2
  let addr := bitsOf e 8 44 * 256
  bitsOf e 52 12 != 0 || mt == 3 ||
    (if leaf then
       level == 4 || addr % leafBytes level != 0 || (mt == 0 && decide (Config.hbmBytes < addr + leafBytes level))
     else mt != 0 || level == 1 || addr % tableBytes (level - 1) != 0)

/-- The attributes of a leaf allow the access (R231). -/
def leafAllows (e : Nat) (kind : Acc) (priv : Bool) : Bool :=
  let w := bitsOf e 2 1 == 1
  let x := bitsOf e 3 1 == 1
  let u := bitsOf e 4 1 == 1
  let ss := bitsOf e 5 1 == 1
  (priv || u) &&
    match kind with
    | .read => true
    | .write => w && !ss
    | .fetch => x
    | .push => w && ss
    | .pop => ss

/-- A peer page lies in the load-store domain of this package (R375). -/
def State.domainOk (s : State) (mt pa : Nat) : Bool := mt != 1 || bitsOf pa 48 4 == bitsOf s.pace.pkg 8 4

/-- The memory behind the PCI Express port of a die: the two ports may serve one host or two (R21, R230; DESIGN CHOICE, log 67).
-/
def hostSide (die : Nat) : Nat := if Config.oneHost then 2 else 2 + min die 1

/-- A peer page that names this package is its own memory, and a host page lies behind the port of the die given (R230; DEDUCED,
log 19). -/
def State.ownPage (s : State) (die : Nat) (p : PAddr) : PAddr :=
  if p.mt = 1 && bitsOf p.addr 40 12 = s.pace.pkg && devOk (p.addr % 2 ^ 40) 1 then ⟨0, p.addr % 2 ^ 40⟩
  else if p.mt = 2 then ⟨hostSide die, p.addr⟩ else p

/-- The die whose PCI Express port carries the host accesses of a context: that of its consignment's queue (R407; DESIGN CHOICE, log 67).
-/
def State.portOf (s : State) (cid : Nat) : Nat := match (s.ctx cid).cons.bind s.con? with | some x => x.die | none => dieOf cid

/-- Walk from a table at a level down (R229 to R231; DEDUCED, log 19). -/
def State.walkFrom (s : State) (die va : Nat) (kind : Acc) (priv : Bool) : Nat → Nat → Walk
  | 0, _ => .access
  | level + 1, table =>
    let lv := level + 1
    let at_ := table + 8 * levelIndex lv va
    let e := s.devNum at_ 8
    if e % 2 = 0 then .absent lv
    else if entryBad lv e then .access
    else
      let addr := bitsOf e 8 44 * 256
      if bitsOf e 1 1 = 1 then
        let pa := addr + va % leafBytes lv
        if leafAllows e kind priv && s.domainOk (bitsOf e 6 2) pa then .ok (s.ownPage die ⟨bitsOf e 6 2, pa⟩) else .access
      else State.walkFrom s die va kind priv level addr

/-- Translate one virtual address for an access through the port of a die (R226 to R231). -/
def State.walk (s : State) (die asid va : Nat) (kind : Acc) (priv : Bool) : Walk :=
  if !s.descValid asid then .access
  else s.walkFrom die va kind priv 4 (s.descNum asid 0 8)

/-- Outcome of the translation of a range: the places of its parts, or the first failing address. -/
inductive Trans where
  | ok (parts : List (PAddr × Nat))
  | absent (va level : Nat)
  | access
  deriving DecidableEq, Repr

/-- Translate `n` bytes, at most two pages. -/
def State.translate (s : State) (die asid va n : Nat) (kind : Acc) (priv : Bool) : Trans :=
  let room := 65536 - va % 65536
  let one (va n : Nat) (rest : List (PAddr × Nat)) : Trans :=
    match s.walk die asid va kind priv with
    | .ok p => .ok ((p, n) :: rest)
    | .absent l => .absent va l
    | .access => .access
  if n ≤ room then one va n []
  else
    match one va room [] with
    | .ok ps =>
      match one (va + room) (n - room) [] with
      | .ok qs => .ok (ps ++ qs)
      | t => t
    | t => t

/-! ## The time of a translation (R433) -/

/-- Addresses of the entries that a walk reads from a table down, and whether it ends with a leaf, which may be cached (R433). -/
def State.walkEntries (s : State) (va : Nat) : Nat → Nat → List Nat × Bool
  | 0, _ => ([], false)
  | level + 1, table =>
    let lv := level + 1
    let at_ := table + 8 * levelIndex lv va
    let e := s.devNum at_ 8
    if e % 2 = 0 || entryBad lv e then ([at_], false)
    else if bitsOf e 1 1 = 1 then ([at_], true)
    else
      let (l, leaf) := State.walkEntries s va level (bitsOf e 8 44 * 256)
      (at_ :: l, leaf)

/-- Walk time of the page of an address for access `n` of a context: none for a cached translation, else the counts of the entries
from the highest that the walk cache does not hold (R433; DESIGN CHOICE, log 9). -/
def State.pageTime (s : State) (cid n asid va : Nat) : Nat :=
  if !s.descValid asid then 0 else
    let (l, leaf) := s.walkEntries va 4 (s.descNum asid 0 8)
    if leaf && cacheHit n 2 then 0
    else
      let l := l.drop (Config.cacheChoice n 3 % max 1 l.length)
      ((List.range l.length).map fun i =>
        s.homePath cid n (cacheHit n (10 + i + (va / 65536) % 2 * 10)) ⟨0, (l[i]?).getD 0⟩).foldl (· + ·) 0

/-- Walk time of an access to `n` bytes, that of its second page after that of its first (R433; DESIGN CHOICE, log 9). -/
def State.walkTime (s : State) (cid no asid va n : Nat) : Nat :=
  let room := 65536 - va % 65536
  s.pageTime cid no asid va +
    (if n ≤ room then 0 else
      match s.walk (s.portOf cid) asid va .pop true with
      | .absent _ => 0
      | _ => s.pageTime cid no asid (va + room))

/-- Cut data into the parts of a translation. -/
def cutParts : List (PAddr × Nat) → List Byte → List Piece
  | [], _ => []
  | (p, n) :: rest, bs => ⟨p, bs.take n⟩ :: cutParts rest (bs.drop n)

/-- Read the parts of a translation as a context does. -/
def State.readParts (s : State) (cid : Nat) : List (PAddr × Nat) → List Byte
  | [] => []
  | (p, n) :: rest => s.ctxBytes cid p.mt p.addr n ++ State.readParts s cid rest

/-- Some byte of the parts is poisoned (R372). -/
def State.partsPoisoned (s : State) (ps : List (PAddr × Nat)) : Bool :=
  s.poison.any fun x => match x with
    | .memory a => ps.any fun q => q.1.mt == 0 && decide (q.1.addr ≤ a) && decide (a < q.1.addr + q.2)
    | _ => false

/-! ## Toll counters (R235, R236) -/

/-- Base of the toll region. -/
def State.tollBase (s : State) : Nat := s.pk.tollbase.toNat % 2 ^ 52 / 65536 * 65536

/-- Die whose quarter is the home of a package address (R432). -/
def homeDie (addr : Nat) : Nat := (addr / 65536) % 8 / 4

/-- Requests of a unit of die `die` for lines of the other die's memory, one for each line (R235). -/
def State.toll (s : State) (die : Nat) (parts : List (PAddr × Nat)) : State :=
  if s.tollBase = 0 then s else
    let far := parts.filter fun p => p.1.mt == 0 && homeDie p.1.addr != die && decide (0 < p.2)
    { s with inputs := s.inputs ++ far.map fun p =>
        .tollCount (p.1.addr / 65536) 0 ((p.1.addr + p.2 - 1) / 64 - p.1.addr / 64 + 1) }

/-! ## Scratchpad (R152, R155) -/

/-- Storage of a group: the main scratchpad or the side bank. -/
def Group.pad (g : Group) (side : Bool) : Store 8 := if side then g.side else g.sp

/-- Replace storage of a group. -/
def Group.setPad (g : Group) (side : Bool) (m : Store 8) : Group := if side then { g with side := m } else { g with sp := m }

/-- Poison in a scratchpad range is cleared by a write that covers it. -/
def clearPadPoison (gid : Nat) (side : Bool) (a n : Nat) (ps : List Place) : List Place :=
  ps.filter fun p => match p with
    | .scratch g b => !(g == gid && !side && decide (a ≤ b) && decide (b < a + n))
    | .side g b => !(g == gid && side && decide (a ≤ b) && decide (b < a + n))
    | _ => true

/-- Write scratchpad bytes now. -/
def State.padWrite (s : State) (gid : Nat) (side : Bool) (a : Nat) (data : List Byte) : State :=
  ({ s with poison := clearPadPoison gid side a data.length s.poison } : State).modGroup gid fun g =>
    g.setPad side ((g.pad side).setBytes a data)

/-- Overlay of a context's own gated scratchpad stores (R155 item 1). -/
def gatePad (side : Bool) : List GateOp → Store 8 → Store 8
  | [], m => m
  | .scratch sd ws :: rest, m =>
    gatePad side rest (if sd = side then ws.foldl (fun m w => m.setBytes w.1 w.2) m else m)
  | _ :: rest, m => gatePad side rest m

/-- Overlay of a context's own stores that its region has committed in this cycle (R155 item 1). -/
def latePad (cid gid : Nat) (side : Bool) : List Late → Store 8 → Store 8
  | [], m => m
  | l :: rest, m => latePad cid gid side rest (if l.cid = cid && l.gid = gid && l.side = side then m.setBytes l.addr l.data else m)

/-- Scratchpad bytes that a load of a context reads in this cycle: its own stores of earlier bundles show, whether they wait in the
gate or have been committed in this cycle (R155 item 1). -/
def State.padRead (s : State) (cid : Nat) (side : Bool) (a n : Nat) : List Byte :=
  let c := s.ctx cid
  (gatePad side c.gate (latePad cid c.gid side s.late ((s.group c.gid).pad side))).bytes a n

/-- A relay buffer as the cycle after its `rly.init` sees it (R162). -/
def Relay.setUp (r : Relay) : Relay :=
  match r.init with
  | some (base, slot, count) =>
    { r with base := base, slot := slot, count := count, ready := true, running := true, fill := 0, fillOff := 0, take := 0,
             slots := List.replicate count .free, init := none }
  | none => r

/-- Stores of this cycle, in the order of their cores, and the set-ups of `rly.init`, take effect at its end (R155 item 4, R162). -/
def State.flushLate (s : State) : State :=
  let l := s.late.mergeSort fun a b => decide (coreOf a.cid ≤ coreOf b.cid)
  let s := l.foldl (fun s l => s.padWrite l.gid l.side l.addr l.data) { s with late := [] }
  if s.groups.any fun g => g.2.relays.any fun r => r.init.isSome then
    { s with groups := s.groups.map fun g => (g.1, { g.2 with relays := g.2.relays.map Relay.setUp }) }
  else s

/-- Some byte of a scratchpad range is poisoned (R372). -/
def State.padPoisoned (s : State) (gid : Nat) (side : Bool) (a n : Nat) : Bool :=
  s.poison.any fun x => match x with
    | .scratch g b => g == gid && !side && decide (a ≤ b) && decide (b < a + n)
    | .side g b => g == gid && side && decide (a ≤ b) && decide (b < a + n)
    | _ => false

/-- Bound of a space of a group (R152). -/
def Group.limit (g : Group) (side : Bool) : Nat := if side then g.spLim / 16 else g.spLim

end Sys2Proof.Machine
end

