-- ==== Sys2Proof/WellFormed.lean ====
section
/-! DEFINITION. Which field values of an instruction's word the manual allows.  A word that breaks one of these checks
traps with ILLOP at issue (R53); checks that need the machine's state stand with the meanings. -/

namespace Sys2Proof

/-- Width in bits of an element type code (R58, R130). -/
def tyWidth (ty : BitVec 4) : Nat :=
  match ty.toNat % 4, decide (ty.toNat < 8) with
  | 0, true => 8
  | 1, true => 16
  | 2, true => 32
  | 3, true => 64
  | 0, false => 64
  | 1, false => 32
  | _, _ => 16

/-- TY names an integer type (R133). -/
def tyInt (ty : BitVec 4) : Bool := ty < 8#4

/-- TY names a signed integer type. -/
def tySigned (ty : BitVec 4) : Bool := ty < 4#4

/-- TY names a floating-point type (R133). -/
def tyFp (ty : BitVec 4) : Bool := 8#4 ≤ ty && ty ≤ 11#4

/-- TY is not reserved (R58). -/
def tyAny (ty : BitVec 4) : Bool := ty ≤ 11#4

/-- A value that `mask` does not cover is zero. -/
def only {w : Nat} (x mask : BitVec w) : Bool := x &&& ~~~mask = 0

/-- Common fields of a Y word (R69). -/
def YW.commonOk (x : YW) : Bool :=
  x.rsv = 0 && x.lvl ≠ 7#3 && (x.lvl ≠ 0 || (x.lff = 0 && x.lfl = 0))

/-- Bit-field position and length of `bfx` and `bfi` (R122). -/
def bitfieldOk (imm : BitVec 32) : Bool :=
  let pos := (imm.extractLsb' 0 6).toNat
  let len := (imm.extractLsb' 6 7).toNat
  len ≠ 0 && len ≤ 64 && pos + len ≤ 64 && imm.extractLsb' 13 19 = 0

/-- Shift by an immediate (R122). -/
def shiftImmOk (x : SW) : Bool := only x.fn 1#6 && (x.fn.getLsbD 0 == false || x.imm.extractLsb' 6 26 = 0)

/-- Vector shift forms: the register form ignores the amount field (R53, R132 to R134; DEDUCED, log 15). -/
def vshiftOk (x : VW) : Bool :=
  tyInt x.ty &&
    (if x.fn.getLsbD 0 then x.bcb = 0 && x.fn.getLsbD 7 == false && (x.fn.extractLsb' 1 6).toNat < tyWidth x.ty
     else x.fn.getLsbD 7 == false)

/-- A vector instruction with a vb operand and no variant. -/
def vPlain (tyOk : BitVec 4 → Bool) (x : VW) : Bool := tyOk x.ty && x.fn = 0

/-- A vector instruction without a vb operand (R132 item 1). -/
def vUnary (tyOk : BitVec 4 → Bool) (x : VW) : Bool := tyOk x.ty && x.fn = 0 && x.bcb = 0

/-- Element number `k` of FN[6:0] lies in the register (R144). -/
def immElemOk (x : VW) : Bool := (x.fn.extractLsb' 0 7).toNat < 1024 / tyWidth x.ty

/-- `vrot` and `v2s` choose an immediate or the register form by FN[7] (R144, R145). -/
def rotFormOk (x : VW) : Bool :=
  if x.fn.getLsbD 7 then x.fn.extractLsb' 0 7 = 0 else x.bcb = 0 && immElemOk x

/-- Fields of `vmxpack` and `vmxunpack` (R141, R142). -/
def mxOk (x : VW) : Bool := (x.ty = 9#4 || x.ty = 11#4) && x.fn ≤ 5#8 && x.bcb = 0

/-- `vcvt` fields (R138). -/
def vcvtOk (x : VW) : Bool :=
  let s := x.fn.extractLsb' 3 4
  let wS := tyWidth s
  let wT := tyWidth x.ty
  tyAny x.ty && tyAny s && s ≠ x.ty && x.fn.getLsbD 7 == false && x.bcb = 0 &&
    (x.fn.extractLsb' 0 3).toNat < max wS wT / min wS wT

/-- Operation code of `vred` and `vscan` (R143). -/
def redOk (x : VW) : Bool :=
  x.bcb = 0 && ((x.fn ≤ 5#8 && tyInt x.ty) || (8#8 ≤ x.fn && x.fn ≤ 10#8 && tyFp x.ty))

/-- Fields a mask instruction does not use are zero (R108). -/
def maskCommon (x : VW) : Bool := x.sel = 0 && x.ty = 0 && x.bcb = 0 && x.vc = 0

/-- A mask selector 1 to 7 (R108). -/
def selOk (r : BitVec 10) : Bool := 1#10 ≤ r && r ≤ 7#10

/-- `mand` and `mor` (R108). -/
def mandOk (x : VW) : Bool :=
  maskCommon x && selOk x.vd && selOk x.va && x.fn ≤ 3#8 && (x.fn.getLsbD 0 || selOk x.vb)

/-- The register of DR lies in the scalar file (R61). -/
def drScalar (x : LW) : Bool := x.dr < 64#10

/-- Address fields that `popf`, `vpopf` and `fence` must leave zero (R239, R265). -/
def addrZero (x : LW) : Bool := x.ab = 0 && x.si = 0 && x.off = 0 && x.sc = 0

/-- Width code and variant of an atomic; `minmax` admits SG, `fadd` admits MG (R241). -/
def amoOk (x : LW) (minmax fadd : Bool) : Bool :=
  drScalar x && x.fn.getLsbD 1 && (minmax || x.fn.getLsbD 6 == false) && (fadd || x.fn.getLsbD 7 == false)

/-- Fields of a fence of kind `kind` (R265). -/
def fenceOk (x : LW) (kind : BitVec 2) : Bool :=
  addrZero x && x.dr = 0 && x.fn.extractLsb' 5 3 = 0 && x.fn.extractLsb' 0 2 = kind

/-- Phaser number of `drain`: bits [55:46] (R281). -/
def drainPh (x : CW) : Nat := (x.ca ++ x.cb).toNat

/-- Scope of a phaser (R257, R281). -/
def phaserScope (n : Nat) : Nat := if n < 64 then 2 else 5

/-- Fields of `drain` (R281). -/
def drainOk (x : CW) : Bool :=
  let scope := (x.ci.extractLsb' 8 3).toNat
  let rel := x.ci.getLsbD 11
  let arr := x.ci.getLsbD 12
  x.cs = 0 && x.ci.extractLsb' 13 3 = 0 && (!arr || rel) && (!arr || scope == phaserScope (drainPh x)) &&
    (arr || drainPh x == 0) && drainPh x ≤ 575

/-- CI[15:2] zero (R287, R396). -/
def ciHighZero (x : CW) : Bool := x.ci.extractLsb' 2 14 = 0

/-- Phaser number in CO[9:0] (R277). -/
def phNum (x : YW) : Nat := (x.co.extractLsb' 0 10).toNat

/-- REG form of `sem.add` and `sem.set` (R272). -/
def semOperandOk (x : YW) : Bool := x.co.getLsbD 8 == false || (x.co.extractLsb' 9 15 = 0 && x.bv = 1)

/-- Fields of `pace.ann` (R391) apart from the limit, which is checked after the privilege. -/
def paceAnnOk (x : YW) (emerg : Bool) : Bool :=
  x.co.extractLsb' 10 14 = 0 && x.co.getLsbD 8 == emerg &&
    (x.co.getLsbD 9 == false || (x.bv = 1 && x.co.extractLsb' 0 8 = 0))

/-- Fields of `tsld` (R215) that the word itself decides. -/
def tsldOk (x : MW) : Bool := x.flags.extractLsb' 2 11 = 0 && (x.flags.getLsbD 0 || x.flags.getLsbD 1 == false)

/-- FP scalar instructions take FN = 0 and imm32 = 0 (R127). -/
def fpScalarOk (x : SW) : Bool := x.fn = 0 && x.imm = 0

/-- Type pair of `fcvt` (R129): F in FN[2:0], T in FN[5:3]. -/
def fcvtOk (x : SW) : Bool :=
  let f := x.fn.extractLsb' 0 3
  let t := x.fn.extractLsb' 3 3
  x.imm = 0 && f ≠ t && !(f.getLsbD 2 && t.getLsbD 2)

/-- The field values of an instruction are ones the manual allows (R53 and the rule of each instruction).  Every event is
well-formed. -/
def Instr.wf : Instr → Bool
  | .add x | .sub x | .mov x | .clz x | .ctz x | .popc x | .li x | .lih x | .addi x => x.fn = 0
  | .and x | .or x | .xor x | .andn x | .mul x => only x.fn 1#6
  | .shl x | .shr x | .sra x | .rotl x => shiftImmOk x
  | .min x | .max x | .div x | .rem x => only x.fn 3#6
  | .scmp x => x.fn.getLsbD 5 == false && x.fn.extractLsb' 1 4 ≤ 9#4
  | .sel x => x.fn = 0 && x.imm.extractLsb' 6 26 = 0
  | .bfx x => only x.fn 1#6 && bitfieldOk x.imm
  | .bfi x => x.fn = 0 && bitfieldOk x.imm
  | .s2a x => x.fn = 0 && x.sd.getLsbD 5 == false
  | .a2s x => x.fn = 0 && x.sa.getLsbD 5 == false
  | .mulh x => only x.fn 7#6 && x.fn.extractLsb' 1 2 ≠ 3#2
  | .mfc x | .mtc x => x.fn = 0 && x.imm.extractLsb' 12 20 = 0
  | .faddD x | .fsubD x | .fmulD x | .fdivD x | .fsqrtD x | .fminD x | .fmaxD x | .fclassD x => fpScalarOk x
  | .fmaD x => x.fn = 0 && x.imm.extractLsb' 6 26 = 0
  | .fcmpD x => x.imm = 0 && only x.fn 7#6
  | .fcvt x => fcvtOk x
  | .vadd x | .vsub x => tyInt x.ty && only x.fn 1#8
  | .vand x | .vor x | .vxor x | .vsel x | .vperm x => vPlain tyAny x
  | .vshl x | .vshr x | .vsra x => vshiftOk x
  | .vmin x | .vmax x | .vmul x | .vmulh x | .vmadd x => vPlain tyInt x
  | .vabs x | .vneg x => vUnary (fun t => tySigned t || tyFp t) x
  | .vcmp x => tyInt x.ty && x.fn ≤ 5#8
  | .vclz x | .vpopc x | .vidx x => vUnary tyInt x
  | .vmov x => vUnary tyAny x
  | .vsplat x => vUnary tyAny x && x.va.extractLsb' 6 4 = 0
  | .vfadd x | .vfsub x | .vfmin x | .vfmax x | .vfmul x | .vfma x | .vfms x | .vfnma x | .vfdiv x => vPlain tyFp x
  | .vfcmp x => tyFp x.ty && x.fn ≤ 7#8
  | .vfsqrt x | .vfclass x => vUnary tyFp x
  | .vcvt x => vcvtOk x
  | .vmxpack x => mxOk x && x.sel = 0
  | .vmxunpack x => mxOk x
  | .vred x | .vscan x => redOk x
  | .vrot x => tyAny x.ty && rotFormOk x
  | .vext x => tyAny x.ty && x.fn.getLsbD 7 == false && immElemOk x
  | .v2s x => tyAny x.ty && rotFormOk x && x.sel = 0 && x.vd.extractLsb' 6 4 = 0
  | .vhashSrp x => x.sel = 0 && x.bcb = 0 && x.ty = 9#4 && x.fn < 32#8 && x.vb ≤ 1008#10
  | .mpush x =>
    maskCommon x && x.vd = 0 && x.vb = 0 && x.fn ≤ 3#8 && (x.fn.getLsbD 0 == false || selOk x.va)
  | .minv x | .mpop x => maskCommon x && x.vd = 0 && x.va = 0 && x.vb = 0 && x.fn = 0
  | .mand x | .mor x => mandOk x
  | .mcnt x => maskCommon x && x.vd.extractLsb' 6 4 = 0 && selOk x.va && x.vb = 0 && x.fn = 0
  | .mlease x => x.flags.extractLsb' 8 5 = 0 && x.tail = 0
  | .mfree x => x.tail.extractLsb' 10 6 = 0
  | .tld x | .tst x => x.flags.extractLsb' 1 12 = 0
  | .mma x | .mmaBs x | .mmaNm x | .mzero x => x.flags = 0
  | .tsld x => tsldOk x
  | .tsst x => x.flags = 0
  | .ld x =>
    drScalar x && x.fn.extractLsb' 4 4 = 0 && !(x.fn.getLsbD 2 && x.fn.extractLsb' 0 2 = 3#2) &&
      (x.fn.getLsbD 3 == false || x.fn.extractLsb' 0 3 = 0)
  | .vld x | .vldf x | .vst x | .vstg x => x.fn = 0
  | .vlds x | .vsts x => only x.fn 3#8
  | .vldx x | .vstx x => only x.fn 3#8 && x.fn ≠ 0
  | .ldf x => x.fn.extractLsb' 3 5 = 0 && !(x.fn.getLsbD 2 && x.fn.extractLsb' 0 2 = 3#2)
  | .popf x => drScalar x && addrZero x && x.fn = 0
  | .vpopf x => addrZero x && x.fn = 0
  | .rlyTake x => x.dr < 32#10 && x.fn < 32#8
  | .st x =>
    drScalar x && x.fn.extractLsb' 4 4 = 0 && x.fn.getLsbD 2 == false &&
      (x.fn.getLsbD 3 == false || x.fn.extractLsb' 0 2 = 0)
  | .rlyGive x => x.fn < 16#8
  | .stg x => drScalar x && only x.fn 3#8
  | .amoAdd x | .amoAnd x | .amoOr x | .amoXor x | .amoSwap x => amoOk x false false
  | .amoMin x | .amoMax x => amoOk x true false
  | .amoCas x => amoOk x false false && x.sc = 0
  | .amoFadd x => amoOk x false true
  | .fenceAcq x => fenceOk x 1#2
  | .fenceRel x => fenceOk x 2#2
  | .fenceAr x => fenceOk x 3#2
  | .rlyInit x => x.ci.extractLsb' 4 12 = 0
  | .cpLin x | .cpTen x | .cpGat x | .cpSct x | .cpFill x => ciHighZero x
  | .drain x => drainOk x
  | .scProbe x => x.ci.extractLsb' 1 15 = 0
  | .scCommit x | .scDrop x | .colGat x | .launch x | .ltrig x => x.ci = 0
  | .colRedRoot x => ciHighZero x && x.ci.extractLsb' 0 2 = 0
  | .colRedAll x => ciHighZero x && x.ci.extractLsb' 0 2 = 1#2
  | .colRedScat x => ciHighZero x && x.ci.extractLsb' 0 2 = 2#2
  | .br x | .bmNone x | .bmAny x | .call x | .xim x => x.commonOk
  | .bz x | .bnz x | .loopImm x => x.commonOk && x.bv = 1
  | .jmp x => x.commonOk && x.co.extractLsb' 5 19 = 0
  | .ret x | .yield x | .halt x | .eret x | .paceJoin x | .paceLeave x => x.commonOk && x.co = 0
  | .loopReg x => x.commonOk && x.bv = 1 && x.co.extractLsb' 6 18 = 0
  | .loopx x => x.commonOk && x.bv = 1 && x.co.extractLsb' 5 19 = 0
  | .mark x => x.commonOk && x.co = 0 && x.rm = 0
  | .wait x => x.commonOk && x.ywt ≠ 0
  | .semAdd x | .semSet x => x.commonOk && semOperandOk x
  | .semRd x => x.commonOk && x.co.extractLsb' 14 10 = 0
  | .phReg x =>
    x.commonOk && phNum x ≤ 575 && x.co.extractLsb' 10 2 ≠ 0 && x.co.extractLsb' 22 2 = 0
  | .phDrop x | .phArr x => x.commonOk && phNum x ≤ 575 && x.co.extractLsb' 10 14 = 0
  | .phWait x | .phArw x => x.commonOk && phNum x ≤ 575
  | .dupcmp x =>
    let first := (x.co.extractLsb' 0 9).toNat
    let count := (x.co.extractLsb' 9 10).toNat
    x.commonOk && count ≠ 0 && first + count ≤ 512 && x.co.extractLsb' 19 5 = 0
  | .trap x | .sys x => x.commonOk && x.co.extractLsb' 16 8 = 0
  | .paceAnn x => x.commonOk && paceAnnOk x false
  | .paceAnnE x => x.commonOk && paceAnnOk x true
  | .nop slot body => slot ≠ 7 || (YW.commonOk
      { yws := body.extractLsb' 48 8, ywt := body.extractLsb' 38 10, bv := body.extractLsb' 37 1,
        bi := body.extractLsb' 31 6, lff := body.extractLsb' 30 1, lfl := body.extractLsb' 29 1,
        lvl := body.extractLsb' 26 3, rm := body.extractLsb' 25 1, rsv := body.extractLsb' 24 1,
        co := body.extractLsb' 0 24 })
  | .hint slot _ body => slot ≠ 7 || (YW.commonOk
      { yws := body.extractLsb' 48 8, ywt := body.extractLsb' 38 10, bv := body.extractLsb' 37 1,
        bi := body.extractLsb' 31 6, lff := body.extractLsb' 30 1, lfl := body.extractLsb' 29 1,
        lvl := body.extractLsb' 26 3, rm := body.extractLsb' 25 1, rsv := body.extractLsb' 24 1,
        co := body.extractLsb' 0 24 })
  | .resultLanding _ | .quantumEnd _ | .trapEventPost _ | .leaseGrant _ | .leaseIdleExpiry _ | .arrayCommandStart _
  | .arrayUpdateBegin _ | .arrayCommandComplete _ | .mfreeMarkerSignal _ | .tileCommandStart _
  | .tileCommandComplete _ | .tsCopyStart _ | .tsCopyBeat _ | .tsCopyYield _ | .tsCopyComplete _ | .rlyInitStart _
  | .rlyInitComplete _ | .droverCommandStart _ | .droverChunkCommit _ | .chunkTagWrite _ | .droverCommandComplete _
  | .drainStart _ | .drainComplete _ | .scCommandStart _ | .scDirectoryPoint _ | .scCommandComplete _
  | .colCommandStart _ | .colFlitReceive _ _ | .colCommandComplete _ | .colTimeout _ | .launchComplete _
  | .pageWalkComplete _ _ | .faultQueueWrite _ | .farLoadArrival _ _ | .parkEventPost _ | .storePublicationDone _
  | .atomicPerform _ | .shadowStackSpillFill _ | .tollCount _ _ _ | .phaserRegistrationApply _ | .phaserDropApply _
  | .phaserArrivalCount _ | .phaseDelivery _ | .phTimeout _ | .waitTimeout _ | .schedulerSelection _
  | .scratchImageCopyDone _ | .groupStart _ | .powerInterval | .overdrawWindow | .overdrawCapRise _ | .clockRaise _
  | .consignmentComplete _ | .completionRecordWrite _ | .watchdogExpiry _ | .queueOpen _ | .queueClose _
  | .queueKill _ | .queueClosed _ | .queueDoorbell _ _ | .packetFetch _ | .launchPacket _ | .waitseqPacket _
  | .evwaitPacket _ | .evsigPacket _ | .graphPacket _ | .eventObjectPoll _ | .preemptSuspend _ _ | .preemptKill _ _
  | .preemptRelease _ _ | .contextFreeze _ | .suspendSaveComplete _ | .resume _ _ | .groupRejoin _
  | .tresumeResume _ _ _ | .tresumeAbort _ _ _ | .contextRejoin _ | .xlinv _ | .xlinvDone | .errcntWrite _
  | .errcnt2Write _ | .merrClear _ | .qpartWrite _ | .pwinWrite _ | .fllsetWrite _ | .throttleWrite _
  | .controlRegisterWrite _ _ | .bootFlash | .bootReboot | .powerOn | .hostBar0Access _ | .hostBar2Access _
  | .functionLevelReset _ | .msixMessage _ _ | .getVersion _ | .getCapabilities _ | .negotiateAlgorithms _
  | .getDigests _ | .getCertificate _ _ _ _ | .challenge _ _ _ | .getMeasurements _ _ _ _
  | .spdmUnsupportedRequest _ _ | .correctableError _ _ | .uncorrectableError _ | .tempSample _ _
  | .hbmTempSample _ _ | .linkTraining _ _ | .peerRequestTimeout _ | .roundBoundary | .heartbeatSend | .annReceive _
  | .hbReceive _ | .joinReceive _ | .welcomeSend _ | .welcomeReceive _ | .leaveReceive _ | .peerSilent _
  | .peerDeparted _ | .membershipLapse | .launchCommandStart _ | .bundleFetch _ | .globalStorePerform _
  | .peerMemoryRequest _ | .pcieCorrectableError _ => true

end Sys2Proof
end

