-- ==== Sys2Proof/Machine/Ops.lean ====
section
/-! DEFINITION. The shared operations of the machine: restart regions, taking a trap and returning from one, recoverable
faults, relay buffers, engine queues, and the three ways in which a slot instruction is handled (R50, R84, R160 to R166,
R245 to R251, R363 to R371). -/

namespace Sys2Proof.Machine

open Sys2Proof

/-! ## Codes and counts -/

/-- Code of a cause (R363). -/
def Cause.code : Cause → Nat
  | .illop => 1 | .priv => 2 | .lwin => 3 | .latconf => 4 | .align => 5 | .spbound => 6 | .tsbound => 7 | .access => 8
  | .fpx => 9 | .snan => 10 | .mxx => 11 | .nmv => 12 | .pcwbad => 13 | .cfi => 14 | .mstk => 15 | .softerr => 16
  | .markov => 17 | .eccu => 18 | .timeout => 19 | .sys => 20 | .brk => 21

/-- Where a cause goes: the handler, the privileged resolver, or the end of the consignment (R363). -/
inductive Target where
  | handler | resolver | abort
  deriving DecidableEq, Repr

/-- Target of a cause (R363). -/
def Cause.target : Cause → Target
  | .priv => .resolver | .cfi => .resolver | .eccu => .resolver | .sys => .resolver
  | .markov => .abort
  | .illop => .handler | .lwin => .handler | .latconf => .handler | .align => .handler | .spbound => .handler
  | .tsbound => .handler | .access => .handler | .fpx => .handler | .snan => .handler | .mxx => .handler
  | .nmv => .handler | .pcwbad => .handler | .mstk => .handler | .softerr => .handler | .timeout => .handler
  | .brk => .handler

/-- Rank of an issue-time cause, the highest first (R364). -/
def Cause.rank : Cause → Nat
  | .eccu => 1 | .mxx => 2 | .nmv => 2 | .illop => 3 | .priv => 4 | .lwin => 5 | .latconf => 6 | .mstk => 7
  | .pcwbad => 8 | .cfi => 9 | .tsbound => 10 | .align => 11 | .spbound => 12 | .access => 13 | .markov => 14
  | .softerr => 15 | .fpx => 16 | .snan => 16 | .timeout => 16 | .sys => 16 | .brk => 16

/-- Add to a 16-bit count at bit `lo` of a counter register, saturating at 65,535 (R374, R416; DEDUCED, log 45). -/
def addCount (x : Word) (lo n : Nat) : Word :=
  let v := min 65535 ((x.extractLsb' lo 16).toNat + n)
  (x &&& ~~~((0xFFFF : Word) <<< lo)) ||| (BitVec.ofNat 64 v <<< lo)

/-- Hardware adds to a count of ERRCNT or ERRCNT2, or sets a STOP bit of MERR with its code (R374, R415, R416). -/
def PkgRegs.count (p : PkgRegs) (b : Nat × Nat × Nat) : PkgRegs :=
  match b.1 with
  | 0x817 => { p with errcnt := addCount p.errcnt b.2.1 b.2.2 }
  | 0x818 => { p with errcnt2 := addCount p.errcnt2 b.2.1 b.2.2 }
  | _ => { p with merr := (p.merr &&& 3#64) ||| ((1 : Word) <<< b.2.1) ||| (BitVec.ofNat 64 b.2.2 <<< 8) }

/-- Hardware adds to a register of the package in this base cycle: a write that takes effect in it comes before (R126 item 3). -/
def State.tally (s : State) (reg lo n : Nat) : State :=
  s.modPk fun p => { p.count (reg, lo, n) with bumps := p.bumps ++ [(reg, lo, n)] }

/-- A register as a write leaves it, with what hardware adds in the base cycle in which the write takes effect (R126 item 3). -/
def PkgRegs.written (p : PkgRegs) (reg : Nat) : PkgRegs := (p.bumps.filter fun b => b.1 == reg).foldl PkgRegs.count p

/-- Queue and packet sequence of a context's consignment; 0 and 0 for an outrider. -/
def State.conIds (s : State) (c : Ctx) : Nat × Nat :=
  match c.cons with
  | some k => match s.con? k with | some x => (x.queue, x.seq) | none => (0, 0)
  | none => (0, 0)

/-! ## Relay buffers (R161, R164, R166) -/

/-- Release given slots from the release point on in a cycle, `n` slots at most; a producer may start them from the next (R164). -/
def releaseSlots (cycle : Nat) : Nat → Nat → Nat → List SlotState → List SlotState
  | 0, _, _, sl => sl
  | n + 1, k, count, sl =>
    match sl[k % count]? with
    | some (.taken _ _ true) => releaseSlots cycle n (k + 1) count (sl.set (k % count) (.freed cycle))
    | some .free => releaseSlots cycle n (k + 1) count sl
    | some (.freed _) => releaseSlots cycle n (k + 1) count sl
    | _ => sl

/-- The oldest ungiven slot that a context holds: its issue order and number. -/
def oldestHeld (cid : Nat) : List SlotState → Nat → Option (Nat × Nat)
  | [], _ => none
  | .taken c o false :: rest, i =>
    match oldestHeld cid rest (i + 1) with
    | some (o', j) => if c = cid && o ≤ o' then some (o, i) else some (o', j)
    | none => if c = cid then some (o, i) else none
  | _ :: rest, i => oldestHeld cid rest (i + 1)

/-- A slot is being filled. -/
def SlotState.isFilling : SlotState → Bool
  | .filling _ => true
  | _ => false

/-- Start of the ring order in which slots are released: past the slots from the fill index on that are being filled, which are the
newest (R161, R164). -/
def Relay.scanFrom (r : Relay) : Nat :=
  r.fill + ((List.range r.count).takeWhile fun i => (r.slots[(r.fill + i) % r.count]?.map SlotState.isFilling).getD false).length

/-- Place of a slot in ring order, the oldest first. -/
def Relay.place (r : Relay) (k : Nat) : Nat := (k + 2 * r.count - r.scanFrom % max 1 r.count) % max 1 r.count

/-- A slot is FILLED. -/
def SlotState.isFilled : SlotState → Bool
  | .filled _ => true
  | _ => false

/-- The older in ring order of the FILLED slot `k` and the FILLED slots of a list. -/
def Relay.oldestFilled (r : Relay) : Nat → List Nat → Nat
  | k, [] => k
  | k, j :: l => r.oldestFilled (if (r.slots[j]?.map SlotState.isFilled).getD false && decide (r.place j < r.place k) then j else k) l

/-- Take `id` of slot `k` is undone, if the slot is still held by that take: it is FILLED again, and the take index moves back to the oldest
FILLED slot (R162, R166 item 3). -/
def Relay.untake (r : Relay) (k id : Nat) : Relay :=
  match r.slots[k]? with
  | some (.taken _ i _) =>
    if i ≠ id then r
    else { r with slots := r.slots.set k (.filled 0), take := r.oldestFilled k (List.range r.count) }
  | _ => r

/-- Give back the oldest slot a context holds (R164). -/
def Relay.giveBack (r : Relay) (cid cycle : Nat) : Relay :=
  match oldestHeld cid r.slots 0 with
  | some (o, i) =>
    let sl := r.slots.set i (.taken cid o true)
    { r with slots := releaseSlots cycle r.count r.scanFrom r.count sl }
  | none => r

/-- Change relay buffer `rb` of a group. -/
def State.modRelay (s : State) (gid rb : Nat) (f : Relay → Relay) : State :=
  s.modGroup gid fun g => { g with relays := g.relays.modify rb f }

/-! ## Restart regions (R245 to R247) -/

/-- Number of gate entries in use (R246). -/
def Region.entries (r : Region) : Nat :=
  (r.gate.filter fun g => match g with | .release _ _ => false | _ => true).length

/-- Apply one gate entry at commit (R155, R164, R246, R257). -/
def State.commitOp (s : State) (cid : Nat) : GateOp → State
  | .scratch side ws =>
    let gid := (s.ctx cid).gid
    { s with late := s.late ++ ws.map fun w => ⟨cid, gid, side, w.1, w.2⟩ }
  | .global _ ps => ps.foldl (fun t p => t.postPiece cid s.nextId p) s
  | .give rb => s.modRelay (s.ctx cid).gid rb fun r => r.giveBack cid (s.cycleOf cid)
  | .release sc id =>
    (s.releaseOf cid sc [.fence cid (coreOf cid) sc s.nextId] fun x => x.cid == cid || x.rel.contains (.gated id)).2

/-- Drains that a context pushed in this cycle await the stores that its region commits now (R281, R282). -/
def State.coverDrains (s : State) (cid : Nat) : State :=
  { s with cmds := s.cmds.map fun c =>
      if c.queue = .drain cid && c.start.isNone && c.pushed = s.cycleOf cid then { c with number := s.nextId } else c }

/-- Commit the open region of a context: its gate acts, and the far-load entries that it held are freed (R237, R245). -/
def State.commitRegion (s : State) (cid : Nat) : State :=
  match (s.ctx cid).region with
  | none => s
  | some r =>
    let s := s.modCtx cid fun c => { c with region := none, far := c.far.filter fun e => !e.held }
    (r.gate.foldl (fun s g => s.commitOp cid g) s).coverDrains cid

/-- What a mark records (R247, R280; DEDUCED, log 26). -/
def Ctx.record (c : Ctx) : Recorded where
  pc := c.pc
  xfer := c.xfer
  lchk := c.regs.lchk
  dup := c.regs.dup
  fpctl := c.regs.fpctl
  fpstat := c.regs.fpstat
  ssp := c.regs.ssp
  shadow := c.shadow
  tshape := c.regs.tshape
  m := c.m
  stack := c.stack
  loops := c.loops
  wps := c.phregs.map fun r => (r.ph, r.wp)
  phWait := c.phWait

/-- Commit the open region and open a new one (R245); a handler runs with no region open (DEDUCED, log 26). -/
def State.mark (s : State) (cid : Nat) : State :=
  let s := s.commitRegion cid
  if (s.ctx cid).regs.inh then s else
    s.modCtx cid fun c =>
      { c with region := some ⟨c.record, c.order + 1, [], [], [], []⟩, order := c.order + 1 }

/-- Undo the slot takes of the open regions of some contexts of a group: the take index comes back to the oldest (R166 item 3, R248).
-/
def State.undoTakes (s : State) (gid : Nat) (cids : List Nat) : State :=
  let all := cids.flatMap fun k => match (s.ctx k).region with | some r => r.takes | none => []
  let s' := all.foldl (fun s x => s.modRelay gid x.1 fun r => r.untake x.2.1 x.2.2) s
  cids.foldl (fun s k => s.modCtx k fun c => { c with region := c.region.map fun r => { r with takes := [] } }) s'

/-- Roll a context back to the mark of its open region (R248 items 1 to 3); without a region nothing is rolled back. -/
def State.rollback (s : State) (cid : Nat) : State :=
  match (s.ctx cid).region with
  | none => s
  | some r =>
    (s.undoTakes (s.ctx cid).gid [cid]).modCtx cid fun c =>
      let sv := r.saved
      { c with
        pc := sv.pc
        xfer := sv.xfer
        line := none
        s := (r.shadowS.filter fun x => decide (x.1 < 64)).foldl (fun m x => m.set x.1 x.2) c.s
        a := (r.shadowS.filter fun x => decide (64 ≤ x.1)).foldl (fun m x => m.set (x.1 - 64) x.2) c.a
        v := r.shadowV.foldl (fun m x => m.set x.1 x.2) c.v
        m := sv.m
        stack := sv.stack
        loops := sv.loops
        shadow := sv.shadow
        regs := { c.regs with
          lchk := sv.lchk
          dup := sv.dup
          fpctl := sv.fpctl
          fpstat := sv.fpstat
          ssp := sv.ssp
          tshape := sv.tshape }
        phregs := c.phregs.map fun p =>
          match sv.wps.find? fun w => w.1 == p.ph with
          | some w => { p with wp := w.2 }
          | none => p
        phWait := sv.phWait
        waitSince := none
        holdSince := none
        walk := none
        pend := c.pend.filter fun x => decide (x.order < r.since)
        replay := c.replay.filter fun x => decide (x.order < r.since)
        far := (c.far.filter fun e => decide (e.order < r.since)).map fun e => { e with held := false }
        region := some ⟨sv, c.order, [], [], [], []⟩ }

/-! ## The array lease as contexts lose it (R183) -/

/-- A context loses the lease it holds and every request it has standing, which is withdrawn with its count of grants passed over;
`again` makes a holder ask once more on resumption, one too whose `mlease` has been granted and has not issued, with the budget 0 that
it has until then (R183; DESIGN CHOICE, log 84). -/
def State.endLease (s : State) (cid : Nat) (again : Bool) : State :=
  if !isSerai cid then s else
    let k := seraiOf cid
    match (s.serai k).lease with
    | some l =>
      if l.holder = cid then
        let s := s.modSerai k fun x =>
          { x with lease := none, lastHolder := some cid, grantFrom := x.cyc + 2,
                   reqs := x.reqs.filter fun q => q.cid != cid }
        if again then s.modCtx cid fun c => { c with leaseWanted := some (l.budget, l.prio) } else s
      else s.modSerai k fun x => { x with reqs := x.reqs.filter fun q => q.cid != cid }
    | none => s.modSerai k fun x => { x with reqs := x.reqs.filter fun q => q.cid != cid }

/-! ## The end of a consignment's work (R361) -/

/-- A context gives up its work: nothing of it is saved (R361). -/
def Ctx.dropWork (c : Ctx) : Ctx := { c with frozen := true, region := none, pend := [], replay := [], far := [], phWait := [] }

/-- A consignment ends with a status and a reason: its contexts stop, gated stores and queued commands are dropped, and
running commands settle (R351, R361).  A consignment that is complete or already ending keeps its status. -/
def State.killCon (s : State) (k status reason : Nat) : State :=
  match s.con? k with
  | none => s
  | some c =>
    if c.state = .complete || c.state = .killing || c.state = .completing then s else
      let s := s.modCon k fun c => { c with state := .killing, status := status, reason := reason, asked := s.tick }
      let mine := (s.ctxs.filter fun x => x.2.cons == some k).map (·.1)
      let s := mine.foldl (fun s cid => (s.endLease cid false).modCtx cid Ctx.dropWork) s
      { s with
        cmds := s.cmds.filter fun x => x.start.isSome || !mine.contains x.cid
        queues := s.queues.map fun q => (q.1, if q.1 = 8192 + k then { q.2 with st := .error, packet := none } else q.2) }

/-! ## Taking a trap (R366 to R369) -/

/-- A trap about to be taken; `result` is the one that a landing trap holds (R36). -/
structure TrapInfo where
  cause : Cause
  tval : Word
  slot : Nat
  pc : Word
  tepc : Word
  tlat : Nat
  imm : BitVec 16
  land : Bool
  defer : Bool
  result : Option Result
  deriving DecidableEq, Repr

/-- TCAUSE from its fields (R368). -/
def tcauseWord (code : Nat) (land defer xfer : Bool) (imm : BitVec 16) (inh : Bool) : Word :=
  BitVec.ofNat 64 code ||| (if land then 0x100 else 0) ||| (if defer then 0x200 else 0) |||
    (if xfer then 0x400 else 0) ||| (imm.setWidth 64 <<< 16) ||| (if inh then (1 : Word) <<< 63 else 0)

/-- The trap registers as a trap writes them (R368); `keep` leaves LAND, DEFER and XFER, as for a trap of the resolver's within a
consignment's handler (R367). -/
def CtxRegs.trapped (r : CtxRegs) (t : TrapInfo) (xfer keep : Bool) : CtxRegs :=
  { r with
    tcause := tcauseWord t.cause.code (if keep then r.tcause.getLsbD 8 else t.land)
      (if keep then r.tcause.getLsbD 9 else t.defer) (if keep then r.tcause.getLsbD 10 else xfer) t.imm r.inh
    tpc := t.pc &&& ~~~63#64
    tslot := BitVec.ofNat 64 t.slot
    tval := t.tval
    tlat := BitVec.ofNat 64 (min t.tlat (2 ^ 32 - 1))
    tepc := t.tepc &&& ~~~63#64 }

/-- Move the pending results into the replay buffer, with the cycles that remain from cycle `from_` (R87, R366). -/
def Ctx.pendToReplay (c : Ctx) (from_ : Nat) : Ctx :=
  { c with
    pend := []
    replay := c.replay ++ c.pend.map fun x => { x with due := x.due - from_ } }

/-- The result that an `eret` under way was to write waits in the replay buffer, as TVAL and DROP leave it, where a trap comes before
the `eret` has completed (R36, R370; DEDUCED, log 85). -/
def Ctx.heldBack (c : Ctx) : List Result :=
  match c.held, c.returning with
  | some h, some _ =>
    if c.regs.tcause.getLsbD 8 && !c.regs.rbDrop then
      [{ h with due := 0, quiet := true, handler := false, flags := [], value := match h.dest with | .v _ => h.value | _ => c.regs.tval.setWidth 1024 }]
    else []
  | _, _ => []

/-- Steps 2 to 4 of R366: trap registers, replay buffer, loop and transfer state set aside.  A landing trap counts the cycles
that remain from its own cycle (R36), and its own result is held (R36, R368).  A trap inside the handler
leaves the parcel's set-aside state and discards the handler's own (R367). -/
def Ctx.trapped (c : Ctx) (t : TrapInfo) (cycle : Nat) (keep : Bool) : Ctx :=
  let c' := c.pendToReplay (if t.land then cycle else cycle + 1)
  { c' with
    replay := c.heldBack ++ c'.replay
    held := if t.result.isSome then t.result else if c.returning.isSome then none else c.held
    returning := none
    regs := { c.regs.trapped t c.xfer.isSome keep with rbDrop := c.regs.rbDrop && c.returning.isNone }
    aside := if c.regs.inh then c.aside else some (c.loops, c.xfer)
    loops := List.replicate 6 .off
    xfer := none
    waitSince := none
    holdSince := none
    walk := none
    fetchWalk := none
    line := none }

/-- Entry to the handler at THAND; its first bundle issues 3 cycles after the trap cycle (R366). -/
def Ctx.enterHandler (c : Ctx) (cycle : Nat) : Ctx :=
  { c with
    pc := c.regs.thand &&& ~~~63#64
    notBefore := cycle + 3
    regs := { c.regs with tcause := c.regs.tcause ||| ((1 : Word) <<< 63) } }

/-- The trap event of R367. -/
def trapEvent (c : Ctx) (cid code queue seq : Nat) : List Byte :=
  [2#8, BitVec.ofNat 8 code, BitVec.ofNat 8 (unitOf cid), BitVec.ofNat 8 (whoOf cid)] ++ natLe 2 queue ++ [0#8, 0#8] ++
    natLe 8 c.regs.tpc.toNat ++ natLe 8 c.regs.tval.toNat ++ natLe 4 seq ++ natLe 4 0

/-- An MSI-X condition of a vector arises on some ports (R410). -/
def State.msi (s : State) (vector : Nat) (ports : List Nat) : State :=
  s.modPk fun p => { p with
    msixDue := p.msixDue ++ ((ports.map fun k => (k, vector)).filter fun x => !p.msixDue.contains x) }

/-- Record the stop of an outrider in MERR and in ERRCNT2; with that of die 0 the pace unit stops (R369, R385, R410, R415,
R416). -/
def State.outriderStop (s : State) (die code : Nat) : State :=
  let s := if die = 0 then s.modPace fun p => { p with stoppedAt := some s.tick } else s
  let s := if s.pk.merr.getLsbD die then s else s.msi 2 [0, 1]
  (s.tally 0x833 die code).tally 0x818 32 1

/-- Causes for which no rule says what TVAL receives (R368; DESIGN CHOICE, log 18). -/
def Cause.openTval : Cause → Bool
  | .illop => true | .priv => true | .lwin => true | .latconf => true | .mstk => true | .markov => true
  | _ => false

/-- The values of a trap that the manual leaves open: TVAL of some causes, landing traps apart, TLAT of TIMEOUT (R368; DESIGN CHOICE,
log 18). -/
def State.openTrap (s : State) (t : TrapInfo) : TrapInfo × State :=
  let (w, s') := s.takeFree
  if t.cause.openTval && !t.land then ({ t with tval := w }, s')
  else if t.cause = .timeout then ({ t with tlat := w.toNat }, s')
  else (t, s)

/-- TAKE A TRAP in context `cid` (R366 to R369): the open region commits; the trap registers are written, the pending
results and the loop and transfer state are set aside; then the handler is entered, or the context stops for the
resolver, or the consignment is aborted, or the outrider stops (DESIGN CHOICE, log 18; DEDUCED, log 45). -/
def State.takeTrap (s : State) (cid : Nat) (t : TrapInfo) : State :=
  let (t, s) := s.openTrap t
  let s := if t.cause = .eccu then s.tally 0x817 48 1 else s
  let c := s.ctx cid
  let cycle := s.cycleOf cid
  let noHandler := c.regs.thand &&& ~~~63#64 = 0 || c.regs.inh
  let keep := c.regs.inh && !isOutrider cid && t.cause.target == .resolver
  let s := (s.commitRegion cid).modCtx cid fun c => c.trapped t cycle keep
  if isOutrider cid then
    if noHandler then
      (s.modCtx cid fun c => { c with status := .outriderStopped }).outriderStop (locOf cid - Config.outriderBase) t.cause.code
    else s.modCtx cid fun c => c.enterHandler cycle
  else
    match t.cause.target with
    | .resolver =>
      let s := (s.endLease cid true).modCtx cid fun c => { c with status := .stopped, pc := c.regs.tepc }
      let c := s.ctx cid
      let (q, n) := s.conIds c
      { s with eventsOut := s.eventsOut ++ [⟨c.asid, 2, none, trapEvent c cid t.cause.code q n⟩] }
    | .abort => match c.cons with | some k => s.killCon k 4 t.cause.code | none => s
    | .handler =>
      if noHandler then match c.cons with | some k => s.killCon k 4 t.cause.code | none => s
      else s.modCtx cid fun c => c.enterHandler cycle

/-- A trap at the issue checks: TPC and the return point are the bundle itself and TLAT is 0 (R368). -/
def State.issueTrap (s : State) (slot : Nat) (cause : Cause) (tval : Word) : State :=
  s.takeTrap s.issue.cid ⟨cause, tval, slot, s.issue.pc, s.issue.pc, 0, 0, false, false, none⟩

/-- Return from the handler (R370): the set-aside state comes back, the bundle at TEPC issues 3 cycles later, and in that
cycle the held result is written unless DROP is set and the replay buffer is re-injected.  What the handler has started and has not
landed is from here on the parcel's (R366). -/
def Ctx.leaveHandler (c : Ctx) (cycle : Nat) : Ctx :=
  let (loops, xfer) := c.aside.getD (List.replicate 6 .off, none)
  { c with
    pc := c.regs.tepc
    loops := loops
    xfer := xfer
    aside := none
    line := none
    pend := c.pend.map fun x => { x with handler := false }
    returning := some (cycle + 3)
    notBefore := cycle + 3
    regs := { c.regs with tcause := c.regs.tcause &&& ~~~((1 : Word) <<< 63) } }

/-- The cycle in which `eret` completes: the held result, DROP and the replay buffer (R37, R370). -/
def Ctx.finishReturn (c : Ctx) (cycle : Nat) : Ctx :=
  let c1 :=
    if c.regs.tcause.getLsbD 8 && !c.regs.rbDrop then
      match c.held with
      | some h =>
        match h.dest with
        | .s r => c.ws r c.regs.tval
        | .a r => c.wa r c.regs.tval
        | .v r => c.wv r h.value h.lanes
        | _ => c
      | none => c
    else c
  { c1 with
    held := none
    returning := none
    replay := []
    pend := c1.pend ++ c1.replay.map fun x => { x with due := cycle + x.due }
    regs := { c1.regs with rbDrop := false } }

/-! ## Recoverable faults (R248 to R251) -/

/-- The contexts of a context's fault group that hold a parcel of it (R82, R248). -/
def State.faultGroup (s : State) (cid : Nat) : List Nat :=
  let c := s.ctx cid
  if isDepot cid || c.fgrp = 0 then [cid]
  else (s.ctxs.filter fun x =>
    x.2.gid == c.gid && x.2.cons == c.cons && (x.2.status == .ready || x.2.status == .stopped || x.2.status == .starting) &&
      (c.fgrp == 2 || coreOf x.1 == coreOf cid)).map (·.1)

/-- Take the next fault sequence number of an address space (R249). -/
def State.takeSeq (s : State) (asid : Nat) : Nat × State :=
  let a := s.descAddr asid + 44
  let n := s.devNum a 4
  (n, s.writeHome 0 a (natLe 4 (n + 1)))

/-- A fault-queue entry (R249). -/
def faultEntry (seq asid kind : Nat) (write parked : Bool) (addr pc : Word) (unit who level fgrp tensor tile chunk queue
    pkt : Nat) : List Byte :=
  natLe 4 seq ++ natLe 2 asid ++ natLe 1 kind ++ natLe 1 ((if write then 1 else 0) + (if parked then 2 else 0)) ++
    natLe 8 addr.toNat ++ natLe 8 pc.toNat ++ natLe 1 unit ++ natLe 1 who ++ natLe 1 level ++ natLe 1 fgrp ++
    natLe 4 tensor ++ natLe 8 tile ++ natLe 4 chunk ++ natLe 2 queue ++ natLe 2 0 ++ natLe 4 pkt ++ natLe 12 0

/-- The park event of R251. -/
def parkEvent (fgrp cid queue seq pkt tick : Nat) : List Byte :=
  [3#8, BitVec.ofNat 8 fgrp, BitVec.ofNat 8 (unitOf cid), BitVec.ofNat 8 (whoOf cid)] ++ natLe 2 queue ++ natLe 2 0 ++
    natLe 4 seq ++ natLe 4 pkt ++ natLe 8 tick ++ natLe 8 0

/-- Park one context: it rolls back, its lease ends, and it leaves the ready set (R248). -/
def State.parkOne (s : State) (seq cid : Nat) : State :=
  let s := if (s.ctx cid).status = .ready then s.rollback cid else s
  (s.endLease cid true).modCtx cid fun c =>
    { c with
      parked := some seq
      waitSince := none
      holdSince := none
      walk := none
      fetchWalk := none
      fillWalk := none
      line := none
      cycles := c.cycles + (s.cycleOf cid - c.cycle0) }

/-- Park the fault group of a context on a sequence number: every member rolls back, the group leaves the ready set and
its lease ends, and the park event is posted; a rejoin of an earlier number is over (R248, R250, R251). -/
def State.parkGroup (s : State) (cid seq : Nat) : State :=
  let c := s.ctx cid
  let all := s.faultGroup cid
  let s := all.foldl (fun s k => s.parkOne seq k) (s.undoTakes c.gid (all.filter fun k => (s.ctx k).status == .ready))
  let (q, n) := s.conIds c
  { s with
    eventsOut := s.eventsOut ++ [⟨c.asid, 3, some seq, parkEvent c.fgrp cid q seq n s.tick⟩]
    rejoins := s.rejoins.filter fun r => r.trap || !all.contains r.cid }

/-- Entries of the shadow stack that a core holds of a context (R99; DEDUCED, log 31). -/
def shadowMax : Nat := 16

/-- A fault of a kind found at a bundle is that of a write: a store, an atomic, or a spill of the shadow stack (R99, R249). -/
def State.faultWrites (s : State) (cid kind : Nat) : Bool :=
  kind == 1 || kind == 2 || (kind == 4 && decide (shadowMax ≤ (s.ctx cid).shadow.length))

/-- Take a recoverable fault found at a bundle: kinds 1, 2, 4 and 5 take a number and write a PARKED entry (R248, R249). -/
def State.takeFault (s : State) (cid kind : Nat) (addr : Word) (level : Nat) : State :=
  let write := s.faultWrites cid kind
  let c := s.ctx cid
  let (seq, s) := s.takeSeq c.asid
  let (q, n) := s.conIds c
  let e := faultEntry seq c.asid kind write true addr c.pc (unitOf cid) (whoOf cid) level c.fgrp 0 0 0 q n
  State.parkGroup { s with faultsOut := s.faultsOut ++ [⟨c.asid, e⟩] } cid seq

/-- The writes that a context has read, the newest of each context on each core (R257). -/
def Ctx.noteReads (c : Ctx) (ws : List (Nat × Nat × Nat)) : Ctx :=
  { c with reads := ws.foldl (fun l w =>
      if l.any fun x => x.1 == w.1 && x.2.1 == w.2.1 && decide (w.2.2 ≤ x.2.2) then l
      else w :: l.filter fun x => !(x.1 == w.1 && x.2.1 == w.2.1)) c.reads }

/-! ## What hardware adds to a context's registers (R126, R189, R201, R202, R310) -/

/-- A parcel that has not halted. -/
def Ctx.alive (c : Ctx) : Bool := c.status != .halted && c.status != .idle

/-- Flags of a command that are enabled in FPCTL (R31, R202): NV, OF, UF, NX, SN, IOV, NMV. -/
def enabledFlags (fpctl : Word) (f : BitVec 8) : Bool :=
  (f.getLsbD 0 && fpctl.getLsbD 16) || (f.getLsbD 2 && fpctl.getLsbD 17) || (f.getLsbD 3 && fpctl.getLsbD 18) ||
    (f.getLsbD 4 && fpctl.getLsbD 19) || (f.getLsbD 5 && fpctl.getLsbD 20) || (f.getLsbD 6 && fpctl.getLsbD 21) ||
    (f.getLsbD 7 && fpctl.getLsbD 22)

/-- The flags of a command as MXSTAT takes them (R201). -/
def Finish.bits (x : Finish) : Word := x.flags.setWidth 64 &&& 0xFD#64

/-- A command has completed in a cycle: with an enabled flag it is recorded, or DN rises (R202). -/
def Ctx.finishOne (c : Ctx) (cycle : Nat) (x : Finish) : Ctx :=
  if !enabledFlags c.regs.fpctl x.flags then
    if c.deferred.isSome then { c with doneMarks := c.doneMarks ++ [⟨x.copy, x.number, x.sem⟩] } else { c with doneMarks := [] }
  else if c.deferred.isSome then { c with dn := min 255 (c.dn + 1), doneMarks := c.doneMarks ++ [⟨x.copy, x.number, x.sem⟩] }
  else { c with
    deferred := some ⟨x.copy, x.number, x.flags, x.flags.getLsbD 7 && c.regs.fpctl.getLsbD 22, cycle, x.sem, false⟩
    doneMarks := [] }

/-- What hardware adds in a cycle is noted, for a register write that takes effect in the same cycle (R126 item 3). -/
def Ctx.noteFinish (c : Ctx) (cycle : Nat) (f : Finished → Finished) : Ctx :=
  let fresh : Finished := ⟨cycle, 0, 0, 0, [], c.deferred, c.dn, c.doneMarks⟩
  let old : Finished := match c.finished with | some x => if x.cycle = cycle then x else fresh | none => fresh
  { c with finished := some (f old) }

/-- After a write of register `idx` in a cycle comes what hardware has added in that cycle; under a new FPCTL the commands that have
completed in it are tested anew (R126 items 1 and 3, R202). -/
def Ctx.refinish (c : Ctx) (idx cycle : Nat) : Ctx :=
  match c.finished with
  | none => c
  | some f =>
    if f.cycle ≠ cycle then c
    else match idx with
      | 0x001 => f.list.foldl (fun c x => c.finishOne cycle x)
          { c with deferred := f.deferred, dn := f.dn, doneMarks := f.doneMarks }
      | 0x003 => { c with regs := { c.regs with mxstat := f.list.foldl (fun w x => w ||| x.bits) c.regs.mxstat } }
      | 0x004 => { c with regs := { c.regs with skips := c.regs.skips + BitVec.ofNat 64 f.skips } }
      | 0x005 => { c with regs := { c.regs with planesDone := c.regs.planesDone + BitVec.ofNat 64 f.done } }
      | 0x006 => { c with regs := { c.regs with planesSkipped := c.regs.planesSkipped + BitVec.ofNat 64 f.skipped } }
      | _ => c

/-! ## Engine queues (R64, R65, R84, R268) -/

/-- Capacity of a queue (R162, R174, R181, R211, R282, R285, R306, R355, R395). -/
def QueueId.capacity : QueueId → Nat
  | .array _ => 32 | .tile _ => 16 | .copy _ => 16 | .relay _ => 4 | .drover _ => 16 | .drain _ => 4 | .step _ => 16
  | .coll _ => 16 | .launch _ => 4

/-- Commands of a queue, oldest first. -/
def State.queueOf (s : State) (q : QueueId) : List Cmd := s.cmds.filter fun c => c.queue == q

/-- A queue is full; a command counts until it completes (R84, R285; DESIGN CHOICE, log 103). -/
def State.queueFull (s : State) (q : QueueId) : Bool := decide (q.capacity ≤ (s.queueOf q).length)

/-- Fields of a sync tail (R64). -/
def tailWS (t : BitVec 24) : Nat := (t.extractLsb' 16 8).toNat
/-- Wait threshold. -/
def tailWT (t : BitVec 24) : Nat := (t.extractLsb' 10 6).toNat
/-- Signal semaphore. -/
def tailSS (t : BitVec 24) : Nat := (t.extractLsb' 2 8).toNat
/-- Signal increment. -/
def tailInc (t : BitVec 24) : Nat := match (t.extractLsb' 0 2).toNat with | 0 => 0 | 1 => 1 | 2 => 2 | _ => 4

/-- The first verdict whose condition holds, else `ok`. -/
def firstFail : List (Bool × Verdict) → Verdict
  | [] => .ok
  | (b, v) :: rest => if b then v else firstFail rest

/-- The first verdict that is not `ok` (DEDUCED, log 27). -/
def Verdict.both (a b : Verdict) : Verdict := match a with | .ok => b | _ => a

/-- Verdict of a semaphore number (R268). -/
def State.semVerdict (s : State) (n : Nat) : Verdict :=
  if (s.group s.me.gid).nsems ≤ n then .trap .access (BitVec.ofNat 64 (0x200 + n)) else .ok

/-- Verdict of a sync tail's semaphores (R268). -/
def State.tailVerdict (s : State) (t : BitVec 24) : Verdict :=
  (if tailWT t = 0 then Verdict.ok else s.semVerdict (tailWS t)).both
    (if tailInc t = 0 then .ok else s.semVerdict (tailSS t))

/-- A command as it is pushed. -/
def Cmd.new (id : Nat) (q : QueueId) (cid gid : Nat) (pc : Word) (tail : BitVec 24) (op : CmdOp) (pushed hold : Nat) :
    Cmd where
  id := id
  queue := q
  cid := cid
  gid := gid
  pc := pc
  tail := tail
  op := op
  number := 0
  pushed := pushed
  start := none
  due := 0
  occ := 0
  aux := 0
  lead := 0
  ring := []
  probe := none
  struck := ([], [])
  masked := []
  hold := hold
  updating := false
  work := 0
  copyOf := []
  latA := []
  latB := []
  present := []
  flags := 0
  verdict := 0
  metric := 0
  fault := none
  refused := 0
  finals := []
  reached := 0

/-- The scope in which the engine of a queue lies with the contexts that push to it; a drain reads no memory (R252). -/
def QueueId.scope : QueueId → Nat
  | .array _ => 2 | .tile _ => 2 | .copy _ => 2 | .relay _ => 2 | .drover d => if d < 192 then 2 else 3 | .drain _ => 0
  | .step _ => 2 | .coll _ => 4 | .launch u => if u < 48 then 2 else 3

/-- Cycle to which the start of a command pushed now is held back: by a release of its context in progress, and by releases that hold
back stores which its reads are to see (R257, R263 item 1, R266). -/
def State.pushHold (s : State) (q : QueueId) : Nat :=
  let r := s.me.release.getD 0
  let n := if q.scope = 0 then 0 else s.heldFor (s.posted.filter fun x => x.before s s.issue.cid)
  if n = 0 then r else max r (s.myCycle + n)

/-- Push a command of the bundle under issue: a release to the reads of the command (R257, R263 item 1), which holds nothing back
(DEDUCED, log 69).  A release in progress holds back its start (R266). -/
def State.push (s : State) (q : QueueId) (tail : BitVec 24) (op : CmdOp) (number : Nat) : State :=
  let c := s.me
  let hold := s.pushHold q
  let b := s.posted.map fun x => (x.id, x.before s s.issue.cid)
  let s := if q.scope = 0 then s else s.publish q.scope (coreOf s.issue.cid) fun x => b.contains (x.id, true)
  { s with
    nextId := s.nextId + 1
    cmds := s.cmds ++
      [{ Cmd.new s.nextId q s.issue.cid c.gid s.issue.pc tail op (match q with | .coll _ => s.tick | _ => s.myCycle)
          hold with number := number }] }

/-- A change of semaphore `n` of a context's core is noted for those that read it: an assignment hides the changes before it (R257).
-/
def State.noteSem (s : State) (cid : Nat) (set : Bool) (n id : Nat) : State :=
  let gid := (s.ctx cid).gid
  let k := coreOf cid
  let same (y : SemWrite) : Bool := y.gid == gid && y.core == k && y.n == n
  { s with semWrites := (s.semWrites.filter fun y => !(same y && (set || y.cid == cid))) ++ [⟨gid, k, n, cid, id⟩] }

/-- A context changes a semaphore; the change, of identity `id`, is noted for those that read the semaphore (R257). -/
def State.semDo (s : State) (cid id : Nat) (set : Bool) (n : Nat) (x : Int) : State :=
  let gid := (s.ctx cid).gid
  let k := coreOf cid
  (if set then s.semAssign gid k n x else s.semChange gid k n x).noteSem cid set n id

/-- Semaphore changes of a context: held back while a release of the context is being published (R266). -/
def State.semByContext (s : State) (set : Bool) (n : Nat) (x : Int) : State :=
  let cid := s.issue.cid
  match s.me.release with
  | some t => (s.modCtx cid fun c => { c with heldSem := c.heldSem ++ [⟨t, s.nextId, set, n, x⟩] }).fresh
  | none => (s.semDo cid s.nextId set n x).fresh

/-- A context reads a semaphore: it has read the changes that contexts have made to it (R257). -/
def State.semNote (s : State) (cid n : Nat) : State :=
  let c := s.ctx cid
  let ws := (s.semWrites.filter fun y => y.gid == c.gid && y.core == coreOf cid && y.n == n).map fun y => (y.cid, y.core, y.id)
  s.modCtx cid fun c => c.noteReads ws

/-! ## Handling a slot instruction (R50) -/

/-- The field checks of an instruction (R53). -/
def fieldsOk (i : Instr) : Bool := i.wf

/-- The verdict of a slot: its fields first, then the conditions of its description. -/
def slotVerdict (i : Instr) (v : State → Verdict) (s : State) : Verdict :=
  if fieldsOk i then v s else .trap .illop 0

/-- What a failed verdict does to an instruction issued by itself. -/
def State.answer (s : State) (slot : Nat) : Verdict → Res
  | .ok => .next s
  | .block => .next s
  | .stall => .next s
  | .trap c tv => .next (s.issueTrap slot c tv)
  | .fault k a l =>
    if k = 3 then .next (s.parkGroup s.issue.cid l) else .next (s.takeFault s.issue.cid k a l)

/-- Handle a slot instruction with its checks `v` and its effect `f`: record the verdict, act, or both (R50). -/
def slotOp (slot : Nat) (i : Instr) (v : State → Verdict) (f : State → State) (s : State) : Res :=
  match s.issue.phase with
  | .check => .next { s with issue := { s.issue with verdicts := s.issue.verdicts ++ [(slot, slotVerdict i v s)] } }
  | .act => .next (f s)
  | .whole => match slotVerdict i v s with
    | .ok => .next (f s)
    | w => s.answer slot w

/-- No conditions beyond the fields. -/
def noCheck (_ : State) : Verdict := .ok

/-- An event that the machine's own rules enable here. -/
def eventOp (name : String) (enabled : Bool) (s : State) : Res :=
  if enabled then .next s else .refused (.notEnabled name)

end Sys2Proof.Machine
end

