-- ==== Sys2Proof/Machine/Operands.lean ====
section
/-! DEFINITION. Operand forms: the scalar second operand, addresses, vector elements and lanes, and the registers that a
slot reads (R56, R62, R68, R91, R120, R130, R131, R159). -/

namespace Sys2Proof.Machine

open Sys2Proof

/-- The immediate of an S word: 56 bits with an `xim`, else 32, sign-extended (R56, R120). -/
def State.immOf (s : State) (x : SW) : Word :=
  match s.issue.xim with
  | some co => (co ++ x.imm : BitVec 56).signExtend 64
  | none => x.imm.signExtend 64

/-- First operand of an S word. -/
def State.opA (s : State) (x : SW) : Word := s.me.rs x.sa

/-- Second operand of an S word (R120). -/
def State.opB (s : State) (x : SW) : Word := if x.fn.getLsbD 0 then s.immOf x else s.me.rs x.sb

/-- Effective address of an L or T word (R62). -/
def State.ea (s : State) (x : LW) : Word := s.me.ra x.ab + (s.me.rs x.si <<< x.sc.toNat) + x.off.signExtend 64

/-- Address of element `e` of a strided access (R158). -/
def State.eaStride (s : State) (x : LW) (e : Nat) : Word :=
  s.me.ra x.ab + ((BitVec.ofNat 64 e * s.me.rs x.si) <<< x.sc.toNat) + x.off.signExtend 64

/-- Element `e` of width `w` of a vector, in the low bits (R130). -/
def elem (v : VWord) (w e : Nat) : Nat := (v.toNat >>> (w * e)) % 2 ^ w

/-- A vector from its elements of width `w`, element 0 lowest (R130). -/
def ofElems (w : Nat) : List Nat → Nat
  | [] => 0
  | x :: xs => x % 2 ^ w + 2 ^ w * ofElems w xs

/-- A vector from a function of the element number. -/
def buildV (w : Nat) (f : Nat → Nat) : VWord := BitVec.ofNat 1024 (ofElems w ((List.range (1024 / w)).map f))

/-- Mask bit that governs element `e` of width `w` (R59, R130). -/
def govBit (w e : Nat) : Nat := e * w / 32

/-- The mask that MK selects; selector 0 leaves every lane active (R59). -/
def Ctx.mkMask (c : Ctx) (mk : BitVec 3) : Mask := if mk = 0 then BitVec.allOnes 32 else c.mask mk.toNat

/-- The bits of the active elements of width `w` (R131). -/
def laneBits (w : Nat) (m : Mask) (also : Nat → Bool) : VWord :=
  buildV w fun e => if m.getLsbD (govBit w e) && also e then 2 ^ w - 1 else 0

/-- The vb operand of a vector word, or the broadcast port in every element (R68). -/
def State.opVb (s : State) (x : VW) (w : Nat) : VWord :=
  if x.bcb = 1 then buildV w fun _ => s.bcast.toNat % 2 ^ w else s.me.rv x.vb

/-- Slot number of a vector word. -/
def vslot (x : VW) : Nat := if x.slotB then 2 else 1

/-- The six landing masks of a list of element flags: bit `govBit` of mask `i` where an element raised flag `i` (R35, R132). -/
def elemFlags (w : Nat) (fs : List FpFlags) : List Mask :=
  let one (i : Nat) : Mask :=
    (List.range fs.length).foldl
      (fun m e => if (fs[e]?.getD 0).getLsbD i then m ||| ((1 : Mask) <<< govBit w e) else m) 0
  if fs.all fun f => f = 0 then [] else (List.range 6).map one

/-! ## Registers that a bundle reads (R91) -/

/-- A register as R91 counts reads: s, a, v and m registers, the top of the mask stack being selector 1. -/
inductive Reg where
  | s (n : Nat)
  | a (n : Nat)
  | v (n : Nat)
  | m (n : Nat)
  deriving DecidableEq, Repr

/-- Scalar register of a field. -/
def rS (x : BitVec 6) : Reg := .s x.toNat
/-- Address register of a field. -/
def rA (x : BitVec 5) : Reg := .a x.toNat
/-- Vector register of a field. -/
def rV (x : BitVec 10) : Reg := .v x.toNat
/-- Mask of a selector. -/
def rM (x : BitVec 3) : List Reg := if x = 0 then [] else [.m x.toNat]

/-- Reads of the address of an L or T word. -/
def addrReads (x : LW) : List Reg := [rA x.ab, rS x.si]
/-- Reads of a vector word with operands va and vb. -/
def readsAB (x : VW) : List Reg := [rV x.va] ++ (if x.bcb = 1 then [] else [rV x.vb]) ++ rM x.sel
/-- Reads of a vector word with operand va alone. -/
def readsA (x : VW) : List Reg := rV x.va :: rM x.sel
/-- Reads of a vector word with three operands. -/
def readsABC (x : VW) : List Reg := rV x.vc :: (readsAB x)
/-- Reads of an S word in the form with an immediate. -/
def readsB (x : SW) : List Reg := rS x.sa :: (if x.fn.getLsbD 0 then [] else [rS x.sb])
/-- The mask reads of `mand` and `mor`. -/
def readsMask (x : VW) : List Reg := [.m x.va.toNat, if x.fn.getLsbD 0 then rV x.vb else .m x.vb.toNat]

/-- The registers that an instruction names as sources, the broadcast port and ignored fields apart (R53, R91, R287, R307, R396). -/
def regReads : Instr → List Reg
  | .add x | .sub x => [rS x.sa, rS x.sb]
  | .and x | .or x | .xor x | .andn x | .shl x | .shr x | .sra x | .rotl x | .min x | .max x | .scmp x | .mul x
  | .mulh x | .div x | .rem x => (readsB x)
  | .sel x | .fmaD x => [rS x.sa, rS x.sb, rS (x.imm.extractLsb' 0 6)]
  | .lih x | .addi x | .mov x | .clz x | .ctz x | .popc x | .bfx x | .s2a x | .mtc x | .fsqrtD x | .fclassD x
  | .fcvt x => [rS x.sa]
  | .bfi x | .faddD x | .fsubD x | .fmulD x | .fdivD x | .fminD x | .fmaxD x | .fcmpD x => [rS x.sa, rS x.sb]
  | .a2s x => [rA (x.sa.extractLsb' 0 5)]
  | .vadd x | .vsub x | .vand x | .vor x | .vxor x | .vmin x | .vmax x | .vcmp x | .vmul x | .vmulh x | .vfadd x
  | .vfsub x | .vfmin x | .vfmax x | .vfcmp x | .vfmul x | .vfdiv x | .vperm x | .vext x => (readsAB x)
  | .vshl x | .vshr x | .vsra x => if x.fn.getLsbD 0 then (readsA x) else (readsAB x)
  | .vrot x | .v2s x => if x.fn.getLsbD 7 then (readsAB x) else (readsA x)
  | .vsel x | .vmadd x | .vfma x | .vfms x | .vfnma x => (readsABC x)
  | .vabs x | .vneg x | .vclz x | .vpopc x | .vmov x | .vfsqrt x | .vfclass x | .vcvt x | .vmxpack x | .vmxunpack x
  | .vred x | .vscan x => (readsA x)
  | .vidx x => rM x.sel
  | .vsplat x => rS (x.va.extractLsb' 0 6) :: rM x.sel
  | .vhashSrp x => rV x.va :: (List.range 16).map fun j => .v (x.vb.toNat + j)
  | .mpush x =>
    (if x.fn.getLsbD 0 then [.m x.va.toNat] else [rV x.va]) ++ (if x.fn.getLsbD 1 then [] else [.m 1])
  | .minv _ => [.m 1]
  | .mpop _ => []
  | .mand x | .mor x => (readsMask x)
  | .mcnt x => [.m x.va.toNat]
  | .tld x | .tst x | .mma x | .mmaBs x | .mmaNm x | .mzero x | .tsld x | .tsst x => [rA x.ar, rS x.sp]
  | .ld x | .vld x | .ldf x | .vldf x => (addrReads x)
  | .vlds x => (addrReads x)
  | .vldx x => [rA x.ab, .v (x.off.extractLsb' 0 10).toNat]
  | .st x | .stg x => .s x.dr.toNat :: (addrReads x)
  | .vst x | .vsts x | .vstg x => rV x.dr :: (addrReads x)
  | .vstx x => [rV x.dr, rA x.ab, .v (x.off.extractLsb' 0 10).toNat]
  | .amoAdd x | .amoMin x | .amoMax x | .amoAnd x | .amoOr x | .amoXor x | .amoSwap x | .amoCas x | .amoFadd x =>
    .s x.dr.toNat :: (addrReads x)
  | .rlyInit x => [rA x.ca, rS x.cs]
  | .cpLin x | .cpTen x | .cpGat x | .cpSct x | .cpFill x | .scProbe x | .scCommit x | .launch x => [rA x.ca, rS x.cs]
  | .scDrop x | .colRedRoot x | .colRedAll x | .colRedScat x | .colGat x => [rA x.ca]
  | .jmp x => [.a (x.co.extractLsb' 0 5).toNat]
  | .ret _ => [.a 30]
  | .bmNone _ | .bmAny _ => [.m 1]
  | .loopReg x => [.s (x.co.extractLsb' 0 6).toNat]
  | .loopx x => [.a (x.co.extractLsb' 0 5).toNat]
  | _ => []

/-- The Y instruction reads the broadcast port (R68). -/
def readsPort : Instr → Bool
  | .bz _ | .bnz _ | .loopImm _ | .loopReg _ | .loopx _ => true
  | .semAdd x | .semSet x => x.co.getLsbD 8
  | .paceAnn x | .paceAnnE x => x.co.getLsbD 9
  | .sys x => x.bv = 1
  | _ => false

/-- A vector slot takes its vb operand from the broadcast port (R68). -/
def usesBcast : Instr → Bool
  | .vadd x | .vsub x | .vand x | .vor x | .vxor x | .vmin x | .vmax x | .vcmp x | .vmul x | .vmulh x | .vfadd x
  | .vfsub x | .vfmin x | .vfmax x | .vfcmp x | .vfmul x | .vfdiv x | .vperm x | .vext x | .vshl x | .vshr x | .vsra x
  | .vrot x | .v2s x | .vsel x | .vmadd x | .vfma x | .vfms x | .vfnma x => x.bcb = 1
  | _ => false

/-- The destination that a pending result writes, as a register of R91; s0 and a0 count for nothing (R54). -/
def Dest.reg : Dest → Option Reg
  | .s r => if r = 0 then none else some (.s r.toNat)
  | .a r => if r = 0 then none else some (.a r.toNat)
  | .v r => some (.v r.toNat)
  | .m r => some (.m r.toNat)
  | .stack => some (.m 1)
  | .cr _ => none

end Sys2Proof.Machine
end

