-- ==== Sys2Proof/Machine/Scalar.lean ====
section
/-! DEFINITION. Integer and binary64 instructions of the S slot (R120 to R123, R127 to R129), and NOP and HINT (R51, R52). -/

namespace Sys2Proof.Machine

open Sys2Proof

/-- NOP in any slot: no effect of its own (R51). -/
def execNop (slot : BitVec 3) (body : BitVec 56) (s : State) : Res :=
  slotOp slot.toNat (.nop slot body) noCheck (fun s => s) s

/-- HINT in any slot executes as `nop` (R52). -/
def execHint (slot : BitVec 3) (code : BitVec 4) (body : BitVec 56) (s : State) : Res :=
  slotOp slot.toNat (.hint slot code body) noCheck (fun s => s) s

/-- An S-slot instruction whose only effect is a scalar result of latency `lat` (R71, R120). -/
def aluOp (i : Instr) (sd : BitVec 6) (lat : Nat) (val : State → Word) (s : State) : Res :=
  slotOp 0 i noCheck (fun s => s.landS 0 sd (val s) lat) s

/-! ## Values (R121 to R123) -/

/-- Shift or rotation amount: b[5:0] (R121). -/
def shAmt (b : Word) : Nat := (b.extractLsb' 0 6).toNat

/-- Smaller or larger of two words, unsigned when `u` (R121). -/
def pickMin (u : Bool) (a b : Word) : Word := if (if u then a.ult b else a.slt b) then a else b
/-- Larger of two words. -/
def pickMax (u : Bool) (a b : Word) : Word := if (if u then a.ult b else a.slt b) then b else a

/-- Condition `cc` of `scmp` (R121). -/
def scmpHolds (cc : Nat) (a b : Word) : Bool :=
  match cc with
  | 0 => a == b
  | 1 => a != b
  | 2 => a.slt b
  | 3 => a.sle b
  | 4 => b.slt a
  | 5 => b.sle a
  | 6 => a.ult b
  | 7 => a.ule b
  | 8 => b.ult a
  | _ => b.ule a

/-- Number of leading zero bits among the low `n` bits. -/
def leadingZeros : Nat → Nat → Nat
  | 0, _ => 0
  | n + 1, x => if x / 2 ^ n % 2 = 1 then 0 else 1 + leadingZeros n x

/-- Number of trailing zero bits among `n` bits. -/
def trailingZeros : Nat → Nat → Nat
  | 0, _ => 0
  | n + 1, x => if x % 2 = 1 then 0 else 1 + trailingZeros n (x / 2)

/-- Number of bits set among `n` bits. -/
def popCount : Nat → Nat → Nat
  | 0, _ => 0
  | n + 1, x => x % 2 + popCount n (x / 2)

/-- Position and length of a bit field (R122). -/
def fieldPos (imm : BitVec 32) : Nat := (imm.extractLsb' 0 6).toNat
/-- Length of a bit field. -/
def fieldLen (imm : BitVec 32) : Nat := (imm.extractLsb' 6 7).toNat

/-- The field of `bfx`, sign- or zero-extended (R122). -/
def bfxVal (a : Word) (imm : BitVec 32) (sx : Bool) : Word :=
  let f := bitsOf a.toNat (fieldPos imm) (fieldLen imm)
  BitVec.ofInt 64 (intVal (fieldLen imm) sx f)

/-- The value of `bfi` (R122). -/
def bfiVal (a b : Word) (imm : BitVec 32) : Word :=
  let m : Word := BitVec.ofNat 64 (2 ^ fieldLen imm - 1) <<< fieldPos imm
  (a &&& ~~~m) ||| ((b <<< fieldPos imm) &&& m)

/-- High half of a product: SG 0 signed, 1 unsigned, 2 signed by unsigned (R123). -/
def mulhVal (sg : Nat) (a b : Word) : Word :=
  let va : Int := if sg = 1 then a.toNat else a.toInt
  let vb : Int := if sg = 0 then b.toInt else b.toNat
  BitVec.ofInt 64 (va * vb / (2 ^ 64 : Nat))

/-- Quotient (R123). -/
def divVal (u : Bool) (a b : Word) : Word :=
  if b = 0 then BitVec.allOnes 64
  else if u then a / b
  else BitVec.ofInt 64 (a.toInt.tdiv b.toInt)

/-- Remainder (R123). -/
def remVal (u : Bool) (a b : Word) : Word :=
  if b = 0 then a
  else if u then a % b
  else BitVec.ofInt 64 (a.toInt.tmod b.toInt)

/-! ## Integer instructions -/

/-- ADD (R121). -/
def execAdd (x : SW) (s : State) : Res := aluOp (.add x) x.sd 1 (fun s => s.opA x + s.me.rs x.sb) s
/-- SUB (R121). -/
def execSub (x : SW) (s : State) : Res := aluOp (.sub x) x.sd 1 (fun s => s.opA x - s.me.rs x.sb) s
/-- AND (R121). -/
def execAnd (x : SW) (s : State) : Res := aluOp (.and x) x.sd 1 (fun s => s.opA x &&& s.opB x) s
/-- OR (R121). -/
def execOr (x : SW) (s : State) : Res := aluOp (.or x) x.sd 1 (fun s => s.opA x ||| s.opB x) s
/-- XOR (R121). -/
def execXor (x : SW) (s : State) : Res := aluOp (.xor x) x.sd 1 (fun s => s.opA x ^^^ s.opB x) s
/-- ANDN (R121). -/
def execAndn (x : SW) (s : State) : Res := aluOp (.andn x) x.sd 1 (fun s => s.opA x &&& ~~~s.opB x) s
/-- SHL (R121, R122). -/
def execShl (x : SW) (s : State) : Res := aluOp (.shl x) x.sd 1 (fun s => s.opA x <<< shAmt (s.opB x)) s
/-- SHR (R121, R122). -/
def execShr (x : SW) (s : State) : Res := aluOp (.shr x) x.sd 1 (fun s => s.opA x >>> shAmt (s.opB x)) s
/-- SRA (R121, R122). -/
def execSra (x : SW) (s : State) : Res := aluOp (.sra x) x.sd 1 (fun s => (s.opA x).sshiftRight (shAmt (s.opB x))) s
/-- ROTL (R121, R122). -/
def execRotl (x : SW) (s : State) : Res := aluOp (.rotl x) x.sd 1 (fun s => (s.opA x).rotateLeft (shAmt (s.opB x))) s
/-- MIN (R121). -/
def execMin (x : SW) (s : State) : Res :=
  aluOp (.min x) x.sd 1 (fun s => pickMin (x.fn.getLsbD 1) (s.opA x) (s.opB x)) s
/-- MAX (R121). -/
def execMax (x : SW) (s : State) : Res :=
  aluOp (.max x) x.sd 1 (fun s => pickMax (x.fn.getLsbD 1) (s.opA x) (s.opB x)) s
/-- SCMP (R121). -/
def execScmp (x : SW) (s : State) : Res :=
  aluOp (.scmp x) x.sd 1 (fun s => if scmpHolds (x.fn.extractLsb' 1 4).toNat (s.opA x) (s.opB x) then 1 else 0) s
/-- SEL (R121). -/
def execSel (x : SW) (s : State) : Res :=
  aluOp (.sel x) x.sd 1 (fun s => if s.me.rs (x.imm.extractLsb' 0 6) ≠ 0 then s.opA x else s.me.rs x.sb) s
/-- LI (R121). -/
def execLi (x : SW) (s : State) : Res := aluOp (.li x) x.sd 1 (fun s => s.immOf x) s
/-- LIH (R121). -/
def execLih (x : SW) (s : State) : Res :=
  aluOp (.lih x) x.sd 1 (fun s => x.imm ++ (s.opA x).extractLsb' 0 32) s
/-- ADDI (R121). -/
def execAddi (x : SW) (s : State) : Res := aluOp (.addi x) x.sd 1 (fun s => s.opA x + s.immOf x) s
/-- MOV (R121). -/
def execMov (x : SW) (s : State) : Res := aluOp (.mov x) x.sd 1 (fun s => s.opA x) s
/-- CLZ (R121). -/
def execClz (x : SW) (s : State) : Res :=
  aluOp (.clz x) x.sd 1 (fun s => BitVec.ofNat 64 (leadingZeros 64 (s.opA x).toNat)) s
/-- CTZ (R121). -/
def execCtz (x : SW) (s : State) : Res :=
  aluOp (.ctz x) x.sd 1 (fun s => BitVec.ofNat 64 (trailingZeros 64 (s.opA x).toNat)) s
/-- POPC (R121). -/
def execPopc (x : SW) (s : State) : Res :=
  aluOp (.popc x) x.sd 1 (fun s => BitVec.ofNat 64 (popCount 64 (s.opA x).toNat)) s
/-- BFX (R122). -/
def execBfx (x : SW) (s : State) : Res :=
  aluOp (.bfx x) x.sd 1 (fun s => bfxVal (s.opA x) x.imm (x.fn.getLsbD 0)) s
/-- BFI (R122). -/
def execBfi (x : SW) (s : State) : Res :=
  aluOp (.bfi x) x.sd 1 (fun s => bfiVal (s.opA x) (s.me.rs x.sb) x.imm) s
/-- S2A: an address register takes a scalar value (R121). -/
def execS2a (x : SW) (s : State) : Res :=
  slotOp 0 (.s2a x) noCheck (fun s => s.landA 0 (x.sd.extractLsb' 0 5) (s.opA x) 1) s
/-- A2S (R121). -/
def execA2s (x : SW) (s : State) : Res := aluOp (.a2s x) x.sd 1 (fun s => s.me.ra (x.sa.extractLsb' 0 5)) s
/-- MUL (R121). -/
def execMul (x : SW) (s : State) : Res := aluOp (.mul x) x.sd 3 (fun s => s.opA x * s.opB x) s
/-- MULH (R123). -/
def execMulh (x : SW) (s : State) : Res :=
  aluOp (.mulh x) x.sd 4 (fun s => mulhVal (x.fn.extractLsb' 1 2).toNat (s.opA x) (s.opB x)) s
/-- DIV (R123). -/
def execDiv (x : SW) (s : State) : Res :=
  aluOp (.div x) x.sd 22 (fun s => divVal (x.fn.getLsbD 1) (s.opA x) (s.opB x)) s
/-- REM (R123). -/
def execRem (x : SW) (s : State) : Res :=
  aluOp (.rem x) x.sd 22 (fun s => remVal (x.fn.getLsbD 1) (s.opA x) (s.opB x)) s

/-! ## Binary64 (R127 to R129) -/

/-- FPCTL.RM of the context (R29). -/
def State.rm (s : State) : BitVec 2 := s.me.regs.fpctl.extractLsb' 0 2

/-- An S-slot instruction with a floating-point result and flags that land with it (R127). -/
def fpuOp (i : Instr) (sd : BitVec 6) (lat : Nat) (val : State → Nat × FpFlags) (s : State) : Res :=
  slotOp 0 i noCheck (fun s => let r := val s; s.landFp 0 sd (BitVec.ofNat 64 r.1) lat r.2) s

/-- A binary64 operand. -/
def State.f64 (s : State) (r : BitVec 6) : Fp := Fp.ofBits fmt64 (s.me.rs r).toNat

/-- FADD_D (R128). -/
def execFaddD (x : SW) (s : State) : Res := fpuOp (.faddD x) x.sd 4 (fun s => fpAdd fmt64 s.rm (s.f64 x.sa) (s.f64 x.sb)) s
/-- FSUB_D (R128). -/
def execFsubD (x : SW) (s : State) : Res := fpuOp (.fsubD x) x.sd 4 (fun s => fpSub fmt64 s.rm (s.f64 x.sa) (s.f64 x.sb)) s
/-- FMUL_D (R128). -/
def execFmulD (x : SW) (s : State) : Res := fpuOp (.fmulD x) x.sd 4 (fun s => fpMul fmt64 s.rm (s.f64 x.sa) (s.f64 x.sb)) s
/-- FMA_D (R128). -/
def execFmaD (x : SW) (s : State) : Res :=
  fpuOp (.fmaD x) x.sd 4
    (fun s => fpFma fmt64 s.rm false false (s.f64 x.sa) (s.f64 x.sb) (s.f64 (x.imm.extractLsb' 0 6))) s
/-- FDIV_D (R128). -/
def execFdivD (x : SW) (s : State) : Res := fpuOp (.fdivD x) x.sd 24 (fun s => fpDiv fmt64 s.rm (s.f64 x.sa) (s.f64 x.sb)) s
/-- FSQRT_D (R128). -/
def execFsqrtD (x : SW) (s : State) : Res := fpuOp (.fsqrtD x) x.sd 30 (fun s => fpSqrt fmt64 s.rm (s.f64 x.sa)) s
/-- FMIN_D (R34, R128). -/
def execFminD (x : SW) (s : State) : Res :=
  fpuOp (.fminD x) x.sd 2 (fun s => fpMinMax fmt64 false (s.me.rs x.sa).toNat (s.me.rs x.sb).toNat) s
/-- FMAX_D (R34, R128). -/
def execFmaxD (x : SW) (s : State) : Res :=
  fpuOp (.fmaxD x) x.sd 2 (fun s => fpMinMax fmt64 true (s.me.rs x.sa).toNat (s.me.rs x.sb).toNat) s
/-- FCMP_D (R128). -/
def execFcmpD (x : SW) (s : State) : Res :=
  fpuOp (.fcmpD x) x.sd 2 (fun s =>
    let r := fpCmp (x.fn.extractLsb' 0 3) (s.f64 x.sa) (s.f64 x.sb)
    (if r.1 then 1 else 0, r.2)) s
/-- FCLASS_D (R27). -/
def execFclassD (x : SW) (s : State) : Res :=
  fpuOp (.fclassD x) x.sd 2 (fun s => (fpClass fmt64 (s.me.rs x.sa).toNat, 0)) s

/-- Type of R58 that a type code of `fcvt` names (R129). -/
def fcvtType (k : BitVec 3) : BitVec 4 :=
  match k.toNat with
  | 0 => 8 | 1 => 9 | 2 => 10 | 3 => 11 | 4 => 2 | 5 => 6 | 6 => 3 | _ => 7

/-- How a scalar register holds a value of a type (R119). -/
def scalarOf (ty : BitVec 4) (x : Nat) : Nat := if ty = 2#4 then intCode 64 (intVal 32 true x) else x

/-- FCVT (R129). -/
def execFcvt (x : SW) (s : State) : Res :=
  fpuOp (.fcvt x) x.sd 3 (fun s =>
    let f := fcvtType (x.fn.extractLsb' 0 3)
    let t := fcvtType (x.fn.extractLsb' 3 3)
    let r := convElem s.rm f t (bitsOf (s.me.rs x.sa).toNat 0 (elemWidth f))
    (scalarOf t r.1, r.2)) s

end Sys2Proof.Machine
end

