-- ==== Sys2Proof/Machine/Scratch.lean ====
section
/-! DEFINITION. Scratchpad loads and stores of the L and T slots, and the relay instructions of these slots (R155 to R159,
R163, R164). -/

namespace Sys2Proof.Machine

open Sys2Proof

/-- The gate of the open region would need a 65th entry (R247). -/
def State.gateVerdict (s : State) : Verdict :=
  match s.me.region with
  | some r => if 64 ≤ r.entries then .trap .markov 0 else .ok
  | none => .ok

/-- Put an entry in the gate of the open region; without a region it acts at once (R246). -/
def State.gateOrDo (s : State) (g : GateOp) : State :=
  match s.me.region with
  | some r => s.modMe fun c => { c with region := some { r with gate := r.gate ++ [g] } }
  | none => s.commitOp s.issue.cid g

/-- Group whose scratchpad the issuing context reaches (DESIGN CHOICE, log 5). -/
def State.myGroup (s : State) : Group := s.group s.me.gid

/-- ALIGN, then SPBOUND, for one access of `n` bytes with alignment `al` (R158). -/
def State.padVerdict (s : State) (side : Bool) (a : Word) (n al : Nat) : Verdict :=
  if a.toNat % al ≠ 0 then .trap .align a
  else if s.myGroup.limit side < a.toNat + n then .trap .spbound a
  else .ok

/-- The first failing element of a vector access by elements (R158, R159). -/
def State.padsVerdict (s : State) (n : Nat) : List Word → Verdict
  | [] => .ok
  | a :: rest => (s.padVerdict false a n n).both (State.padsVerdict s n rest)

/-- Access width of FN[1:0] in bytes (R157). -/
def accBytes (fn : BitVec 8) : Nat := 2 ^ (fn.extractLsb' 0 2).toNat

/-- Elements of a vector access (R158). -/
def accElems (n : Nat) : List Nat := List.range (128 / n)

/-- Addresses of `vlds` and `vsts` (R158). -/
def State.strideAddrs (s : State) (x : LW) : List Word := (accElems (accBytes x.fn)).map (s.eaStride x)

/-- Addresses of `vldx` and `vstx` (R159). -/
def State.indexAddrs (s : State) (x : LW) : List Word :=
  let n := accBytes x.fn
  let vi := s.me.rv (x.off.extractLsb' 0 10)
  let offx := (x.off.extractLsb' 10 14).signExtend 64
  (accElems n).map fun e =>
    s.me.ra x.ab + (BitVec.ofNat 64 (elem vi (8 * n) e) <<< x.sc.toNat) + offx

/-- A vector from bytes, lowest first. -/
def vOfBytes (bs : List Byte) : VWord := BitVec.ofNat 1024 (leNat bs)

/-- Bytes of a vector. -/
def vBytes (v : VWord) : List Byte := natLe 128 v.toNat

/-- Mark the newest result as poisoned: its landing traps with ECCU (R372). -/
def State.poisonLast (s : State) (b : Bool) (a : Word) : State :=
  if b then
    s.modMe fun c =>
      { c with
        pend := c.pend.dropLast ++
          (c.pend.getLast?.map fun r => { r with poisoned := true, value := a.setWidth 1024 }).toList }
  else s

/-- Start the result of a vector load. -/
def State.landLoad (s : State) (x : LW) (bs : List Byte) (lat : Nat) : State :=
  s.landV 4 x.dr (vOfBytes bs) (BitVec.allOnes 1024) lat []

/-- SIDE of `ld` and `st` (R157). -/
def LWside (x : LW) : Bool := x.fn.getLsbD 3

/-- LD (R158). -/
def execLd (x : LW) (s : State) : Res :=
  let n := accBytes x.fn
  slotOp 4 (.ld x) (fun s => s.padVerdict (LWside x) (s.ea x) n n)
    (fun s =>
      let a := (s.ea x).toNat
      let y := leNat (s.padRead s.issue.cid (LWside x) a n)
      let bad := s.padPoisoned s.me.gid (LWside x) a n && x.dr ≠ 0
      (s.landS 4 (x.dr.extractLsb' 0 6) (BitVec.ofInt 64 (intVal (8 * n) (x.fn.getLsbD 2) y)) 6).poisonLast bad (s.ea x)) s

/-- VLD (R158). -/
def execVld (x : LW) (s : State) : Res :=
  slotOp 4 (.vld x) (fun s => s.padVerdict false (s.ea x) 128 4)
    (fun s =>
      let a := (s.ea x).toNat
      (s.landLoad x (s.padRead s.issue.cid false a 128) 8).poisonLast (s.padPoisoned s.me.gid false a 128) (s.ea x)) s

/-- A load by elements (R158, R159). -/
def loadElems (x : LW) (addrs : List Word) (s : State) : State :=
  let n := accBytes x.fn
  let bs := (addrs.map fun a => s.padRead s.issue.cid false a.toNat n).flatten
  let bad := addrs.find? fun a => s.padPoisoned s.me.gid false a.toNat n
  (s.landLoad x bs 12).poisonLast bad.isSome (bad.getD 0)

/-- VLDS (R158). -/
def execVlds (x : LW) (s : State) : Res :=
  slotOp 4 (.vlds x) (fun s => s.padsVerdict (accBytes x.fn) (s.strideAddrs x)) (fun s => loadElems x (s.strideAddrs x) s) s

/-- VLDX (R159). -/
def execVldx (x : LW) (s : State) : Res :=
  slotOp 4 (.vldx x) (fun s => s.padsVerdict (accBytes x.fn) (s.indexAddrs x)) (fun s => loadElems x (s.indexAddrs x) s) s

/-- ST (R158). -/
def execSt (x : LW) (s : State) : Res :=
  let n := accBytes x.fn
  slotOp 5 (.st x) (fun s => (s.padVerdict (LWside x) (s.ea x) n n).both s.gateVerdict)
    (fun s =>
      s.gateOrDo (.scratch (LWside x) [((s.ea x).toNat, natLe n (s.me.rs (x.dr.extractLsb' 0 6)).toNat)])) s

/-- VST (R158). -/
def execVst (x : LW) (s : State) : Res :=
  slotOp 5 (.vst x) (fun s => (s.padVerdict false (s.ea x) 128 4).both s.gateVerdict)
    (fun s => s.gateOrDo (.scratch false [((s.ea x).toNat, vBytes (s.me.rv x.dr))])) s

/-- A store by elements, in ascending order (R158, R159). -/
def storeElems (x : LW) (addrs : List Word) (s : State) : State :=
  let n := accBytes x.fn
  let v := s.me.rv x.dr
  s.gateOrDo (.scratch false
    ((accElems n).map fun e => (((addrs[e]?).getD 0).toNat, natLe n (elem v (8 * n) e))))

/-- VSTS (R158). -/
def execVsts (x : LW) (s : State) : Res :=
  slotOp 5 (.vsts x) (fun s => (s.padsVerdict (accBytes x.fn) (s.strideAddrs x)).both s.gateVerdict)
    (fun s => storeElems x (s.strideAddrs x) s) s

/-- VSTX (R159). -/
def execVstx (x : LW) (s : State) : Res :=
  slotOp 5 (.vstx x) (fun s => (s.padsVerdict (accBytes x.fn) (s.indexAddrs x)).both s.gateVerdict)
    (fun s => storeElems x (s.indexAddrs x) s) s

/-! ## Relay buffers (R160, R163, R164) -/

/-- A fresh relay buffer of a group, not initialised. -/
def Relay.fresh (phys gen : Nat) : Relay := ⟨phys, gen, 0, 0, 0, false, false, 0, 0, 0, [], none⟩

/-- Relay buffer `n` of the issuing group. -/
def State.relay (s : State) (n : Nat) : Relay := (s.myGroup.relays[n]?).getD (.fresh 0 0)

/-- The buffer is declared and initialised; TVAL holds its number in both cases (R160, R163; for a declared buffer DESIGN CHOICE, log
91). -/
def State.relayVerdict (s : State) (n : Nat) : Verdict :=
  if s.myGroup.nrelays ≤ n || !(s.relay n).ready then .trap .access (BitVec.ofNat 64 n) else .ok

/-- The next FILLED slot in ring order from the take index: after a rollback, slots that other contexts hold may stand before it
(R161, R163, R166). -/
def Relay.nextFilled (r : Relay) : Option (Nat × Nat) :=
  (List.range r.count).findSome? fun i =>
    match r.slots[(r.take + i) % r.count]? with | some (.filled c) => some ((r.take + i) % r.count, c) | _ => none

/-- The slot that may be taken in this cycle: its last write has committed in an earlier one (R163). -/
def Relay.takeable (r : Relay) (cycle : Nat) : Option Nat :=
  if r.running then none else match r.nextFilled with | some (k, c) => if c < cycle then some k else none | none => none

/-- A slot may be taken in this cycle (R163). -/
def Relay.canTake (r : Relay) (cycle : Nat) : Bool := (r.takeable cycle).isSome

/-- RLY_TAKE (R163). -/
def execRlyTake (x : LW) (s : State) : Res :=
  let n := (x.fn.extractLsb' 0 4).toNat
  let try_ := x.fn.getLsbD 4
  slotOp 4 (.rlyTake x)
    (fun s => (s.relayVerdict n).both
      (if (s.relay n).canTake s.myCycle || try_ then .ok else .block))
    (fun s =>
      let r := s.relay n
      let d := x.dr.extractLsb' 0 5
      match r.takeable s.myCycle with
      | some k =>
        let s := s.landA 4 d (BitVec.ofNat 64 (r.base + k * r.slot)) 2
        let s := s.modRelay s.me.gid n fun r =>
          { r with slots := r.slots.set k (.taken s.issue.cid s.nextId false), take := (k + 1) % r.count }
        let id := s.nextId
        let s := { s with nextId := s.nextId + 1 }
        s.modMe fun c => { c with region := c.region.map fun g => { g with takes := g.takes ++ [(n, k, id)] } }
      | none => s.landA 4 d (BitVec.allOnes 64) 2) s

/-- Slots of a buffer that a context holds and has not given. -/
def Relay.heldBy (r : Relay) (cid : Nat) : Nat :=
  (r.slots.filter fun x => match x with | .taken c _ false => c == cid | _ => false).length

/-- Gives of a buffer that wait in the context's gate. -/
def Ctx.gatedGives (c : Ctx) (n : Nat) : Nat :=
  (c.gate.filter fun g => match g with | .give k => k == n | _ => false).length

/-- RLY_GIVE: with no held slot it traps, TVAL the number of the buffer (R164; DESIGN CHOICE, log 91). -/
def execRlyGive (x : LW) (s : State) : Res :=
  let n := (x.fn.extractLsb' 0 4).toNat
  slotOp 5 (.rlyGive x)
    (fun s => ((s.relayVerdict n).both
      (if (s.relay n).heldBy s.issue.cid ≤ s.me.gatedGives n then .trap .access (BitVec.ofNat 64 n) else .ok)).both
        s.gateVerdict)
    (fun s => s.gateOrDo (.give n)) s

end Sys2Proof.Machine
end

