-- ==== Sys2Proof/Machine/Global.lean ====
section
/-! DEFINITION. Global memory: far loads and their queue, global stores, atomics and fences (R226, R237 to R244, R257,
R264 to R266). -/

namespace Sys2Proof.Machine

open Sys2Proof

/-- Bits [63:57] of a virtual address are zero (R226). -/
def vaOk (a : Word) : Bool := a.extractLsb' 57 7 = 0

/-- ALIGN, then ACCESS by R226. -/
def vaVerdict (a : Word) (al : Nat) : Verdict :=
  if a.toNat % al ≠ 0 then .trap .align a else if vaOk a then .ok else .trap .access a

/-- The far-load queue holds 64 entries, held ones and those that earlier slots of the bundle push counted (R237). -/
def State.fqVerdict (s : State) (slot : Nat) : Verdict :=
  if 64 ≤ s.me.far.length + (s.issue.pushers.filter fun k => decide (k < slot)).length then .trap .access 4 else .ok

/-- Longest path of the parts of access `n` of a context. -/
def State.longestPath (s : State) (cid n : Nat) (ps : List (PAddr × Nat)) : Nat :=
  (ps.map fun p : PAddr × Nat => s.pathTo cid n p.1).foldl max 0

/-- The request of a far load leaves in a cycle and a tick with the count of its path: its read is performed halfway (R238, R377). -/
def FarEntry.sent (e : FarEntry) (t tick count : Nat) : FarEntry :=
  { e with data := .waiting, due := t + count / 2, arrive := t + count, left := tick }

/-- Send the request of a far load at cycle `t`: it is translated, at once or by a walk (R238, R433). -/
def State.sendFar (s : State) (cid t : Nat) (e : FarEntry) : FarEntry :=
  let c := s.ctx cid
  let w := s.walkTime cid e.id c.asid e.ea.toNat e.size
  match s.translate (s.portOf cid) c.asid e.ea.toNat e.size .read c.priv with
  | .ok ps => if w = 0 then e.sent t s.tick (s.longestPath cid e.id ps) else { e with data := .walking, due := t + w }
  | _ => { e with data := .walking, due := t + w }

/-- What the gate of a context holds of the bytes of a range of virtual addresses, page by page: it holds nothing of a page that is not
present (R240, R246). -/
def State.ownBytes (s : State) (cid : Nat) (ea : Word) (n : Nat) : List (Option Byte) :=
  let c := s.ctx cid
  let room := min n (65536 - ea.toNat % 65536)
  let page (va n : Nat) : List (Option Byte) :=
    if n = 0 then []
    else match s.translate (s.portOf cid) c.asid va n .read c.priv with
      | .ok ps => ps.flatMap fun p => (List.range p.2).map fun i => gateByte p.1.mt (p.1.addr + i) c.gate none
      | _ => List.replicate n none
  page ea.toNat room ++ page (ea.toNat + room) (n - room)

/-- The slot that pushes an entry of a kind (R61, R63). -/
def FarKind.slot : FarKind → Nat
  | .load => 4
  | .vector => 4
  | .atomic => 5
  | .verdict => 6

/-- An entry joins the queue: those that one bundle pushes stand in the order of its slots (R237; DESIGN CHOICE, log 92). -/
def State.putFar (s : State) (e : FarEntry) : State :=
  s.modMe fun c =>
    let before (x : FarEntry) : Bool := decide (x.id < s.issue.first) || decide (x.kind.slot ≤ e.kind.slot)
    { c with far := c.far.takeWhile before ++ e :: c.far.dropWhile before }

/-- Push a far-load entry; translation, the read and its arrival follow (R237, R238). -/
def State.pushFar (s : State) (kind : FarKind) (ea : Word) (n : Nat) (signed : Bool) : State :=
  let cid := s.issue.cid
  let e : FarEntry :=
    { id := s.nextId, kind := kind, ea := ea, size := n, signed := signed, data := .walking, held := false, order := s.me.order, due := 0,
      value := none, pc := s.issue.pc, arrive := 0, left := s.tick, own := s.ownBytes cid ea n, src := [] }
  let e := s.sendFar cid (max s.myCycle s.me.acquireAt) e
  (({ s with nextId := s.nextId + 1 } : State).putFar e).noteRead cid

/-- LDF (R238). -/
def execLdf (x : LW) (s : State) : Res :=
  let n := accBytes x.fn
  slotOp 4 (.ldf x) (fun s => (vaVerdict (s.ea x) n).both (s.fqVerdict 4))
    (fun s => s.pushFar .load (s.ea x) n (x.fn.getLsbD 2)) s

/-- VLDF (R238). -/
def execVldf (x : LW) (s : State) : Res :=
  slotOp 4 (.vldf x) (fun s => (vaVerdict (s.ea x) 4).both (s.fqVerdict 4))
    (fun s => s.pushFar .vector (s.ea x) 128 false) s

/-- The oldest entry that is not held (R239). -/
def Ctx.oldestFar (c : Ctx) : Option FarEntry := c.far.find? fun e => !e.held

/-- The cycle in which a walk ends FAULTED has passed, as the example behind R251 has it: the pop takes the fault in the next one. -/
def FarEntry.faulted (e : FarEntry) (cycle : Nat) : Bool := decide (e.due ≤ cycle)

/-- Verdict of a pop (R239, R248). -/
def State.popVerdict (s : State) (vec : Bool) : Verdict :=
  match s.me.oldestFar with
  | none => .trap .access 5
  | some e =>
    if (e.kind == .vector) != vec then .trap .access 6
    else match e.data with
      | .walking => .block
      | .waiting => .block
      | .coming _ _ => .block
      | .access => if e.faulted s.myCycle then .trap .access e.ea else .block
      | .notPresent seq => if e.faulted s.myCycle then .fault 3 e.ea seq else .block
      | .poisoned => .trap .eccu e.ea
      | .arrived _ => .ok

/-- Data of the oldest entry. -/
def Ctx.popData (c : Ctx) : VWord :=
  match c.oldestFar with
  | some e => match e.data with | .arrived v => v | _ => 0
  | none => 0

/-- Remove the oldest entry, or hold it while a region is open (R237, R239). -/
def Ctx.popFar (c : Ctx) : Ctx :=
  match c.oldestFar with
  | none => c
  | some e =>
    if c.region.isSome then { c with far := c.far.map fun x => if x.id = e.id then { x with held := true } else x }
    else { c with far := c.far.filter fun x => x.id != e.id }

/-- The context has read the writes that its oldest entry returned (R257). -/
def State.noteSources (s : State) : State :=
  match s.me.oldestFar with
  | some e => s.modMe fun c => c.noteReads e.src
  | none => s

/-- POPF (R239). -/
def execPopf (x : LW) (s : State) : Res :=
  slotOp 4 (.popf x) (fun s => s.popVerdict false)
    (fun s =>
      let v := s.me.popData
      ((s.noteSources).modMe Ctx.popFar).landS 4 (x.dr.extractLsb' 0 6) (v.setWidth 64) 1) s

/-- VPOPF (R239). -/
def execVpopf (x : LW) (s : State) : Res :=
  slotOp 4 (.vpopf x) (fun s => s.popVerdict true)
    (fun s =>
      let v := s.me.popData
      ((s.noteSources).modMe Ctx.popFar).landV 4 x.dr v (BitVec.allOnes 1024) 1 []) s

/-! ## Stores (R240) -/

/-- The translation of the bundle's store or atomic has been found (R240, R433). -/
def State.walked (s : State) (ea : Word) : Bool :=
  match s.me.walk with | some (a, t) => !(a == ea && decide (s.myCycle < t)) | none => true

/-- Verdict of the translation of a store or an atomic: the bundle is blocked while it is outstanding (R84, R240, R248, R433). -/
def State.storeVerdict (s : State) (kind : Nat) (ea : Word) (n : Nat) : Verdict :=
  if !s.walked ea then .block
  else match s.translate (s.portOf s.issue.cid) s.me.asid ea.toNat n .write s.me.priv with
    | .ok _ => .ok
    | .absent va l => .fault kind (BitVec.ofNat 64 va) l
    | .access => .trap .access ea

/-- Cut a piece into elements of `n` bytes (R253). -/
def splitPiece (n : Nat) (p : Piece) : List Piece :=
  (List.range ((p.data.length + n - 1) / n)).map fun i =>
    ⟨⟨p.at_.mt, p.at_.addr + n * i⟩, (p.data.drop (n * i)).take n⟩

/-- The elements of a store after translation. -/
def State.piecesFor (s : State) (ea : Word) (data : List Byte) (el : Nat) : List Piece :=
  match s.translate (s.portOf s.issue.cid) s.me.asid ea.toNat data.length .write s.me.priv with
  | .ok ps => ((cutParts ps data).map (splitPiece el)).flatten
  | _ => []

/-- STG (R240). -/
def execStg (x : LW) (s : State) : Res :=
  let n := accBytes x.fn
  slotOp 5 (.stg x)
    (fun s => ((vaVerdict (s.ea x) n).both (s.storeVerdict 1 (s.ea x) n)).both s.gateVerdict)
    (fun s => s.gateOrDo (.global (s.ea x)
      (s.piecesFor (s.ea x) (natLe n (s.me.rs (x.dr.extractLsb' 0 6)).toNat) n))) s

/-- VSTG (R240): each 32-bit lane is one element. -/
def execVstg (x : LW) (s : State) : Res :=
  slotOp 5 (.vstg x)
    (fun s => ((vaVerdict (s.ea x) 4).both (s.storeVerdict 1 (s.ea x) 128)).both s.gateVerdict)
    (fun s => s.gateOrDo (.global (s.ea x) (s.piecesFor (s.ea x) (vBytes (s.me.rv x.dr)) 4))) s

/-! ## Atomics (R241, R242, R244) -/

/-- Effective address of an atomic; `amo.cas` has no index term (R241). -/
def State.amoEa (s : State) (op : Nat) (x : LW) : Word :=
  if op = 7 then s.me.ra x.ab + x.off.signExtend 64 else s.ea x

/-- A host page takes FetchAdd, Swap and CAS of 8 bytes while the requester enable of the issuing die's port is set, as at
issue (R244, R409; PRESUMED, log 6). -/
def State.hostAmoOk (s : State) (op n : Nat) : Bool :=
  (op = 0 || op = 6 || op = 7) && n = 8 && (s.pk.atomicEn[dieOf s.issue.cid]?).getD false

/-- Verdict of an atomic (R237, R241, R244). -/
def State.amoVerdict (s : State) (op : Nat) (x : LW) : Verdict :=
  let n := accBytes x.fn
  let ea := s.amoEa op x
  (((vaVerdict ea n).both (if x.fn.getLsbD 2 then s.fqVerdict 5 else .ok)).both (s.storeVerdict 2 ea n)).both
    (match s.translate (s.portOf s.issue.cid) s.me.asid ea.toNat n .write s.me.priv with
     | .ok ps => if (ps.any fun p => decide (2 ≤ p.1.mt)) && !s.hostAmoOk op n then .trap .access ea else .ok
     | _ => .ok)

/-- Send an atomic towards its home point, with a far-load entry for a fetching form (R242). -/
def State.sendAmo (s : State) (op : Nat) (x : LW) : State :=
  let n := accBytes x.fn
  let ea := s.amoEa op x
  let cid := s.issue.cid
  let fetch := x.fn.getLsbD 2
  match s.translate (s.portOf s.issue.cid) s.me.asid ea.toNat n .write s.me.priv with
  | .ok ((p, _) :: _) =>
    let wait := s.me.release.getD 0
    let start := max s.myCycle wait
    let id := s.nextId
    let c := s.homePath cid id (cacheHit id 1) p
    let signed := x.fn.getLsbD 6
    let s := { s with
      nextId := id + 2
      atomics := s.atomics ++
        [⟨id, cid, op, p, n, signed, s.me.rs (x.dr.extractLsb' 0 6), s.me.rs x.si,
          if fetch then some (id + 1) else none, start + c / 2, s.tick, wait⟩] }
    if fetch then
      (s.putFar { id := id + 1, kind := .atomic, ea := ea, size := n, signed := signed && n == 4, data := .waiting, held := false,
                  order := s.me.order, due := start + c, value := none, pc := s.issue.pc, arrive := start + c, left := s.tick, own := [],
                  src := [] }).noteRead cid
    else s
  | _ => s

/-- An atomic of operation `op`, numbered from `amo.add` (R242). -/
def amoOp (op : Nat) (i : Instr) (x : LW) (s : State) : Res :=
  slotOp 5 i (fun s => s.amoVerdict op x) (fun s => s.sendAmo op x) s

/-- AMO_ADD (R242). -/
def execAmoAdd (x : LW) (s : State) : Res := amoOp 0 (.amoAdd x) x s
/-- AMO_MIN (R242). -/
def execAmoMin (x : LW) (s : State) : Res := amoOp 1 (.amoMin x) x s
/-- AMO_MAX (R242). -/
def execAmoMax (x : LW) (s : State) : Res := amoOp 2 (.amoMax x) x s
/-- AMO_AND (R242). -/
def execAmoAnd (x : LW) (s : State) : Res := amoOp 3 (.amoAnd x) x s
/-- AMO_OR (R242). -/
def execAmoOr (x : LW) (s : State) : Res := amoOp 4 (.amoOr x) x s
/-- AMO_XOR (R242). -/
def execAmoXor (x : LW) (s : State) : Res := amoOp 5 (.amoXor x) x s
/-- AMO_SWAP (R242). -/
def execAmoSwap (x : LW) (s : State) : Res := amoOp 6 (.amoSwap x) x s
/-- AMO_CAS (R242). -/
def execAmoCas (x : LW) (s : State) : Res := amoOp 7 (.amoCas x) x s
/-- AMO_FADD (R242). -/
def execAmoFadd (x : LW) (s : State) : Res := amoOp 8 (.amoFadd x) x s

/-- New value at home (R242), on `w`-bit values. -/
def amoNew (op w : Nat) (signed : Bool) (x b cmp : Nat) : Nat :=
  match op with
  | 0 => (x + b) % 2 ^ w
  | 1 => if intVal w signed x ≤ intVal w signed b then x else b
  | 2 => if intVal w signed x ≤ intVal w signed b then b else x
  | 3 => x &&& b
  | 4 => x ||| b
  | 5 => x ^^^ b
  | 6 => b
  | 7 => if x = cmp then b else x
  | _ =>
    let f := if w = 32 then fmt32 else fmt64
    (fpAdd f 0 (Fp.ofBits f x) (Fp.ofBits f b)).1

/-! ## Fences (R265, R266) -/

/-- SCOPE of a fence (R265). -/
def fenceScope (x : LW) : Nat := (x.fn.extractLsb' 2 3).toNat

/-- A release holds back the start of the commands that its own bundle, whose effects are numbered from `first` on, pushes (R266). -/
def State.holdOwn (s : State) (cid first done : Nat) : State :=
  { s with cmds := s.cmds.map fun c =>
      if c.cid = cid && decide (first ≤ c.id) && c.start.isNone then { c with hold := max c.hold done } else c }

/-- A fence that waits in the gate keeps what happens-before it, under its identity (R256, R257). -/
def State.gateMark (s : State) (cid : Nat) : State :=
  { s with
    nextId := s.nextId + 1
    posted := s.posted.map fun p => if p.before s cid then { p with rel := p.rel ++ [.gated s.nextId] } else p }

/-- The release half of a fence: at issue, or at the commit of the open region, of what happens-before the fence; it holds back the
commands of its own bundle too (R257, R265, R266). -/
def State.fenceRelease (s : State) (x : LW) : State :=
  let cid := s.issue.cid
  match s.me.region with
  | some r =>
    (s.gateMark cid).modMe fun c =>
      { c with region := some { r with gate := r.gate ++ [.release (fenceScope x) s.nextId] } }
  | none =>
    let (done, s') := s.releaseAt cid (fenceScope x)
    s'.holdOwn cid s.issue.first done

/-- The acquire half of a fence at its scope (R257, R265, R266): it completes in 2 cycles. -/
def State.fenceAcquire (s : State) (x : LW) : State :=
  let cid := s.issue.cid
  (s.acquireFence cid (fenceScope x)).modMe fun c => { c with acquireAt := s.cycleOf cid + 2, semReads := [] }

/-- FENCE_ACQ (R265). -/
def execFenceAcq (x : LW) (s : State) : Res := slotOp 5 (.fenceAcq x) noCheck (fun s => s.fenceAcquire x) s
/-- FENCE_REL (R265). -/
def execFenceRel (x : LW) (s : State) : Res := slotOp 5 (.fenceRel x) noCheck (fun s => s.fenceRelease x) s
/-- FENCE_AR (R265). -/
def execFenceAr (x : LW) (s : State) : Res :=
  slotOp 5 (.fenceAr x) noCheck (fun s => (s.fenceRelease x).fenceAcquire x) s

end Sys2Proof.Machine
end

