-- ==== Sys2Proof/Machine/Sync.lean ====
section
/-! DEFINITION. Semaphore and phaser instructions of the Y slot, and `dupcmp` (R118, R268 to R280). -/

namespace Sys2Proof.Machine

open Sys2Proof

/-! ## Semaphores (R268 to R272) -/

/-- Threshold and semaphore of the common wait fields (R66). -/
def YWthr (x : YW) : Nat := x.ywt.toNat

/-- The wait of a Y word holds (R271). -/
def State.waitHolds (s : State) (x : YW) : Bool :=
  decide (YWthr x ≤ s.semVal s.me.gid (coreOf s.issue.cid) x.yws.toNat)

/-- Verdict of a wait on a semaphore: its number, then whether it holds (R268, R271). -/
def State.waitVerdict (s : State) (x : YW) : Verdict :=
  if YWthr x = 0 then .ok
  else (s.semVerdict x.yws.toNat).both (if s.waitHolds x then .ok else .stall)

/-- Subtract the threshold of a wait that holds (R269), which reads the changes made to its semaphore and observes its signals (R257,
R283). -/
def State.waitTake (s : State) (x : YW) : State :=
  let n := x.yws.toNat
  if YWthr x = 0 then s
  else ((s.semNote s.issue.cid n).acquireSignal s.issue.cid n).semChange s.me.gid (coreOf s.issue.cid) n (-(YWthr x : Int))

/-- WAIT (R272). -/
def execWait (x : YW) (s : State) : Res :=
  slotOp 7 (.wait x) (fun s => s.waitVerdict x) (fun s => s.waitTake x) s

/-- Operand N of `sem.add`, `sem.set` and `sem.rd`. -/
def YWsem (x : YW) : Nat := (x.co.extractLsb' 0 8).toNat

/-- Amount of `sem.add` (R272). -/
def State.addAmount (s : State) (x : YW) : Int :=
  if x.co.getLsbD 8 then s.bcast.toInt else (x.co.extractLsb' 9 15).toInt

/-- Value of `sem.set` (R272). -/
def State.setAmount (s : State) (x : YW) : Int :=
  if x.co.getLsbD 8 then s.bcast.toInt else (x.co.extractLsb' 9 15).toNat

/-- SEM_ADD (R272). -/
def execSemAdd (x : YW) (s : State) : Res :=
  slotOp 7 (.semAdd x) (fun s => s.semVerdict (YWsem x)) (fun s => s.semByContext false (YWsem x) (s.addAmount x)) s

/-- SEM_SET (R272). -/
def execSemSet (x : YW) (s : State) : Res :=
  slotOp 7 (.semSet x) (fun s => s.semVerdict (YWsem x)) (fun s => s.semByContext true (YWsem x) (s.setAmount x)) s

/-- What `sem.rd` reads: the value before the wait of its own bundle subtracts, and SAT (R270, R272). -/
def State.semRead (s : State) (x : YW) : Word :=
  let g := s.me.gid
  let k := coreOf s.issue.cid
  let n := YWsem x
  let own := if s.issue.phase = .act && s.issue.common.yws.toNat = n then YWthr s.issue.common else 0
  BitVec.ofNat 64 (s.semVal g k n + own) ||| (if s.semSat g k n then 0x10000 else 0)

/-- SEM_RD, which acquires what it observes where a fence follows (R257, R272). -/
def execSemRd (x : YW) (s : State) : Res :=
  slotOp 7 (.semRd x) (fun s => s.semVerdict (YWsem x))
    (fun s => ((s.semNote s.issue.cid (YWsem x)).modMe fun c => { c with semReads := c.semReads ++ [(YWsem x, s.nextId)] }).landS 7 (x.co.extractLsb' 8 6) (s.semRead x) 2) s

/-! ## Phasers (R273 to R280) -/

/-- Phaser number of a Y word (R277). -/
def YWph (x : YW) : Nat := (x.co.extractLsb' 0 10).toNat

/-- Phase `a` is later than `b`: their difference modulo 2^32 read as signed (R274). -/
def laterPhase (a b : Nat) : Bool := decide (0 < (BitVec.ofNat 32 a - BitVec.ofNat 32 b).toInt)

/-- Phase `a` moved on by `d`. -/
def phaseAdd (a d : Nat) : Nat := (a + d) % 2 ^ 32

/-- The phase of phaser `n` as last delivered to a group. -/
def State.phSeen (s : State) (gid n : Nat) : Nat := (Table.find? (s.group gid).seen n).getD 0

/-- The registration of a parcel on phaser `n` (R279). -/
def Ctx.phReg? (c : Ctx) (n : Nat) : Option PhReg := c.phregs.find? fun r => r.ph == n

/-- Change the registration on phaser `n`. -/
def Ctx.modReg (c : Ctx) (n : Nat) (f : PhReg → PhReg) : Ctx :=
  { c with phregs := c.phregs.map fun r => if r.ph = n then f r else r }

/-- Package phaser records bound to a context's consignment (R273, R338; DEDUCED, log 32). -/
def State.phBound (s : State) (c : Ctx) : Nat :=
  match c.cons with | some k => (match s.con? k with | some x => x.pk.phn | none => 0) | none => 0

/-- The phaser number may be named here: a local phaser needs a serai group, a package phaser a bound record (R273, R321;
DEDUCED, log 32). -/
def State.phName (s : State) (n : Nat) : Verdict :=
  if (n < 64 && !isSerai s.issue.cid) || (64 ≤ n && 64 + s.phBound s.me ≤ n) then
    .trap .access (BitVec.ofNat 64 (0x400 + n))
  else .ok

/-- ACCESS with a small code in TVAL (DEDUCED, log 32). -/
def accessCode (n : Nat) : Verdict := .trap .access (BitVec.ofNat 64 n)

/-- Checks of an arrival (R277). -/
def State.arriveVerdict (s : State) (n : Nat) : Verdict :=
  (s.phName n).both
    (match s.me.phReg? n with
     | none => accessCode 8
     | some r =>
       if r.mode = 2 then accessCode 9
       else if r.ap = phaseAdd (s.phSeen s.me.gid n) 2 then accessCode 0xA
       else .ok)

/-- Cycles that an action of the issuing context on phaser `n` takes (R276). -/
def State.phCount (s : State) (n : Nat) : Nat := if n < 64 then 2 else s.pathCount s.issue.cid 260

/-- Send an operation of context `cid` to phaser `n`. -/
def State.sendPh (s : State) (cid n : Nat) (act : PhAct) (due : Nat) (held : Bool) : State :=
  let c := s.ctx cid
  { s with
    nextId := s.nextId + 1
    phops := s.phops ++ [⟨s.nextId, cid, c.gid, c.cons, n, act, due, held⟩] }

/-- Cycle from which a semaphore or phaser change of a context may act: after a publication in progress (R266). -/
def State.phStart (s : State) (cid : Nat) : Nat := max (s.cycleOf cid) ((s.ctx cid).release.getD 0)

/-- Checks of `ph.reg` (R277). -/
def State.regVerdict (s : State) (n : Nat) : Verdict :=
  (s.phName n).both
    (if (s.me.phReg? n).isSome then accessCode 7 else if 8 ≤ s.me.phregs.length then accessCode 0xC else .ok)

/-- PH_REG (R277). -/
def execPhReg (x : YW) (s : State) : Res :=
  let n := YWph x
  slotOp 7 (.phReg x) (fun s => s.regVerdict n)
    (fun s =>
      let p := s.phSeen s.me.gid n
      let mode := (x.co.extractLsb' 10 2).toNat
      let q := (x.co.extractLsb' 12 10).toNat
      (s.sendPh s.issue.cid n (.register mode q p) (s.phStart s.issue.cid + s.phCount n) false).modMe fun c =>
        { c with phregs := c.phregs ++ [⟨n, mode, p, p⟩] }) s

/-- A parcel leaves a phaser (R277). -/
def State.phLeave (s : State) (cid n due : Nat) : State :=
  (s.sendPh cid n .drop due false).modCtx cid fun c => { c with phregs := c.phregs.filter fun r => r.ph != n }

/-- PH_DROP (R277). -/
def execPhDrop (x : YW) (s : State) : Res :=
  let n := YWph x
  slotOp 7 (.phDrop x)
    (fun s => (s.phName n).both (if (s.me.phReg? n).isSome then .ok else accessCode 8))
    (fun s => s.phLeave s.issue.cid n (s.phStart s.issue.cid + s.phCount n)) s

/-- Scope of a phaser (R257). -/
def phScope (n : Nat) : Nat := if n < 64 then 2 else 5

/-- Who owns phaser `n` as a context names it: its group a local one, its consignment a package one (R273). -/
def Ctx.phOwner (c : Ctx) (n : Nat) : Nat := if n < 64 then c.gid else c.cons.getD 0

/-- AP of the parcel's table rises at issue (R277). -/
def Ctx.raiseAp (c : Ctx) (n : Nat) : Ctx := c.modReg n fun r => { r with ap := phaseAdd r.ap 1 }

/-- An arrival: the release of R257, counted at the phaser when it has published, and the context's releases before it (R266, R276,
R277). -/
def State.arrive (s : State) (n : Nat) : State :=
  let cid := s.issue.cid
  let c := s.me
  let ap := match c.phReg? n with | some r => r.ap | none => 0
  let (done, s) := s.releaseAs cid (phScope n) [.phase (c.phOwner n) n ap]
  (s.sendPh cid n .arrive (max done (c.release.getD 0)) false).modCtx cid fun c => c.raiseAp n

/-- PH_ARR (R277). -/
def execPhArr (x : YW) (s : State) : Res :=
  slotOp 7 (.phArr x) (fun s => s.arriveVerdict (YWph x)) (fun s => s.arrive (YWph x)) s

/-- The phase that the registration on `n` awaits has ended as the group sees it (R277). -/
def State.phEnded (s : State) (cid n : Nat) : Bool :=
  let c := s.ctx cid
  match c.phReg? n with
  | some r => laterPhase (s.phSeen c.gid n) r.wp
  | none => true

/-- A wait returns: WP rises, and the context acquires (R257, R277). -/
def State.phReturn (s : State) (cid n : Nat) : State :=
  let c := s.ctx cid
  match c.phReg? n with
  | some r => (s.acquirePhase cid (c.phOwner n) n r.wp).modCtx cid fun c => c.modReg n fun r => { r with wp := phaseAdd r.wp 1 }
  | none => s

/-- Checks of `ph.wait` (R277, R278). -/
def State.phWaitVerdict (s : State) (n : Nat) : Verdict :=
  (s.phName n).both
    (match s.me.phReg? n with
     | none => accessCode 8
     | some r =>
       if r.mode = 1 then accessCode 9
       else if r.mode = 3 && r.wp = r.ap then accessCode 0xB
       else if s.phEnded s.issue.cid n then .ok else .block)

/-- PH_WAIT (R277, R278). -/
def execPhWait (x : YW) (s : State) : Res :=
  slotOp 7 (.phWait x) (fun s => s.phWaitVerdict (YWph x)) (fun s => s.phReturn s.issue.cid (YWph x)) s

/-- Timeout of `ph.wait` and `ph.arw` in ticks (R278). -/
def YWphTicks (x : YW) : Nat := 1024 * (x.co.extractLsb' 10 14).toNat

/-- PH_ARW: the arrival, and the hold of the bundle that follows (R277, R278). -/
def execPhArw (x : YW) (s : State) : Res :=
  let n := YWph x
  slotOp 7 (.phArw x)
    (fun s => (s.arriveVerdict n).both
      (match s.me.phReg? n with | some r => if r.mode = 1 then accessCode 9 else .ok | none => .ok))
    (fun s => (s.arrive n).modMe fun c => { c with phWait := c.phWait ++ [(n, YWphTicks x, c.regs.inh)] }) s

/-- The hold of the last `ph.arw` on the bundle that a context issues next: a handler is not held by its parcel's (DEDUCED,
log 38). -/
def Ctx.hold? (c : Ctx) : Option (Nat × Nat × Bool) := c.phWait.find? fun h => h.2.2 == c.regs.inh

/-! ## dupcmp (R117, R118) -/

/-- First pair of registers that differ, from `k` on. -/
def firstDiff (c : Ctx) : Nat → Nat → Option Nat
  | 0, _ => none
  | n + 1, k => if c.v.get k ≠ c.v.get (k + 512) then some k else firstDiff c n (k + 1)

/-- TVAL of a mismatch (R118). -/
def dupTval (c : Ctx) (k : Nat) : Word :=
  let d := c.v.get k ^^^ c.v.get (k + 512)
  let lanes : Mask := (List.range 32).foldl (fun m i => if elem d 32 i ≠ 0 then m ||| ((1 : Mask) <<< i) else m) 0
  lanes ++ BitVec.ofNat 32 k

/-- First register and count of `dupcmp`. -/
def dupFirst (x : YW) : Nat := (x.co.extractLsb' 0 9).toNat
/-- Count of `dupcmp`. -/
def dupCount (x : YW) : Nat := (x.co.extractLsb' 9 10).toNat

/-- DUPCMP (R118). -/
def execDupcmp (x : YW) (s : State) : Res :=
  slotOp 7 (.dupcmp x)
    (fun s =>
      if s.me.regs.dup then
        match firstDiff s.me (dupCount x) (dupFirst x) with
        | some k => .trap .softerr (dupTval s.me k)
        | none => .ok
      else .ok)
    (fun s => s) s

end Sys2Proof.Machine
end

