-- ==== Sys2Proof/Machine/Control.lean ====
section
/-! DEFINITION. Control registers, and the control instructions of the Y slot: transfers, the shadow stack, the loop
sequencer, `yield`, `halt`, `xim` and `mark` (R82, R83, R94 to R107, R124 to R126, R246). -/

namespace Sys2Proof.Machine

open Sys2Proof

/-! ## Views of the control registers (R124, R125) -/

/-- A number at bit `lo` of a word. -/
def fieldAt (lo x : Nat) : Word := BitVec.ofNat 64 x <<< lo

/-- A bit as a number. -/
def bnat (b : Bool) : Nat := if b then 1 else 0

/-- CTXCTL (R82). -/
def Ctx.ctxctl (c : Ctx) (cid : Nat) : Word :=
  fieldAt 0 (bnat c.regs.lchk) ||| fieldAt 1 (bnat c.regs.dup) ||| fieldAt 2 (bnat c.priv) ||| fieldAt 4 c.depth |||
    fieldAt 9 ((List.range 6).foldl (fun n k => n + (match c.loops[k]? with | some l => bnat l.active * 2 ^ k | none => 0)) 0) |||
    fieldAt 16 c.fgrp ||| fieldAt 18 (if isSerai cid then locOf cid % 4 else 0)

/-- CYCLE (R83). -/
def State.cycleReg (s : State) (cid : Nat) : Nat :=
  let c := s.ctx cid
  c.cycles + (if c.parked.isSome then 0 else s.cycleOf cid - c.cycle0)

/-- Largest LEVEL of any serai (R380). -/
def State.maxLevel (s : State) : Nat := (s.serais.map fun k => k.2.level).foldl max 0

/-- FLLSET of a serai (R379). -/
def State.fllset (s : State) (k : Nat) : Word :=
  fieldAt 0 s.pk.target ||| fieldAt 8 (s.serai k).clk ||| fieldAt 16 (s.serai k).ocap

/-- The latest pending limit, 0 for none (R381, R388). -/
def Pace.nextLimit (p : Pace) : Nat := ((p.pending.foldl (fun b x => if b.1 ≤ x.1 then x else b) (0, 0))).2

/-- ECAP: the lowest emergency limit whose boundary has not come, 0 for none (R388, R390; DEDUCED, log 98). -/
def Pace.ecap (p : Pace) : Nat := p.emergencies.foldl (fun c x => if c = 0 then x.2 else min c x.2) 0

/-- Members that are LIVE or SILENT, this package not counted (R381). -/
def Pace.members (p : Pace) : Nat := (p.peers.filter fun x => x.view == .live || x.view == .silent).length

/-- PACE (R381). -/
def Pace.reg (p : Pace) (priv : Bool) : Word :=
  let open_ := fieldAt 0 p.ceil ||| fieldAt 32 p.mstate
  if priv then
    open_ ||| fieldAt 8 p.lim ||| fieldAt 16 p.nextLimit ||| fieldAt 24 p.ecap ||| fieldAt 34 (bnat p.frozen) |||
      fieldAt 48 p.emerg
  else open_

/-- A temperature monitor (R392). -/
def Tmon.reg (t : Tmon) : Word :=
  fieldAt 0 t.temp ||| fieldAt 9 t.thr ||| fieldAt 18 t.hyst ||| fieldAt 23 (bnat t.alert) ||| fieldAt 24 (bnat t.aen) |||
    fieldAt 25 t.sem ||| fieldAt 32 t.href ||| fieldAt 34 t.hcap

/-- TRESUME is BUSY while a context that it named has not rejoined (R371). -/
def State.tresumeBusy (s : State) : Bool := s.rejoins.any (·.trap) || s.pk.prBusy.any fun x => x.2 == 3

/-- BUSY of PREEMPT: an action is not complete (R357). -/
def State.preemptBusy (s : State) : Bool := s.pk.prBusy.any fun x => x.2 != 3

/-- Package registers at 0x800 and above, as a privileged reader sees them; none where no chapter assigns the index. -/
def State.pkgReg (s : State) (idx : Nat) : Option Word :=
  match idx with
  | 0x810 => some (fieldAt 63 (bnat s.pk.xlBusy.isSome))
  | 0x811 => some 0
  | 0x812 => some s.pk.astab
  | 0x813 => some s.pk.tollbase
  | 0x814 => some s.pk.qtab
  | 0x815 => some (fieldAt 63 (bnat s.preemptBusy))
  | 0x816 => some (fieldAt 63 (bnat s.tresumeBusy))
  | 0x817 => some s.pk.errcnt
  | 0x818 => some s.pk.errcnt2
  | 0x819 => some s.pk.coltab
  | 0x81A => some s.pk.cvtab
  | 0x830 => some (fieldAt 0 s.pk.split)
  | 0x831 => some s.pk.pwin
  | 0x832 => some (fieldAt 0 s.pk.bootState ||| fieldAt 8 s.pk.bootCause ||| fieldAt 16 s.pk.svn)
  | 0x833 => some s.pk.merr
  | n => if 0x820 ≤ n && n ≤ 0x829 then some (s.tmon (n - 0x820)).reg else none

/-- The view of a control register that a context has; none where the index is not assigned. -/
def State.crView (s : State) (cid idx : Nat) : Option Word :=
  let c := s.ctx cid
  let r := c.regs
  let g := s.group c.gid
  match idx with
  | 0x000 => some (c.ctxctl cid)
  | 0x001 => some r.fpctl
  | 0x002 => some r.fpstat
  | 0x003 => some r.mxstat
  | 0x004 => some r.skips
  | 0x005 => some r.planesDone
  | 0x006 => some r.planesSkipped
  | 0x008 => some r.ssp
  | 0x009 => some (BitVec.ofNat 64 (s.cycleReg cid))
  | 0x010 => some r.tcause
  | 0x011 => some r.tpc
  | 0x012 => some r.tslot
  | 0x013 => some r.tval
  | 0x014 => some r.tlat
  | 0x015 => some r.tepc
  | 0x016 => some r.thand
  | 0x017 => some (fieldAt 0 (bnat r.rbDrop) ||| fieldAt 8 c.rbCount)
  | 0x018 => some r.tscr0
  | 0x019 => some r.tscr1
  | 0x200 => some (BitVec.ofNat 64 g.spBase)
  | 0x201 => some (BitVec.ofNat 64 g.spLim)
  | 0x202 => some (BitVec.ofNat 64 g.tsBase)
  | 0x203 => some (BitVec.ofNat 64 g.tsLim)
  | 0x204 =>
    some (fieldAt 0 (if isSerai cid then (s.serai (seraiOf cid)).level else if isOutrider cid then s.maxLevel else 0))
  | 0x205 => some (if isSerai cid then s.fllset (seraiOf cid) else if isOutrider cid then s.fllset 0 else 0)
  | 0x300 => some (s.pace.reg c.priv)
  | 0x301 => some (fieldAt 0 (s.tick / 100000 % 2 ^ 32) ||| (if c.priv then fieldAt 32 s.pace.late else 0))
  | 0x302 => some (BitVec.ofNat 64 s.tick)
  | 0x303 => some (fieldAt 0 s.pace.pkg ||| fieldAt 12 s.pace.cvn ||| fieldAt 32 s.pace.members)
  | n => if 0x040 ≤ n && n ≤ 0x04F then some (r.tshape.get (n - 0x040)) else if 0x800 ≤ n then s.pkgReg n else none

/-- Bits of a register that `mtc` may write at any privilege (RW), and those that only a privileged context may (RWP). -/
def crMasks (idx : Nat) : Word × Word :=
  let all := BitVec.allOnes 64
  let m (hi lo : Nat) : Word := BitVec.ofNat 64 (2 ^ (hi + 1) - 2 ^ lo)
  match idx with
  | 0x000 => (m 1 1, m 0 0)
  | 0x001 => (m 1 0 ||| m 13 8 ||| m 22 16, 0)
  | 0x002 => (m 5 0, 0)
  | 0x003 => (0xFD, 0)
  | 0x004 => (all, 0)
  | 0x005 => (all, 0)
  | 0x006 => (all, 0)
  | 0x008 => (0, m 56 3)
  | 0x010 => (0, m 10 0 ||| m 31 16 ||| m 63 63)
  | 0x011 => (0, m 63 6)
  | 0x012 => (0, m 2 0)
  | 0x013 => (all, 0)
  | 0x014 => (0, m 31 0)
  | 0x015 => (m 63 6, 0)
  | 0x016 => (0, m 63 6)
  | 0x017 => (m 0 0, 0)
  | 0x018 => (all, 0)
  | 0x019 => (all, 0)
  | 0x204 => (0, m 2 0)
  | 0x205 => (0, m 7 0)
  | 0x303 => (0, m 27 12)
  | n => if 0x040 ≤ n && n ≤ 0x04F then (all, 0) else (0, 0)

/-- A register after a write of `x`. -/
def maskedWrite (m old x : Word) : Word := (old &&& ~~~m) ||| (x &&& m)

/-- Contents of a register after every pending `mtc` of the context (R124). -/
def State.crContents (s : State) (cid idx : Nat) : Word :=
  let (rw, rwp) := crMasks idx
  ((s.ctx cid).pend.filter fun p => p.dest == .cr (BitVec.ofNat 12 idx)).foldl
    (fun v p => maskedWrite (rw ||| rwp) v (p.value.setWidth 64)) ((s.crView cid idx).getD 0)

/-- Index of `mfc` and `mtc`. -/
def SWidx (x : SW) : Nat := (x.imm.extractLsb' 0 12).toNat

/-- Check of an index (R72, R124). -/
def State.idxVerdict (s : State) (idx : Nat) : Verdict :=
  if 0x800 ≤ idx && !s.me.priv then .trap .priv 0
  else if (s.crView s.issue.cid idx).isNone then .trap .illop 0
  else .ok

/-- MFC (R124). -/
def execMfc (x : SW) (s : State) : Res :=
  slotOp 0 (.mfc x) (fun s => s.idxVerdict (SWidx x))
    (fun s => s.landS 0 x.sd ((s.crView s.issue.cid (SWidx x)).getD 0) 2) s

/-- A write to XLINV or PREEMPT waits while BUSY is 1, or while an earlier write of the context is on its way (R232, R357;
DEDUCED, log 30). -/
def State.busyVerdict (s : State) (idx : Nat) : Verdict :=
  let mine := s.me.pend.any fun p => p.dest == .cr (BitVec.ofNat 12 idx)
  if (idx = 0x810 && (s.pk.xlBusy.isSome || mine)) || (idx = 0x815 && (s.preemptBusy || mine)) then .stall else .ok

/-- A depot core ignores a write of the serai's registers (R322). -/
def ignoresWrite (cid idx : Nat) : Bool := isDepot cid && decide (0x202 ≤ idx) && decide (idx ≤ 0x205)

/-- An unprivileged write that would change a privileged field (R72, R124). -/
def State.rwpVerdict (s : State) (idx : Nat) (x : Word) : Verdict :=
  if !s.me.priv && !ignoresWrite s.issue.cid idx && (x ^^^ s.crContents s.issue.cid idx) &&& (crMasks idx).2 ≠ 0 then .trap .priv 0 else .ok

/-- MTC (R124, R126; DEDUCED, log 30). -/
def execMtc (x : SW) (s : State) : Res :=
  slotOp 0 (.mtc x)
    (fun s => ((s.idxVerdict (SWidx x)).both (s.busyVerdict (SWidx x))).both (s.rwpVerdict (SWidx x) (s.opA x)))
    (fun s => s.landCr 0 (BitVec.ofNat 12 (SWidx x)) (s.opA x) 2) s

/-! ## Writes that take effect -/

/-- The events that a write of a register of serai or package scope stands for (DESIGN CHOICE, log 1; DESIGN CHOICE, log 36). -/
def regEvents (idx : Nat) (v : Word) : List Instr :=
  let f (lo len : Nat) : Nat := bitsOf v.toNat lo len
  match idx with
  | 0x204 => [.throttleWrite v]
  | 0x205 => [.fllsetWrite v]
  | 0x810 => [.xlinv v]
  | 0x811 => [.resume (f 0 32) (f 32 16)]
  | 0x815 =>
    match f 13 3 with
    | 1 => [.preemptSuspend (f 0 13) (f 16 32)]
    | 2 => [.preemptKill (f 0 13) (f 16 32)]
    | 3 => [.preemptRelease (f 0 13) (f 16 32)]
    | _ => []
  | 0x816 =>
    match f 11 2 with
    | 1 => [.tresumeResume (f 0 7) (f 7 4) (f 16 16)]
    | 2 => [.tresumeAbort (f 0 7) (f 7 4) (f 16 16)]
    | _ => []
  | 0x817 => [.errcntWrite v]
  | 0x818 => [.errcnt2Write v]
  | 0x830 => [.qpartWrite v]
  | 0x831 => [.pwinWrite v]
  | 0x832 => (if v.getLsbD 62 then [.bootFlash] else []) ++ (if v.getLsbD 63 then [.bootReboot] else [])
  | 0x833 => [.merrClear v]
  | n => [.controlRegisterWrite n v]

/-- The region's record follows a write that a result of an instruction from before the mark makes (R247; DEDUCED, log 26). -/
def Ctx.recorded (c : Ctx) (inside : Bool) (f : Recorded → Recorded) : Ctx :=
  if inside then c else { c with region := c.region.map fun r => { r with saved := f r.saved } }

/-- A write of a context register takes effect (R126); `inside` says that the writing instruction lies in the open region. -/
def Ctx.crWrite (c : Ctx) (idx : Nat) (x : Word) (inside : Bool) : Ctx :=
  let (rw, rwp) := crMasks idx
  let w (old : Word) : Word := maskedWrite (rw ||| rwp) old x
  let r := c.regs
  match idx with
  | 0x000 =>
    ({ c with regs := { r with lchk := if c.priv then x.getLsbD 0 else r.lchk, dup := x.getLsbD 1 } } : Ctx).recorded inside
      fun v => { v with lchk := if c.priv then x.getLsbD 0 else v.lchk, dup := x.getLsbD 1 }
  | 0x001 => ({ c with regs := { r with fpctl := w r.fpctl } } : Ctx).recorded inside fun v => { v with fpctl := w v.fpctl }
  | 0x002 => ({ c with regs := { r with fpstat := w r.fpstat } } : Ctx).recorded inside fun v => { v with fpstat := w v.fpstat }
  | 0x003 => { c with regs := { r with mxstat := w r.mxstat } }
  | 0x004 => { c with regs := { r with skips := w r.skips } }
  | 0x005 => { c with regs := { r with planesDone := w r.planesDone } }
  | 0x006 => { c with regs := { r with planesSkipped := w r.planesSkipped } }
  | 0x008 => ({ c with regs := { r with ssp := w r.ssp } } : Ctx).recorded inside fun v => { v with ssp := w v.ssp }
  | 0x010 => { c with regs := { r with tcause := w r.tcause } }
  | 0x011 => { c with regs := { r with tpc := w r.tpc } }
  | 0x012 => { c with regs := { r with tslot := w r.tslot } }
  | 0x013 => { c with regs := { r with tval := w r.tval } }
  | 0x014 => { c with regs := { r with tlat := w r.tlat } }
  | 0x015 => { c with regs := { r with tepc := w r.tepc } }
  | 0x016 => { c with regs := { r with thand := w r.thand } }
  | 0x017 => { c with regs := { r with rbDrop := x.getLsbD 0 } }
  | 0x018 => { c with regs := { r with tscr0 := w r.tscr0 } }
  | 0x019 => { c with regs := { r with tscr1 := w r.tscr1 } }
  | n =>
    if 0x040 ≤ n && n ≤ 0x04F then
      ({ c with regs := { r with tshape := r.tshape.set (n - 0x040) x } } : Ctx).recorded inside
        fun v => { v with tshape := v.tshape.set (n - 0x040) x }
    else c

/-- The stopped context that a TRESUME write names, in its address space (R371). -/
def State.stoppedAt (s : State) (unit who asid : Nat) : Option Nat :=
  match ctxNamed unit who with
  | some cid => if (s.ctx cid).status = .stopped && (s.ctx cid).asid = asid then some cid else none
  | none => none

/-- What a context has written before its TRESUME write happens-before the next bundle of the context that this resumes (R371). -/
def State.tresumeLink (s : State) (cid idx : Nat) (v : Word) : State :=
  let f (lo len : Nat) : Nat := bitsOf v.toNat lo len
  if idx = 0x816 && f 11 2 = 1 then
    match s.stoppedAt (f 0 7) (f 7 4) (f 16 16) with
    | some k => s.acquire k fun x => x.before s cid
    | none => s
  else s

/-- A control-register write takes effect: on the context, or as the event of a register of wider scope, which only an
outrider can change (R124, R126; DESIGN CHOICE, log 1). -/
def State.crLand (s : State) (cid idx : Nat) (x : Word) (inside : Bool) : State :=
  if idx < 0x200 then s.modCtx cid fun c => c.crWrite idx x inside
  else if ignoresWrite cid idx then s
  else if (s.ctx cid).priv then
    let s := s.tresumeLink cid idx x
    { s with inputs := s.inputs ++ regEvents idx x }
  else s

/-! ## Transfers (R49, R70, R94 to R96) -/

/-- ALIGN of a target (R49). -/
def targetVerdict (t : Word) : Verdict := if t.toNat % 64 ≠ 0 then .trap .align t else .ok

/-- Target of a branch or call (R70). -/
def State.brTarget (s : State) (x : YW) : Word := s.issue.pc + (x.co.signExtend 64 <<< 6)

/-- The body of a loop level contains an address (R96, R105). -/
def LoopLevel.holds (l : LoopLevel) (a : Word) : Bool := decide ((a - l.start).toNat < 64 * l.body)

/-- The last body bundle of an active level is among `n` bundles from an address on (R94). -/
def LoopLevel.endsIn (l : LoopLevel) (a : Word) (n : Nat) : Bool :=
  l.active && decide (((l.start + BitVec.ofNat 64 (64 * (l.body - 1))) - a).toNat < 64 * n)

/-- A transfer whose delay would meet the end of an active loop body traps with ILLOP (R94; DESIGN CHOICE, log 29). -/
def State.xferVerdict (s : State) : Verdict :=
  if s.me.loops.any fun l => l.endsIn s.issue.pc 3 then .trap .illop 0 else .ok

/-- Note the target of the transfer of the bundle under issue. -/
def State.goTo (s : State) (t : Word) : State := { s with issue := { s.issue with next := some t } }

/-- A transfer that is not taken goes on after its two delay bundles (R94; DEDUCED, log 28). -/
def State.fallThrough (s : State) : State := s.goTo (s.issue.pc + 192)

/-- A taken branch: levels whose body does not contain the target end as it issues, before its delay bundles (R96; DESIGN CHOICE, log
100). -/
def State.branchTo (s : State) (t : Word) : State :=
  (s.modMe fun c =>
    { c with loops := c.loops.map fun l => if l.active && !l.holds t then { l with active := false } else l }).goTo t

/-- A branch on a condition read at issue (R95, R96). -/
def branchOp (i : Instr) (cond : State → Bool) (target : State → Word) (s : State) : Res :=
  slotOp 7 i (fun s => s.xferVerdict.both (if cond s then targetVerdict (target s) else .ok))
    (fun s => if cond s then s.branchTo (target s) else s.fallThrough) s

/-- BR (R95). -/
def execBr (x : YW) (s : State) : Res := branchOp (.br x) (fun _ => true) (fun s => s.brTarget x) s
/-- BZ (R95). -/
def execBz (x : YW) (s : State) : Res := branchOp (.bz x) (fun s => s.me.rs x.bi = 0) (fun s => s.brTarget x) s
/-- BNZ (R95). -/
def execBnz (x : YW) (s : State) : Res := branchOp (.bnz x) (fun s => s.me.rs x.bi ≠ 0) (fun s => s.brTarget x) s
/-- BM_NONE (R95, R96). -/
def execBmNone (x : YW) (s : State) : Res := branchOp (.bmNone x) (fun s => s.me.topMask = 0) (fun s => s.brTarget x) s
/-- BM_ANY (R95, R96). -/
def execBmAny (x : YW) (s : State) : Res := branchOp (.bmAny x) (fun s => s.me.topMask ≠ 0) (fun s => s.brTarget x) s
/-- JMP (R95). -/
def execJmp (x : YW) (s : State) : Res :=
  branchOp (.jmp x) (fun _ => true) (fun s => s.me.ra (x.co.extractLsb' 0 5)) s

/-! ## The shadow stack (R97 to R99) -/

/-- The walk that a spill or fill needs has run to its end, or it needs none (R433). -/
def State.shadowWalked (s : State) (cid : Nat) (a : Word) : Bool :=
  match (s.ctx cid).fillWalk with
  | some (x, t) => x == a && decide (t ≤ s.cycleOf cid)
  | none => s.walkTime cid s.nextId (s.ctx cid).asid a.toNat 8 == 0

/-- What a shadow-stack access of the core meets in memory: a spill pushes, a fill pops (R99, R231, R248, R433). -/
def State.shadowVerdict (s : State) (cid : Nat) (a : Word) (kind : Acc) : Verdict :=
  let c := s.ctx cid
  if a.extractLsb' 57 7 ≠ 0 then .trap .access a
  else match s.translate (s.portOf cid) c.asid a.toNat 8 kind c.priv with
    | .ok _ => .block
    | .absent va l => if s.shadowWalked cid a then .fault 4 (BitVec.ofNat 64 va) l else .block
    | .access => if s.shadowWalked cid a then .trap .access a else .block

/-- SSP as the entries that the core holds stand to it: a `call` or `ret` has moved it at its issue, an `mtc` moves it as it lands (R98,
R99, R126). -/
def State.sspNow (s : State) (cid : Nat) : Word :=
  ((s.ctx cid).pend.filter fun x => x.dest == .cr 0x008 && x.slot == 7).foldl (fun _ x => x.value.setWidth 64) (s.ctx cid).regs.ssp

/-- Address of the oldest entry that the core holds. -/
def State.spillAt (s : State) (cid : Nat) : Word := s.sspNow cid + BitVec.ofNat 64 (8 * ((s.ctx cid).shadow.length - 1))

/-- CALL (R98, R99). -/
def execCall (x : YW) (s : State) : Res :=
  slotOp 7 (.call x)
    (fun s => s.xferVerdict.both
      (if shadowMax ≤ s.me.shadow.length then s.shadowVerdict s.issue.cid (s.spillAt s.issue.cid) .push else .ok))
    (fun s =>
      let link := s.issue.pc + 192
      let s := s.landA 7 30 link 1
      let s := s.landCr 7 0x008 (s.me.regs.ssp - 8) 1
      (s.modMe fun c => { c with shadow := link :: c.shadow }).goTo (s.brTarget x)) s

/-- RET (R98, R99). -/
def execRet (x : YW) (s : State) : Res :=
  slotOp 7 (.ret x)
    (fun s => s.xferVerdict.both
      (match s.me.shadow with
       | [] => s.shadowVerdict s.issue.cid (s.sspNow s.issue.cid) .pop
       | t :: _ => if t ≠ s.me.ra 30 then .trap .cfi t else targetVerdict t))
    (fun s =>
      let t := s.me.ra 30
      let s := s.landCr 7 0x008 (s.me.regs.ssp + 8) 1
      (s.modMe fun c => { c with shadow := c.shadow.drop 1 }).goTo t) s

/-! ## The loop sequencer (R102 to R104) -/

/-- Fields of a loop descriptor (R102). -/
def dLevel (d : Word) : Nat := (d.extractLsb' 0 3).toNat
/-- BODY. -/
def dBody (d : Word) : Nat := (d.extractLsb' 4 16).toNat

/-- The descriptor lies within its layout, and the level may be set up here (R102, R104). -/
def State.loopVerdict (s : State) (csrc : Option Bool) : Verdict :=
  let d := s.bcast
  let k := dLevel d
  let start := s.issue.pc + 64
  let clash (j : Nat) (l : LoopLevel) : Bool :=
    l.active && (decide (k ≤ j) || decide (64 * l.body < (start - l.start).toNat + 64 * dBody d))
  firstFail
    [(k = 0 || k = 7 || dBody d = 0 || d.extractLsb' 25 7 ≠ 0, .trap .illop 0),
     ((match csrc with | some b => d.getLsbD 3 != b | none => false), .trap .illop 0),
     ((List.range 6).any fun j => match s.me.loops[j]? with | some l => clash (j + 1) l | none => false, .trap .illop 0)]

/-- Set up a level with trip count `n`, or skip its body (R104; DEDUCED, log 35). -/
def State.setLoop (s : State) (n : Nat) : State :=
  let d := s.bcast
  let start := s.issue.pc + 64
  if n = 0 then
    { s with issue := { s.issue with next := some (start + BitVec.ofNat 64 (64 * dBody d)) } }
  else
    s.modMe fun c =>
      { c with
        loops := c.loops.set (dLevel d - 1)
          (LoopLevel.mk true 0 n start (dBody d) (d.extractLsb' 20 5) ((d.extractLsb' 32 32).signExtend 64)) }

/-- LOOP_IMM: the trip count is CO (R103). -/
def execLoopImm (x : YW) (s : State) : Res :=
  slotOp 7 (.loopImm x) (fun s => s.loopVerdict (some false)) (fun s => s.setLoop x.co.toNat) s

/-- LOOP_REG: the trip count is s[C][31:0] (R103). -/
def execLoopReg (x : YW) (s : State) : Res :=
  slotOp 7 (.loopReg x) (fun s => s.loopVerdict (some true))
    (fun s => s.setLoop ((s.me.rs (x.co.extractLsb' 0 6)).extractLsb' 0 32).toNat) s

/-- Row pointers of `loopx` (R103). -/
def State.rowPair (s : State) (p : Word) : Nat × Nat :=
  let b := s.padRead s.issue.cid false p.toNat 8
  (leNat (b.take 4), leNat (b.drop 4))

/-- LOOPX: the trip count is a row-pointer difference, and poisoned row pointers trap at the landing also where a0 discards the advance (R103,
R372); SPBOUND names the address of the pair (DESIGN CHOICE, log 72). -/
def execLoopx (x : YW) (s : State) : Res :=
  let r := x.co.extractLsb' 0 5
  slotOp 7 (.loopx x)
    (fun s =>
      let p := s.me.ra r
      ((s.loopVerdict none).both (if p.toNat % 4 ≠ 0 then .trap .align p else .ok)).both
        (if (s.group s.me.gid).spLim < p.toNat + 8 then .trap .spbound p else .ok))
    (fun s : State =>
      let p := s.me.ra r
      let (a, b) := s.rowPair p
      let bad := s.padPoisoned s.me.gid false p.toNat 8
      let s := if bad then (s.startResult 7 (.a r) 0 0 [] 1 []).poisonLast true p else s.landA 7 r (p + 4) 1
      s.setLoop (if a ≤ b then b - a else 0)) s

/-! ## halt, xim, mark (R100, R101, R246) -/

/-- Registrations of a parcel end in ascending phaser number (R280). -/
def State.dropAll (s : State) (cid : Nat) : State :=
  let ns := (s.ctx cid).phregs.map (·.ph)
  let count (n : Nat) : Nat := if n < 64 then 2 else s.pathCount cid 260
  (ns.mergeSort fun a b => decide (a ≤ b)).foldl (fun s n => s.phLeave cid n (s.phStart cid + count n)) s

/-- Parcels of the core groups of a packet (R340). -/
def Packet.parcels (k : Packet) : Nat := k.g * k.d * k.q * k.s * k.c * k.p

/-- Parcels of a consignment, those of its depot cores included (R327, R340). -/
def Packet.allParcels (k : Packet) : Nat := k.parcels + k.g * k.d * k.q * k.depots

/-- A parcel has triggered (R353). -/
def Cons.trigger (x : Cons) (n : Nat) : Cons := if x.triggered.contains n then x else { x with triggered := x.triggered ++ [n] }

/-- A parcel halts: it counts as triggered, and the last to halt leaves the consignment DRAINING (R353). -/
def Cons.haltOne (x : Cons) (n : Nat) : Cons :=
  let x := x.trigger n
  { x with
    halted := x.halted + 1
    state := if x.state = .running && x.halted + 1 = x.pk.allParcels then .draining else x.state }

/-- The outrider of die 0 runs no longer: the pace unit speaks for the package no more (R12, R384, R385). -/
def State.silencePace (s : State) : State := s.modPace fun p => { p with stoppedAt := some s.tick }

/-- HALT: the parcel ends, and with it the entries of the shadow stack that its core holds (R80, R87, R100, R203, R237, R280; DESIGN
CHOICE, log 71); that of the outrider of die 0 stops the pace unit (R12). -/
def execHalt (x : YW) (s : State) : Res :=
  slotOp 7 (.halt x) (fun s => if s.me.pend.isEmpty then .ok else .stall)
    (fun s =>
      let cid := s.issue.cid
      let s := (s.commitRegion cid).dropAll cid
      let s := s.endLease cid false
      let s := s.modCtx cid fun c =>
        { c with
          status := .halted
          notBefore := s.cycleOf cid + 1
          far := []
          stack := []
          loops := List.replicate 6 .off
          deferred := none
          shadow := [] }
      let s := s.modCore (coreOf cid) fun k => { k with holder := none }
      let s := if cid = Config.outriderBase then s.silencePace else s
      match (s.ctx cid).cons with
      | some k => s.modCon k fun x => x.haltOne (s.ctx cid).parcel
      | none => s) s

/-- XIM: its only effect is that of R56 on the S slot of its bundle (R101). -/
def execXim (x : YW) (s : State) : Res := slotOp 7 (.xim x) noCheck (fun s => s) s

/-- MARK: the open region commits and a new one opens with this bundle (R245, R246). -/
def execMark (x : YW) (s : State) : Res := slotOp 7 (.mark x) noCheck (fun s => s.mark s.issue.cid) s

end Sys2Proof.Machine
end

