-- ==== Sys2Proof/Machine/Matrix.lean ====
section
/-! DEFINITION. The M slot: array lease, tile registers, array commands and tile-store copies as they issue (R167 to R186,
R193 to R198, R211 to R216). -/

namespace Sys2Proof.Machine

open Sys2Proof

/-- Bits `[lo + len - 1 : lo]` of a word. -/
def wbits (x : Word) (lo len : Nat) : Nat := bitsOf x.toNat lo len

/-! ## Shapes (R170 to R173) -/

/-- TYPE of a shape. -/
def shType (x : Word) : Nat := wbits x 0 4
/-- NBITS of a shape. -/
def shNbits (x : Word) : Nat := wbits x 4 6
/-- ROLE of a shape: 0 A tile, 1 B tile. -/
def shRole (x : Word) : Nat := wbits x 10 1
/-- Rows of an A tile or columns of a B tile. -/
def shExt (x : Word) : Nat := wbits x 12 8 + 1
/-- K of a shape. -/
def shK (x : Word) : Nat := wbits x 20 5 + 1

/-- The value checks of R172, roles apart. -/
def shapeOk (x : Word) : Bool :=
  decide (shType x < 8) && (if shType x = 7 then decide (1 ≤ shNbits x) && decide (shNbits x ≤ 32) else shNbits x == 0) &&
    wbits x 11 1 == 0 && wbits x 25 39 == 0

/-- Encoding width w of R171. -/
def tyWidth (ty nbits : Nat) : Nat :=
  match ty with
  | 0 => 8 | 1 => 8 | 2 => 6 | 3 => 6 | 4 => 4 | 5 => 8 | 6 => 16 | _ => nbits

/-- Container bits of an element in element-major form: eight times eb of R171. -/
def tyBox (ty nbits : Nat) : Nat :=
  match ty with
  | 4 => 4 | 6 => 16 | 7 => if nbits ≤ 8 then 8 else if nbits ≤ 16 then 16 else 32 | _ => 8

/-- Number of rows or column blocks that a tile command moves (R175). -/
def tileCount (x : Word) : Nat := shExt x

/-- Bytes of a row or column block (R175). -/
def tileLen (x : Word) : Nat :=
  if shRole x = 0 then (shK x * tyBox (shType x) (shNbits x) + 7) / 8 else 4 * tyWidth (shType x) (shNbits x)

/-- TSHAPE of a tile register of the issuing context. -/
def State.shape (s : State) (n : Nat) : Word := s.me.regs.tshape.get n

/-- ACCESS of a tile register that the parcel does not hold (R168). -/
def State.tregVerdict (s : State) (n : Nat) : Verdict :=
  if s.me.ntregs ≤ n then .trap .access (BitVec.ofNat 64 (0x100 + n)) else .ok

/-- A depot core traps on every M opcode but `nop` and hints (R321; DEDUCED, log 17). -/
def State.notDepot (s : State) : Verdict := if isDepot s.issue.cid then .trap .illop 0 else .ok

/-- The lease lies in a serai: a depot core has no M slot (R321), an outrider no array (R178; DEDUCED, log 17). -/
def State.seraiOnly (s : State) : Verdict := if isSerai s.issue.cid then .ok else .trap .illop 0

/-- A full queue blocks the bundle (R84). -/
def State.roomVerdict (s : State) (q : QueueId) : Verdict := if s.queueFull q then .block else .ok

/-! ## The lease (R178 to R183) -/

/-- Lease of the issuing context's serai. -/
def State.myLease (s : State) : Option Lease := (s.serai (seraiOf s.issue.cid)).lease

/-- The issuing context holds the lease.  A lease that is granted and whose `mlease` has not issued has budget 0. -/
def State.holdsLease (s : State) : Bool :=
  isSerai s.issue.cid && (match s.myLease with | some l => l.holder == s.issue.cid && decide (0 < l.budget) | none => false)

/-- The lease is granted to the issuing context and waits for its `mlease` to issue (R182). -/
def State.leaseGranted (s : State) : Bool :=
  match s.myLease with | some l => l.holder == s.issue.cid && l.budget == 0 | none => false

/-- Budget and priority of an `mlease` (R179). -/
def leaseBudget (x : MW) : Nat := (x.flags.extractLsb' 0 6).toNat + 1
/-- Priority of an `mlease`. -/
def leasePrio (x : MW) : Nat := (x.flags.extractLsb' 6 2).toNat

/-- MLEASE (R179). -/
def execMlease (x : MW) (s : State) : Res :=
  slotOp 3 (.mlease x)
    (fun s => s.seraiOnly.both
      (if s.holdsLease then accessCode 2 else if s.leaseGranted then .ok else .block))
    (fun s => s.modSerai (seraiOf s.issue.cid) fun k =>
      { k with lease := some ⟨s.issue.cid, leaseBudget x, leasePrio x, s.now⟩ }) s

/-- The lease of a serai ends in the next cycle (R179, R180, R183). -/
def State.dropLease (s : State) (k : Nat) : State :=
  s.modSerai k fun x =>
    { x with
      lease := none
      lastHolder := match x.lease with | some l => some l.holder | none => x.lastHolder
      grantFrom := x.cyc + 2 }

/-- MFREE (R180). -/
def execMfree (x : MW) (s : State) : Res :=
  slotOp 3 (.mfree x)
    (fun s => ((s.seraiOnly.both (if s.holdsLease then .ok else accessCode 3)).both (s.tailVerdict x.tail)).both
      (if tailInc x.tail = 0 then .ok else s.roomVerdict (.array (seraiOf s.issue.cid))))
    (fun s =>
      let k := seraiOf s.issue.cid
      let s := s.dropLease k
      if tailInc x.tail = 0 then s else s.push (.array k) x.tail .marker 0) s

/-! ## Tile commands (R174, R175) -/

/-- Offset of row or block `q`. -/
def tileAt (base stride : Word) (q : Nat) : Word := base + BitVec.ofNat 64 q * stride

/-- ALIGN and SPBOUND of the rows of a tile command, ascending (R175). -/
def tileRows (lim len : Nat) (base stride : Word) : Nat → Nat → Verdict
  | 0, _ => .ok
  | n + 1, q =>
    let x := tileAt base stride q
    if x.toNat % 16 ≠ 0 then .trap .align x
    else if lim < x.toNat + len then .trap .spbound x
    else tileRows lim len base stride n (q + 1)

/-- Checks of `tld` and `tst`: the number of the register before its shape (R168, R172, R175; DESIGN CHOICE, log 90). -/
def State.tileVerdict (s : State) (x : MW) : Verdict :=
  let n := x.ta.toNat
  let sh := s.shape n
  ((((s.notDepot.both (s.tregVerdict n)).both
    (if shapeOk sh && !(x.flags.getLsbD 0 && decide (6 ≤ shType sh)) then .ok else .trap .illop 0)).both
      (tileRows (s.group s.me.gid).spLim (tileLen sh) (s.me.ra x.ar) (s.me.rs x.sp) (tileCount sh) 0)).both
        (s.tailVerdict x.tail)).both (s.roomVerdict (.tile (coreOf s.issue.cid)))

/-- Push a tile command with its operands as read at issue. -/
def State.pushTile (s : State) (x : MW) (store : Bool) : State :=
  s.push (.tile (coreOf s.issue.cid)) x.tail
    (.tile store x.ta.toNat (s.me.ra x.ar) (s.me.rs x.sp) (s.shape x.ta.toNat) (x.flags.getLsbD 0)) 0

/-- TLD (R175). -/
def execTld (x : MW) (s : State) : Res := slotOp 3 (.tld x) (fun s => s.tileVerdict x) (fun s => s.pushTile x false) s
/-- TST (R175). -/
def execTst (x : MW) (s : State) : Res := slotOp 3 (.tst x) (fun s => s.tileVerdict x) (fun s => s.pushTile x true) s

/-! ## Array commands (R184 to R186, R193 to R198) -/

/-- ACC of a precision control word. -/
def pcwAcc (w : Word) : Nat := wbits w 21 2

/-- The combination of types and accumulator stands in the table of R185. -/
def pcwCombo (aty bty acc : Nat) : Bool :=
  if aty < 6 && bty < 6 then acc == 0
  else if aty = 6 && bty = 6 then acc == 0
  else aty == 7 && bty == 7 && (acc == 1 || acc == 2)

/-- The precision control word is good for a command of kind 0 `mma`, 1 `mma.bs`, 2 `mma.nm` (R185). -/
def pcwOk (kind : Nat) (w shA shB : Word) : Bool :=
  let aty := wbits w 0 4
  let bty := wbits w 4 4
  let nb := wbits w 8 6
  let sm := wbits w 25 3
  wbits w 28 36 == 0 && decide (aty < 8) && decide (bty < 8) && pcwAcc w != 3 && pcwCombo aty bty (pcwAcc w) &&
    (if bty = 7 then decide (1 ≤ nb) && decide (nb ≤ 32) else nb == 0) &&
    aty == shType shA && bty == shType shB && (bty != 7 || nb == shNbits shB) &&
    (if kind = 2 then (sm == 1 || sm == 2) && decide (4 ≤ tyWidth bty nb) else sm == 0)

/-- ROW0 and COL0 of a position word (R186). -/
def posRow (p : Word) : Nat := wbits p 0 10
/-- COL0. -/
def posCol (p : Word) : Nat := wbits p 10 10

/-- Words of an output: 2 for INT64 (R186). -/
def accWords (acc : Nat) : Nat := if acc = 2 then 2 else 1

/-- The position check of R186. -/
def State.posVerdict (s : State) (p : Word) (rows words : Nat) (high odd : Bool) : Verdict :=
  if (high && wbits p 20 44 ≠ 0) || (s.group s.me.gid).tsLim < posRow p + rows || 1024 < posCol p + words then
    .trap .tsbound p
  else if odd && posCol p % 2 = 1 then .trap .align p
  else .ok

/-- The lease check of R194. -/
def State.leaseVerdict (s : State) : Verdict := if s.holdsLease then .ok else accessCode 1

/-- Checks of the three product commands, in the order of R194. -/
def State.productVerdict (s : State) (kind : Nat) (x : MW) : Verdict :=
  let shA := s.shape x.ta.toNat
  let shB := s.shape x.tb.toNat
  let p := s.me.ra x.ar
  let w := s.me.rs x.sp
  ((((((((s.notDepot.both s.leaseVerdict).both (s.tregVerdict x.ta.toNat)).both (s.tregVerdict x.tb.toNat)).both
    (if shapeOk shA && shRole shA == 0 && shapeOk shB && shRole shB == 1 then .ok else .trap .illop 0)).both
    (if shK shA ≠ shK shB || (kind = 2 && shK shA ≠ 32) then .trap .illop 0 else .ok)).both
    (if pcwOk kind w shA shB then .ok else .trap .pcwbad w)).both
    (s.posVerdict p (shExt shA) (accWords (pcwAcc w) * shExt shB) (kind != 1) (pcwAcc w == 2))).both
    (s.tailVerdict x.tail)).both (s.roomVerdict (.array (seraiOf s.issue.cid)))

/-- A push lowers the budget; at 0 the lease ends in the next cycle (R179). -/
def State.spend (s : State) : State :=
  let k := seraiOf s.issue.cid
  match s.myLease with
  | some l =>
    if l.budget ≤ 1 then s.dropLease k
    else s.modSerai k fun x => { x with lease := some { l with budget := l.budget - 1, idle := s.now } }
  | none => s

/-- Push an array command and count it (R178, R202). -/
def State.pushArray (s : State) (x : MW) (op : CmdOp) : State :=
  let s := s.push (.array (seraiOf s.issue.cid)) x.tail op s.me.arrayPushed
  (s.modMe fun c => { c with arrayPushed := c.arrayPushed + 1 }).spend

/-- Push a product command with its operands as read at issue. -/
def State.pushProduct (s : State) (kind : Nat) (x : MW) : State :=
  s.pushArray x
    (.product kind x.ta.toNat x.tb.toNat (s.me.ra x.ar) (s.me.rs x.sp) (s.shape x.ta.toNat) (s.shape x.tb.toNat))

/-- MMA (R194). -/
def execMma (x : MW) (s : State) : Res :=
  slotOp 3 (.mma x) (fun s => s.productVerdict 0 x) (fun s => s.pushProduct 0 x) s
/-- MMA_BS (R194, R195). -/
def execMmaBs (x : MW) (s : State) : Res :=
  slotOp 3 (.mmaBs x) (fun s => s.productVerdict 1 x) (fun s => s.pushProduct 1 x) s
/-- MMA_NM (R194, R197). -/
def execMmaNm (x : MW) (s : State) : Res :=
  slotOp 3 (.mmaNm x) (fun s => s.productVerdict 2 x) (fun s => s.pushProduct 2 x) s

/-- Rows and words of an extent word (R198). -/
def extRows (e : Word) : Nat := wbits e 0 8 + 1
/-- Words per row. -/
def extWords (e : Word) : Nat := wbits e 8 10 + 1

/-- MZERO (R194, R198; DESIGN CHOICE, log 33). -/
def execMzero (x : MW) (s : State) : Res :=
  slotOp 3 (.mzero x)
    (fun s =>
      let e := s.me.rs x.sp
      ((((s.notDepot.both s.leaseVerdict).both (s.posVerdict (s.me.ra x.ar) (extRows e) (extWords e) true false)).both
        (if wbits e 18 46 = 0 then .ok else .trap .pcwbad e)).both (s.tailVerdict x.tail)).both
          (s.roomVerdict (.array (seraiOf s.issue.cid))))
    (fun s => s.pushArray x (.zero (s.me.ra x.ar) (s.me.rs x.sp))) s

/-! ## Tile-store copies (R211 to R216) -/

/-- SPOFF of a copy's position word (R214). -/
def cpOff (p : Word) : Nat := wbits p 20 24
/-- MDOFF in bytes. -/
def cpMd (p : Word) : Nat := 16 * wbits p 44 20
/-- ROWS of a copy's descriptor. -/
def cpRows (d : Word) : Nat := wbits d 0 10 + 1
/-- WORDS. -/
def cpWords (d : Word) : Nat := wbits d 10 10 + 1
/-- STRIDE. -/
def cpStride (d : Word) : Nat := wbits d 20 20
/-- FMT. -/
def cpFmt (d : Word) : Nat := wbits d 40 4

/-- E of R215. -/
def cpE (d : Word) : Nat := if cpFmt d = 8 then cpWords d / 2 else cpWords d
/-- E′ of R215. -/
def cpKept (d : Word) (prune : Bool) : Nat := if prune then cpE d / 2 else cpE d
/-- An MX format of R216. -/
def cpMx (d : Word) : Bool := decide (2 ≤ cpFmt d) && decide (cpFmt d ≤ 7)
/-- bb of R216. -/
def cpBlock (d : Word) : Nat := if cpFmt d = 6 then 16 else 32
/-- Lr of R216. -/
def cpLen (d : Word) (prune : Bool) : Nat :=
  let e := cpKept d prune
  match cpFmt d with
  | 0 => 4 * e
  | 1 => 2 * e
  | 8 => 8 * cpE d
  | _ => cpBlock d * e / 32
/-- MDLEN of R217. -/
def cpMdLen (d : Word) : Nat := 16 * ((cpKept d true + 31) / 32)

/-- SPBOUND of the rows of a copy, in the order of R215. -/
def copyRows (lim : Nat) (p d : Word) (prune : Bool) : Nat → Nat → Verdict
  | 0, _ => .ok
  | n + 1, q =>
    let x := cpOff p + q * cpStride d
    let len := cpLen d prune
    let sides := if cpMx d then (List.range (cpKept d prune / 32)).map fun b => (x + cpBlock d * b) / 16 else []
    let md := cpMd p + q * cpMdLen d
    if lim < x + len then .trap .spbound (BitVec.ofNat 64 x)
    else match sides.find? fun y => decide (lim / 16 < y + 1) with
      | some y => .trap .spbound (BitVec.ofNat 64 y)
      | none =>
        if prune && lim < md + cpMdLen d then .trap .spbound (BitVec.ofNat 64 md)
        else copyRows lim p d prune n (q + 1)

/-- Checks of `tsld` and `tsst`, in the order of R215. -/
def State.copyVerdict (s : State) (x : MW) (store : Bool) : Verdict :=
  let p := s.me.ra x.ar
  let d := s.me.rs x.sp
  let prune := x.flags.getLsbD 0
  let span := if x.flags.getLsbD 1 then 8 else 4
  let fmt := cpFmt d
  let g := s.group s.me.gid
  ((firstFail
    [(isDepot s.issue.cid, .trap .illop 0),
     (wbits d 44 20 ≠ 0, .trap .illop 0),
     ((if store then fmt ≠ 0 && fmt ≠ 1 && fmt ≠ 8 else 8 < fmt || (fmt = 8 && prune)), .trap .illop 0),
     (fmt = 8 && cpWords d % 2 = 1, .trap .illop 0),
     (cpMx d && !prune && cpE d % 32 ≠ 0, .trap .illop 0),
     (prune && (cpE d % span ≠ 0 || (cpMx d && cpKept d true % 32 ≠ 0)), .trap .illop 0),
     (g.tsLim < posRow p + cpRows d || 1024 < posCol p + cpWords d, .trap .tsbound p),
     ((fmt = 8 && posCol p % 2 = 1) || cpOff p % 16 ≠ 0 || cpStride d % 16 ≠ 0, .trap .align p)]).both
    (copyRows g.spLim p d prune (cpRows d) 0)).both
    ((s.tailVerdict x.tail).both (s.roomVerdict (.copy (seraiOf s.issue.cid))))

/-- Push a tile-store copy and count it (R219). -/
def State.pushCopy (s : State) (x : MW) (store : Bool) : State :=
  let s := s.push (.copy (seraiOf s.issue.cid)) x.tail
    (.copy store (s.me.ra x.ar) (s.me.rs x.sp) (x.flags.getLsbD 0) (x.flags.getLsbD 1)) s.me.copyPushed
  s.modMe fun c => { c with copyPushed := c.copyPushed + 1 }

/-- TSLD (R213 to R216). -/
def execTsld (x : MW) (s : State) : Res := slotOp 3 (.tsld x) (fun s => s.copyVerdict x false) (fun s => s.pushCopy x false) s
/-- TSST (R213 to R216). -/
def execTsst (x : MW) (s : State) : Res := slotOp 3 (.tsst x) (fun s => s.copyVerdict x true) (fun s => s.pushCopy x true) s

end Sys2Proof.Machine
end

