-- ==== Sys2Proof/Machine/Units.lean ====
section
/-! DEFINITION. What the engines share: their clocks, the tests of wait tails, signals, the lease as it is granted and lost, and
what a completing array command or copy does to its context (R64, R65, R181 to R183, R189, R201, R202, R219, R270). -/

namespace Sys2Proof.Machine

open Sys2Proof

/-! ## Clocks and queues -/

/-- The count in which a queue's times are kept. -/
def State.unitCycle (s : State) : QueueId → Nat
  | .array k => (s.serai k).cyc
  | .copy k => (s.serai k).cyc
  | .relay k => (s.serai k).cyc
  | .step k => (s.serai k).cyc
  | .tile core => s.coreCycle core
  | .drover d => if d < 192 then (s.serai (d / 4)).cyc else s.now / 2
  | .drain cid => s.cycleOf cid
  | .coll _ => s.tick
  | .launch u => if u < 48 then (s.serai u).cyc else s.now / 2

/-- The command of a number. -/
def State.cmd? (s : State) (id : Nat) : Option Cmd := s.cmds.find? fun c => c.id == id

/-- The command of a queue that stands first among those that have not started; a marker never starts. -/
def State.nextCmd (s : State) (q : QueueId) : Option Cmd :=
  s.cmds.find? fun c => c.queue == q && c.start.isNone && c.op != .marker

/-- Commands of a queue that have started and not completed. -/
def State.running (s : State) (q : QueueId) : List Cmd := s.cmds.filter fun c => c.queue == q && c.start.isSome

/-- A command has waited the one cycle after its push, and the release before it is published (R65, R266). -/
def State.pushedLongEnough (s : State) (c : Cmd) : Bool :=
  decide (c.pushed + 1 ≤ s.unitCycle c.queue) && decide (c.hold ≤ s.cycleOf c.cid)

/-- Value of the semaphore that a tail waits on. -/
def State.tailHolds (s : State) (c : Cmd) : Bool :=
  tailWT c.tail = 0 || decide (tailWT c.tail ≤ s.semVal c.gid (coreOf c.cid) (tailWS c.tail))

/-- A tail that holds subtracts its threshold (R65, R269). -/
def State.tailTake (s : State) (c : Cmd) : State :=
  if tailWT c.tail = 0 then s else s.semChange c.gid (coreOf c.cid) (tailWS c.tail) (-(tailWT c.tail : Int))

/-- The signal of a completing command (R64, R65). -/
def State.signal (s : State) (c : Cmd) : State :=
  if tailInc c.tail = 0 then s else s.semChange c.gid (coreOf c.cid) (tailSS c.tail) (tailInc c.tail)

/-- The consignment of a command is being suspended or killed, so that its engines settle, or the command is a saved record (R300, R358,
R361). -/
def State.stopping (s : State) (c : Cmd) : Bool :=
  decide (savedBase ≤ c.cid) || match (s.ctx c.cid).cons with
  | some k => (match s.con? k with | some x => x.state == .suspending || x.state == .killing | none => false)
  | none => false

/-- A command may start, its queue's own order apart. -/
def State.mayStart (s : State) (c : Cmd) : Bool := s.pushedLongEnough c && s.tailHolds c && !s.stopping c

/-- A command whose tail a drain's signal has satisfied reads the stores that the drain awaited (R257, R283; DEDUCED, log 83). -/
def State.tailAcquire (s : State) (c : Cmd) : State :=
  if tailWT c.tail = 0 || c.queue.scope = 0 then s
  else s.publish c.queue.scope (coreOf c.cid) fun x => x.signalled c.gid (coreOf c.cid) (tailWS c.tail) s.nextId

/-- A command starts: its tail is taken and its start is noted. -/
def State.startCmd (s : State) (c : Cmd) (f : Cmd → Cmd) : State :=
  ((s.tailAcquire c).tailTake c).modCmd c.id fun x => { f x with start := some (s.unitCycle c.queue) }

/-- A command leaves its queue and signals. -/
def State.endCmd (s : State) (c : Cmd) : State := (s.dropCmd c.id).signal c

/-! ## The lease (R182, R183) -/

/-- A request comes to stand (R182). -/
def Serai.ask (k : Serai) (q : LeaseReq) : Serai := { k with reqs := k.reqs ++ [q] }

/-- A context that resumes asks for the lease it held (R183). -/
def State.askAgain (s : State) (cid : Nat) : State :=
  match (s.ctx cid).leaseWanted with
  | some (b, p) =>
    if isSerai cid then s.modSerai (seraiOf cid) fun k =>
      if k.reqs.any fun q => q.cid == cid then k else k.ask ⟨cid, p, 0, b, true, k.cyc⟩
    else s
  | none => s

/-- Priority of a request: one passed over 8 times counts as priority 4 (R182). -/
def LeaseReq.rank (q : LeaseReq) : Nat := if 8 ≤ q.passed then 4 else q.prio

/-- Place of a context in the round robin that starts after the last holder (R182). -/
def robinPlace (last : Option Nat) (cid : Nat) : Nat :=
  match last with
  | some l => (cid % 16 + 15 - l % 16) % 16
  | none => cid % 16

/-- The request that is granted (R182). -/
def Serai.winner (k : Serai) : Option LeaseReq :=
  k.reqs.foldl (fun b q => match b with
    | none => some q
    | some x =>
      if x.rank < q.rank || (x.rank = q.rank && robinPlace k.lastHolder q.cid < robinPlace k.lastHolder x.cid) then some q
      else b) none

/-- A grant is due (R182). -/
def Serai.grantDue (k : Serai) : Bool := k.lease.isNone && decide (k.grantFrom ≤ k.cyc) && !k.reqs.isEmpty

/-- A grant is due to a request that stood before this cycle (R182). -/
def Serai.grantOld (k : Serai) : Bool := k.grantDue && k.reqs.any fun (q : LeaseReq) => decide (q.since < k.cyc)

/-- LEASE_GRANT: one standing request is granted; its bundle may issue in this same cycle (R182, R183; DEDUCED, log 22). -/
def execLeaseGrant (serai : Nat) (s : State) : Res :=
  let k := s.serai serai
  match k.winner with
  | some q =>
    if !k.grantDue then .refused (.notEnabled "LEASE_GRANT") else
      let s := s.modSerai serai fun k =>
        { k with
          lease := some ⟨q.cid, if q.resume then q.budget else 0, q.prio, s.now⟩
          lastHolder := some q.cid
          reqs := (k.reqs.filter fun x => x.cid != q.cid).map fun x => { x with passed := x.passed + 1 } }
      .next (if q.resume then s.modCtx q.cid fun c => { c with leaseWanted := none } else s)
  | none => .refused (.notEnabled "LEASE_GRANT")

/-- Another request stands, and the holder has neither pushed an array command nor stood blocked on a full array queue for 256
ticks (R183; DEDUCED, log 22). -/
def State.leaseIdle (s : State) (serai : Nat) : Bool :=
  let k := s.serai serai
  match k.lease with
  | some l => decide (0 < l.budget) && !k.reqs.isEmpty && decide (l.idle + Config.baseCyclesPerTick * 256 ≤ s.now)
  | none => false

/-- LEASE_IDLE_EXPIRY (R183). -/
def execLeaseIdleExpiry (serai : Nat) (s : State) : Res :=
  if s.leaseIdle serai then .next (s.dropLease serai) else .refused (.notEnabled "LEASE_IDLE_EXPIRY")

/-! ## Flags, counters and the deferred record (R189, R201, R202, R219) -/

/-- Signal semaphore of a tail, if it signals. -/
def tailSignal (t : BitVec 24) : Option Nat := if tailInc t = 0 then none else some (tailSS t)

/-- The context of a completing command takes its flags; an enabled flag is recorded, or DN rises (R201, R202). -/
def Ctx.completed (c : Ctx) (copy : Bool) (number : Nat) (flags : BitVec 8) (sem : Option Nat) (cycle : Nat) : Ctx :=
  if !c.alive then c else
    let x : Finish := ⟨copy, number, flags, sem⟩
    let c := c.noteFinish cycle fun f => { f with list := f.list ++ [x] }
    ({ c with regs := { c.regs with mxstat := c.regs.mxstat ||| x.bits } } : Ctx).finishOne cycle x

/-- Counters of planes in a cycle (R189). -/
def Ctx.countPlanes (c : Ctx) (done skipped cycle : Nat) : Ctx :=
  if !c.alive then c else
    let c := c.noteFinish cycle fun f => { f with done := f.done + done, skipped := f.skipped + skipped }
    { c with regs := { c.regs with
        planesDone := c.regs.planesDone + BitVec.ofNat 64 done
        planesSkipped := c.regs.planesSkipped + BitVec.ofNat 64 skipped } }

/-- The counter of skipped steps rises in a cycle (R310). -/
def Ctx.countSkip (c : Ctx) (cycle : Nat) : Ctx :=
  if !c.alive then c else
    let c := c.noteFinish cycle fun f => { f with skips := f.skips + 1 }
    { c with regs := { c.regs with skips := c.regs.skips + 1 } }

/-- Place of a tile-store word in its group's store (R206). -/
def tsKey (row col : Nat) : Nat := 1024 * row + col

/-- Region of a command in the tile store: first row, rows, first column, columns (R212). -/
def CmdOp.region : CmdOp → Option (Nat × Nat × Nat × Nat)
  | .product _ _ _ pos w shA shB => some (posRow pos, shExt shA, posCol pos, accWords (pcwAcc w) * shExt shB)
  | .zero pos e => some (posRow pos, extRows e, posCol pos, extWords e)
  | .copy _ pos d _ _ => some (posRow pos, cpRows d, posCol pos, cpWords d)
  | _ => none

/-- Two commands of one group share a tile-store word (R212). -/
def Cmd.overlaps (a b : Cmd) : Bool :=
  a.gid == b.gid &&
    match a.op.region, b.op.region with
    | some (r, n, c, m), some (r', n', c', m') => rangesMeet r n r' n' && rangesMeet c m c' m'
    | _, _ => false

/-! ## What still completes while a consignment settles (R212, R282, R300, R358) -/

/-- The CLASS bit that counts the commands of a queue (R281). -/
def QueueId.cls : QueueId → Option Nat
  | .array _ => some 2
  | .tile _ => some 3
  | .copy _ => some 4
  | .drover _ => some 5
  | .step _ => some 6
  | .coll _ => some 7
  | .relay _ => none
  | .drain _ => none
  | .launch _ => none

/-- A drain awaits a command that has not started: in a suspend it cannot complete (R282, R358; DEDUCED, log 57). -/
def State.drainStuck (s : State) (c : Cmd) : Bool :=
  match c.op with
  | .drain cls _ _ _ _ =>
    s.cmds.any fun x => x.cid == c.cid && decide (x.id < c.id) && x.start.isNone &&
      (match x.queue.cls with | some k => cls.testBit k | none => false)
  | _ => false

/-- First chunk of a command. -/
def CmdOp.first : CmdOp → Nat
  | .drover _ _ k => k
  | _ => 0

/-- Ticks after a suspend or a kill in which a running chunk completes (R300, R358). -/
def chunkPatience : Nat := 200

/-- Fewer than `n` ticks have passed since the suspend or the kill of a command's consignment was asked for. -/
def State.settlesWithin (s : State) (c : Cmd) (n : Nat) : Bool :=
  match (s.ctx c.cid).cons.bind s.con? with
  | some x => decide (s.tick < x.asked + n)
  | none => false

/-! ## Array commands and copies that await each other while their consignment settles (R212, R222, R358; DEDUCED, log 58) -/

/-- A copy's tail may yet be satisfied while the consignment settles: a command of its group that still completes signals its semaphore.
Drover chunks and step-cache commands that run end within 200 ticks, tile commands, drains that await nothing queued, set-ups and launches
complete, an array command of the queue completes before the one that awaits the copy, and so does a copy ahead in its own queue (R212,
R222, R300, R320, R358; DEDUCED, log 58). -/
def State.mayYetSignal (s : State) (a y r : Cmd) : Bool :=
  r.gid == y.gid && tailInc r.tail != 0 && tailSS r.tail == tailWS y.tail &&
    match r.op with
    | .copy _ _ _ _ _ => r.queue == y.queue && decide (r.id < y.id)
    | .product _ _ _ _ _ _ _ => r.start.isSome && decide (r.id < a.id)
    | .zero _ _ => r.start.isSome && decide (r.id < a.id)
    | .drover _ _ first => r.start.isSome && (r.updating || r.work == first) && s.settlesWithin r chunkPatience
    | .step _ _ _ _ => r.updating
    | .drain _ _ _ _ _ => r.start.isSome && (r.updating || !s.drainStuck r)
    | _ => r.start.isSome

/-- Every copy of a serai's queue that stands before `x`, and `x` itself, has started, finds its wait tail satisfied, or may yet find it so
before array command `a` updates. -/
def State.copyPasses (s : State) (a x : Cmd) : Bool :=
  s.cmds.all fun y => !(y.queue == x.queue && decide (y.id ≤ x.id) && y.start.isNone) || s.tailHolds y || s.cmds.any fun r => s.mayYetSignal a y r

/-- An array command awaits an earlier copy of its region.  Once their consignment settles it awaits only one that can still run: a
pair that cannot go on ends there, and the copy is saved (R212, R222; DEDUCED, log 58). -/
def State.awaitsCopy (s : State) (a x : Cmd) : Bool :=
  x.queue == .copy (seraiOf a.cid) && decide (x.id < a.id) && x.overlaps a && (!s.stopping x || s.copyPasses a x)

/-- A running array command awaits this copy, or one behind it in the queue (DEDUCED, log 58). -/
def State.copyWanted (s : State) (c : Cmd) : Bool :=
  s.cmds.any fun a =>
    (match a.queue with | .array _ => true | _ => false) && a.start.isSome && !a.updating &&
      s.cmds.any fun x => x.queue == c.queue && decide (c.id ≤ x.id) && s.awaitsCopy a x

end Sys2Proof.Machine
end

