-- ==== Sys2Proof/Machine/Array.lean ====
section
/-! DEFINITION. The array: the operands of a command, its planes and budget, the block sum and its one rounding, and the events
of a command from start to completion (R184 to R201). -/

namespace Sys2Proof.Machine

open Sys2Proof

/-! ## Operands (R45, R46, R173) -/

/-- `w` bits from bit `pos` of a tile register. -/
def tileBits (m : Store 8) (pos w : Nat) : Nat := (leNat (m.bytes (pos / 8) (w / 8 + 2)) >>> (pos % 8)) % 2 ^ w

/-- Element (i, k) of an A tile (R173). -/
def aCode (m : Store 8) (w i k : Nat) : Nat := tileBits m (32 * w * i + w * k) w

/-- Element (k, j) of a B tile: bit `k` of each plane word of column `j` (R153, R173). -/
def bCode (m : Store 8) (w j k : Nat) : Nat :=
  (List.range w).foldl (fun x p => x + tileBits m (32 * w * j + 32 * p + k) 1 * 2 ^ p) 0

/-- Value of an element of a type of R171. -/
def tyValue (ty nbits code : Nat) : Fp :=
  if ty < 6 then mxValue ty code
  else if ty = 6 then .ofBits fmtB16 code
  else let v := intVal nbits true code; .fin ⟨decide (v < 0), v.natAbs, 0⟩

/-- Where the scale bytes of a latched tile stand. -/
def scaleBase : Nat := 32768

/-- Data and scale bytes of a tile register as a command latches them (R199). -/
def Ctx.latch (c : Ctx) (n : Nat) : Store 8 :=
  let pick (m : Store 8) (lo len base : Nat) : Store 8 :=
    (m.filter fun x => decide (lo ≤ x.1) && decide (x.1 < lo + len)).map fun x => (x.1 - lo + base, x.2)
  pick c.tile (32768 * n) 32768 0 ++ pick c.tileScale (256 * n) 256 scaleBase

/-! ## Structured sparsity (R197) -/

/-- Metadata string of column `j`: bits [31:16] of plane words 0 to 3. -/
def nmMeta (m : Store 8) (w j : Nat) : Nat :=
  (List.range 4).foldl (fun x p => x + tileBits m (32 * w * j + 32 * p + 16) 16 * 2 ^ (16 * p)) 0

/-- The elements of column `j` that take part, as pairs of A position and B element, and whether a group is illegal. -/
def colPairs (kind sm K : Nat) (m : Store 8) (w j : Nat) : List (Nat × Nat) × Bool :=
  if kind ≠ 2 then ((List.range K).map fun k => (k, k), false)
  else
    let span := if sm = 1 then 4 else 8
    let G := span / 2
    let md := nmMeta m w j
    let groups := (List.range (16 / G)).map fun g =>
      let ts := (List.range G).map fun i => G * g + i
      let idx := ts.map fun t => bitsOf md (4 * t) 4
      let ok := (idx.all fun x => decide (x < span)) && idx.eraseDups.length == G
      (ts.zip idx, ok, g)
    (groups.flatMap fun x => if x.2.1 then x.1.map fun y => (span * x.2.2 + y.2, y.1) else [], groups.any fun x => !x.2.1)

/-! ## Planes (R187) -/

/-- Plane count of a B type. -/
def planeCount (ty nb : Nat) : Nat :=
  match ty with | 0 => 4 | 1 => 3 | 2 => 4 | 3 => 3 | 4 => 2 | 5 => 8 | 6 => 8 | _ => nb

/-- Truncate to a multiple of `2 ^ cut`. -/
def truncPlane (m cut : Nat) : Nat := (m >>> cut) <<< cut

/-- A column as the planes see it: its pairs with the B values after truncation, its plane count and whether its metadata is
illegal. -/
structure Column where
  pairs : List (Nat × Fp)
  planes : Nat
  nmv : Bool
  deriving DecidableEq, Repr

/-- Fields of a product command. -/
structure Prod where
  kind : Nat
  pos : Word
  w : Word
  shA : Word
  shB : Word
  deriving DecidableEq, Repr

/-- B type of a product. -/
def Prod.bty (p : Prod) : Nat := wbits p.w 4 4
/-- A type of a product. -/
def Prod.aty (p : Prod) : Nat := wbits p.w 0 4
/-- Encoding width of B. -/
def Prod.wB (p : Prod) : Nat := tyWidth p.bty (wbits p.w 8 6)
/-- Encoding width of A. -/
def Prod.wA (p : Prod) : Nat := tyWidth p.aty (shNbits p.shA)
/-- Plane count of the B type. -/
def Prod.ptype (p : Prod) : Nat := planeCount p.bty (wbits p.w 8 6)

/-- Column `j` of a product (R187). -/
def Prod.column (p : Prod) (latB : Store 8) (j : Nat) : Column :=
  let (ks, nmv) := colPairs p.kind (wbits p.w 25 3) (shK p.shA) latB p.wB j
  let dead := p.bty < 6 && (latB.get (scaleBase + j)).toNat = 0xFF
  let vals := ks.map fun x => (x.1, tyValue p.bty (wbits p.w 8 6) (bCode latB p.wB j x.2))
  let mag (f : Fp) : Nat := if dead then 0 else match f with | .fin d => d.man | _ => 0
  let all := vals.foldl (fun a x => a ||| mag x.2) 0
  let budget := wbits p.w 14 6
  let cut := if all = 0 || budget = 0 then 0 else Nat.log2 all + 1 - budget
  let cutFp (f : Fp) : Fp := match f with | .fin d => if dead then f else .fin { d with man := truncPlane d.man cut } | g => g
  let kept := truncPlane all cut
  let planes :=
    if wbits p.w 20 1 = 1 then (if all = 0 then 0 else Nat.log2 all + 1 - trailingZeros 64 kept) else p.ptype - cut
  ⟨vals.map fun x => (x.1, cutFp x.2), planes, nmv⟩

/-- The columns of a product. -/
def Prod.columns (p : Prod) (latB : Store 8) : List Column := (List.range (shExt p.shB)).map (p.column latB)

/-! ## The block sum (R190) -/

/-- What a block sum comes to: NaN, invalid, signalling seen, and the sum. -/
structure Block where
  nan : Bool
  inv : Bool
  sn : Bool
  sum : Fp
  deriving DecidableEq, Repr

/-- Truncate a product toward zero at weight `2 ^ g`. -/
def Dy.truncAt (d : Dy) (g : Int) : Dy :=
  if g ≤ d.exp then d else ⟨d.neg, d.man >>> (g - d.exp).toNat, g⟩

/-- Products of bfloat16 after the one truncation before rounding. -/
def truncProducts (bty : Nat) (ds : List Dy) : List Dy :=
  if bty ≠ 6 then ds
  else match blockTop (ds.map Fp.fin) with
    | none => ds
    | some E => ds.map fun d => if d.man = 0 then d else d.truncAt (E - 48)

/-- Value of an infinity or a finite datum times another; none where one is infinite and the other zero. -/
def mulFp (x y : Fp) : Option Fp :=
  match x, y with
  | .fin a, .fin b => some (.fin (a.mul b))
  | .inf n, y => if y.isZero then none else some (.inf (n != y.negative))
  | x, .inf n => if x.isZero then none else some (.inf (n != x.negative))
  | x, _ => some x

/-- The block sum of output (i, j) (R190). -/
def Prod.blockSum (p : Prod) (latA latB : Store 8) (c : Column) (i j : Nat) : Block :=
  let sa := (latA.get (scaleBase + i)).toNat
  let sb := (latB.get (scaleBase + j)).toNat
  let mx := p.aty < 6
  let xs := c.pairs.map fun q => (tyValue p.aty (shNbits p.shA) (aCode latA p.wA i q.1), q.2)
  let nans := xs.flatMap fun q => [q.1, q.2].filter Fp.isNan
  let sn := !mx && nans.any Fp.signalling
  let nan := (mx && (sa = 0xFF || sb = 0xFF)) || !nans.isEmpty
  let prods := (xs.filter fun q => !q.1.isNan && !q.2.isNan).map fun q => mulFp q.1 q.2
  let vals := prods.filterMap id
  let pinf := vals.any fun v => v == .inf false
  let ninf := vals.any fun v => v == .inf true
  let inv := (prods.any Option.isNone) || (!nan && pinf && ninf)
  let neg := wbits p.w 24 1 = 1
  let sum : Fp :=
    if pinf then .inf neg
    else if ninf then .inf (!neg)
    else
      let ds := truncProducts p.bty (vals.filterMap fun v => match v with | .fin d => some d | _ => none)
      let d := ds.foldl (Dy.add 0) ⟨false, 0, 0⟩
      if d.man = 0 then .fin ⟨false, 0, 0⟩
      else .fin ⟨d.neg != neg, d.man, if mx then d.exp + (sa : Int) - 127 + sb - 127 else d.exp⟩
  ⟨nan, inv, sn, sum⟩

/-! ## The update (R191, R192) -/

/-- Flags of a command as MXSTAT places them. -/
def mxFlag (i : Nat) (b : Bool) : BitVec 8 := if b then (1 : BitVec 8) <<< i else 0

/-- Update of a binary32 accumulator (R191). -/
def updateFp (ovw : Bool) (b : Block) (old : Nat) : Nat × BitVec 8 :=
  let x := Fp.ofBits fmt32 old
  let round (v : Fp) : Nat × FpFlags := match v with
    | .fin d => roundTo fmt32 0 d
    | .inf n => (fmt32.signBit n + fmt32.infCode, 0)
    | .nan _ _ => (fmt32.canonNan, 0)
  let (r, inv, sn, f) : Nat × Bool × Bool × FpFlags :=
    if b.nan || b.inv then (fmt32.canonNan, b.inv, b.sn, 0)
    else if ovw then let (r, f) := round b.sum; (r, false, b.sn, f)
    else match x, b.sum with
      | .nan _ _, _ => (fmt32.canonNan, false, b.sn || x.signalling, 0)
      | .inf m, .inf n => if m = n then (old, false, b.sn, 0) else (fmt32.canonNan, true, b.sn, 0)
      | .inf _, _ => (old, false, b.sn, 0)
      | .fin _, .inf n => let (r, f) := round (.inf n); (r, false, b.sn, f)
      | .fin d, .fin e => let (r, f) := roundTo fmt32 0 (Dy.add 0 d e); (r, false, b.sn, f)
      | .fin _, .nan _ _ => (fmt32.canonNan, false, b.sn, 0)
  (r, f.setWidth 8 ||| mxFlag 0 (inv || sn) ||| mxFlag 5 sn)

/-- Update of an integer accumulator of `w` bits (R192). -/
def updateInt (w : Nat) (ovw : Bool) (b : Block) (old : Nat) : Nat × BitVec 8 :=
  let sum : Int := match b.sum with | .fin d => d.onGrid (min d.exp 0) | _ => 0
  let y := (if ovw then 0 else intVal w true old) + sum
  (intCode w y, mxFlag 6 (y < typeMin w true || typeMax w true < y))

/-- Words of the tile store as one number, low word first. -/
def tsRead (ts : Store 32) (row col n : Nat) : Nat :=
  (List.range n).foldl (fun x k => x + (ts.get (tsKey row (col + k))).toNat * 2 ^ (32 * k)) 0

/-- Write a number into tile-store words, low word first. -/
def tsWrite (ts : Store 32) (row col n v : Nat) : Store 32 :=
  (List.range n).foldl (fun m k => m.set (tsKey row (col + k)) (BitVec.ofNat 32 (v >>> (32 * k)))) ts

/-- Update of one output (R186, R191, R192). -/
def Prod.updateOne (p : Prod) (latA latB : Store 8) (acc : Store 32 × BitVec 8) (i : Nat) (cj : Nat × Column) :
    Store 32 × BitVec 8 :=
  let n := accWords (pcwAcc p.w)
  let row := posRow p.pos + i
  let col := posCol p.pos + n * cj.1
  let b := p.blockSum latA latB cj.2 i cj.1
  let old := tsRead acc.1 row col n
  let ovw := wbits p.w 23 1 = 1
  let (r, f) := if pcwAcc p.w = 0 then updateFp ovw b old else updateInt (32 * n) ovw b old
  (tsWrite acc.1 row col n r, acc.2 ||| f)

/-- All updates of a product, rows and then columns ascending; an absent row-block is left alone (R194, R196). -/
def Prod.update (p : Prod) (latA latB : Store 8) (present : List Bool) (ts : Store 32) : Store 32 × BitVec 8 :=
  let cols := (List.range (shExt p.shB)).zip (p.columns latB)
  let nm := mxFlag 7 (cols.any fun c => c.2.nmv)
  (List.range (shExt p.shA)).foldl (fun acc i =>
    if p.kind = 1 && !((present[i / 32]?).getD false) then acc
    else cols.foldl (fun acc cj => p.updateOne latA latB acc i cj) acc) (ts, nm)

/-! ## The mask of `mma.bs` (R195) -/

/-- A mask entry of `n` bytes, or none beyond SPLIM. -/
def Group.maskRead (g : Group) (a n : Nat) : Option Nat := if a + n ≤ g.spLim then some (leNat (g.sp.bytes a n)) else none

/-- What a cycle of the search brings: the row-block is decided, or a range is left (R195). -/
inductive Probed where
  | found (present : Bool)
  | left (range : Nat × Nat × Nat)
  deriving DecidableEq, Repr

/-- An empty range decides the row-block. -/
def probeRange (ci first last : Nat) : Probed := if last ≤ first then .found false else .left (ci, first, last)

/-- The first cycle of a row-block: the header and its row pointers (R195). -/
def Group.probeHead (g : Group) (pos : Word) (q : Nat) : Probed :=
  let base := 16 * wbits pos 20 20
  let r := wbits pos 40 12 + q
  match g.maskRead base 4, g.maskRead (base + 4) 4 with
  | some nr, some cioff =>
    if nr ≤ r then .found false
    else match g.maskRead (base + 8 + 4 * r) 4, g.maskRead (base + 12 + 4 * r) 4 with
      | some first, some last => probeRange (base + cioff) first last
      | _, _ => .found false
  | _, _ => .found false

/-- One probe (R195). -/
def Group.probeOnce (g : Group) (kb : Nat) (range : Nat × Nat × Nat) : Probed :=
  let (ci, first, last) := range
  let mid := (first + last) / 2
  match g.maskRead (ci + 2 * mid) 2 with
  | none => .found false
  | some x => if x = kb then .found true else if x < kb then probeRange ci (mid + 1) last else probeRange ci first mid

/-- One cycle of the mask phase (DESIGN CHOICE, log 41). -/
def Group.probeStep (g : Group) (pos : Word) (p : Probe) : Probed :=
  match p.range with
  | none => g.probeHead pos p.q
  | some r => g.probeOnce (wbits pos 52 12) r

/-- The rest of a row-block, as the scratchpad stands: presence and cycles; a search takes at most 32 probes (R195). -/
def Group.probeBlock (g : Group) (pos : Word) : Nat → Probe → Bool × Nat
  | 0, _ => (false, 0)
  | fuel + 1, p =>
    match g.probeStep pos p with
    | .found b => (b, 1)
    | .left r => let (b, n) := Group.probeBlock g pos fuel { p with range := some r }; (b, n + 1)

/-- Row-blocks of an `mma.bs` (R195). -/
def rowBlocks (shA : Word) : Nat := (shExt shA + 31) / 32

/-- The rest of the search, row-block by row-block, as the scratchpad stands (R195). -/
def Group.probeRest (g : Group) (pos shA : Word) (p : Probe) : List (Bool × Nat) :=
  g.probeBlock pos 34 p :: (List.range (rowBlocks shA - 1 - p.q)).map fun i => g.probeBlock pos 34 ⟨p.q + 1 + i, none⟩

/-! ## Events (R199, R200) -/

/-- Product fields of a command. -/
def CmdOp.prod? : CmdOp → Option Prod
  | .product k _ _ pos w shA shB => some ⟨k, pos, w, shA, shB⟩
  | _ => none

/-- Tile registers an array command reads. -/
def CmdOp.tiles : CmdOp → List Nat
  | .product _ ta tb _ _ _ _ => [ta, tb]
  | _ => []

/-- Every `tld` to the command's tiles that its context issued earlier has completed (R174 item 1). -/
def State.tilesLoaded (s : State) (c : Cmd) : Bool :=
  !s.cmds.any fun x => x.cid == c.cid && decide (x.id < c.id) &&
    (match x.op with | .tile false n _ _ _ _ => c.op.tiles.contains n | _ => false)

/-- Occupancy O of a started command: `occ` once its search is over, else what the scratchpad as it stands makes it (R199, R200;
DESIGN CHOICE, log 41). -/
def State.arrayOcc (s : State) (c : Cmd) : Nat :=
  match c.probe, c.op with
  | some p, .product _ _ _ pos _ shA _ =>
    let rest := (s.group c.gid).probeRest pos shA p
    (rest.map (·.2)).foldl (· + ·) c.occ + (if c.present.any id || rest.any (·.1) then c.aux else 0)
  | _, _ => c.occ

/-- The command before it in the array leaves room (R200). -/
def State.arrayRoom (s : State) (c : Cmd) : Bool :=
  (s.running c.queue).all fun x => decide (x.start.getD 0 + max 12 (s.arrayOcc x) ≤ s.unitCycle c.queue)

/-- The next array command may start (R200). -/
def State.arrayStart? (s : State) (serai : Nat) : Option Cmd :=
  match s.nextCmd (.array serai) with
  | some c => if s.mayStart c && s.tilesLoaded c && s.arrayRoom c then some c else none
  | none => none

/-- Rows and columns of the outputs that a poisoned tile element or scale byte reaches; a type without scales reads none (R171, R372). -/
def State.poisonedOutputs (s : State) (c : Cmd) (p : Prod) (ta tb : Nat) : List Nat × List Nat :=
  let hits (reg w : Nat) (shape : Word) : List Nat :=
    s.poison.filterMap fun x => match x with
      | .tile cid b => if cid = c.cid && b / 262144 = reg then some (b % 262144 / (32 * w)) else none
      | .tileScale cid i => if cid = c.cid && i / 256 = reg && decide (shType shape < 6) then some (i % 256) else none
      | _ => none
  (hits ta p.wA p.shA, hits tb p.wB p.shB)

/-- What a command latches; its mask search lies ahead, and `aux` is what its planes will take (R199; DESIGN CHOICE, log 41). -/
def State.arrayLatch (s : State) (c : Cmd) : Cmd :=
  match c.op with
  | .product kind ta tb pos w shA shB =>
    let x := s.ctx c.cid
    let p : Prod := ⟨kind, pos, w, shA, shB⟩
    let latB := x.latch tb
    let pmax := ((p.columns latB).map (·.planes)).foldl max 0
    let planes := (if kind = 2 then 16 else shK shA) * ((pmax + 1) / 2)
    let search := kind = 1 && 0 < rowBlocks shA
    { c with
      latA := x.latch ta
      latB := latB
      struck := s.poisonedOutputs c p ta tb
      probe := if search then some ⟨0, none⟩ else none
      aux := planes
      occ := if search then 0 else planes }
  | _ => c

/-- Bytes of the mask that a cycle of the search reads (R195). -/
def Group.probeReads (g : Group) (pos : Word) (p : Probe) : List (Nat × Nat) :=
  match p.range with
  | none =>
    let base := 16 * wbits pos 20 20
    let r := wbits pos 40 12 + p.q
    (base, 8) :: (match g.maskRead base 4 with | some nr => if r < nr then [(base + 8 + 4 * r, 8)] else [] | none => [])
  | some (ci, first, last) => [(ci + 2 * ((first + last) / 2), 2)]

/-- A command after the cycle of its mask phase: poison that the search meets reaches every output of the row-block (R195, R199,
R372). -/
def State.probed (s : State) (c : Cmd) : Cmd :=
  match c.probe, c.op with
  | some p, .product _ _ _ pos _ shA _ =>
    let hit := ((s.group c.gid).probeReads pos p).any fun r => s.padPoisoned c.gid false r.1 r.2
    let c := if hit then { c with masked := p.q :: c.masked } else c
    (match (s.group c.gid).probeStep pos p with
     | .left r => { c with occ := c.occ + 1, probe := some { p with range := some r } }
     | .found b =>
       let present := c.present ++ [b]
       if p.q + 1 < rowBlocks shA then { c with occ := c.occ + 1, present := present, probe := some ⟨p.q + 1, none⟩ }
       else { c with occ := c.occ + 1 + (if present.any id then c.aux else 0), present := present, probe := none })
  | _, _ => c

/-- The commands whose mask phase takes a step in this cycle: the phase follows the 12 cycles of the latch (R199). -/
def State.maskSteps (s : State) : State :=
  if s.cmds.any fun c => c.probe.isSome then
    { s with cmds := s.cmds.map fun c =>
        match c.start with
        | some t => if c.probe.isSome && decide (t + 12 + c.occ ≤ s.unitCycle c.queue) then s.probed c else c
        | none => c }
  else s

/-- ARRAY_COMMAND_START (R199, R200, R270). -/
def execArrayCommandStart (serai : Nat) (s : State) : Res :=
  match s.arrayStart? serai with
  | some c => .next (s.startCmd c fun x => s.arrayLatch x)
  | none => .refused (.notEnabled "ARRAY_COMMAND_START")

/-- The array command whose update begins now: first in its queue, its planes done, and no earlier copy of its region under
way (R200, R212). -/
def State.updateBegin? (s : State) (serai : Nat) : Option Cmd :=
  match (s.cmds.find? fun c => c.queue == .array serai && c.op != .marker) with
  | some c =>
    match c.start with
    | some t =>
      let wait := s.cmds.any fun x => s.awaitsCopy c x
      if !c.updating && c.probe.isNone && decide (t + 12 + c.occ ≤ s.unitCycle c.queue) && !wait then some c else none
    | none => none
  | none => none

/-- ARRAY_UPDATE_BEGIN (R199, R200, R212). -/
def execArrayUpdateBegin (serai : Nat) (s : State) : Res :=
  match s.updateBegin? serai with
  | some c => .next (s.modCmd c.id fun x => { x with updating := true, due := s.unitCycle c.queue + 12 })
  | none => .refused (.notEnabled "ARRAY_UPDATE_BEGIN")

/-- The array command that completes now. -/
def State.arrayDone? (s : State) (serai : Nat) : Option Cmd :=
  s.cmds.find? fun c => c.queue == .array serai && c.updating && decide (c.due ≤ s.unitCycle c.queue)

/-- Zero words of `mzero` (R198). -/
def zeroRegion (ts : Store 32) (pos e : Word) : Store 32 :=
  ts.clear fun k =>
    let row := k / 1024
    let col := k % 1024
    decide (posRow pos ≤ row) && decide (row < posRow pos + extRows e) && decide (posCol pos ≤ col) &&
      decide (col < posCol pos + extWords e)

/-- Plane counts of a completed product: done and skipped (R188, R189). -/
def Prod.planeSums (p : Prod) (latB : Store 8) (run : Bool) : Nat × Nat :=
  let ps := (p.columns latB).map (·.planes)
  let done := if run then ps.foldl (· + ·) 0 else 0
  (done, p.ptype * shExt p.shB - done)

/-- Poison of the tile store after a product: outputs that poison reaches take it, by the mask those of an absent row-block too; others
that are overwritten lose it; an absent row-block is left alone (R194, R372). -/
def State.poisonProduct (s : State) (c : Cmd) (p : Prod) : State :=
  if s.poison.isEmpty && c.struck.1.isEmpty && c.struck.2.isEmpty && c.masked.isEmpty then s else
    let n := accWords (pcwAcc p.w)
    let acts (i : Nat) : Bool := p.kind != 1 || c.present.getD (i / 32) false
    let struck (i j : Nat) : Bool := c.masked.contains (i / 32) || (acts i && (c.struck.1.contains i || c.struck.2.contains j))
    let outs := (List.range (shExt p.shA)).flatMap fun i => (List.range (shExt p.shB)).flatMap fun j =>
      if struck i j then
        (List.range n).map fun k => Place.tileStore c.gid (tsKey (posRow p.pos + i) (posCol p.pos + n * j + k))
      else []
    let mine (x : Place) : Bool := match x with
      | .tileStore g k =>
        g == c.gid && decide (posRow p.pos ≤ k / 1024) && decide (k / 1024 < posRow p.pos + shExt p.shA) &&
          acts (k / 1024 - posRow p.pos) && decide (posCol p.pos ≤ k % 1024) &&
          decide (k % 1024 < posCol p.pos + n * shExt p.shB)
      | _ => false
    let keep := if wbits p.w 23 1 = 1 then s.poison.filter fun x => !mine x else s.poison
    { s with poison := (keep ++ outs).eraseDups }

/-- ARRAY_COMMAND_COMPLETE (R189 to R192, R198 to R202; DESIGN CHOICE, log 41). -/
def execArrayCommandComplete (serai : Nat) (s : State) : Res :=
  match s.arrayDone? serai with
  | none => .refused (.notEnabled "ARRAY_COMMAND_COMPLETE")
  | some c =>
    let cycle := s.unitCycle c.queue
    match c.op with
    | .product kind _ _ pos w shA shB =>
      let p : Prod := ⟨kind, pos, w, shA, shB⟩
      let (ts, flags) := p.update c.latA c.latB c.present (s.group c.gid).ts
      let run := kind ≠ 1 || c.present.any id
      let flags := if run then flags else 0
      let (done, skipped) := p.planeSums c.latB run
      let s := (s.poisonProduct c p).modGroup c.gid fun g => { g with ts := ts }
      let s := s.modCtx c.cid fun x =>
        (x.countPlanes done skipped cycle).completed false c.number flags (tailSignal c.tail) cycle
      .next (s.endCmd c)
    | .zero pos e =>
      let s := s.modGroup c.gid fun g => { g with ts := zeroRegion g.ts pos e }
      let s := { s with poison := s.poison.filter fun x => match x with
        | .tileStore g k => !(g == c.gid && ((zeroRegion [(k, 1#32)] pos e).isEmpty))
        | _ => true }
      let s := s.modCtx c.cid fun x => x.completed false c.number 0 (tailSignal c.tail) cycle
      .next (s.endCmd c)
    | _ => .next (s.endCmd c)

/-- The marker of an `mfree` that has reached the head of the queue. -/
def State.markerDue? (s : State) (serai : Nat) : Option Cmd :=
  match s.cmds.find? fun c => c.queue == .array serai with
  | some c => if c.op == .marker && s.pushedLongEnough c && !s.stopping c then some c else none
  | none => none

/-- MFREE_MARKER_SIGNAL (R180). -/
def execMfreeMarkerSignal (serai : Nat) (s : State) : Res :=
  match s.markerDue? serai with
  | some c => .next (s.endCmd c)
  | none => .refused (.notEnabled "MFREE_MARKER_SIGNAL")

end Sys2Proof.Machine
end

