-- ==== Sys2Proof/Decode.lean ====
section
/-! DEFINITION. The decoder and the encoder of slot words and bundles, from the formats of R55 to R66 and the opcode map
of R71.  Decoding is total: a word that is no instruction is rejected by name.  The encoder stands after the decoder. -/

namespace Sys2Proof

/-- Why a slot word is no instruction. -/
inductive DecodeError where
  /-- R53: the opcode is assigned to nothing in its slot. -/
  | unassigned (slot opcode : Nat)
  /-- R265, R396: the variant field holds its reserved value. -/
  | reservedVariant (slot opcode : Nat)
  /-- A slot number above 7. -/
  | noSuchSlot (slot : Nat)
  deriving DecidableEq, Repr

/-- Major opcode of a slot word (R51). -/
def opcodeOf (w : BitVec 64) : BitVec 8 := w.extractLsb' 56 8

/-- Every bit of a slot word under its opcode. -/
def bodyOf (w : BitVec 64) : BitVec 56 := w.extractLsb' 0 56

/-- S-slot fields of a word (R55). -/
def SW.ofWord (w : BitVec 64) : SW where
  sd := w.extractLsb' 50 6
  sa := w.extractLsb' 44 6
  sb := w.extractLsb' 38 6
  fn := w.extractLsb' 32 6
  imm := w.extractLsb' 0 32

/-- VA or VB fields of a word (R57). -/
def VW.ofWord (slotB : Bool) (w : BitVec 64) : VW where
  slotB := slotB
  vd := w.extractLsb' 46 10
  va := w.extractLsb' 36 10
  vb := w.extractLsb' 26 10
  vc := w.extractLsb' 16 10
  sel := w.extractLsb' 13 3
  ty := w.extractLsb' 9 4
  bcb := w.extractLsb' 8 1
  fn := w.extractLsb' 0 8

/-- M-slot fields of a word (R60). -/
def MW.ofWord (w : BitVec 64) : MW where
  ta := w.extractLsb' 52 4
  tb := w.extractLsb' 48 4
  ar := w.extractLsb' 43 5
  sp := w.extractLsb' 37 6
  flags := w.extractLsb' 24 13
  tail := w.extractLsb' 0 24

/-- L- or T-slot fields of a word (R61). -/
def LW.ofWord (w : BitVec 64) : LW where
  dr := w.extractLsb' 46 10
  ab := w.extractLsb' 41 5
  si := w.extractLsb' 35 6
  off := w.extractLsb' 11 24
  fn := w.extractLsb' 3 8
  sc := w.extractLsb' 0 3

/-- C-slot fields of a word (R63). -/
def CW.ofWord (w : BitVec 64) : CW where
  ca := w.extractLsb' 51 5
  cb := w.extractLsb' 46 5
  cs := w.extractLsb' 40 6
  ci := w.extractLsb' 24 16
  tail := w.extractLsb' 0 24

/-- Y-slot fields of a word (R66). -/
def YW.ofWord (w : BitVec 64) : YW where
  yws := w.extractLsb' 48 8
  ywt := w.extractLsb' 38 10
  bv := w.extractLsb' 37 1
  bi := w.extractLsb' 31 6
  lff := w.extractLsb' 30 1
  lfl := w.extractLsb' 29 1
  lvl := w.extractLsb' 26 3
  rm := w.extractLsb' 25 1
  rsv := w.extractLsb' 24 1
  co := w.extractLsb' 0 24

/-- Opcode map of the S slot (R71). -/
def decodeS (w : BitVec 64) : Except DecodeError Instr :=
  let x := SW.ofWord w
  match (opcodeOf w).toNat with
  | 0x01 => .ok (.add x)
  | 0x02 => .ok (.sub x)
  | 0x03 => .ok (.and x)
  | 0x04 => .ok (.or x)
  | 0x05 => .ok (.xor x)
  | 0x06 => .ok (.andn x)
  | 0x07 => .ok (.shl x)
  | 0x08 => .ok (.shr x)
  | 0x09 => .ok (.sra x)
  | 0x0A => .ok (.rotl x)
  | 0x0B => .ok (.min x)
  | 0x0C => .ok (.max x)
  | 0x0D => .ok (.scmp x)
  | 0x0E => .ok (.sel x)
  | 0x0F => .ok (.li x)
  | 0x10 => .ok (.lih x)
  | 0x11 => .ok (.addi x)
  | 0x12 => .ok (.mov x)
  | 0x13 => .ok (.clz x)
  | 0x14 => .ok (.ctz x)
  | 0x15 => .ok (.popc x)
  | 0x16 => .ok (.bfx x)
  | 0x17 => .ok (.bfi x)
  | 0x18 => .ok (.s2a x)
  | 0x19 => .ok (.a2s x)
  | 0x20 => .ok (.mul x)
  | 0x21 => .ok (.mulh x)
  | 0x22 => .ok (.div x)
  | 0x23 => .ok (.rem x)
  | 0x28 => .ok (.mfc x)
  | 0x29 => .ok (.mtc x)
  | 0x30 => .ok (.faddD x)
  | 0x31 => .ok (.fsubD x)
  | 0x32 => .ok (.fmulD x)
  | 0x33 => .ok (.fmaD x)
  | 0x34 => .ok (.fdivD x)
  | 0x35 => .ok (.fsqrtD x)
  | 0x36 => .ok (.fminD x)
  | 0x37 => .ok (.fmaxD x)
  | 0x38 => .ok (.fcmpD x)
  | 0x39 => .ok (.fclassD x)
  | 0x3A => .ok (.fcvt x)
  | op => .error (.unassigned 0 op)

/-- Opcode map of the VA and VB slots (R71). -/
def decodeV (slotB : Bool) (w : BitVec 64) : Except DecodeError Instr :=
  let x := VW.ofWord slotB w
  match (opcodeOf w).toNat with
  | 0x01 => .ok (.vadd x)
  | 0x02 => .ok (.vsub x)
  | 0x03 => .ok (.vand x)
  | 0x04 => .ok (.vor x)
  | 0x05 => .ok (.vxor x)
  | 0x06 => .ok (.vshl x)
  | 0x07 => .ok (.vshr x)
  | 0x08 => .ok (.vsra x)
  | 0x09 => .ok (.vmin x)
  | 0x0A => .ok (.vmax x)
  | 0x0B => .ok (.vabs x)
  | 0x0C => .ok (.vneg x)
  | 0x0D => .ok (.vcmp x)
  | 0x0E => .ok (.vsel x)
  | 0x0F => .ok (.vclz x)
  | 0x10 => .ok (.vpopc x)
  | 0x11 => .ok (.vidx x)
  | 0x12 => .ok (.vmov x)
  | 0x13 => .ok (.vsplat x)
  | 0x18 => .ok (.vmul x)
  | 0x19 => .ok (.vmulh x)
  | 0x1A => .ok (.vmadd x)
  | 0x20 => .ok (.vfadd x)
  | 0x21 => .ok (.vfsub x)
  | 0x22 => .ok (.vfmin x)
  | 0x23 => .ok (.vfmax x)
  | 0x24 => .ok (.vfcmp x)
  | 0x25 => .ok (.vfmul x)
  | 0x26 => .ok (.vfma x)
  | 0x27 => .ok (.vfms x)
  | 0x28 => .ok (.vfnma x)
  | 0x29 => .ok (.vfdiv x)
  | 0x2A => .ok (.vfsqrt x)
  | 0x2B => .ok (.vfclass x)
  | 0x30 => .ok (.vcvt x)
  | 0x31 => .ok (.vmxpack x)
  | 0x32 => .ok (.vmxunpack x)
  | 0x38 => .ok (.vred x)
  | 0x39 => .ok (.vscan x)
  | 0x3A => .ok (.vperm x)
  | 0x3B => .ok (.vrot x)
  | 0x3C => .ok (.vext x)
  | 0x3D => .ok (.v2s x)
  | 0x40 => .ok (.vhashSrp x)
  | 0x48 => .ok (.mpush x)
  | 0x49 => .ok (.minv x)
  | 0x4A => .ok (.mpop x)
  | 0x4B => .ok (.mand x)
  | 0x4C => .ok (.mor x)
  | 0x4D => .ok (.mcnt x)
  | op => .error (.unassigned (if slotB then 2 else 1) op)

/-- Opcode map of the M slot (R71). -/
def decodeM (w : BitVec 64) : Except DecodeError Instr :=
  let x := MW.ofWord w
  match (opcodeOf w).toNat with
  | 0x01 => .ok (.mlease x)
  | 0x02 => .ok (.mfree x)
  | 0x03 => .ok (.tld x)
  | 0x04 => .ok (.tst x)
  | 0x08 => .ok (.mma x)
  | 0x09 => .ok (.mmaBs x)
  | 0x0A => .ok (.mmaNm x)
  | 0x0B => .ok (.mzero x)
  | 0x10 => .ok (.tsld x)
  | 0x11 => .ok (.tsst x)
  | op => .error (.unassigned 3 op)

/-- Opcode map of the L slot (R71). -/
def decodeL (w : BitVec 64) : Except DecodeError Instr :=
  let x := LW.ofWord w
  match (opcodeOf w).toNat with
  | 0x01 => .ok (.ld x)
  | 0x02 => .ok (.vld x)
  | 0x03 => .ok (.vlds x)
  | 0x04 => .ok (.vldx x)
  | 0x08 => .ok (.ldf x)
  | 0x09 => .ok (.vldf x)
  | 0x0A => .ok (.popf x)
  | 0x0B => .ok (.vpopf x)
  | 0x10 => .ok (.rlyTake x)
  | op => .error (.unassigned 4 op)

/-- Opcode map of the T slot (R71); the fence variant stands in FN[1:0] (R265). -/
def decodeT (w : BitVec 64) : Except DecodeError Instr :=
  let x := LW.ofWord w
  match (opcodeOf w).toNat with
  | 0x01 => .ok (.st x)
  | 0x02 => .ok (.vst x)
  | 0x03 => .ok (.vsts x)
  | 0x04 => .ok (.vstx x)
  | 0x05 => .ok (.rlyGive x)
  | 0x08 => .ok (.stg x)
  | 0x09 => .ok (.vstg x)
  | 0x10 => .ok (.amoAdd x)
  | 0x11 => .ok (.amoMin x)
  | 0x12 => .ok (.amoMax x)
  | 0x13 => .ok (.amoAnd x)
  | 0x14 => .ok (.amoOr x)
  | 0x15 => .ok (.amoXor x)
  | 0x16 => .ok (.amoSwap x)
  | 0x17 => .ok (.amoCas x)
  | 0x18 => .ok (.amoFadd x)
  | 0x20 =>
    match (x.fn.extractLsb' 0 2).toNat with
    | 1 => .ok (.fenceAcq x)
    | 2 => .ok (.fenceRel x)
    | 3 => .ok (.fenceAr x)
    | _ => .error (.reservedVariant 5 0x20)
  | op => .error (.unassigned 5 op)

/-- Opcode map of the C slot (R71); the reduction mode stands in CI[1:0] (R396). -/
def decodeC (w : BitVec 64) : Except DecodeError Instr :=
  let x := CW.ofWord w
  match (opcodeOf w).toNat with
  | 0x01 => .ok (.rlyInit x)
  | 0x08 => .ok (.cpLin x)
  | 0x09 => .ok (.cpTen x)
  | 0x0A => .ok (.cpGat x)
  | 0x0B => .ok (.cpSct x)
  | 0x0C => .ok (.cpFill x)
  | 0x10 => .ok (.drain x)
  | 0x18 => .ok (.scProbe x)
  | 0x19 => .ok (.scCommit x)
  | 0x1A => .ok (.scDrop x)
  | 0x20 =>
    match (x.ci.extractLsb' 0 2).toNat with
    | 0 => .ok (.colRedRoot x)
    | 1 => .ok (.colRedAll x)
    | 2 => .ok (.colRedScat x)
    | _ => .error (.reservedVariant 6 0x20)
  | 0x21 => .ok (.colGat x)
  | 0x28 => .ok (.launch x)
  | 0x29 => .ok (.ltrig x)
  | op => .error (.unassigned 6 op)

/-- Opcode map of the Y slot (R71).  `csrc` is bit CSRC of the loop descriptor, which is data in a register and decides
between the two set-up forms of opcode 0x09 (R102, R103). -/
def decodeY (csrc : Bool) (w : BitVec 64) : Except DecodeError Instr :=
  let x := YW.ofWord w
  match (opcodeOf w).toNat with
  | 0x01 => .ok (.br x)
  | 0x02 => .ok (.bz x)
  | 0x03 => .ok (.bnz x)
  | 0x04 => .ok (.bmNone x)
  | 0x05 => .ok (.bmAny x)
  | 0x06 => .ok (.jmp x)
  | 0x07 => .ok (.call x)
  | 0x08 => .ok (.ret x)
  | 0x09 => .ok (if csrc then .loopReg x else .loopImm x)
  | 0x0A => .ok (.loopx x)
  | 0x0B => .ok (.yield x)
  | 0x0C => .ok (.halt x)
  | 0x0D => .ok (.xim x)
  | 0x10 => .ok (.mark x)
  | 0x18 => .ok (.wait x)
  | 0x19 => .ok (.semAdd x)
  | 0x1A => .ok (.semSet x)
  | 0x1B => .ok (.semRd x)
  | 0x20 => .ok (.phReg x)
  | 0x21 => .ok (.phDrop x)
  | 0x22 => .ok (.phArr x)
  | 0x23 => .ok (.phWait x)
  | 0x24 => .ok (.phArw x)
  | 0x28 => .ok (.dupcmp x)
  | 0x30 => .ok (.trap x)
  | 0x31 => .ok (.sys x)
  | 0x32 => .ok (.eret x)
  | 0x38 => .ok (if x.co.getLsbD 8 then .paceAnnE x else .paceAnn x)
  | 0x39 => .ok (.paceJoin x)
  | 0x3A => .ok (.paceLeave x)
  | op => .error (.unassigned 7 op)

/-- A slot word read as an instruction: `nop` and hint space stand in every slot (R51, R52). -/
def decodeSlot (csrc : Bool) (slot : Nat) (w : BitVec 64) : Except DecodeError Instr :=
  if slot > 7 then .error (.noSuchSlot slot)
  else if opcodeOf w = 0 then .ok (.nop (BitVec.ofNat 3 slot) (bodyOf w))
  else if (opcodeOf w).extractLsb' 4 4 = 0xF#4 then
    .ok (.hint (BitVec.ofNat 3 slot) ((opcodeOf w).extractLsb' 0 4) (bodyOf w))
  else match slot with
    | 0 => decodeS w
    | 1 => decodeV false w
    | 2 => decodeV true w
    | 3 => decodeM w
    | 4 => decodeL w
    | 5 => decodeT w
    | 6 => decodeC w
    | _ => decodeY csrc w

/-- Slot word `k` of a bundle of 512 bits (R48). -/
def slotWord (bundle : BitVec 512) (k : Nat) : BitVec 64 := bundle.extractLsb' (64 * k) 64

/-- Byte order: byte 0 is the least significant (R2). -/
def bytesToNat : List Byte → Nat
  | [] => 0
  | b :: bs => b.toNat + 256 * bytesToNat bs

/-- The `n` bytes of a value, the least significant first (R2). -/
def natToBytes : Nat → Nat → List Byte
  | 0, _ => []
  | n + 1, x => BitVec.ofNat 8 x :: natToBytes n (x / 256)

/-- The eight instructions of a bundle, slot 0 first; `csrc` as `decodeY` has it. -/
def decodeBundle (csrc : Bool) (bundle : BitVec 512) : List (Except DecodeError Instr) :=
  (List.range 8).map fun k => decodeSlot csrc k (slotWord bundle k)

/-- The same from the 64 bytes that hold it. -/
def decodeBytes (csrc : Bool) (bytes : List Byte) : List (Except DecodeError Instr) :=
  decodeBundle csrc (BitVec.ofNat 512 (bytesToNat bytes))

/-- The one instruction of a bundle whose other slots hold `nop`: the first slot that decodes to something else; the S
slot's `nop` where every slot holds one; none where a slot is refused. -/
def soleInstr : List (Except DecodeError Instr) → Option Instr
  | [] => some (.nop 0 0)
  | .error _ :: _ => none
  | .ok (.nop s b) :: rest =>
    match soleInstr rest with
    | some (.nop _ _) => some (.nop s b)
    | r => r
  | .ok i :: _ => some i

/-- The instruction the decoder reads from a bundle whose low `nbits` bits are `w` and whose other bits are zero, laid out
as bytes from the bundle's address. -/
def decodeTableWord (nbits w : Nat) : Option Instr :=
  soleInstr (decodeBytes false (natToBytes 64 (w % 2 ^ nbits)))

/-! The encoder, from the same formats. -/

/-- A slot word from its opcode and S fields (R55). -/
def SW.word (op : BitVec 8) (x : SW) : BitVec 64 := op ++ x.sd ++ x.sa ++ x.sb ++ x.fn ++ x.imm

/-- A slot word from its opcode and vector fields (R57). -/
def VW.word (op : BitVec 8) (x : VW) : BitVec 64 :=
  op ++ x.vd ++ x.va ++ x.vb ++ x.vc ++ x.sel ++ x.ty ++ x.bcb ++ x.fn

/-- A slot word from its opcode and M fields (R60). -/
def MW.word (op : BitVec 8) (x : MW) : BitVec 64 := op ++ x.ta ++ x.tb ++ x.ar ++ x.sp ++ x.flags ++ x.tail

/-- A slot word from its opcode and L or T fields (R61). -/
def LW.word (op : BitVec 8) (x : LW) : BitVec 64 := op ++ x.dr ++ x.ab ++ x.si ++ x.off ++ x.fn ++ x.sc

/-- A slot word from its opcode and C fields (R63). -/
def CW.word (op : BitVec 8) (x : CW) : BitVec 64 := op ++ x.ca ++ x.cb ++ x.cs ++ x.ci ++ x.tail

/-- A slot word from its opcode and Y fields (R66). -/
def YW.word (op : BitVec 8) (x : YW) : BitVec 64 :=
  op ++ x.yws ++ x.ywt ++ x.bv ++ x.bi ++ x.lff ++ x.lfl ++ x.lvl ++ x.rm ++ x.rsv ++ x.co

/-- The slot an instruction stands in and its word; an event has none. -/
def encode : Instr → Option (Nat × BitVec 64)
  | .nop slot body => some (slot.toNat, 0#8 ++ body)
  | .hint slot code body => some (slot.toNat, 0xF#4 ++ code ++ body)
  | .add x => some (0, x.word 0x01#8)
  | .sub x => some (0, x.word 0x02#8)
  | .and x => some (0, x.word 0x03#8)
  | .or x => some (0, x.word 0x04#8)
  | .xor x => some (0, x.word 0x05#8)
  | .andn x => some (0, x.word 0x06#8)
  | .shl x => some (0, x.word 0x07#8)
  | .shr x => some (0, x.word 0x08#8)
  | .sra x => some (0, x.word 0x09#8)
  | .rotl x => some (0, x.word 0x0A#8)
  | .min x => some (0, x.word 0x0B#8)
  | .max x => some (0, x.word 0x0C#8)
  | .scmp x => some (0, x.word 0x0D#8)
  | .sel x => some (0, x.word 0x0E#8)
  | .li x => some (0, x.word 0x0F#8)
  | .lih x => some (0, x.word 0x10#8)
  | .addi x => some (0, x.word 0x11#8)
  | .mov x => some (0, x.word 0x12#8)
  | .clz x => some (0, x.word 0x13#8)
  | .ctz x => some (0, x.word 0x14#8)
  | .popc x => some (0, x.word 0x15#8)
  | .bfx x => some (0, x.word 0x16#8)
  | .bfi x => some (0, x.word 0x17#8)
  | .s2a x => some (0, x.word 0x18#8)
  | .a2s x => some (0, x.word 0x19#8)
  | .mul x => some (0, x.word 0x20#8)
  | .mulh x => some (0, x.word 0x21#8)
  | .div x => some (0, x.word 0x22#8)
  | .rem x => some (0, x.word 0x23#8)
  | .mfc x => some (0, x.word 0x28#8)
  | .mtc x => some (0, x.word 0x29#8)
  | .faddD x => some (0, x.word 0x30#8)
  | .fsubD x => some (0, x.word 0x31#8)
  | .fmulD x => some (0, x.word 0x32#8)
  | .fmaD x => some (0, x.word 0x33#8)
  | .fdivD x => some (0, x.word 0x34#8)
  | .fsqrtD x => some (0, x.word 0x35#8)
  | .fminD x => some (0, x.word 0x36#8)
  | .fmaxD x => some (0, x.word 0x37#8)
  | .fcmpD x => some (0, x.word 0x38#8)
  | .fclassD x => some (0, x.word 0x39#8)
  | .fcvt x => some (0, x.word 0x3A#8)
  | .vadd x => some ((if x.slotB then 2 else 1), x.word 0x01#8)
  | .vsub x => some ((if x.slotB then 2 else 1), x.word 0x02#8)
  | .vand x => some ((if x.slotB then 2 else 1), x.word 0x03#8)
  | .vor x => some ((if x.slotB then 2 else 1), x.word 0x04#8)
  | .vxor x => some ((if x.slotB then 2 else 1), x.word 0x05#8)
  | .vshl x => some ((if x.slotB then 2 else 1), x.word 0x06#8)
  | .vshr x => some ((if x.slotB then 2 else 1), x.word 0x07#8)
  | .vsra x => some ((if x.slotB then 2 else 1), x.word 0x08#8)
  | .vmin x => some ((if x.slotB then 2 else 1), x.word 0x09#8)
  | .vmax x => some ((if x.slotB then 2 else 1), x.word 0x0A#8)
  | .vabs x => some ((if x.slotB then 2 else 1), x.word 0x0B#8)
  | .vneg x => some ((if x.slotB then 2 else 1), x.word 0x0C#8)
  | .vcmp x => some ((if x.slotB then 2 else 1), x.word 0x0D#8)
  | .vsel x => some ((if x.slotB then 2 else 1), x.word 0x0E#8)
  | .vclz x => some ((if x.slotB then 2 else 1), x.word 0x0F#8)
  | .vpopc x => some ((if x.slotB then 2 else 1), x.word 0x10#8)
  | .vidx x => some ((if x.slotB then 2 else 1), x.word 0x11#8)
  | .vmov x => some ((if x.slotB then 2 else 1), x.word 0x12#8)
  | .vsplat x => some ((if x.slotB then 2 else 1), x.word 0x13#8)
  | .vmul x => some ((if x.slotB then 2 else 1), x.word 0x18#8)
  | .vmulh x => some ((if x.slotB then 2 else 1), x.word 0x19#8)
  | .vmadd x => some ((if x.slotB then 2 else 1), x.word 0x1A#8)
  | .vfadd x => some ((if x.slotB then 2 else 1), x.word 0x20#8)
  | .vfsub x => some ((if x.slotB then 2 else 1), x.word 0x21#8)
  | .vfmin x => some ((if x.slotB then 2 else 1), x.word 0x22#8)
  | .vfmax x => some ((if x.slotB then 2 else 1), x.word 0x23#8)
  | .vfcmp x => some ((if x.slotB then 2 else 1), x.word 0x24#8)
  | .vfmul x => some ((if x.slotB then 2 else 1), x.word 0x25#8)
  | .vfma x => some ((if x.slotB then 2 else 1), x.word 0x26#8)
  | .vfms x => some ((if x.slotB then 2 else 1), x.word 0x27#8)
  | .vfnma x => some ((if x.slotB then 2 else 1), x.word 0x28#8)
  | .vfdiv x => some ((if x.slotB then 2 else 1), x.word 0x29#8)
  | .vfsqrt x => some ((if x.slotB then 2 else 1), x.word 0x2A#8)
  | .vfclass x => some ((if x.slotB then 2 else 1), x.word 0x2B#8)
  | .vcvt x => some ((if x.slotB then 2 else 1), x.word 0x30#8)
  | .vmxpack x => some ((if x.slotB then 2 else 1), x.word 0x31#8)
  | .vmxunpack x => some ((if x.slotB then 2 else 1), x.word 0x32#8)
  | .vred x => some ((if x.slotB then 2 else 1), x.word 0x38#8)
  | .vscan x => some ((if x.slotB then 2 else 1), x.word 0x39#8)
  | .vperm x => some ((if x.slotB then 2 else 1), x.word 0x3A#8)
  | .vrot x => some ((if x.slotB then 2 else 1), x.word 0x3B#8)
  | .vext x => some ((if x.slotB then 2 else 1), x.word 0x3C#8)
  | .v2s x => some ((if x.slotB then 2 else 1), x.word 0x3D#8)
  | .vhashSrp x => some ((if x.slotB then 2 else 1), x.word 0x40#8)
  | .mpush x => some ((if x.slotB then 2 else 1), x.word 0x48#8)
  | .minv x => some ((if x.slotB then 2 else 1), x.word 0x49#8)
  | .mpop x => some ((if x.slotB then 2 else 1), x.word 0x4A#8)
  | .mand x => some ((if x.slotB then 2 else 1), x.word 0x4B#8)
  | .mor x => some ((if x.slotB then 2 else 1), x.word 0x4C#8)
  | .mcnt x => some ((if x.slotB then 2 else 1), x.word 0x4D#8)
  | .mlease x => some (3, x.word 0x01#8)
  | .mfree x => some (3, x.word 0x02#8)
  | .tld x => some (3, x.word 0x03#8)
  | .tst x => some (3, x.word 0x04#8)
  | .mma x => some (3, x.word 0x08#8)
  | .mmaBs x => some (3, x.word 0x09#8)
  | .mmaNm x => some (3, x.word 0x0A#8)
  | .mzero x => some (3, x.word 0x0B#8)
  | .tsld x => some (3, x.word 0x10#8)
  | .tsst x => some (3, x.word 0x11#8)
  | .ld x => some (4, x.word 0x01#8)
  | .vld x => some (4, x.word 0x02#8)
  | .vlds x => some (4, x.word 0x03#8)
  | .vldx x => some (4, x.word 0x04#8)
  | .ldf x => some (4, x.word 0x08#8)
  | .vldf x => some (4, x.word 0x09#8)
  | .popf x => some (4, x.word 0x0A#8)
  | .vpopf x => some (4, x.word 0x0B#8)
  | .rlyTake x => some (4, x.word 0x10#8)
  | .st x => some (5, x.word 0x01#8)
  | .vst x => some (5, x.word 0x02#8)
  | .vsts x => some (5, x.word 0x03#8)
  | .vstx x => some (5, x.word 0x04#8)
  | .rlyGive x => some (5, x.word 0x05#8)
  | .stg x => some (5, x.word 0x08#8)
  | .vstg x => some (5, x.word 0x09#8)
  | .amoAdd x => some (5, x.word 0x10#8)
  | .amoMin x => some (5, x.word 0x11#8)
  | .amoMax x => some (5, x.word 0x12#8)
  | .amoAnd x => some (5, x.word 0x13#8)
  | .amoOr x => some (5, x.word 0x14#8)
  | .amoXor x => some (5, x.word 0x15#8)
  | .amoSwap x => some (5, x.word 0x16#8)
  | .amoCas x => some (5, x.word 0x17#8)
  | .amoFadd x => some (5, x.word 0x18#8)
  | .fenceAcq x => some (5, x.word 0x20#8)
  | .fenceRel x => some (5, x.word 0x20#8)
  | .fenceAr x => some (5, x.word 0x20#8)
  | .rlyInit x => some (6, x.word 0x01#8)
  | .cpLin x => some (6, x.word 0x08#8)
  | .cpTen x => some (6, x.word 0x09#8)
  | .cpGat x => some (6, x.word 0x0A#8)
  | .cpSct x => some (6, x.word 0x0B#8)
  | .cpFill x => some (6, x.word 0x0C#8)
  | .drain x => some (6, x.word 0x10#8)
  | .scProbe x => some (6, x.word 0x18#8)
  | .scCommit x => some (6, x.word 0x19#8)
  | .scDrop x => some (6, x.word 0x1A#8)
  | .colRedRoot x => some (6, x.word 0x20#8)
  | .colRedAll x => some (6, x.word 0x20#8)
  | .colRedScat x => some (6, x.word 0x20#8)
  | .colGat x => some (6, x.word 0x21#8)
  | .launch x => some (6, x.word 0x28#8)
  | .ltrig x => some (6, x.word 0x29#8)
  | .br x => some (7, x.word 0x01#8)
  | .bz x => some (7, x.word 0x02#8)
  | .bnz x => some (7, x.word 0x03#8)
  | .bmNone x => some (7, x.word 0x04#8)
  | .bmAny x => some (7, x.word 0x05#8)
  | .jmp x => some (7, x.word 0x06#8)
  | .call x => some (7, x.word 0x07#8)
  | .ret x => some (7, x.word 0x08#8)
  | .loopImm x => some (7, x.word 0x09#8)
  | .loopReg x => some (7, x.word 0x09#8)
  | .loopx x => some (7, x.word 0x0A#8)
  | .yield x => some (7, x.word 0x0B#8)
  | .halt x => some (7, x.word 0x0C#8)
  | .xim x => some (7, x.word 0x0D#8)
  | .mark x => some (7, x.word 0x10#8)
  | .wait x => some (7, x.word 0x18#8)
  | .semAdd x => some (7, x.word 0x19#8)
  | .semSet x => some (7, x.word 0x1A#8)
  | .semRd x => some (7, x.word 0x1B#8)
  | .phReg x => some (7, x.word 0x20#8)
  | .phDrop x => some (7, x.word 0x21#8)
  | .phArr x => some (7, x.word 0x22#8)
  | .phWait x => some (7, x.word 0x23#8)
  | .phArw x => some (7, x.word 0x24#8)
  | .dupcmp x => some (7, x.word 0x28#8)
  | .trap x => some (7, x.word 0x30#8)
  | .sys x => some (7, x.word 0x31#8)
  | .eret x => some (7, x.word 0x32#8)
  | .paceAnn x => some (7, x.word 0x38#8)
  | .paceAnnE x => some (7, x.word 0x38#8)
  | .paceJoin x => some (7, x.word 0x39#8)
  | .paceLeave x => some (7, x.word 0x3A#8)
  | .resultLanding _ => none
  | .quantumEnd _ => none
  | .trapEventPost _ => none
  | .leaseGrant _ => none
  | .leaseIdleExpiry _ => none
  | .arrayCommandStart _ => none
  | .arrayUpdateBegin _ => none
  | .arrayCommandComplete _ => none
  | .mfreeMarkerSignal _ => none
  | .tileCommandStart _ => none
  | .tileCommandComplete _ => none
  | .tsCopyStart _ => none
  | .tsCopyBeat _ => none
  | .tsCopyYield _ => none
  | .tsCopyComplete _ => none
  | .rlyInitStart _ => none
  | .rlyInitComplete _ => none
  | .droverCommandStart _ => none
  | .droverChunkCommit _ => none
  | .chunkTagWrite _ => none
  | .droverCommandComplete _ => none
  | .drainStart _ => none
  | .drainComplete _ => none
  | .scCommandStart _ => none
  | .scDirectoryPoint _ => none
  | .scCommandComplete _ => none
  | .colCommandStart _ => none
  | .colFlitReceive _ _ => none
  | .colCommandComplete _ => none
  | .colTimeout _ => none
  | .launchComplete _ => none
  | .pageWalkComplete _ _ => none
  | .faultQueueWrite _ => none
  | .farLoadArrival _ _ => none
  | .parkEventPost _ => none
  | .storePublicationDone _ => none
  | .atomicPerform _ => none
  | .shadowStackSpillFill _ => none
  | .tollCount _ _ _ => none
  | .phaserRegistrationApply _ => none
  | .phaserDropApply _ => none
  | .phaserArrivalCount _ => none
  | .phaseDelivery _ => none
  | .phTimeout _ => none
  | .waitTimeout _ => none
  | .schedulerSelection _ => none
  | .scratchImageCopyDone _ => none
  | .groupStart _ => none
  | .powerInterval => none
  | .overdrawWindow => none
  | .overdrawCapRise _ => none
  | .clockRaise _ => none
  | .consignmentComplete _ => none
  | .completionRecordWrite _ => none
  | .watchdogExpiry _ => none
  | .queueOpen _ => none
  | .queueClose _ => none
  | .queueKill _ => none
  | .queueClosed _ => none
  | .queueDoorbell _ _ => none
  | .packetFetch _ => none
  | .launchPacket _ => none
  | .waitseqPacket _ => none
  | .evwaitPacket _ => none
  | .evsigPacket _ => none
  | .graphPacket _ => none
  | .eventObjectPoll _ => none
  | .preemptSuspend _ _ => none
  | .preemptKill _ _ => none
  | .preemptRelease _ _ => none
  | .contextFreeze _ => none
  | .suspendSaveComplete _ => none
  | .resume _ _ => none
  | .groupRejoin _ => none
  | .tresumeResume _ _ _ => none
  | .tresumeAbort _ _ _ => none
  | .contextRejoin _ => none
  | .xlinv _ => none
  | .xlinvDone => none
  | .errcntWrite _ => none
  | .errcnt2Write _ => none
  | .merrClear _ => none
  | .qpartWrite _ => none
  | .pwinWrite _ => none
  | .fllsetWrite _ => none
  | .throttleWrite _ => none
  | .controlRegisterWrite _ _ => none
  | .bootFlash => none
  | .bootReboot => none
  | .powerOn => none
  | .hostBar0Access _ => none
  | .hostBar2Access _ => none
  | .functionLevelReset _ => none
  | .msixMessage _ _ => none
  | .getVersion _ => none
  | .getCapabilities _ => none
  | .negotiateAlgorithms _ => none
  | .getDigests _ => none
  | .getCertificate _ _ _ _ => none
  | .challenge _ _ _ => none
  | .getMeasurements _ _ _ _ => none
  | .spdmUnsupportedRequest _ _ => none
  | .correctableError _ _ => none
  | .uncorrectableError _ => none
  | .tempSample _ _ => none
  | .hbmTempSample _ _ => none
  | .linkTraining _ _ => none
  | .peerRequestTimeout _ => none
  | .roundBoundary => none
  | .heartbeatSend => none
  | .annReceive _ => none
  | .hbReceive _ => none
  | .joinReceive _ => none
  | .welcomeSend _ => none
  | .welcomeReceive _ => none
  | .leaveReceive _ => none
  | .peerSilent _ => none
  | .peerDeparted _ => none
  | .membershipLapse => none
  | .launchCommandStart _ => none
  | .bundleFetch _ => none
  | .globalStorePerform _ => none
  | .peerMemoryRequest _ => none
  | .pcieCorrectableError _ => none

/-- Bit CSRC that the decoder must be given to read the instruction back: only `loop` in its register form needs it set
(R102). -/
def csrcOf : Instr → Bool
  | .loopReg _ => true
  | _ => false

end Sys2Proof
end

