-- ==== Sys2Proof/Machine/Engines.lean ====
section
/-! DEFINITION. The C slot: commands of the relay unit, the drovers, the drain unit, the step cache, the collective engine and
the launch unit as they issue (R162, R281, R287, R307, R354, R355, R396). -/

namespace Sys2Proof.Machine

open Sys2Proof

/-! ## rly.init (R162) -/

/-- SLOT of a relay descriptor. -/
def rlySlot (d : Word) : Nat := wbits d 0 24
/-- COUNT of a relay descriptor. -/
def rlyCount (d : Word) : Nat := wbits d 24 13

/-- Buffer number of `rly.init`. -/
def CWrb (x : CW) : Nat := (x.ci.extractLsb' 0 4).toNat

/-- RLY_INIT (R162); ALIGN and SPBOUND name BASE (DESIGN CHOICE, log 72). -/
def execRlyInit (x : CW) (s : State) : Res :=
  let n := CWrb x
  slotOp 6 (.rlyInit x)
    (fun s =>
      let d := s.me.rs x.cs
      let b := s.me.ra x.ca
      (firstFail
        [(rlySlot d % 128 ≠ 0 || rlySlot d < 128 || 2 ^ 20 < rlySlot d || rlyCount d = 0 || 4096 < rlyCount d ||
            wbits d 37 27 ≠ 0, .trap .illop 0),
         ((s.group s.me.gid).nrelays ≤ n, .trap .access (BitVec.ofNat 64 n)),
         (b.toNat % 128 ≠ 0, .trap .align b),
         ((s.group s.me.gid).spLim < b.toNat + rlySlot d * rlyCount d, .trap .spbound b)]).both
        ((s.tailVerdict x.tail).both (s.roomVerdict (.relay (seraiOf s.issue.cid)))))
    (fun s =>
      let d := s.me.rs x.cs
      let b := (s.me.ra x.ca).toNat
      let s := s.push (.relay (seraiOf s.issue.cid)) x.tail (.relayInit n b (rlySlot d) (rlyCount d)) 0
      s.modRelay s.me.gid n fun r => { r with init := some (b, rlySlot d, rlyCount d) }) s

/-! ## Descriptors in the scratchpad -/

/-- ALIGN and SPBOUND of a 128-byte descriptor (R287, R307, R355, R396). -/
def State.descVerdict (s : State) (a : Word) : Verdict :=
  if a.toNat % 128 ≠ 0 then .trap .align a
  else if (s.group s.me.gid).spLim < a.toNat + 128 then .trap .spbound a
  else .ok

/-- ILLOP where a condition fails. -/
def need (b : Bool) : Verdict := if b then .ok else .trap .illop 0

/-! ## Drovers (R285 to R287) -/

/-- Drover named by CI[1:0], as a unit of the package: four in each serai, one at each depot core. -/
def State.droverOf (s : State) (x : CW) : Nat :=
  let d := (x.ci.extractLsb' 0 2).toNat
  if isSerai s.issue.cid then 4 * seraiOf s.issue.cid + d else 192 + (locOf s.issue.cid - Config.depotBase)

/-- Checks of the five drover commands (R287). -/
def State.droverVerdict (s : State) (x : CW) : Verdict :=
  (((need (wbits (s.me.rs x.cs) 32 32 == 0 && (!isDepot s.issue.cid || x.ci.extractLsb' 0 2 == 0))).both
    (s.descVerdict (s.me.ra x.ca))).both (s.tailVerdict x.tail)).both (s.roomVerdict (.drover (s.droverOf x)))

/-- A drover command of kind 0 `cp.lin`, 1 `cp.ten`, 2 `cp.gat`, 3 `cp.sct`, 4 `cp.fill`. -/
def droverOp (kind : Nat) (i : Instr) (x : CW) (s : State) : Res :=
  slotOp 6 i (fun s => s.droverVerdict x)
    (fun s => s.push (.drover (s.droverOf x)) x.tail
      (.drover kind (s.me.ra x.ca).toNat (wbits (s.me.rs x.cs) 0 32)) 0) s

/-- CP_LIN (R287, R292). -/
def execCpLin (x : CW) (s : State) : Res := droverOp 0 (.cpLin x) x s
/-- CP_TEN (R287, R294). -/
def execCpTen (x : CW) (s : State) : Res := droverOp 1 (.cpTen x) x s
/-- CP_GAT (R287, R293). -/
def execCpGat (x : CW) (s : State) : Res := droverOp 2 (.cpGat x) x s
/-- CP_SCT (R287, R293). -/
def execCpSct (x : CW) (s : State) : Res := droverOp 3 (.cpSct x) x s
/-- CP_FILL (R287, R292). -/
def execCpFill (x : CW) (s : State) : Res := droverOp 4 (.cpFill x) x s

/-! ## drain and ltrig (R281, R282, R354) -/

/-- The phaser of a `drain.arr`. -/
def drainArrives (x : CW) : Option Nat := if x.ci.getLsbD 12 then some (drainPh x) else none

/-- DRAIN (R281, R282).  With ARR the registration's AP rises at issue and the arrival keeps its place at the phaser. -/
def execDrain (x : CW) (s : State) : Res :=
  slotOp 6 (.drain x)
    (fun s => (((match drainArrives x with | some n => s.arriveVerdict n | none => .ok)).both (s.tailVerdict x.tail)).both
      (s.roomVerdict (.drain s.issue.cid)))
    (fun s =>
      let cid := s.issue.cid
      let op : CmdOp := .drain (x.ci.extractLsb' 0 8).toNat (x.ci.extractLsb' 8 3).toNat (x.ci.getLsbD 11) (drainArrives x) false
      match drainArrives x with
      | some n =>
        let id := s.nextId
        let ap := match s.me.phReg? n with | some r => r.ap | none => 0
        let s := (s.sendPh cid n .arrive 0 true).modCtx cid fun c => c.raiseAp n
        let cmd := s.nextId
        (s.push (.drain cid) x.tail op 0).modCmd cmd fun c => { c with aux := id, lead := ap }
      | none => s.push (.drain cid) x.tail op 0) s

/-- LTRIG: a drain of every class with a package release (R354). -/
def execLtrig (x : CW) (s : State) : Res :=
  slotOp 6 (.ltrig x) (fun s => (s.tailVerdict x.tail).both (s.roomVerdict (.drain s.issue.cid)))
    (fun s => s.push (.drain s.issue.cid) x.tail (.drain 0xFF 5 true none true) 0) s

/-! ## Step cache (R306, R307) -/

/-- Checks of the three step-cache commands; `step` where the command reads s[CS] (R307, R321). -/
def State.scVerdict (s : State) (x : CW) (step vq : Bool) : Verdict :=
  ((((need (!isDepot s.issue.cid && (!step || wbits (s.me.rs x.cs) 32 32 == 0))).both (s.descVerdict (s.me.ra x.ca))).both
    (if vq then s.fqVerdict 6 else .ok)).both (s.tailVerdict x.tail)).both (s.roomVerdict (.step (seraiOf s.issue.cid)))

/-- Push a step-cache command. -/
def State.pushStep (s : State) (kind : Nat) (x : CW) (verdict : Option Nat) : State :=
  s.push (.step (seraiOf s.issue.cid)) x.tail
    (.step kind (s.me.ra x.ca).toNat (wbits (s.me.rs x.cs) 0 32) verdict) 0

/-- SC_PROBE: with VQ a WAITING verdict entry joins the far-load queue (R307). -/
def execScProbe (x : CW) (s : State) : Res :=
  slotOp 6 (.scProbe x) (fun s => s.scVerdict x true (x.ci.getLsbD 0))
    (fun s =>
      if x.ci.getLsbD 0 then
        let id := s.nextId
        let s := s.fresh
        let s := s.putFar
          { id := id, kind := .verdict, ea := 0, size := 8, signed := false, data := .waiting, held := false, order := s.me.order, due := 0,
            value := none, pc := s.issue.pc, arrive := 0, left := 0, own := [], src := [] }
        s.pushStep 0 x (some id)
      else s.pushStep 0 x none) s

/-- SC_COMMIT (R307, R312). -/
def execScCommit (x : CW) (s : State) : Res :=
  slotOp 6 (.scCommit x) (fun s => s.scVerdict x true false) (fun s => s.pushStep 1 x none) s
/-- SC_DROP (R307, R313). -/
def execScDrop (x : CW) (s : State) : Res :=
  slotOp 6 (.scDrop x) (fun s => s.scVerdict x false false) (fun s => s.pushStep 2 x none) s

/-! ## Collectives (R395 to R397) -/

/-- A collective command of mode 0 reduce to the root, 1 all-reduce, 2 reduce-scatter, 3 gather (R396). -/
def collOp (mode : Nat) (i : Instr) (x : CW) (s : State) : Res :=
  slotOp 6 i
    (fun s => (((need (!isDepot s.issue.cid)).both (s.descVerdict (s.me.ra x.ca))).both (s.tailVerdict x.tail)).both
      (s.roomVerdict (.coll (dieOf s.issue.cid))))
    (fun s => s.push (.coll (dieOf s.issue.cid)) x.tail (.coll mode (s.me.ra x.ca).toNat) 0) s

/-- COL_RED_ROOT (R396, R397). -/
def execColRedRoot (x : CW) (s : State) : Res := collOp 0 (.colRedRoot x) x s
/-- COL_RED_ALL (R396, R397). -/
def execColRedAll (x : CW) (s : State) : Res := collOp 1 (.colRedAll x) x s
/-- COL_RED_SCAT (R396, R397). -/
def execColRedScat (x : CW) (s : State) : Res := collOp 2 (.colRedScat x) x s
/-- COL_GAT (R396, R397). -/
def execColGat (x : CW) (s : State) : Res := collOp 3 (.colGat x) x s

/-! ## launch (R355) -/

/-- Launch unit of the issuing context: one at each serai and each depot core. -/
def State.launchUnit (s : State) : Nat :=
  if isSerai s.issue.cid then seraiOf s.issue.cid else 48 + (locOf s.issue.cid - Config.depotBase)

/-- LAUNCH (R355). -/
def execLaunch (x : CW) (s : State) : Res :=
  slotOp 6 (.launch x)
    (fun s => (((need (wbits (s.me.rs x.cs) 13 51 == 0)).both (s.descVerdict (s.me.ra x.ca))).both (s.tailVerdict x.tail)).both
      (s.roomVerdict (.launch s.launchUnit)))
    (fun s => s.push (.launch s.launchUnit) x.tail (.launch (s.me.ra x.ca).toNat (wbits (s.me.rs x.cs) 0 13)) 0) s

end Sys2Proof.Machine
end

