-- ==== Sys2Proof/Machine/Traps.lean ====
section
/-! DEFINITION. `trap`, `sys`, `eret`, and the pace instructions with the clock rule they act on (R370, R378, R381, R385, R386,
R388, R390, R391). -/

namespace Sys2Proof.Machine

open Sys2Proof

/-! ## trap, sys, eret (R370) -/

/-- The return point of `trap` and `sys`: the bundle that the sequencer has chosen, or the next one (R368, R370). -/
def State.nextPc (s : State) : Word := s.issue.next.getD (s.issue.pc + 64)

/-- Code of `trap` and `sys`. -/
def YWcode (x : YW) : BitVec 16 := x.co.extractLsb' 0 16

/-- TRAP: BREAK is taken after the bundle has taken effect (R370), a landing trap of that cycle later (R365; DEDUCED, log 86). -/
def execTrap (x : YW) (s : State) : Res :=
  slotOp 7 (.trap x) noCheck
    (fun s => s.takeTrap s.issue.cid ⟨.brk, 0, 7, s.issue.pc, s.nextPc, 0, YWcode x, false, false, none⟩) s

/-- SYS: SYS is taken after the bundle has taken effect (R370), a landing trap of that cycle later (R365; DEDUCED, log 86). -/
def execSys (x : YW) (s : State) : Res :=
  slotOp 7 (.sys x) noCheck
    (fun s => s.takeTrap s.issue.cid
      ⟨.sys, if x.bv = 1 then s.me.rs x.bi else 0, 7, s.issue.pc, s.nextPc, 0, YWcode x, false, false, none⟩) s

/-- ERET (R370). -/
def execEret (x : YW) (s : State) : Res :=
  slotOp 7 (.eret x)
    (fun s =>
      ((if s.me.regs.inh then Verdict.ok else .trap .illop 0).both (targetVerdict s.me.regs.tepc)).both
        (if s.me.pend.isEmpty then .ok else .stall))
    (fun s => s.modMe fun c => c.leaveHandler s.myCycle) s

/-! ## Clocks (R378) -/

/-- A cap of 0 counts as 160 (R378). -/
def capOf (n : Nat) : Nat := if n = 0 then 160 else n

/-- The clock that R378 gives a serai. -/
def State.wantClk (s : State) (k : Nat) : Nat :=
  min (min s.pk.target s.pace.ceil) (min (capOf s.pace.ecap) (capOf (s.serai k).ocap))

/-- Set the clock of a serai. -/
def State.setClk (s : State) (k c : Nat) : State := s.modSerai k fun x => { x with clk := c, changed := some s.tick }

/-- Decreases take effect in the tick of their cause; increases wait for CLOCK_RAISE (R378). -/
def State.lowerClocks (s : State) : State :=
  (List.range 48).foldl (fun s k => if s.wantClk k < (s.serai k).clk then s.setClk k (s.wantClk k) else s) s

/-! ## Pace (R381 to R391) -/

/-- The boundary of an announcement, join or leave (R386). -/
def boundaryOf (tick : Nat) : Nat := 100000 * ((tick + 4000 + 99999) / 100000)

/-- Address of the convoy table. -/
def State.cvBase (s : State) : Nat := s.pk.cvtab.toNat % 2 ^ 52 / 64 * 64

/-- Package ids of the convoy table (R381); a count above 2,048 is taken as it stands (DESIGN CHOICE, log 70). -/
def State.cvTable (s : State) : List Nat :=
  (List.range (s.devNum s.cvBase 2)).map fun k => s.devNum (s.cvBase + 64 + 2 * k) 2 % 4096

/-- A pace message of this package (R383). -/
def State.paceMsg (s : State) (type : Nat) (emerg : Bool) (limit eff : Nat) : PaceMsg :=
  ⟨type, emerg, s.pace.pkg, s.pace.cvn, limit, s.pace.ceil, eff, s.tick / 100000 % 2 ^ 32, s.tick⟩

/-- The flit of a pace message (R383). -/
def paceFlit (m : PaceMsg) : List Byte :=
  natLe 1 m.type ++ natLe 1 m.emerg.toNat ++ natLe 2 (m.src % 4096) ++ natLe 2 m.cvn ++ natLe 1 m.limit ++ natLe 1 m.ceil ++
    natLe 8 m.eff ++ natLe 4 m.round ++ natLe 8 m.sent ++ natLe 36 0

/-- The pace message that a flit holds (R383). -/
def paceOfFlit (b : List Byte) : PaceMsg :=
  let f (i n : Nat) : Nat := leNat ((b.drop i).take n)
  ⟨f 0 1, (f 1 1).testBit 0, f 2 2 % 4096, f 4 2, f 6 1, f 7 1, f 8 8, f 16 4, f 20 8⟩

/-- Every other package of the table that CVTAB names, once (R381). -/
def State.cvOthers (s : State) : List Nat :=
  if s.cvBase = 0 then [] else (s.cvTable.filter fun k => k != s.pace.pkg).eraseDups

/-- Send a message to every other package of the table (R381). -/
def State.paceAll (s : State) (m : PaceMsg) : State := s.cvOthers.foldl (fun s k => s.send (.pace k (paceFlit m))) s

/-- A limit becomes pending for a boundary (R388). -/
def putLimit (l : List (Nat × Nat)) (e lim : Nat) : List (Nat × Nat) := l.filter (fun x => x.1 != e) ++ [(e, lim)]

/-- Only the outrider of die 0 speaks for the package (R12, R72, R391). -/
def State.paceVerdict (s : State) : Verdict :=
  if !isOutrider s.issue.cid then .trap .priv 0
  else if locOf s.issue.cid ≠ Config.outriderBase then accessCode 0x13
  else .ok

/-- The limit that `pace.ann` names (R391). -/
def State.annLimit (s : State) (x : YW) : Nat :=
  if x.co.getLsbD 9 then s.bcast.toNat else (x.co.extractLsb' 0 8).toNat

/-- Checks of `pace.ann` (R391). -/
def State.annVerdict (s : State) (x : YW) : Verdict :=
  s.paceVerdict.both (need (decide (16 ≤ s.annLimit x) && decide (s.annLimit x ≤ 160)))

/-- Announce a limit (R386, R388, R391). -/
def State.announce (s : State) (lim : Nat) (emerg : Bool) : State :=
  let e := boundaryOf s.tick
  let s := s.modPace fun p => { p with pending := putLimit p.pending e lim }
  if s.pace.mstate = 0 then s else s.paceAll (s.paceMsg 1 emerg lim e)

/-- The cap of an emergency announcement, which stands to its own boundary (R388, R390). -/
def State.emergency (s : State) (lim : Nat) : State :=
  let e := boundaryOf s.tick
  (s.modPace fun p =>
    { p with
      emerg := min 65535 (p.emerg + 1)
      emergencies := if lim < p.ceil then p.emergencies ++ [(e, lim)] else p.emergencies }).lowerClocks

/-- PACE_ANN (R391). -/
def execPaceAnn (x : YW) (s : State) : Res :=
  slotOp 7 (.paceAnn x) (fun s => s.annVerdict x) (fun s => s.announce (s.annLimit x) false) s

/-- PACE_ANN_E (R390, R391). -/
def execPaceAnnE (x : YW) (s : State) : Res :=
  slotOp 7 (.paceAnnE x) (fun s => s.annVerdict x)
    (fun s => (s.announce (s.annLimit x) true).emergency (s.annLimit x)) s

/-- PACE_JOIN (R385, R391). -/
def execPaceJoin (x : YW) (s : State) : Res :=
  slotOp 7 (.paceJoin x)
    (fun s =>
      ((s.paceVerdict.both (if s.pace.mstate ≠ 0 then accessCode 0x11 else .ok)).both
        (if s.pk.cvtab = 0 || s.pace.cvn = 0 then accessCode 0x12 else .ok)).both
        (if s.cvTable.contains s.pace.pkg then .ok else accessCode 0x12))
    (fun s =>
      let e := boundaryOf s.tick
      let others := s.cvOthers
      let s := s.modPace fun p =>
        { p with
          mstate := 1
          boundary := e
          cprime := 160
          welcomes := 0
          peers := others.map fun k =>
            ⟨k, .absent, 160, ((p.peers.find? fun x => x.pkg == k).map (·.announced)).getD [], s.tick, 160, none, none⟩ }
      s.paceAll (s.paceMsg 3 false s.pace.lim e)) s

/-- PACE_LEAVE (R385, R391). -/
def execPaceLeave (x : YW) (s : State) : Res :=
  slotOp 7 (.paceLeave x)
    (fun s => s.paceVerdict.both (if s.pace.mstate ≠ 2 then accessCode 0x10 else .ok))
    (fun s =>
      let e := boundaryOf s.tick
      (s.modPace fun p => { p with mstate := 3, boundary := e }).paceAll (s.paceMsg 5 false 0 e)) s

end Sys2Proof.Machine
end

