-- ==== Sys2Proof/Machine/Landing.lean ====
section
/-! DEFINITION. How pending results land: registers, shadows, flags and landing-time traps, and the end of an `eret`; `yield`; and the
spill and fill of the shadow stack (R36 to R38, R87, R90, R92, R99, R126, R131, R247, R365, R370, R372). -/

namespace Sys2Proof.Machine

open Sys2Proof

/-! ## Shadows of an open region (R247) -/

/-- Number of a scalar or address register among the shadows; a write that s0 or a0 discards takes none (R54). -/
def Dest.shadowKey : Dest → Option Nat
  | .s r => if r = 0 then none else some r.toNat
  | .a r => if r = 0 then none else some (64 + r.toNat)
  | _ => none

/-- The result lies inside the open region (DEDUCED, log 26). -/
def Region.inside (g : Region) (x : Result) : Bool := decide (g.since ≤ x.order)

/-- The landing would need a 65th scalar or address shadow, or a 17th vector shadow (R247; DEDUCED, log 40). -/
def Region.overflows (g : Region) (x : Result) : Bool :=
  g.inside x &&
    (match x.dest with
     | .v r => !(g.shadowV.any fun p => p.1 == r.toNat) && decide (16 ≤ g.shadowV.length)
     | d => match d.shadowKey with
       | some k => !(g.shadowS.any fun p => p.1 == k) && decide (64 ≤ g.shadowS.length)
       | none => false)

/-- The shadow of a scalar or address register as a write of `new` over `old` leaves it. -/
def Region.noteS (g : Region) (k : Nat) (old new : Word) (inside : Bool) : Region :=
  if g.shadowS.any fun p => p.1 == k then
    if inside then g else { g with shadowS := g.shadowS.map fun p => if p.1 = k then (k, new) else p }
  else if inside then { g with shadowS := g.shadowS ++ [(k, old)] } else g

/-- The same for a vector register; a result from before the mark changes its enabled bits in the shadow too. -/
def Region.noteV (g : Region) (k : Nat) (old new lanes : VWord) (inside : Bool) : Region :=
  if g.shadowV.any fun p => p.1 == k then
    if inside then g
    else { g with shadowV := g.shadowV.map fun p => if p.1 = k then (k, (p.2 &&& ~~~lanes) ||| (new &&& lanes)) else p }
  else if inside then { g with shadowV := g.shadowV ++ [(k, old)] } else g

/-- Change the open region, if any. -/
def Ctx.modRegion (c : Ctx) (f : Region → Region) : Ctx := { c with region := c.region.map f }

/-- The result lies inside the context's open region. -/
def Ctx.insideRegion (c : Ctx) (x : Result) : Bool := match c.region with | some g => g.inside x | none => true

/-- Write a scalar register, its shadow first (R54, R247). -/
def Ctx.putS (c : Ctx) (r : BitVec 6) (v : Word) (inside : Bool) : Ctx :=
  if r = 0 then c else (c.modRegion fun g => g.noteS r.toNat (c.rs r) v inside).ws r v

/-- Write an address register, its shadow first (R54, R247). -/
def Ctx.putA (c : Ctx) (r : BitVec 5) (v : Word) (inside : Bool) : Ctx :=
  if r = 0 then c else (c.modRegion fun g => g.noteS (64 + r.toNat) (c.ra r) v inside).wa r v

/-- Write a vector register, its shadow first. -/
def Ctx.putV (c : Ctx) (r : BitVec 10) (v lanes : VWord) (inside : Bool) : Ctx :=
  (c.modRegion fun g => g.noteV r.toNat (c.rv r) v lanes inside).wv r v lanes

/-! ## Landing-time traps (R36) -/

/-- Mask of the elements of a result that raised flag `i`. -/
def Result.flag (x : Result) (i : Nat) : Mask := (x.flags[i]?).getD 0

/-- The trap enable of flag `i` in FPCTL: IVE to NXE, then SNT (R31). -/
def fpEnable (fpctl : Word) (i : Nat) : Bool := fpctl.getLsbD (8 + i)

/-- Elements that raised an enabled flag. -/
def Result.enabledLanes (x : Result) (fpctl : Word) : Mask :=
  (List.range 6).foldl (fun m i => if fpEnable fpctl i then m ||| x.flag i else m) 0

/-- Flags of a result in the order of FPSTAT. -/
def Result.fpFlags (x : Result) : Word :=
  (List.range 6).foldl (fun w i => if x.flag i ≠ 0 then w ||| ((1 : Word) <<< i) else w) 0

/-- FPCTL as the landing of a result tests it: as it stood in the cycle in which the result has landed (R36, R126 item 1). -/
def Ctx.landEnables (c : Ctx) (x : Result) : Word := x.struck.getD c.regs.fpctl

/-- The cause that the landing of a result raises, if any (R34, R36, R247, R372). -/
def Ctx.landCause (c : Ctx) (x : Result) : Option Cause :=
  if x.poisoned then some .eccu
  else if x.quiet || x.enabledLanes (c.landEnables x) = 0 then
    (match c.region with | some g => if g.overflows x then some .markov else none | none => none)
  else if x.flag 5 ≠ 0 && fpEnable (c.landEnables x) 5 then some .snan
  else some .fpx

/-- TVAL of a landing trap (R36, R372). -/
def Ctx.landTval (c : Ctx) (x : Result) : Word :=
  if x.poisoned then x.value.setWidth 64
  else match x.dest with
    | .v _ => (x.enabledLanes (c.landEnables x)).setWidth 64
    | _ => x.value.setWidth 64

/-- FPSTAT takes flags (R32, R35). -/
def Ctx.orFlags (c : Ctx) (f : Word) (inside : Bool) : Ctx :=
  ({ c with regs := { c.regs with fpstat := c.regs.fpstat ||| f } } : Ctx).recorded inside
    fun v => { v with fpstat := v.fpstat ||| f }

/-- One result writes its destination (R54, R90, R109, R131). -/
def Ctx.landOne (c : Ctx) (x : Result) : Ctx :=
  let inside := c.insideRegion x
  let c := c.orFlags x.fpFlags inside
  match x.dest with
  | .s r => c.putS r (x.value.setWidth 64) inside
  | .a r => c.putA r (x.value.setWidth 64) inside
  | .v r => c.putV r x.value x.lanes inside
  | .m r =>
    ({ c with m := c.m.set r.toNat (x.value.setWidth 32) } : Ctx).recorded inside
      fun v => { v with m := v.m.set r.toNat (x.value.setWidth 32) }
  | .stack => ({ c with stack := x.stack } : Ctx).recorded inside fun v => { v with stack := x.stack }
  | .cr _ => c

/-- Results that are due and raise no trap, in the order in which they land: control registers first (R126 item 3), then
by cycle, slot and issue (R92). -/
def Ctx.dueResults (c : Ctx) (t : Nat) : List Result :=
  let l := c.pend.filter fun x => decide (x.due ≤ t) && (c.landCause x).isNone
  let rank (x : Result) : Nat × Nat × Nat × Nat :=
    ((match x.dest with | .cr _ => 0 | _ => 1), x.due, x.slot, x.order)
  let le (a b : Nat × Nat × Nat × Nat) : Bool :=
    decide (a.1 < b.1) || (a.1 == b.1 && (decide (a.2.1 < b.2.1) || (a.2.1 == b.2.1 &&
      (decide (a.2.2.1 < b.2.2.1) || (a.2.2.1 == b.2.2.1 && decide (a.2.2.2 ≤ b.2.2.2))))))
  l.mergeSort fun a b => le (rank a) (rank b)

/-- SSP as `call` and `ret` have left it when an `mtc` moves it in this cycle: a transfer that lands with the `mtc` counts too
(R98; DEDUCED, log 31). -/
def Ctx.sspMoved (c : Ctx) (t : Nat) : Word :=
  (c.pend.filter fun x => x.dest == .cr 0x008 && x.slot == 7 && decide (x.due ≤ t)).foldl
    (fun _ x => x.value.setWidth 64) c.regs.ssp

/-- The entries that the core holds go to memory at the top that they had: an `mtc` has moved SSP.  One whose page does not translate is
dropped without a trap (R97, R99; DEDUCED, log 31). -/
def State.spillAll (s : State) (cid : Nat) : State :=
  let c := s.ctx cid
  let base := c.sspMoved (s.cycleOf cid)
  let s := (List.range c.shadow.length).foldl (fun s i =>
    let a := base + BitVec.ofNat 64 (8 * i)
    match s.translate (s.portOf cid) c.asid a.toNat 8 .push c.priv with
    | .ok ((p, _) :: _) => s.post cid ⟨p, natLe 8 ((c.shadow[i]?).getD 0).toNat⟩
    | _ => s) s
  s.modCtx cid fun c => { c with shadow := [] }

/-- An element of a register that a result replaces is poisoned no longer; a masked write replaces the lanes it enables (R131, R253,
R372). -/
def Result.cures (x : Result) (cid : Nat) : Place → Bool
  | .scalar c r => c == cid && x.dest == .s (BitVec.ofNat 6 r)
  | .address c r => c == cid && x.dest == .a (BitVec.ofNat 5 r)
  | .vector c r l => c == cid && x.dest == .v (BitVec.ofNat 10 r) && x.lanes.extractLsb' (32 * l) 32 == BitVec.allOnes 32
  | .mask c r => c == cid && (if r = 1 then x.dest == .stack else x.dest == .m (BitVec.ofNat 3 r))
  | _ => false

/-- Land one result of a context. -/
def State.landOne (s : State) (cid : Nat) (x : Result) : State :=
  let drop (c : Ctx) : Ctx := { c with pend := c.pend.filter fun y => y != x }
  let inside := (s.ctx cid).insideRegion x
  let s := if x.dest = .cr 0x008 && x.slot = 0 && maskedWrite (crMasks 8).2 (s.ctx cid).regs.ssp (x.value.setWidth 64) ≠
      (s.ctx cid).regs.ssp then s.spillAll cid else s
  let s := s.modCtx cid fun c => drop (c.landOne x)
  let s := { s with poison := s.poison.filter fun p => !x.cures cid p }
  match x.dest with
  | .cr i => (s.crLand cid i.toNat (x.value.setWidth 64) inside).modCtx cid fun c => c.refinish i.toNat (s.cycleOf cid)
  | _ => s

/-- A result that raises an enabled flag has landed: its flags enter FPSTAT, and the enables are settled; the trap comes at the end of
the cycle, or later (R36, R38, R126 item 4, R127). -/
def Ctx.strike (c : Ctx) (x : Result) : Ctx :=
  ({ c with pend := c.pend.map fun y => if y = x then { x with struck := some c.regs.fpctl } else y } : Ctx).orFlags x.fpFlags
    (c.insideRegion x)

/-- Results that are due and raise an enabled flag, and of which the landing has not been noted. -/
def Ctx.strikes (c : Ctx) (t : Nat) : List Result :=
  c.pend.filter fun x => decide (x.due ≤ t) && x.struck.isNone && (c.landCause x == some .fpx || c.landCause x == some .snan)

/-- An `eret` completes on its core in the cycle that it names; one whose context has lost its core meanwhile completes with the
bundle at TEPC (R358, R370, R371). -/
def State.returnsNow (s : State) (cid : Nat) : Bool :=
  let c := s.ctx cid
  c.returning == some (s.cycleOf cid) && c.status == .ready && !c.frozen && c.parked.isNone && (s.core (coreOf cid)).holder == some cid

/-- The end of an `eret`: the held result is written and is poisoned no longer, and the replay buffer is re-injected (R37, R370, R372).
-/
def State.finishReturn (s : State) (cid : Nat) : State :=
  let c := s.ctx cid
  let cured (p : Place) : Bool :=
    c.regs.tcause.getLsbD 8 && !c.regs.rbDrop && (match c.held with | some h => h.cures cid p | none => false)
  ({ s with poison := s.poison.filter fun p => !cured p } : State).modCtx cid fun c => c.finishReturn (s.cycleOf cid)

/-- Everything of a context that is due lands: the end of an `eret` first (R90, R370). -/
def State.landDue (s : State) (cid : Nat) : State :=
  let t := s.cycleOf cid
  let s := if s.returnsNow cid then s.finishReturn cid else s
  let l := (s.ctx cid).dueResults t
  let s := l.foldl (fun s x => if ((s.ctx cid).landCause x).isNone then s.landOne cid x else s) s
  s.modCtx cid fun c => (c.strikes t).foldl Ctx.strike c

/-- Due results of a context that trap, by slot (R36, R38), also where they landed in different cycles while another context held the
core (DESIGN CHOICE, log 73). -/
def Ctx.trapResults (c : Ctx) (t : Nat) : List Result :=
  (c.pend.filter fun x => decide (x.due ≤ t) && (c.landCause x).isSome).mergeSort fun a b => decide (a.slot ≤ b.slot)

/-- A landing-time trap is taken: at the end of the cycle, with the next bundle as the return point (R36, R38, R365; DEDUCED, log
23).  LASTX receives its flags there, after an `mfc` of that cycle (DEDUCED, log 74). -/
def State.landTrap (s : State) (cid : Nat) : State :=
  let t := s.cycleOf cid
  let c := s.ctx cid
  match c.trapResults t with
  | [] => s
  | x :: _ =>
    match c.landCause x with
    | none => s
    | some cause =>
      let fp := cause = .fpx || cause = .snan
      let s := s.modCtx cid fun c =>
        let c := { c with pend := c.pend.filter fun y => y != x }
        if fp then
          { c with regs := { c.regs with fpstat := (c.regs.fpstat &&& ~~~0x3F00#64) ||| (x.fpFlags <<< 8) } }
        else c
      s.takeTrap cid ⟨cause, c.landTval x, x.slot, x.pc, c.pc, ((t : Int) - x.issued).toNat, 0, true, false, if x.poisoned then none else some x⟩

/-- A context that may issue, its bundle and its core apart (R84). -/
def Ctx.live (c : Ctx) : Bool := c.status == .ready && !c.frozen && c.parked.isNone && c.leaseWanted.isNone

/-- The line of the bundle at PC is at hand. -/
def Ctx.hasLine (c : Ctx) : Bool := match c.line with | some (p, _) => p == c.pc | none => false

/-- Hardware contexts of a core. -/
def ctxsOf (core : Nat) : List Nat := (List.range (ctxsOfCore core)).map fun i => firstCtxOf core + i

/-- A core has a context that may issue and has not yet tried in this cycle. -/
def State.mayTry (s : State) (core : Nat) : Bool :=
  s.untried core && (ctxsOf core).any fun c => (s.ctx c).live

/-- A context may take a landing trap: its core has had its issue attempt of this cycle, or no bundle that it could try, and either
the context is the one that issues, or no context is and the result did not land while another held the core (R38, R365; DEDUCED, log
23; DEDUCED, log 34). -/
def State.mayLandTrap (s : State) (cid : Nat) : Bool :=
  let c := s.ctx cid
  let t := s.cycleOf cid
  let k := s.core (coreOf cid)
  c.status == .ready && c.parked.isNone && !c.frozen && !s.mayTry (coreOf cid) &&
    (match k.holder with
    | some h => h == cid
    | none => k.lastCtx == none || k.lastCtx == some cid || (c.trapResults t).any fun (x : Result) => x.due == t)

/-- Something of a context is due and raises no trap. -/
def State.landReady (s : State) (cid : Nat) : Bool :=
  let c := s.ctx cid
  let t := s.cycleOf cid
  s.returnsNow cid || !(c.dueResults t).isEmpty || !(c.strikes t).isEmpty

/-- Something of a context is due and raises a trap that may be taken (DEDUCED, log 23; DEDUCED, log 34). -/
def State.landTrapReady (s : State) (cid : Nat) : Bool :=
  s.mayLandTrap cid && !((s.ctx cid).trapResults (s.cycleOf cid)).isEmpty

/-- RESULT_LANDING (R36, R90). -/
def execResultLanding (cid : Nat) (s : State) : Res :=
  if s.landReady cid then .next (s.landDue cid)
  else if s.landTrapReady cid then .next (s.landTrap cid)
  else .refused (.notEnabled "RESULT_LANDING")

/-! ## yield (R85, R87) -/

/-- YIELD: the core leaves the context, whose pending results wait in its replay buffer (R85, R87); a landing trap of the cycle is taken
at its end, with the results that are pending then (R36, R365). -/
def execYield (x : YW) (s : State) : Res :=
  slotOp 7 (.yield x) noCheck
    (fun s =>
      let cid := s.issue.cid
      (s.modCtx cid fun c => if (c.trapResults (s.cycleOf cid)).isEmpty then c.pendToReplay (s.cycleOf cid + 1) else c).modCore (coreOf cid) fun k => { k with holder := none }) s

/-! ## The shadow stack (R99) -/

/-- Words of the Y slot of the line that a context issues next. -/
def Ctx.lineY (c : Ctx) : BitVec 64 :=
  match c.line with
  | some (pc, .bytes b) => if pc = c.pc then BitVec.ofNat 64 (leNat ((b.drop 56).take 8)) else 0
  | _ => 0

/-- A fill is due: the core holds no entry and the next bundle is a `ret`; a spill is due: it holds all it can.  Whether it is a
spill, its address, and how it accesses the page (R99). -/
def State.shadowNeed (s : State) (cid : Nat) : Option (Bool × Word × Acc) :=
  let c := s.ctx cid
  if c.status != .ready || c.frozen || c.parked.isSome then none
  else if shadowMax ≤ c.shadow.length then some (true, s.spillAt cid, .push)
  else if c.shadow.isEmpty && c.lineY.extractLsb' 56 8 = 0x08#8 then some (false, s.sspNow cid, .pop)
  else none

/-- What is to do for the shadow stack: start a walk, or move an entry to or from a place (R99, R433). -/
def State.shadowMove (s : State) (cid : Nat) : Option (Bool × Option PAddr) :=
  match s.shadowNeed cid with
  | none => none
  | some (spill, a, kind) =>
    if a.extractLsb' 57 7 ≠ 0 then none
    else if s.shadowWalked cid a then
      match s.translate (s.portOf cid) (s.ctx cid).asid a.toNat 8 kind (s.ctx cid).priv with
      | .ok ((p, _) :: _) => some (spill, some p)
      | _ => none
    else match (s.ctx cid).fillWalk with
      | some (x, _) => if x = a then none else some (spill, none)
      | none => some (spill, none)

/-- SHADOW_STACK_SPILL_FILL: its translation is sought, and the oldest entry goes to memory, or the entry at SSP comes back (R99, R235,
R433; DESIGN CHOICE, log 9). -/
def execShadowStackSpillFill (cid : Nat) (s : State) : Res :=
  match s.shadowMove cid, s.shadowNeed cid with
  | some (true, some p), _ =>
    let c := s.ctx cid
    let w := (c.shadow.getLast?).getD 0
    .next ((s.post cid ⟨p, natLe 8 w.toNat⟩).modCtx cid fun c => { c with shadow := c.shadow.dropLast, fillWalk := none })
  | some (false, some p), _ =>
    let w := BitVec.ofNat 64 (leNat (s.ctxBytes cid p.mt p.addr 8))
    let s' := if inL1 cid s.nextId then s else s.toll (dieOf cid) [(p, 8)]
    .next ((s'.fresh.noteRead cid).modCtx cid fun c => { c with shadow := [w], fillWalk := none })
  | some (_, none), some (_, a, _) =>
    let t := s.cycleOf cid + s.walkTime cid s.nextId (s.ctx cid).asid a.toNat 8
    .next (({ s with nextId := s.nextId + 1 } : State).modCtx cid fun c => { c with fillWalk := some (a, t) })
  | _, _ => .refused (.notEnabled "SHADOW_STACK_SPILL_FILL")

end Sys2Proof.Machine
end

