-- ==== Sys2Proof/Machine/Bundle.lean ====
section
/-! DEFINITION. The bundle a context issues next: fetching its line, reading its slots, whether it is blocked, the end of a
quantum, and the timeouts of waiting bundles (R48 to R53, R67 to R73, R84 to R87, R91, R106, R272, R278, R373). -/

namespace Sys2Proof.Machine

open Sys2Proof

/-! ## Fetching (R226, R231, R373) -/

/-- What a fetch brings in (R226, R231, R372, R373). -/
def State.fetchLine (s : State) (cid : Nat) : Line :=
  let c := s.ctx cid
  if c.pc.extractLsb' 57 7 ≠ 0 then .access
  else match s.translate (s.portOf cid) c.asid c.pc.toNat 64 .fetch c.priv with
    | .ok ps => if s.partsPoisoned ps then .poisoned else .bytes (s.readParts cid ps)
    | .absent _ _ => .notPresent
    | .access => .access

/-- A fetch that no cache of its own die answers is a line fill, counted where its memory is the other die's (R235; DESIGN CHOICE, log
9). -/
def State.fetchToll (s : State) (cid : Nat) : State :=
  let c := s.ctx cid
  if s.tollBase = 0 || cacheHit s.nextId 4 then s
  else match s.translate (s.portOf cid) c.asid c.pc.toNat 64 .fetch c.priv with
    | .ok ps => (s.toll (dieOf cid) ps).fresh
    | _ => s

/-- A fetch whose translation is sought waits for the end of the walk (R433). -/
def State.fetchWalks (s : State) (cid : Nat) : Bool :=
  let c := s.ctx cid
  match c.fetchWalk with | some (pc, t) => pc == c.pc && decide (s.cycleOf cid < t) | none => false

/-- The next bundle of a context may be fetched now. -/
def State.fetchDue (s : State) (cid : Nat) : Bool := (s.ctx cid).live && !(s.ctx cid).hasLine && !s.fetchWalks cid

/-- Time of the walk that precedes a fetch which fails; one that succeeds has been made ahead (R373, R433; DESIGN CHOICE, log 9). -/
def State.fetchTime (s : State) (cid : Nat) (l : Line) : Nat :=
  let c := s.ctx cid
  match l with
  | .bytes _ | .poisoned => 0
  | .notPresent | .access =>
    if c.pc.extractLsb' 57 7 ≠ 0 || c.fetchWalk.any fun w => w.1 == c.pc then 0
    else s.walkTime cid s.nextId c.asid c.pc.toNat 64

/-- BUNDLE_FETCH: the line of the next bundle comes in, or the walk of its page begins; a fault or poison on it is kept and reports
nothing yet (R373, R433). -/
def execBundleFetch (cid : Nat) (s : State) : Res :=
  if !s.fetchDue cid then .refused (.notEnabled "BUNDLE_FETCH")
  else
    let l := s.fetchLine cid
    let t := s.fetchTime cid l
    if t = 0 then .next ((s.fetchToll cid).modCtx cid fun c => { c with line := some (c.pc, l), fetchWalk := none })
    else .next (({ s with nextId := s.nextId + 1 } : State).modCtx cid fun c => { c with fetchWalk := some (c.pc, s.cycleOf cid + t) })

/-! ## Slots of the next bundle -/

/-- Bytes of the line of the bundle at PC. -/
def Ctx.lineBytes (c : Ctx) : List Byte :=
  match c.line with | some (p, .bytes b) => if p = c.pc then b else [] | _ => []

/-- CSRC of the loop descriptor that a Y word names (R102). -/
def Ctx.csrc (c : Ctx) (y : BitVec 64) : Bool :=
  y.extractLsb' 56 8 == 0x09#8 && (YW.ofWord y).bv == 1 && (c.rs (YW.ofWord y).bi).getLsbD 3

/-- The eight slots of the next bundle, numbered. -/
def Ctx.slots (c : Ctx) : List (Nat × Except DecodeError Instr) :=
  (List.range 8).zip (decodeBytes (c.csrc c.lineY) c.lineBytes)

/-- The instructions among them. -/
def Ctx.slotInstrs (c : Ctx) : List (Nat × Instr) :=
  c.slots.filterMap fun x => match x.2 with | .ok i => some (x.1, i) | .error _ => none

/-- The instruction of a slot. -/
def slotAt (is : List (Nat × Instr)) (k : Nat) : Option Instr := (is.find? fun x => x.1 == k).map (·.2)

/-- `nop` or a hint. -/
def idleInstr : Instr → Bool
  | .nop _ _ => true
  | .hint _ _ _ => true
  | _ => false

/-- The slot holds something other than `nop` or a hint. -/
def slotBusy (is : List (Nat × Instr)) (k : Nat) : Bool := match slotAt is k with | some i => !idleInstr i | none => false

/-- A bundle with loop flags at an active level that does not issue in this iteration (R106). -/
def Ctx.suppressed (c : Ctx) (y : YW) : Bool :=
  (y.lff == 1 || y.lfl == 1) && y.lvl ≠ 0 && y.lvl ≠ 7 &&
    (match c.loops[y.lvl.toNat - 1]? with
     | some l => l.active && !((y.lff == 1 && l.iter == 0) || (y.lfl == 1 && l.iter + 1 == l.count))
     | none => false)

/-- An instruction that pushes an entry into the far-load queue (R237, R307). -/
def pushesFar : Instr → Bool
  | .ldf _ | .vldf _ => true
  | .amoAdd x | .amoMin x | .amoMax x | .amoAnd x | .amoOr x | .amoXor x | .amoSwap x | .amoCas x | .amoFadd x => x.fn.getLsbD 2
  | .scProbe x => x.ci.getLsbD 0
  | _ => false

/-- The issue frame of the next bundle of a context. -/
def State.frameFor (s : State) (cid : Nat) : State :=
  let c := s.ctx cid
  let y := YW.ofWord c.lineY
  let x : Option (BitVec 24) := if c.lineY.extractLsb' 56 8 = 0x0D#8 then some y.co else none
  { s with issue := ⟨cid, .whole, y, x, c.pc, [], none, (c.slotInstrs.filter fun i => pushesFar i.2).map (·.1), s.nextId⟩ }

/-! ## Blocked bundles (R84) -/

/-- The hold of a `ph.arw` on the next bundle of a context (R278; DEDUCED, log 38). -/
def State.held (s : State) (cid : Nat) : Bool :=
  match (s.ctx cid).hold? with
  | some (n, _, _) => !s.phEnded cid n
  | none => false

/-- The hold of a `ph.arw` on the next bundle ends, where its phase has (R278; DEDUCED, log 38). -/
def State.endHold (s : State) (cid : Nat) : State :=
  match (s.ctx cid).hold? with
  | some h =>
    if s.held cid then s
    else (s.phReturn cid h.1).modCtx cid fun c => { c with phWait := c.phWait.filter fun x => x != h }
  | none => s

/-- Operation and word of an atomic (R242). -/
def atomicWord : Instr → Option (Nat × LW)
  | .amoAdd x => some (0, x) | .amoMin x => some (1, x) | .amoMax x => some (2, x) | .amoAnd x => some (3, x)
  | .amoOr x => some (4, x) | .amoXor x => some (5, x) | .amoSwap x => some (6, x) | .amoCas x => some (7, x)
  | .amoFadd x => some (8, x)
  | _ => none

/-- The bytes that a store or an atomic translates once its address has passed the checks at issue (R240, R241). -/
def State.storeNeed (s : State) (i : Instr) : Option (Word × Nat) :=
  let ok (ea : Word) (n al : Nat) : Option (Word × Nat) := if fieldsOk i && vaVerdict ea al == .ok then some (ea, n) else none
  match i with
  | .stg x => ok (s.ea x) (accBytes x.fn) (accBytes x.fn)
  | .vstg x => ok (s.ea x) 128 4
  | _ => match atomicWord i with
    | some (op, x) => ok (s.amoEa op x) (accBytes x.fn) (accBytes x.fn)
    | none => none

/-- Time that the translation of the bundle's store still takes: the rest of its walk, or the whole of one that has not begun
(R240, R433). -/
def State.storeTime (s : State) (i : Instr) : Nat :=
  match s.storeNeed i with
  | none => 0
  | some (ea, n) =>
    match s.me.walk with
    | some (a, t) => if a = ea then t - s.myCycle else s.walkTime s.issue.cid s.nextId s.me.asid ea.toNat n
    | none => s.walkTime s.issue.cid s.nextId s.me.asid ea.toNat n

/-- The translation of the bundle's store or atomic is sought in the L1 store path from now on (R240, R241). -/
def State.seekStore (s : State) (is : List (Nat × Instr)) : State :=
  match slotAt is 5 with
  | none => s
  | some i =>
    match s.storeNeed i with
    | none => s
    | some (ea, _) =>
      if s.me.walk.any fun w => w.1 == ea then s
      else ({ s with nextId := s.nextId + 1 } : State).modMe fun c => { c with walk := some (ea, s.myCycle + s.storeTime i) }

/-- The bundle's store or atomic waits for a translation that is being sought (R84, R240). -/
def State.storeWaits (s : State) (i : Instr) : Bool :=
  match s.storeNeed i, s.me.walk with
  | some (ea, _), some (a, t) => a == ea && decide (s.myCycle < t)
  | _, _ => false

/-- An `mlease` waits for the grant of a request that stands (R84, R182); one that has not asked yet asks once its bundle would issue
(DEDUCED, log 22). -/
def State.leaseWaits (s : State) : Bool :=
  s.seraiOnly == .ok && !s.holdsLease && !s.leaseGranted && (s.serai (seraiOf s.issue.cid)).reqs.any fun q => q.cid == s.issue.cid

/-- An instruction of the bundle under issue blocks it (R84). -/
def State.slotBlocks (s : State) (i : Instr) : Bool :=
  match i with
  | .popf _ => s.popVerdict false == .block
  | .vpopf _ => s.popVerdict true == .block
  | .rlyTake x =>
    let n := (x.fn.extractLsb' 0 4).toNat
    s.relayVerdict n == .ok && !x.fn.getLsbD 4 && !(s.relay n).canTake s.myCycle
  | .mlease _ => s.leaseWaits
  | .mfree x => decide (tailInc x.tail ≠ 0) && s.queueFull (.array (seraiOf s.issue.cid))
  | .tld _ | .tst _ => s.queueFull (.tile (coreOf s.issue.cid))
  | .mma _ | .mmaBs _ | .mmaNm _ | .mzero _ => s.queueFull (.array (seraiOf s.issue.cid))
  | .tsld _ | .tsst _ => s.queueFull (.copy (seraiOf s.issue.cid))
  | .rlyInit _ => s.queueFull (.relay (seraiOf s.issue.cid))
  | .cpLin x | .cpTen x | .cpGat x | .cpSct x | .cpFill x => s.queueFull (.drover (s.droverOf x))
  | .drain _ | .ltrig _ => s.queueFull (.drain s.issue.cid)
  | .scProbe _ | .scCommit _ | .scDrop _ => s.queueFull (.step (seraiOf s.issue.cid))
  | .colRedRoot _ | .colRedAll _ | .colRedScat _ | .colGat _ => s.queueFull (.coll (dieOf s.issue.cid))
  | .launch _ => s.queueFull (.launch s.launchUnit)
  | .phWait x => s.phWaitVerdict (YWph x) == .block
  | .call _ => decide (shadowMax ≤ s.me.shadow.length)
  | .ret _ => s.me.shadow.isEmpty
  | _ => s.storeWaits i

/-- The wait of the bundle under issue fails (R271). -/
def State.waitFails (s : State) : Bool := s.waitVerdict s.issue.common == .stall

/-- A context stands in a compatible wait: its next bundle is not held, and its wait fails (R67, R271). -/
def State.nextWaits (s : State) (cid : Nat) : Bool :=
  let f := s.frameFor cid
  (s.ctx cid).live && (s.ctx cid).hasLine && !(s.ctx cid).suppressed f.issue.common && !s.held cid && f.waitFails

/-- The next bundle of a context is blocked; one whose wait fails is not (R84, R271). -/
def State.nextBlocked (s : State) (cid : Nat) : Bool :=
  let f := (s.endHold cid).frameFor cid
  !(s.ctx cid).suppressed f.issue.common &&
    (s.held cid || (!f.waitFails && (s.ctx cid).slotInstrs.any fun x => f.slotBlocks x.2))

/-- A context lies in the ready set, its line at hand or not (R84). -/
def State.ready (s : State) (cid : Nat) : Bool := (s.ctx cid).live && !s.nextBlocked cid

/-! ## The quantum (R85, R87) -/

/-- Cycles of a quantum (R85). -/
def quantum : Nat := 64

/-- The quantum of a core has run out and another of its contexts is ready (R85 item 3); no switch takes place in a compatible
wait (R88; DESIGN CHOICE, log 75). -/
def State.quantumOver (s : State) (core : Nat) : Bool :=
  let k := s.core core
  match k.holder with
  | some h =>
    (s.ctx h).live && s.untried core && !s.nextWaits h && decide ((s.ctx h).notBefore ≤ s.coreCycle core) &&
      decide (quantum + k.waited ≤ s.coreCycle core - k.since) && (ctxsOf core).any fun c => c != h && s.ready c
  | none => false

/-- QUANTUM_END: the core leaves the context, whose pending results wait in its replay buffer (R85 to R87), also where its next
bundle is blocked (DESIGN CHOICE, log 75). -/
def execQuantumEnd (core : Nat) (s : State) : Res :=
  match (s.core core).holder with
  | some h =>
    if s.quantumOver core then
      .next ((s.modCtx h fun c => c.pendToReplay (s.coreCycle core)).modCore core fun k => { k with holder := none })
    else .refused (.notEnabled "QUANTUM_END")
  | none => .refused (.notEnabled "QUANTUM_END")

/-! ## Timeouts of waiting bundles (R272, R278) -/

/-- A TIMEOUT at the waiting bundle, which issues nothing (R272, R278, R368). -/
def State.timeoutTrap (s : State) (cid : Nat) (tval : Nat) : State :=
  let c := s.ctx cid
  s.takeTrap cid ⟨.timeout, BitVec.ofNat 64 tval, 7, c.pc, c.pc, 0, 0, false, false, none⟩

/-- The wait of the next bundle of a context, where it fails: ticks allowed and TVAL (R272; DEDUCED, log 21). -/
def State.waitLimit (s : State) (cid : Nat) : Option (Nat × Nat) :=
  let y := (s.ctx cid).lineY
  let f := YW.ofWord y
  if y.extractLsb' 56 8 = 0x18#8 && f.co ≠ 0 && s.nextWaits cid then some (f.co.toNat, 0x200 + f.yws.toNat) else none

/-- The phaser wait that holds the next bundle of a context: ticks allowed and TVAL (R278; DEDUCED, log 21). -/
def State.phLimit (s : State) (cid : Nat) : Option (Nat × Nat) :=
  let y := (s.ctx cid).lineY
  let f := YW.ofWord y
  if (s.ctx cid).suppressed f then none
  else if s.held cid then
    match (s.ctx cid).hold? with
    | some (n, t, _) => if t = 0 then none else some (t, 0x400 + n)
    | none => none
  else if y.extractLsb' 56 8 = 0x23#8 && YWphTicks f ≠ 0 && !(s.endHold cid).phEnded cid (YWph f) then
    some (YWphTicks f, 0x400 + YWph f)
  else none

/-- A context may take a TIMEOUT in this cycle: its core has not yet asked it and no landing trap is due (R365); an outrider
tests to the end of the tick (R402; DEDUCED, log 21). -/
def State.mayTimeOut (s : State) (cid : Nat) : Bool :=
  let c := s.ctx cid
  c.live && c.hasLine && (c.trapResults (s.cycleOf cid)).isEmpty &&
    (if isOutrider cid then s.now % Config.baseCyclesPerTick + 1 == Config.baseCyclesPerTick else s.untried (coreOf cid))

/-- A limit counted from a base cycle has run out (DEDUCED, log 21). -/
def State.ranOut (s : State) (cid : Nat) (lim : Option (Nat × Nat)) (since : Option Nat) : Option Nat :=
  match lim, since with
  | some (t, v), some t0 => if s.mayTimeOut cid && decide (t0 + Config.baseCyclesPerTick * t ≤ s.now) then some v else none
  | _, _ => none

/-- The base cycle from which the phaser wait of the next bundle is timed. -/
def State.phSince (s : State) (cid : Nat) : Option Nat := if s.held cid then (s.ctx cid).holdSince else (s.ctx cid).waitSince

/-- The next bundle of a context is a `ph.wait` that must hold, with WP as the `ph.arw` before it leaves it (R278). -/
def State.phAwaits (s : State) (cid : Nat) : Bool :=
  let y := (s.ctx cid).lineY
  y.extractLsb' 56 8 == 0x23#8 && !(s.endHold cid).phEnded cid (YWph (YW.ofWord y))

/-- The core has issued from a context in its present cycle, so that the context's next bundle is not yet next to issue. -/
def State.justIssued (s : State) (cid : Nat) : Bool :=
  let k := s.core (coreOf cid)
  k.lastCtx == some cid && decide (s.cycleOf cid + 3 ≤ k.nextIssue)

/-- A phaser wait of a context is timed from the first cycle in which it holds the next bundle, whichever context the core asks (R278,
R284; DEDUCED, log 21). -/
def State.noteHold (s : State) (cid : Nat) : State :=
  let c := s.ctx cid
  if !c.live || !c.hasLine || s.justIssued cid || c.suppressed (YW.ofWord c.lineY) then s
  else if s.held cid then s.modCtx cid fun c => { c with holdSince := some (c.holdSince.getD s.now) }
  else if s.phAwaits cid then s.modCtx cid fun c => { c with waitSince := some (c.waitSince.getD s.now) }
  else s

/-- The phaser waits of every context (R278). -/
def State.noteHolds (s : State) : State := (s.ctxs.map (·.1)).foldl (fun s c => s.noteHold c) s

/-- WAIT_TIMEOUT (R272). -/
def execWaitTimeout (cid : Nat) (s : State) : Res :=
  match s.ranOut cid (s.waitLimit cid) (s.ctx cid).waitSince with
  | some v => .next (s.timeoutTrap cid v)
  | none => .refused (.notEnabled "WAIT_TIMEOUT")

/-- PH_TIMEOUT (R278). -/
def execPhTimeout (cid : Nat) (s : State) : Res :=
  match s.ranOut cid (s.phLimit cid) (s.phSince cid) with
  | some v => .next (s.timeoutTrap cid v)
  | none => .refused (.notEnabled "PH_TIMEOUT")

end Sys2Proof.Machine
end

