-- ==== Sys2Proof/Machine/Pages.lean ====
section
/-! DEFINITION. Events of the memory path: walks, arrivals, the fault and event queues, publication, stores and atomics at
home, toll counters, requests of peers, and XLINV (R227, R231, R232, R235 to R242, R249, R251, R254, R258, R264 to R266, R375,
R377, R433). -/

namespace Sys2Proof.Machine

open Sys2Proof

/-! ## Queues of an address space (R227) -/

/-- Entries in a queue that are not consumed, modulo 2^32. -/
def State.queueUsed (s : State) (asid prod cons : Nat) : Nat :=
  (s.descNum asid prod 4 + 2 ^ 32 - s.descNum asid cons 4) % 2 ^ 32

/-- A queue of an address space is full: exactly SIZE entries stand in it (R227). -/
def State.asidFull (s : State) (asid prod cons size : Nat) : Bool :=
  decide (s.descNum asid size 4 = s.queueUsed asid prod cons)

/-- Address of the next entry of a queue. -/
def State.slotAddr (s : State) (asid base prod size entry : Nat) : Nat :=
  s.descNum asid base 8 + entry * (s.descNum asid prod 4 % s.descNum asid size 4)

/-- Write an entry, then advance the producer count. -/
def State.enqueue (s : State) (asid base prod size entry : Nat) (bytes : List Byte) : State :=
  let n := s.descNum asid prod 4
  let s := s.writeHome 0 (s.slotAddr asid base prod size entry) bytes
  s.writeHome 0 (s.descAddr asid + prod) (natLe 4 (n + 1))

/-- The event queue of an address space is full. -/
def State.evFull (s : State) (asid : Nat) : Bool := s.asidFull asid 60 64 56

/-- Where the next event goes. -/
def State.evAddr (s : State) (asid : Nat) : Nat := s.slotAddr asid 48 60 56 32

/-- Write an event, and raise vector 1 (R410). -/
def State.evPut (s : State) (asid : Nat) (bytes : List Byte) : State := (s.enqueue asid 48 60 56 32 bytes).msi 1 [0, 1]

/-- FAULT_QUEUE_WRITE: the oldest entry that waits inside the device is written (R249). -/
def execFaultQueueWrite (asid : Nat) (s : State) : Res :=
  match s.faultsOut.find? fun f => f.asid == asid with
  | none => .refused (.notEnabled "FAULT_QUEUE_WRITE")
  | some f =>
    if s.asidFull asid 36 40 32 then .refused (.notEnabled "FAULT_QUEUE_WRITE")
    else
      .next (({ s with faultsOut := s.faultsOut.erase f } : State).enqueue asid 24 36 32 64 f.bytes |>.msi 1 [0, 1])

/-- An event that waits for the fault-queue entry of its sequence number (R251; DEDUCED, log 39). -/
def State.eventWaits (s : State) (e : EventRec) : Bool :=
  match e.after with
  | some n => s.faultsOut.any fun f => f.asid == e.asid && leNat (f.bytes.take 4) == n
  | none => false

/-- The oldest event of a kind of an address space (DEDUCED, log 39). -/
def State.eventOf (s : State) (asid kind : Nat) : Option EventRec := s.eventsOut.find? fun e => e.asid == asid && e.kind == kind

/-- The oldest event of a kind may be posted now (DEDUCED, log 39). -/
def State.eventReady (s : State) (asid kind : Nat) : Bool :=
  match s.eventOf asid kind with
  | some e => !s.eventWaits e && !s.evFull asid
  | none => false

/-- Post the oldest event of a kind (R251, R367). -/
def State.postEvent (s : State) (asid kind : Nat) (name : String) : Res :=
  match s.eventOf asid kind with
  | some e =>
    if s.eventReady asid kind then
      .next (({ s with eventsOut := s.eventsOut.erase e } : State).evPut asid e.bytes)
    else .refused (.notEnabled name)
  | none => .refused (.notEnabled name)

/-- PARK_EVENT_POST (R251). -/
def execParkEventPost (asid : Nat) (s : State) : Res := s.postEvent asid 3 "PARK_EVENT_POST"

/-- TRAP_EVENT_POST (R367). -/
def execTrapEventPost (asid : Nat) (s : State) : Res := s.postEvent asid 2 "TRAP_EVENT_POST"

/-- The toll event (R236). -/
def tollEvent (slot th frame tick : Nat) : List Byte :=
  [1#8, BitVec.ofNat 8 slot] ++ natLe 2 0 ++ natLe 4 th ++ natLe 8 (65536 * frame) ++ natLe 8 tick ++ natLe 8 0

/-- Post a toll event, or count it as dropped (R236). -/
def State.tollPost (s : State) (asid : Nat) (bytes : List Byte) : Res :=
  if s.evFull asid then
    .next (s.writeHome 0 (s.descAddr asid + 68) (natLe 4 (min (2 ^ 32 - 1) (s.descNum asid 68 4 + 1))))
  else .next (s.evPut asid bytes)

/-- TOLL_COUNT: `times` counted requests for a frame from the requester of a slot (R235, R236). -/
def execTollCount (frame slot times : Nat) (s : State) : Res :=
  let rec_ := s.tollBase + 64 + 64 * frame
  let known := slot = 0 || (slot < 16 && bitsOf (s.devNum (s.tollBase + 2 * slot) 2) 15 1 == 1)
  if s.tollBase = 0 then .next s
  else if !known || s.devNum (rec_ + 2) 1 % 2 = 0 then .next s
  else
    let asid := s.devNum rec_ 2
    let a := rec_ + 32 + 2 * slot
    let old := s.devNum a 2
    let new := min 65535 (old + times)
    let s := s.writeHome 0 a (natLe 2 new)
    let th := s.descNum asid 18 2
    if th ≠ 0 && old < th && th ≤ new then s.tollPost asid (tollEvent slot th frame s.tick) else .next s

/-! ## Far loads (R237, R238, R433) -/

/-- The far-load entry of a context. -/
def State.far? (s : State) (cid entry : Nat) : Option FarEntry := (s.ctx cid).far.find? fun e => e.id == entry

/-- Change a far-load entry. -/
def State.modFar (s : State) (cid entry : Nat) (f : FarEntry → FarEntry) : State :=
  s.modCtx cid fun c => { c with far := c.far.map fun e => if e.id = entry then f e else e }

/-- Translation of a far load. -/
def State.farTrans (s : State) (cid : Nat) (e : FarEntry) : Trans :=
  s.translate (s.portOf cid) (s.ctx cid).asid e.ea.toNat e.size .read (s.ctx cid).priv

/-- A far load finds a page that is not present: it takes the next number and its entry is written (R238, R249). -/
def State.farAbsent (s : State) (cid : Nat) (e : FarEntry) (va level : Nat) : State :=
  let c := s.ctx cid
  let (seq, s) := s.takeSeq c.asid
  let (q, n) := s.conIds c
  let rec_ := faultEntry seq c.asid 3 false false (BitVec.ofNat 64 va) e.pc (unitOf cid) (whoOf cid) level c.fgrp 0 0 0 q n
  ({ s with faultsOut := s.faultsOut ++ [⟨c.asid, rec_⟩] } : State).modFar cid e.id fun e =>
    { e with data := .notPresent seq, due := s.cycleOf cid + 1 }

/-- A walk of this entry has run to its end. -/
def State.walkDue (s : State) (cid : Nat) (e : FarEntry) : Bool := e.data == .walking && decide (e.due ≤ s.cycleOf cid)

/-- PAGE_WALK_COMPLETE (R231, R238, R433). -/
def execPageWalkComplete (cid entry : Nat) (s : State) : Res :=
  match s.far? cid entry with
  | none => .refused (.notEnabled "PAGE_WALK_COMPLETE")
  | some e =>
    if !s.walkDue cid e then .refused (.notEnabled "PAGE_WALK_COMPLETE")
    else match s.farTrans cid e with
      | .ok ps => .next (s.modFar cid entry fun e => e.sent (s.cycleOf cid) s.tick (s.longestPath cid e.id ps))
      | .absent va l => .next (s.farAbsent cid e va l)
      | .access => .next (s.modFar cid entry fun e => { e with data := .access, due := s.cycleOf cid + 1 })

/-- Data of a far load from its bytes (R238). -/
def farData (e : FarEntry) (bs : List Byte) : VWord :=
  match e.kind with
  | .vector => vOfBytes bs
  | _ => (BitVec.ofInt 64 (intVal (8 * e.size) e.signed (leNat bs))).setWidth 1024

/-- What a far load reads of one byte when it is performed: its context's own gated store as it stood at issue, or the newest write
that it may return (R246, R256, R259). -/
def State.farByte (s : State) (cid : Nat) (e : FarEntry) (p : PAddr) (i k : Nat) : Byte :=
  match e.own[k]? with
  | some (some b) => b
  | _ => s.byteBy (Posted.showsTo (coreOf cid) e.id) p.mt (p.addr + i)

/-- The bytes that a far load reads when it is performed. -/
def State.farBytes (s : State) (cid : Nat) (e : FarEntry) : List (PAddr × Nat) → Nat → List Byte
  | [], _ => []
  | (p, n) :: rest, k => ((List.range n).map fun i => s.farByte cid e p i (k + i)) ++ State.farBytes s cid e rest (k + n)

/-- The newest write among those that show that covers a byte, one outside the coherence order last. -/
def newestOf (vis : Posted → Bool) (mt a : Nat) (l : List Posted) : Option Posted :=
  let hits := l.filter fun p => vis p && (p.piece.byteAt mt a).isSome
  match (hits.filter fun p => !p.out).getLast? with | some p => some p | none => hits.getLast?

/-- A write as a reader names it (R257). -/
def Posted.source (p : Posted) : Nat × Nat × Nat := (p.cid, p.core, p.id)

/-- The writes with which a read of a byte pairs: the one that it returns, and where that is an atomic, those before it in the byte's
order (R257). -/
def pairedWrites (vis : Posted → Bool) (mt a : Nat) (l : List Posted) : List Posted :=
  match newestOf vis mt a l with
  | none => []
  | some p =>
    (if p.kind = .atomic then (l.takeWhile fun x => x.id != p.id).filter fun x => x.out && (x.piece.byteAt mt a).isSome else []) ++ [p]

/-- The writes with which a far load pairs (R257). -/
def State.farSources (s : State) (cid : Nat) (e : FarEntry) (ps : List (PAddr × Nat)) : List (Nat × Nat × Nat) :=
  (ps.flatMap fun p => (List.range p.2).flatMap fun i =>
    (pairedWrites (Posted.showsTo (coreOf cid) e.id) p.1.mt (p.1.addr + i) s.posted).map Posted.source).eraseDups

/-- A request to a peer draws no response (R377; DESIGN CHOICE, log 78). -/
def unanswered (id : Nat) (p : PAddr) : Bool := p.mt == 1 && !Config.peerAnswers id

/-- The far load of an entry goes to a peer that does not answer; one that its core's L1 answers goes nowhere (R377, R432). -/
def State.farUnanswered (s : State) (cid : Nat) (e : FarEntry) : Bool :=
  (match s.farTrans cid e with | .ok ps => ps.any fun p => unanswered e.id p.1 | _ => false) && !inL1 cid e.id

/-- The read or the data of this entry is due. -/
def State.arrivalDue (s : State) (cid : Nat) (e : FarEntry) : Bool :=
  e.kind != .verdict && decide (e.due ≤ s.cycleOf cid) &&
    (match e.data with
     | .waiting => if e.kind = .atomic then e.value.isSome else !s.farUnanswered cid e
     | .coming _ _ => true
     | _ => false)

/-- The read of a far load is performed: its data is on the way (R238, R259). -/
def State.farRead (s : State) (cid : Nat) (e : FarEntry) (ps : List (PAddr × Nat)) : State :=
  let d : FarData := .coming (farData e (s.farBytes cid e ps 0)) (s.partsPoisoned ps)
  let src := s.farSources cid e ps
  (if inL1 cid e.id then s else s.toll (dieOf cid) ps).modFar cid e.id fun e => { e with data := d, due := e.arrive, src := src }

/-- FAR_LOAD_ARRIVAL: the read is performed halfway on its path, and its data arrives at the end (R238, R242; DESIGN CHOICE, log
9). -/
def execFarLoadArrival (cid entry : Nat) (s : State) : Res :=
  match s.far? cid entry with
  | none => .refused (.notEnabled "FAR_LOAD_ARRIVAL")
  | some e =>
    if !s.arrivalDue cid e then .refused (.notEnabled "FAR_LOAD_ARRIVAL")
    else match e.data with
      | .coming v bad => .next (s.modFar cid entry fun e => { e with data := if bad then .poisoned else .arrived v })
      | _ =>
        if e.kind = .atomic then .next (s.modFar cid entry fun e => { e with data := .arrived (e.value.getD 0) })
        else match s.farTrans cid e with
          | .ok ps => .next (s.farRead cid e ps)
          | _ => .next (s.modFar cid entry fun e => { e with data := .walking })

/-- Send the request of a FAULTED entry again (R250); that of a saved context walks when the context is placed. -/
def State.resendFar (s : State) (cid seq : Nat) : State :=
  let t := s.cycleOf cid
  (s.ctx cid).far.foldl (fun s e =>
    if e.data = .notPresent seq then
      s.modFar cid e.id fun e => if savedBase ≤ cid then { e with data := .walking, due := 0 } else s.sendFar cid t e
    else s) s

/-! ## Stores, publication and atomics at home (R242, R258, R264, R266) -/

/-- A release has held back something until a cycle, which has come. -/
def heldTo (t cycle : Nat) : Bool := decide (0 < t) && decide (t ≤ cycle)

/-- A publication that holds back later writes of a context is done: its last one, or that of a release which one of them awaited
(R266). -/
def State.publicationDue (s : State) (cid : Nat) : Bool :=
  let c := s.ctx cid
  let t := s.cycleOf cid
  decide (cid < savedBase) &&
    ((match c.release with | some r => decide (r ≤ t) | none => false) || (c.heldSem.any fun h => decide (h.till ≤ t)) ||
      (s.posted.any fun p => p.cid == cid && heldTo p.wait t) || s.atomics.any fun a => a.cid == cid && heldTo a.wait t)

/-- Semaphore changes that a publication has held back act, in program order (R266). -/
def State.applyHeld (s : State) (cid : Nat) : State :=
  let t := s.cycleOf cid
  let due := (s.ctx cid).heldSem.filter fun h => decide (h.till ≤ t)
  due.foldl (fun s h => s.semDo cid h.id h.set h.n h.amount)
    (s.modCtx cid fun c =>
      { c with
        release := c.release.filter fun r => decide (t < r)
        heldSem := c.heldSem.filter fun h => decide (t < h.till) })

/-- The stores and atomics of a context that a publication has held back leave in this tick (R266, R377). -/
def State.letLeave (s : State) (cid : Nat) : State :=
  let t := s.cycleOf cid
  { s with
    posted := s.posted.map fun (p : Posted) => if p.cid = cid && heldTo p.wait t then { p with wait := 0, left := s.tick } else p
    atomics := s.atomics.map fun (a : AtomicReq) => if a.cid = cid && heldTo a.wait t then { a with wait := 0, left := s.tick } else a }

/-- The publications of stores that a release held back, each since its own cycle, take effect (R266). -/
def State.publishAsked (s : State) (cid : Nat) : State :=
  let due (x : Posted) : Bool := x.cid == cid && !x.ask.isEmpty && !s.waits x
  let add (x : Posted) : Posted := { x with pub := x.pub ++ x.ask.filter (fun a => !x.pub.contains a), ask := [] }
  let enters (x : Posted) : Bool := due x && !x.out && (add x).out
  ({ s with posted := (s.posted.filter fun x => !enters x).map fun x => if due x then add x else x } : State).enter
    ((s.posted.filter enters).map add)

/-- STORE_PUBLICATION_DONE (R266). -/
def execStorePublicationDone (cid : Nat) (s : State) : Res :=
  if s.publicationDue cid then .next (((s.applyHeld cid).letLeave cid).publishAsked cid)
  else .refused (.notEnabled "STORE_PUBLICATION_DONE")

/-- A posted store has reached its home; those of a saved context are saved with it (R282, R359). -/
def State.storeDue (s : State) (p : Posted) : Bool :=
  !p.performed && decide (p.cid < savedBase) && decide (p.due ≤ s.cycleOf p.cid) && !unanswered p.id p.piece.at_

/-- The first of the stores that a context sends to a line at one time: the line is written once (R235; DESIGN CHOICE, log 77). -/
def State.firstOfLine (s : State) (p : Posted) : Bool :=
  !(s.posted.any fun x => x.kind == .plain && decide (x.id < p.id) && x.cid == p.cid && x.due == p.due &&
    x.piece.at_.mt == p.piece.at_.mt && x.piece.at_.addr / 64 == p.piece.at_.addr / 64)

/-- GLOBAL_STORE_PERFORM (R235, R254, R282). -/
def execGlobalStorePerform (id : Nat) (s : State) : Res :=
  match s.posted.find? fun p => p.id == id && s.storeDue p with
  | none => .refused (.notEnabled "GLOBAL_STORE_PERFORM")
  | some p =>
    let s := { s with posted := s.posted.map fun (x : Posted) => if x.id = id then { x with performed := true } else x }
    .next (if s.firstOfLine p then s.toll (dieOfCore p.core) [(p.piece.at_, p.piece.data.length)] else s)

/-- An atomic acts on its element: the new value, and the old one for a fetching form (R242, R264). -/
def State.amoAt (s : State) (id cid : Nat) (op : Nat) (p : PAddr) (n : Nat) (signed : Bool) (b cmp : Word) : Nat × State :=
  let x := leNat (s.homeBefore (Posted.atHome .atomic id cid p.mt p.addr []) p.mt p.addr n)
  let new := amoNew op (8 * n) signed x (b.toNat % 2 ^ (8 * n)) (cmp.toNat % 2 ^ (8 * n))
  let bad := s.poison.filter fun q => match q with
    | .memory a => p.mt == 0 && decide (p.addr ≤ a) && decide (a < p.addr + n)
    | _ => false
  let s := s.performed .atomic id cid p.mt p.addr (natLe n new)
  (x, { s with poison := s.poison ++ bad })

/-- Every unpublished plain store of a core to a byte of an element is published at system scope, one that a release holds back too,
and with it the older stores of its context to its bytes, which enter in issue order (R254, R264; DESIGN CHOICE, log 8). -/
def State.publishElement (s : State) (core : Nat) (p : PAddr) (n : Nat) : State :=
  let near := s.posted.filter fun y => y.ofCore core && y.meets p.mt p.addr n
  let hit (x : Posted) : Bool :=
    x.ofCore core && (x.meets p.mt p.addr n ||
      near.any fun y => y.cid == x.cid && decide (x.id < y.id) && y.meets x.piece.at_.mt x.piece.at_.addr x.piece.data.length)
  let s' : State := { s with posted := s.posted.map fun x => if hit x then { x with wait := 0 } else x }
  s'.publish 7 core hit

/-- An atomic has reached its home point. -/
def State.atomicDue (s : State) (a : AtomicReq) : Bool := decide (a.due ≤ s.cycleOf a.cid) && !unanswered a.id a.at_

/-- The atomic that is performed next of those whose cycle this is: they act in ascending core number (R254, R264). -/
def State.atomicNext (s : State) : Option AtomicReq :=
  (s.atomics.filter s.atomicDue).foldl (fun b a => match b with
    | none => some a
    | some x => if coreOf a.cid < coreOf x.cid then some a else b) none

/-- ATOMIC_PERFORM (R242, R264). -/
def execAtomicPerform (id : Nat) (s : State) : Res :=
  match s.atomics.find? fun a => a.id == id && s.atomicDue a with
  | none => .refused (.notEnabled "ATOMIC_PERFORM")
  | some a =>
    let s := { s with atomics := s.atomics.filter fun x => x.id != id }
    let s := s.publishElement (coreOf a.cid) a.at_ a.size
    let bad := s.partsPoisoned [(a.at_, a.size)]
    let self := Posted.atHome .atomic a.id a.cid a.at_.mt a.at_.addr []
    let src := (s.posted.filter fun p =>
      p.out && !(p.born == s.now && p.after self) && p.meets a.at_.mt a.at_.addr a.size).map Posted.source
    let (x, s) := s.amoAt a.id a.cid a.op a.at_ a.size a.signed a.operand a.compare
    let s := s.toll (dieOf a.cid) [(a.at_, a.size)]
    match a.fetch with
    | none => .next s
    | some e =>
      let v : VWord := (BitVec.ofInt 64 (intVal (8 * a.size) (a.signed && a.size == 4) x)).setWidth 1024
      .next (s.modFar a.cid e fun e => 
        if bad then { e with data := .poisoned } else { e with value := some v, src := src })

/-! ## Peers (R375, R377) -/

/-- The header slot of a peer in the toll region (R235). -/
def State.peerSlot (s : State) (pkg : Nat) : Option Nat :=
  (List.range 16).find? fun k =>
    k != 0 && (let h := s.devNum (s.tollBase + 2 * k) 2; bitsOf h 15 1 == 1 && bitsOf h 0 12 == pkg)

/-- Count a peer's request at its home slice. -/
def State.tollPeer (s : State) (req : PeerReq) : State :=
  if s.tollBase = 0 then s else
    match s.peerSlot req.pkg with
    | some k => { s with inputs := s.inputs ++ [.tollCount (req.addr / 65536) k ((req.addr + max 1 req.size - 1) / 64 - req.addr / 64 + 1)] }
    | none => s

/-- PEER_MEMORY_REQUEST: a peer's read, write or atomic acts at this package's home slice; a request for a place outside the
map has no effect (R235, R242, R254, R375; DESIGN CHOICE, log 20). -/
def execPeerMemoryRequest (req : PeerReq) (s : State) : Res :=
  if !devOk req.addr req.size then .next s
  else
    let s := s.tollPeer req
    match req.atomic with
    | some (op, b, cmp, sg) =>
      let (x, s) := s.amoAt s.nextId Config.outriderBase op ⟨0, req.addr⟩ req.size sg b cmp
      .next (s.fresh.send (.peerData req.pkg (natLe req.size x)))
    | none =>
      if req.write then .next (s.writeHome 0 req.addr (req.data.take req.size))
      else .next (s.send (.peerData req.pkg (s.bytesSeen (if s.convoyHas req.pkg then viewPeer else viewOutside) 0 req.addr req.size)))

/-- Ticks after which a request to a peer is given up (R377). -/
def peerPatience : Nat := 200000

/-- The far-load entries of a context whose request has waited too long for a peer (R377). -/
def State.farLate (s : State) (cid : Nat) : List Nat :=
  ((s.ctx cid).far.filter fun e =>
    e.data == .waiting && (e.kind == .load || e.kind == .vector) && decide (e.left + peerPatience ≤ s.tick) && s.farUnanswered cid e).map (·.id)

/-- The requests that have waited too long for a peer (R377; DESIGN CHOICE, log 78). -/
def State.peerLate (s : State) : List Nat :=
  (s.posted.filter fun p => !p.performed && unanswered p.id p.piece.at_ && decide (p.left + peerPatience ≤ s.tick)).map (·.id) ++
    (s.atomics.filter fun a => unanswered a.id a.at_ && decide (a.left + peerPatience ≤ s.tick)).map (·.id) ++
    s.ctxs.flatMap fun x => s.farLate x.1

/-- PEER_REQUEST_TIMEOUT: a request to a peer has drawn no response in 200,000 ticks: an entry becomes FAULTED with ACCESS, a posted
store, whole, or a plain atomic is dropped and counted (R377). -/
def execPeerRequestTimeout (id : Nat) (s : State) : Res :=
  let late := s.peerLate
  if !late.contains id then .refused (.notEnabled "PEER_REQUEST_TIMEOUT")
  else
    let heads := (s.posted.filter fun p => p.id == id).map (·.head)
    let dropped := (s.posted.any fun p => p.id == id) || s.atomics.any fun a => a.id == id && a.fetch.isNone
    let entries := id :: (s.atomics.filter fun a => a.id == id).filterMap fun a => a.fetch
    let s := { s with
      posted := s.posted.filter fun p => !(heads.contains p.head && late.contains p.id)
      atomics := s.atomics.filter fun a => a.id != id
      ctxs := s.ctxs.map fun x =>
        (x.1, { x.2 with far := x.2.far.map fun e =>
          if entries.contains e.id && e.data = .waiting then { e with data := .access } else e }) }
    .next (if dropped then s.tally 0x818 0 1 else s)

/-! ## XLINV (R232) -/

/-- XLINV: BUSY rises.  The model caches no translation, so there is nothing to drop (DESIGN CHOICE, log 9). -/
def execXlinv (_value : Word) (s : State) : Res := .next (s.modPk fun p => { p with xlBusy := some s.tick })

/-- The invalidation has reached every die (R232; DESIGN CHOICE, log 9). -/
def State.xlinvOver (s : State) : Bool := match s.pk.xlBusy with | some t => decide (t + 400 ≤ s.tick) | none => false

/-- XLINV_DONE (R232; DESIGN CHOICE, log 9). -/
def execXlinvDone (s : State) : Res :=
  if s.xlinvOver then .next (s.modPk fun p => { p with xlBusy := none }) else .refused (.notEnabled "XLINV_DONE")

end Sys2Proof.Machine
end

