-- ==== Sys2Proof/Machine/Tiles.lean ====
section
/-! DEFINITION. The tile queue and the tile-store copy queue: rows and blocks as `tld` and `tst` move them, the conversions and
the pruning of a copy, and the events of both (R173 to R177, R206, R211 to R221). -/

namespace Sys2Proof.Machine

open Sys2Proof

/-! ## Rows and blocks of a tile register (R173, R175) -/

/-- Codes of `n` packed elements of `w` bits each, as one number. -/
def packCodes (w : Nat) (xs : List Nat) : Nat := xs.foldr (fun x acc => x % 2 ^ w + 2 ^ w * acc) 0

/-- A row of an A tile from its containers: elements at K and above are zero (R175). -/
def rowIn (w box K : Nat) (bs : List Byte) : List Byte :=
  natLe (4 * w) (packCodes w ((List.range K).map fun k => bitsOf (leNat bs) (box * k) w))

/-- A block of a B tile: every bit of an element at K or above is cleared (R175). -/
def blockIn (w K : Nat) (bs : List Byte) : List Byte :=
  natLe (4 * w) (packCodes 32 ((List.range w).map fun p => bitsOf (leNat bs) (32 * p) 32 % 2 ^ K))

/-- Containers of a row of an A tile: an INTn element is sign-extended (R175). -/
def rowOut (w box K len : Nat) (int : Bool) (m : Store 8) (i : Nat) : List Byte :=
  natLe len (packCodes box ((List.range K).map fun k =>
    let c := aCode m w i k
    if int then intCode box (intVal w true c) else c))

/-- Data of a tile register alone. -/
def Ctx.tileData (c : Ctx) (n : Nat) : Store 8 := c.latch n

/-- A tile command's fields. -/
structure TileCmd where
  store : Bool
  reg : Nat
  base : Word
  stride : Word
  shape : Word
  scale : Bool
  deriving DecidableEq, Repr

/-- Encoding width of a tile command. -/
def TileCmd.w (t : TileCmd) : Nat := tyWidth (shType t.shape) (shNbits t.shape)
/-- Container bits of a tile command. -/
def TileCmd.box (t : TileCmd) : Nat := tyBox (shType t.shape) (shNbits t.shape)
/-- Scratchpad offset of row or block `q`. -/
def TileCmd.at_ (t : TileCmd) (q : Nat) : Nat := (tileAt t.base t.stride q).toNat
/-- Bytes of a row or block. -/
def TileCmd.len (t : TileCmd) : Nat := tileLen t.shape

/-- The tile command in a queue entry. -/
def CmdOp.tile? : CmdOp → Option TileCmd
  | .tile st r b sd sh sc => some ⟨st, r, b, sd, sh, sc⟩
  | _ => none

/-- A tile poison bit lies in a range of bits of a context's tile registers. -/
def tilePoisonIn (cid lo n : Nat) (p : Place) : Bool :=
  match p with | .tile c b => c == cid && decide (lo ≤ b) && decide (b < lo + n) | _ => false

/-- First bit of row or block `q` of register `n`. -/
def TileCmd.bit (t : TileCmd) (q : Nat) : Nat := 262144 * t.reg + 32 * t.w * q

/-- Poison that a row or block takes with its data from the scratchpad: element by element for a row, byte by byte for a block, and its
scale byte with that of the side bank (R372). -/
def State.tileInPoison (s : State) (c : Cmd) (t : TileCmd) (q : Nat) : List Place :=
  if s.poison.isEmpty then [] else
    let bad (side : Bool) (a n : Nat) : Bool := s.padPoisoned c.gid side a n
    let x := t.at_ q
    let scale := if t.scale && bad true (x / 16) 1 then [Place.tileScale c.cid (256 * t.reg + q)] else []
    if shRole t.shape = 0 then
      scale ++ ((List.range (shK t.shape)).filter fun k => bad false (x + t.box * k / 8) ((t.box + 7) / 8)).map fun k =>
        Place.tile c.cid (t.bit q + t.w * k)
    else scale ++ ((List.range (8 * t.len)).filter fun b => bad false (x + b / 8) 1).map fun b => Place.tile c.cid (t.bit q + b)

/-- `tld` of one row or block (R175). -/
def State.tldRow (s : State) (c : Cmd) (t : TileCmd) (q : Nat) : State :=
  let g := s.group c.gid
  let x := t.at_ q
  let bs := g.sp.bytes x t.len
  let data := if shRole t.shape = 0 then rowIn t.w t.box (shK t.shape) bs else blockIn t.w (shK t.shape) bs
  let scale := if t.scale then g.side.get (x / 16) else 0x7F#8
  let new := s.tileInPoison c t q
  let s := { s with poison := s.poison.filter (fun p => !tilePoisonIn c.cid (t.bit q) (32 * t.w) p && p != Place.tileScale c.cid (256 * t.reg + q)) ++ new }
  s.modCtx c.cid fun y =>
    { y with
      tile := y.tile.setBytes (t.bit q / 8) data
      tileScale := y.tileScale.set (256 * t.reg + q) scale }

/-- Poison that a row or block carries to the scratchpad (R372). -/
def State.tileOutPoison (s : State) (c : Cmd) (t : TileCmd) (q : Nat) : List Place :=
  if s.poison.isEmpty then [] else
    let bad (lo n : Nat) : Bool := s.poison.any (tilePoisonIn c.cid lo n)
    let x := t.at_ q
    if shRole t.shape = 0 then
      ((List.range (shK t.shape)).filter fun k => bad (t.bit q + t.w * k) t.w).flatMap fun k =>
        (List.range ((t.box + 7) / 8)).map fun b => Place.scratch c.gid (x + t.box * k / 8 + b)
    else ((List.range t.len).filter fun b => bad (t.bit q + 8 * b) 8).map fun b => Place.scratch c.gid (x + b)

/-- `tst` of one row or block with its scale byte; the bits of a block beyond its last element are zeros (R175, R176; DESIGN CHOICE,
log 89). -/
def State.tstRow (s : State) (c : Cmd) (t : TileCmd) (q : Nat) : State :=
  let y := s.ctx c.cid
  let m := y.tileData t.reg
  let x := t.at_ q
  let data :=
    if shRole t.shape = 0 then rowOut t.w t.box (shK t.shape) t.len (shType t.shape == 7) m q
    else blockIn t.w (shK t.shape) (m.bytes (4 * t.w * q) t.len)
  let bad := s.tileOutPoison c t q
  let s := s.padWrite c.gid false x data
  let s := { s with poison := s.poison ++ bad }
  if !t.scale then s
  else
    let bad := s.poison.contains (.tileScale c.cid (256 * t.reg + q))
    let s := s.padWrite c.gid true (x / 16) [y.tileScale.get (256 * t.reg + q)]
    { s with poison := s.poison ++ if bad then [.side c.gid (x / 16)] else [] }

/-- The work of a tile command, row by row in ascending order (R175; DESIGN CHOICE, log 41). -/
def State.tileWork (s : State) (c : Cmd) (t : TileCmd) : State :=
  (List.range (tileCount t.shape)).foldl (fun s q => if t.store then s.tstRow c t q else s.tldRow c t q) s

/-! ## Events of the tile queue (R174, R177) -/

/-- Array commands that read the register of a `tld` and were issued earlier have latched it (R174 item 2). -/
def State.tileLatched (s : State) (c : Cmd) : Bool :=
  match c.op with
  | .tile false n _ _ _ _ =>
    s.cmds.all fun x =>
      !(x.cid == c.cid && decide (x.id < c.id) && x.op.tiles.contains n) ||
        (match x.start with | some t => decide (t + 12 ≤ s.unitCycle x.queue) | none => false)
  | _ => true

/-- The tile command that starts now. -/
def State.tileStart? (s : State) (core : Nat) : Option Cmd :=
  if !(s.running (.tile core)).isEmpty then none else
    match s.nextCmd (.tile core) with
    | some c => if s.mayStart c && s.tileLatched c then some c else none
    | none => none

/-- Cycles from the start of a tile command to its completion (R177). -/
def TileCmd.cycles (t : TileCmd) : Nat := 8 + (tileCount t.shape * t.len + 255) / 256

/-- TILE_COMMAND_START (R174, R177). -/
def execTileCommandStart (core : Nat) (s : State) : Res :=
  match s.tileStart? core with
  | some c =>
    .next (s.startCmd c fun x =>
      { x with due := s.unitCycle c.queue + (match c.op.tile? with | some t => t.cycles | none => 0) })
  | none => .refused (.notEnabled "TILE_COMMAND_START")

/-- A running command of a queue that is due. -/
def State.dueIn (s : State) (q : QueueId) : Option Cmd :=
  (s.running q).find? fun c => decide (c.due ≤ s.unitCycle q)

/-- TILE_COMMAND_COMPLETE (R175 to R177; DESIGN CHOICE, log 41). -/
def execTileCommandComplete (core : Nat) (s : State) : Res :=
  match s.dueIn (.tile core) with
  | some c =>
    let s := match c.op.tile? with | some t => s.tileWork c t | none => s
    .next (s.endCmd c)
  | none => .refused (.notEnabled "TILE_COMMAND_COMPLETE")

/-! ## Rows of a tile-store copy (R214 to R217) -/

/-- Fields of a copy. -/
structure CopyCmd where
  store : Bool
  pos : Word
  desc : Word
  prune : Bool
  wide : Bool
  deriving DecidableEq, Repr

/-- The copy in a queue entry. -/
def CmdOp.copy? : CmdOp → Option CopyCmd
  | .copy st p d pr pat => some ⟨st, p, d, pr, pat⟩
  | _ => none

/-- Rank of a binary32 word by magnitude: a NaN above every number (R217). -/
def magRank (x : Nat) : Nat := if (Fp.ofBits fmt32 x).isNan then 2 ^ 31 else x % 2 ^ 31

/-- Positions that a group keeps, ascending: those with fewer than half the group ranked above them (R217). -/
def keptOf (xs : List Nat) : List Nat :=
  (List.range xs.length).filter fun i =>
    let r := magRank ((xs[i]?).getD 0)
    decide (((List.range xs.length).filter fun j =>
      let q := magRank ((xs[j]?).getD 0)
      decide (r < q) || (decide (q = r) && decide (j < i))).length < xs.length / 2)

/-- Kept positions of a row, each with its index within its group (R217). -/
def CopyCmd.kept (k : CopyCmd) (row : List Nat) : List (Nat × Nat) :=
  if k.prune then
    let span := if k.wide then 8 else 4
    (List.range (row.length / span)).flatMap fun g =>
      (keptOf ((row.drop (span * g)).take span)).map fun i => (span * g + i, i)
  else (List.range row.length).map fun i => (i, 0)

/-- Flags of a copy as MXSTAT places them. -/
def mxFlags (f : FpFlags) : BitVec 8 := f.setWidth 8

/-- What a row of `tsld` writes: main bytes, scale bytes by block, flags (R216). -/
structure RowOut where
  main : List Byte
  scales : List Byte
  flags : BitVec 8
  deriving DecidableEq, Repr

/-- Bytes of an MX block in element-major form (R42). -/
def mxBlockBytes (t : MxType) (codes : List Nat) : List Byte :=
  if t = 4 then natLe 16 (packCodes 4 codes) else natLe 32 (packCodes 8 codes)

/-- A row of `tsld` in its format (R216). -/
def CopyCmd.rowFormat (k : CopyCmd) (ws : List Nat) : RowOut :=
  match cpFmt k.desc with
  | 0 => ⟨ws.flatMap (natLe 4), [], 0⟩
  | 8 => ⟨ws.flatMap (natLe 4), [], 0⟩
  | 1 =>
    let rs : List (Nat × FpFlags) := ws.map fun w =>
      match Fp.ofBits fmt32 w with
      | .nan n m => (fmtB16.canonNan, snanFlags [.nan n m])
      | x => fpToFp fmtB16 0 x
    ⟨rs.flatMap fun r => natLe 2 r.1, [], rs.foldl (fun f r => f ||| mxFlags r.2) 0⟩
  | f =>
    let bs := (List.range (ws.length / 32)).map fun b =>
      packBlock (f - 2) (((ws.drop (32 * b)).take 32).map (Fp.ofBits fmt32))
    ⟨bs.flatMap fun b => mxBlockBytes (f - 2) b.elems, bs.map fun b => BitVec.ofNat 8 b.scale,
      bs.foldl (fun f b => f ||| mxFlags b.flags) 0⟩

/-- Scratchpad offset of row `q` of a copy. -/
def CopyCmd.at_ (k : CopyCmd) (q : Nat) : Nat := cpOff k.pos + q * cpStride k.desc

/-- Words of a row of the tile store. -/
def CopyCmd.words (k : CopyCmd) (ts : Store 32) (q : Nat) : List Nat :=
  (List.range (cpWords k.desc)).map fun i => (ts.get (tsKey (posRow k.pos + q) (posCol k.pos + i))).toNat

/-- Bytes of an element of a copy's scratchpad form: half a byte counts as one. -/
def CopyCmd.elemBytes (k : CopyCmd) : Nat := match cpFmt k.desc with | 0 => 4 | 8 => 4 | 1 => 2 | _ => 1

/-- Poison of what a row of `tsld` writes, from the poisoned words it reads: a pruned group chooses by all of its words, and an MX block
takes its scale from all of its elements (R216, R217, R372). -/
def State.copyOutPoison (s : State) (c : Cmd) (k : CopyCmd) (q : Nat) (kept : List (Nat × Nat)) : List Place :=
  let bad (i : Nat) : Bool := s.poison.contains (.tileStore c.gid (tsKey (posRow k.pos + q) (posCol k.pos + i)))
  let n := k.elemBytes
  let span := if k.wide then 8 else 4
  let mx := decide (2 ≤ cpFmt k.desc) && decide (cpFmt k.desc ≤ 7)
  let chosen (t : Nat) : Bool :=
    let i := ((kept[t]?).getD (0, 0)).1
    if k.prune then (List.range span).any fun d => bad (i / span * span + d) else bad i
  let ts := (List.range kept.length).filter chosen
  let blocks := if mx then (ts.map fun t => t / 32).eraseDups else []
  let elems := if mx then blocks.flatMap fun b => (List.range 32).map fun e => 32 * b + e else ts
  (elems.flatMap fun t =>
      let o := if cpFmt k.desc = 6 then t / 2 else n * t
      (List.range n).map fun b => Place.scratch c.gid (k.at_ q + o + b)) ++
    (blocks.map fun b => Place.side c.gid ((k.at_ q + cpBlock k.desc * b) / 16)) ++
    if k.prune then ts.map fun t => Place.scratch c.gid (cpMd k.pos + q * cpMdLen k.desc + t / 2) else []

/-- Row `q` of a `tsld` (R216 to R218). -/
def State.tsldRow (s : State) (c : Cmd) (k : CopyCmd) (q : Nat) : State × BitVec 8 :=
  let ws := k.words (s.group c.gid).ts q
  let kept := k.kept ws
  let out := k.rowFormat (kept.map fun p => (ws[p.1]?).getD 0)
  let bad := if s.poison.isEmpty then [] else s.copyOutPoison c k q kept
  let s := s.padWrite c.gid false (k.at_ q) out.main
  let s := (List.range out.scales.length).foldl (fun s b =>
    s.padWrite c.gid true ((k.at_ q + cpBlock k.desc * b) / 16) [(out.scales[b]?).getD 0]) s
  let s := if k.prune then
      s.padWrite c.gid false (cpMd k.pos + q * cpMdLen k.desc) (natLe (cpMdLen k.desc) (packCodes 4 (kept.map (·.2))))
    else s
  ({ s with poison := (s.poison ++ bad).eraseDups }, out.flags)

/-- Words and flags of a row of `tsst` from its scratchpad bytes (R216, R47; DEDUCED, log 44). -/
def CopyCmd.rowParse (k : CopyCmd) (bs : List Byte) : List (BitVec 32) × BitVec 8 :=
  if cpFmt k.desc = 1 then
    let rs := (List.range (cpWords k.desc)).map fun i => fpToFp fmt32 0 (Fp.ofBits fmtB16 (leNat ((bs.drop (2 * i)).take 2)))
    (rs.map fun r => BitVec.ofNat 32 r.1, rs.foldl (fun f r => f ||| mxFlags r.2) 0)
  else ((List.range (cpWords k.desc)).map fun i => BitVec.ofNat 32 (leNat ((bs.drop (4 * i)).take 4)), 0)

/-- Row `q` of a `tsst` (R216, R218). -/
def State.tsstRow (s : State) (c : Cmd) (k : CopyCmd) (q : Nat) : State × BitVec 8 :=
  let (ws, f) := k.rowParse ((s.group c.gid).sp.bytes (k.at_ q) (cpLen k.desc false))
  let n := k.elemBytes
  let key := tsKey (posRow k.pos + q) (posCol k.pos)
  let bad := if s.poison.isEmpty then [] else
    ((List.range ws.length).filter fun i => s.padPoisoned c.gid false (k.at_ q + n * i) n).map fun i =>
      Place.tileStore c.gid (key + i)
  let good (p : Place) : Bool := match p with
    | .tileStore g w => !(g == c.gid && decide (key ≤ w) && decide (w < key + ws.length))
    | _ => true
  (({ s with poison := s.poison.filter good ++ bad } : State).modGroup c.gid fun g => { g with ts := g.ts.setAll key ws }, f)

/-! ## Events of the copy queue (R211, R212, R218 to R221) -/

/-- The copy that starts now (R211, R212). -/
def State.copyStart? (s : State) (serai : Nat) : Option Cmd :=
  if !(s.running (.copy serai)).isEmpty then none else
    match s.nextCmd (.copy serai) with
    | some c =>
      let wait := s.cmds.any fun x => x.queue == .array serai && decide (x.id < c.id) && x.overlaps c
      let may := s.pushedLongEnough c && s.tailHolds c && (!s.stopping c || s.copyWanted c)
      if may && !wait then some c else none
    | none => none

/-- TS_COPY_START: the first beat can take place two cycles later (R211, R220). -/
def execTsCopyStart (serai : Nat) (s : State) : Res :=
  match s.copyStart? serai with
  | some c => .next (s.startCmd c fun x => { x with occ := s.unitCycle c.queue + 2 })
  | none => .refused (.notEnabled "TS_COPY_START")

/-- Groups of a row of a copy: the first one and how many (R220). -/
def CopyCmd.groups (k : CopyCmd) : Nat × Nat :=
  (posCol k.pos / 8, (posCol k.pos + cpWords k.desc - 1) / 8 - posCol k.pos / 8 + 1)

/-- Beats of a row (R220). -/
def CopyCmd.rowBeats (k : CopyCmd) : Nat := (k.groups.2 + 31) / 32

/-- Beats of a copy. -/
def CopyCmd.beats (k : CopyCmd) : Nat := cpRows k.desc * k.rowBeats

/-- Banks of beat `n` of a copy: group modulo 32 (R206, R220). -/
def CopyCmd.banks (k : CopyCmd) (n : Nat) : List Nat :=
  let j := n % k.rowBeats
  (List.range (min 32 (k.groups.2 - 32 * j))).map fun i => (k.groups.1 + 32 * j + i) % 32

/-- An array command in its update phase claims a bank (R221). -/
def Cmd.claims (a : Cmd) (bank : Nat) : Bool :=
  a.updating &&
    match a.op.region with
    | some (_, _, c, m) => (List.range ((c + m - 1) / 8 - c / 8 + 1)).any fun i => (c / 8 + i) % 32 == bank
    | none => false

/-- A copy stops after its beat while its consignment settles, unless a running array command awaits it (R212, R222;
DEDUCED, log 58). -/
def State.copyHeld (s : State) (c : Cmd) : Bool := s.stopping c && !s.copyWanted c

/-- The running copy of a serai with beats left to make. -/
def State.copyRunning? (s : State) (serai : Nat) : Option (Cmd × CopyCmd) :=
  match (s.running (.copy serai)).head? with
  | some c =>
    match c.op.copy? with
    | some k => if decide (c.work < k.beats) && !s.copyHeld c then some (c, k) else none
    | none => none
  | none => none

/-- Update phases that claim a bank of the next beat. -/
def State.claimers (s : State) (serai : Nat) (c : Cmd) (k : CopyCmd) : List Cmd :=
  s.cmds.filter fun a => a.queue == .array serai && (k.banks c.work).any fun b => a.claims b

/-- The beat that takes place now, its banks free (R220, R221). -/
def State.beat? (s : State) (serai : Nat) : Option (Cmd × CopyCmd) :=
  match s.copyRunning? serai with
  | some (c, k) =>
    if decide (c.occ ≤ s.unitCycle c.queue) && (s.claimers serai c k).isEmpty then some (c, k) else none
  | none => none

/-- The beat for which update phases yield: it has been refused in 7 cycles (R221). -/
def State.yield? (s : State) (serai : Nat) : Option (Cmd × CopyCmd) :=
  match s.copyRunning? serai with
  | some (c, k) =>
    if decide (c.occ + 7 ≤ s.unitCycle c.queue) && !(s.claimers serai c k).isEmpty then some (c, k) else none
  | none => none

/-- A beat: a row commits with its last one (R216 to R218, R220; DESIGN CHOICE, log 41). -/
def State.makeBeat (s : State) (c : Cmd) (k : CopyCmd) : State :=
  let cycle := s.unitCycle c.queue
  let q := c.work / k.rowBeats
  let (s, f) :=
    if (c.work + 1) % k.rowBeats = 0 then (if k.store then s.tsstRow c k q else s.tsldRow c k q) else (s, 0)
  s.modCmd c.id fun x =>
    { x with work := x.work + 1, occ := cycle + 1, due := cycle + 9, flags := x.flags ||| f }

/-- TS_COPY_BEAT (R218, R220). -/
def execTsCopyBeat (serai : Nat) (s : State) : Res :=
  match s.beat? serai with
  | some (c, k) => .next (s.makeBeat c k)
  | none => .refused (.notEnabled "TS_COPY_BEAT")

/-- TS_COPY_YIELD: every claiming update phase is held for this cycle, and the beat proceeds (R221). -/
def execTsCopyYield (serai : Nat) (s : State) : Res :=
  match s.yield? serai with
  | some (c, k) =>
    let ids := (s.claimers serai c k).map (·.id)
    .next (({ s with cmds := s.cmds.map fun a => if ids.contains a.id then { a with due := a.due + 1 } else a } : State).makeBeat c k)
  | none => .refused (.notEnabled "TS_COPY_YIELD")

/-- The copy that completes now. -/
def State.copyDone? (s : State) (serai : Nat) : Option Cmd :=
  match s.dueIn (.copy serai) with
  | some c =>
    match c.op.copy? with
    | some k => if k.beats ≤ c.work then some c else none
    | none => none
  | none => none

/-- TS_COPY_COMPLETE (R219). -/
def execTsCopyComplete (serai : Nat) (s : State) : Res :=
  match s.copyDone? serai with
  | some c =>
    let s := s.modCtx c.cid fun x => x.completed true c.number c.flags (tailSignal c.tail) (s.unitCycle c.queue)
    .next (s.endCmd c)
  | none => .refused (.notEnabled "TS_COPY_COMPLETE")

end Sys2Proof.Machine
end

