-- ==== Sys2Proof/Machine/Drovers.lean ====
section
/-! DEFINITION. The drover copy engines: descriptors, the chunks of the five commands, relay streams, and the events of a command
from start to status record (R160, R162, R165, R233, R234, R285 to R299, R330, R331). -/

namespace Sys2Proof.Machine

open Sys2Proof

/-! ## Descriptor (R288, R292 to R294) -/

/-- A field of a descriptor copy. -/
def dnum (d : List Byte) (lo n : Nat) : Nat := leNat ((d.drop lo).take n)

/-- Bytes `lo` to `hi` are zero. -/
def dzero (d : List Byte) (lo hi : Nat) : Bool := ((d.take (hi + 1)).drop lo).all fun b => b == 0

/-- A drover command with its descriptor copy: kind 0 `cp.lin`, 1 `cp.ten`, 2 `cp.gat`, 3 `cp.sct`, 4 `cp.fill`. -/
structure Drv where
  kind : Nat
  d : List Byte
  deriving DecidableEq, Repr

/-- DST. -/
def Drv.dst (v : Drv) : Nat := dnum v.d 0 8
/-- SRC. -/
def Drv.src (v : Drv) : Nat := dnum v.d 8 8
/-- DSP. -/
def Drv.dsp (v : Drv) : Nat := bitsOf (dnum v.d 16 1) 0 2
/-- SSP. -/
def Drv.ssp (v : Drv) : Nat := bitsOf (dnum v.d 16 1) 2 2
/-- GT. -/
def Drv.gt (v : Drv) : Bool := bitsOf (dnum v.d 17 1) 0 1 == 1
/-- DIR: a `cp.ten` that stores to the tensor. -/
def Drv.out (v : Drv) : Bool := bitsOf (dnum v.d 17 1) 1 1 == 1
/-- PAD. -/
def Drv.pad (v : Drv) : Bool := bitsOf (dnum v.d 17 1) 2 1 == 1
/-- TAG. -/
def Drv.tag (v : Drv) : Nat := dnum v.d 24 8
/-- LEN. -/
def Drv.len (v : Drv) : Nat := dnum v.d 32 4
/-- COUNT. -/
def Drv.count (v : Drv) : Nat := dnum v.d 32 4
/-- ROWBYTES. -/
def Drv.rowBytes (v : Drv) : Nat := dnum v.d 36 2
/-- RPS. -/
def Drv.rps (v : Drv) : Nat := dnum v.d 38 2
/-- IDX. -/
def Drv.idx (v : Drv) : Nat := dnum v.d 40 8
/-- SSTRIDE. -/
def Drv.sstride (v : Drv) : Nat := dnum v.d 48 4
/-- DSTRIDE. -/
def Drv.dstride (v : Drv) : Nat := dnum v.d 52 4

/-- Relay destinations. -/
def Drv.relay (v : Drv) : Bool := decide (2 ≤ v.dsp)

/-- Rows of a chunk (R293). -/
def Drv.rows (v : Drv) : Nat := if v.kind = 3 && v.relay then v.rps else 4096 / v.rowBytes

/-- An element type with its n: 0 to 7 as R171, 8 binary32 (R294). -/
structure Ty where
  ty : Nat
  nb : Nat
  deriving DecidableEq, Repr

/-- Width of an element. -/
def Ty.w (t : Ty) : Nat := if t.ty = 8 then 32 else tyWidth t.ty t.nb
/-- Container bits of an element in element-major form. -/
def Ty.box (t : Ty) : Nat := if t.ty = 8 then 32 else tyBox t.ty t.nb
/-- An MX type. -/
def Ty.mx (t : Ty) : Bool := decide (t.ty < 6)
/-- The type code and its n are legal. -/
def Ty.ok (t : Ty) : Bool := decide (t.ty ≤ 8) && (if t.ty = 7 then decide (1 ≤ t.nb) && decide (t.nb ≤ 32) else t.nb == 0)
/-- BS: bytes from one plane-major block to the next (R294). -/
def Ty.bs (t : Ty) : Nat := 16 * ((4 * t.w + 15) / 16)

/-- Tensor element type. -/
def Drv.tty (v : Drv) : Ty := ⟨dnum v.d 34 1, dnum v.d 35 1⟩
/-- Image element type. -/
def Drv.sty (v : Drv) : Ty := ⟨dnum v.d 36 1, dnum v.d 37 1⟩
/-- The image is plane-major. -/
def Drv.slay (v : Drv) : Bool := dnum v.d 38 1 == 1
/-- Box origin. -/
def Drv.org (v : Drv) (k : Nat) : Nat := dnum v.d (40 + 4 * k) 4
/-- Box extent. -/
def Drv.ext (v : Drv) (k : Nat) : Nat := dnum v.d (56 + 2 * k) 2
/-- Elements of the box. -/
def Drv.elems (v : Drv) : Nat := v.ext 0 * v.ext 1 * v.ext 2 * v.ext 3
/-- The image is laid out in blocks. -/
def Drv.blocks (v : Drv) : Bool := v.slay || v.sty.mx
/-- Bytes of an image block. -/
def Drv.blockBytes (v : Drv) : Nat := if v.slay then v.sty.bs else if v.sty.ty = 4 then 16 else 32
/-- Elements of a chunk of a `cp.ten` (R296). -/
def Drv.perChunk (v : Drv) : Nat := if v.blocks then 32 * (4096 / v.blockBytes) else 32768 / v.sty.box
/-- Image bytes of a chunk. -/
def Drv.chunkBytes (v : Drv) : Nat := if v.blocks then 4096 / v.blockBytes * v.blockBytes else 4096
/-- Image bytes of the box. -/
def Drv.imageBytes (v : Drv) : Nat := if v.blocks then (v.elems + 31) / 32 * v.blockBytes else v.elems * v.sty.box / 8

/-- Number of chunks (R292, R293, R296). -/
def Drv.chunks (v : Drv) : Nat :=
  match v.kind with
  | 1 => (v.imageBytes + v.chunkBytes - 1) / v.chunkBytes
  | 2 => (v.count + v.rows - 1) / v.rows
  | 3 => (v.count + v.rows - 1) / v.rows
  | _ => (v.len + 4095) / 4096

/-- Conversions that R295 allows, by direction. -/
def convOk (a b : Ty) : Bool :=
  a == b || (a.mx && (b.ty == 8 || b.ty == 6)) || (b.mx && (a.ty == 8 || a.ty == 6)) ||
    (a.ty == 8 && b.ty == 6) || (a.ty == 6 && b.ty == 8)

/-- Rules of R288 for every command. -/
def Drv.headOk (v : Drv) : Bool :=
  bitsOf (dnum v.d 16 1) 4 4 == 0 && decide (v.ssp < 2) && bitsOf (dnum v.d 17 1) 3 5 == 0 && dzero v.d 18 19 &&
    (v.kind == 1 || bitsOf (dnum v.d 17 1) 1 2 == 0) && (!v.gt || (v.dsp == 0 && v.tag % 4 == 0)) &&
    (v.dsp != 2 || decide (v.dst < 16)) && (v.dsp != 3 || decide (v.dst < 2 ^ 32))

/-- Rules of `cp.ten` that need no manifest (R294, R295). -/
def Drv.tenOk (v : Drv) : Bool :=
  let from_ := if v.out then v.sty else v.tty
  let to_ := if v.out then v.tty else v.sty
  dzero v.d 39 39 && dzero v.d 64 95 && v.tty.ok && v.sty.ok && decide (dnum v.d 38 1 < 2) && convOk from_ to_ &&
    (List.range 4).all (fun k => decide (1 ≤ v.ext k)) && (if v.out then v.ssp == 1 && v.dsp == 0 else v.dsp != 0) &&
    (!(v.tty.mx || v.sty.mx) || (v.org 0 % 32 == 0 && v.ext 0 % 32 == 0)) &&
    (!v.blocks || (if v.out then v.src % 16 == 0 else v.dsp != 1 || v.dst % 16 == 0))

/-- Rules of the descriptor, those of the manifest apart (R288, R292 to R295). -/
def Drv.legal (v : Drv) : Bool :=
  v.headOk &&
    match v.kind with
    | 1 => v.tenOk
    | 0 => dzero v.d 36 95 && v.len % 4 == 0 && v.src % 4 == 0 && (v.relay || v.dst % 4 == 0)
    | 4 => dzero v.d 36 95 && v.len % 4 == 0 && v.ssp == 0 && (v.relay || v.dst % 4 == 0)
    | k =>
      dzero v.d 56 95 && decide (4 ≤ v.rowBytes) && decide (v.rowBytes ≤ 4096) && v.rowBytes % 4 == 0 && v.idx % 4 == 0 &&
        v.sstride % 4 == 0 && v.dstride % 4 == 0 && v.src % 4 == 0 && (v.relay || v.dst % 4 == 0) &&
        (if k = 3 && v.relay then decide (1 ≤ v.rps) && decide (v.rps ≤ 4096 / v.rowBytes) else v.rps == 0) &&
        (!(k == 2 && v.relay) || decide (v.rowBytes ≤ v.dstride))

/-! ## Manifests (R233, R234) -/

/-- Why a chunk fails (R289, R234). -/
inductive DFail where
  | absent (va level : Nat) (write : Bool)
  | access (addr : Nat)
  | bound (addr : Nat)
  | illegal
  | reset
  | range
  | tileAccess
  | tileAbsent (tile : Nat) (write : Bool)
  deriving DecidableEq, Repr

/-- A manifest entry. -/
structure Man where
  w : Bool
  pm : Bool
  rank : Nat
  ebits : Nat
  tbytes : Nat
  d : List Nat
  t : List Nat
  ttab : Nat
  deriving DecidableEq, Repr

/-- Product of the tile extents below RANK. -/
def Man.tileElems (m : Man) : Nat := (m.t.take m.rank).foldl (· * ·) 1

/-- NB: blocks of a tile. -/
def Man.blocks (m : Man) : Nat := (m.tileElems + 31) / 32

/-- A tile holds its blocks and scales (R294). -/
def Man.holds (m : Man) (t : Ty) : Bool :=
  decide ((if m.pm then m.blocks * t.bs else (m.tileElems * m.ebits + 7) / 8) + (if t.mx then m.blocks else 0) ≤ m.tbytes)

/-- Manifest entry `t` of an address space that is VALID; TBYTES or a tile extent below RANK outside the bounds of R233 makes it
malformed too (R227, R233, R234; DESIGN CHOICE, log 101). -/
def State.manifest (s : State) (asid t : Nat) : Except DFail Man :=
  let a := s.descNum asid 8 8 + 64 * t
  if !s.descValid asid || decide (s.descNum asid 16 2 ≤ t) then .error .tileAccess
  else
    let flags := s.devNum a 2
    let rank := s.devNum (a + 2) 1
    let m : Man :=
      ⟨bitsOf flags 1 1 == 1, bitsOf flags 2 1 == 1, rank, s.devNum (a + 3) 1, s.devNum (a + 4) 4,
        (List.range 4).map fun k => s.devNum (a + 8 + 4 * k) 4, (List.range 4).map fun k => s.devNum (a + 24 + 2 * k) 2,
        s.devNum (a + 32) 8⟩
    let bad := flags % 2 == 0 || bitsOf flags 3 13 != 0 || rank == 0 || decide (4 < rank) ||
      !([4, 6, 8, 16, 32, 64].contains m.ebits) || (m.t.take rank).contains 0 || m.tbytes % 64 != 0 ||
      decide (65536 < m.tbytes) || decide (8 * m.tbytes < m.tileElems * m.ebits) || s.devNum (a + 40) 24 != 0
    if bad then .error .tileAccess else .ok m

/-- Tensor id of a `cp.ten`. -/
def Drv.tid (v : Drv) : Nat := dnum v.d 32 2

/-- The manifest entry of a `cp.ten`, its tiles large enough. -/
def State.manOf (s : State) (c : Cmd) (v : Drv) : Except DFail Man :=
  match s.manifest (s.ctx c.cid).asid v.tid with
  | .ok m => if m.holds v.tty then .ok m else .error .tileAccess
  | .error e => .error e

/-- Rules of `cp.ten` that depend on the manifest (R294, R295). -/
def Drv.manLegal (v : Drv) (m : Man) : Bool :=
  m.ebits == v.tty.w && ((List.range 4).all fun k => decide (k < m.rank) || v.ext k == 1) &&
    (!(m.pm || v.slay || v.tty.mx || v.sty.mx) || ((m.t[0]?).getD 0) % 32 == 0)

/-- Where an element of a tensor stands: beyond the tensor, or in a tile at an element number. -/
inductive TLoc where
  | outside
  | at_ (pa e : Nat)
  deriving DecidableEq, Repr

/-- Coordinate `k` of image element `n`. -/
def Drv.coord (v : Drv) (n k : Nat) : Nat :=
  v.org k +
    match k with
    | 0 => n % v.ext 0
    | 1 => n / v.ext 0 % v.ext 1
    | 2 => n / (v.ext 0 * v.ext 1) % v.ext 2
    | _ => n / (v.ext 0 * v.ext 1 * v.ext 2)

/-- Tile number and element number of coordinates (R234). -/
def Man.place (m : Man) (x : Nat → Nat) : Nat × Nat :=
  let r := (List.range m.rank).foldl (fun (acc : Nat × Nat × Nat × Nat) k =>
    let (n, e, mn, me) := acc
    let T := (m.t[k]?).getD 1
    let D := (m.d[k]?).getD 0
    (n + x k / T * mn, e + x k % T * me, mn * ((D + T - 1) / T), me * T)) (0, 0, 1, 1)
  (r.1, r.2.1)

/-- The layout unit (R234, R296). -/
def State.locate (s : State) (v : Drv) (m : Man) (write : Bool) (n : Nat) : Except DFail TLoc :=
  let x := v.coord n
  if (List.range m.rank).any fun k => decide ((m.d[k]?).getD 0 ≤ x k) then
    (if v.pad then .ok .outside else .error .range)
  else
    let (tile, e) := m.place x
    let ent := s.devNum (m.ttab + 8 * tile) 8
    if ent % 2 = 0 then .error (.tileAbsent tile write)
    else if write && (bitsOf ent 1 1 = 0 || !m.w) then .error .tileAccess
    else .ok (.at_ (bitsOf ent 6 46 * 64) e)

/-! ## Bytes with their poison -/

/-- A byte and whether it is poisoned. -/
abbrev DByte := Byte × Bool

/-- Where a chunk writes. -/
inductive Aim where
  | mem (p : PAddr)
  | pad (gid : Nat) (side : Bool) (addr : Nat)
  deriving DecidableEq, Repr

/-- Poison of package memory. -/
def State.memBad (s : State) (p : PAddr) : Bool := p.mt == 0 && s.poison.contains (.memory p.addr)

/-- The unit in which a command reads memory (R252). -/
def Cmd.viewer (c : Cmd) : Nat :=
  match c.queue with
  | .coll die => viewDie die
  | _ => if isDepot c.cid then viewDepot (locOf c.cid - Config.depotBase) else viewSerai (seraiOf c.cid)

/-- Bytes of global memory as a command reads them: what its push has published, and every later publication that reaches its unit
(R263). -/
def State.engineMem (s : State) (c : Cmd) (p : PAddr) (n : Nat) : List DByte :=
  (List.range n).map fun i => (s.byteSeen c.viewer p.mt (p.addr + i), s.memBad ⟨p.mt, p.addr + i⟩)

/-- Bytes of a scratchpad or side bank. -/
def State.enginePad (s : State) (gid : Nat) (side : Bool) (a n : Nat) : List DByte :=
  (List.range n).map fun i => (((s.group gid).pad side).get (a + i), s.padPoisoned gid side (a + i) 1)

/-- A command of a context writes bytes with their poison (R254). -/
def State.putBytes (s : State) (cid : Nat) (t : Aim) (bs : List DByte) : State :=
  let data := bs.map (·.1)
  let bad := (List.range bs.length).filter fun i => ((bs[i]?).getD (0, false)).2
  match t with
  | .mem p =>
    let s := s.engineWrite cid p.mt p.addr data
    if p.mt = 0 then { s with poison := s.poison ++ bad.map fun i => Place.memory (p.addr + i) } else s
  | .pad g side a =>
    let s := s.padWrite g side a data
    { s with poison := s.poison ++ bad.map fun i => if side then Place.side g (a + i) else Place.scratch g (a + i) }

/-! ## Ranges of a chunk (R226, R231, R290) -/

/-- Walk the pages of a range for a unit of a die: the places of its parts, or the first failure. -/
def State.walkRange (s : State) (die asid : Nat) (priv write : Bool) : Nat → Nat → Nat → Except DFail (List (PAddr × Nat))
  | 0, _, _ => .ok []
  | fuel + 1, va, n =>
    if n = 0 then .ok []
    else if 2 ^ 57 ≤ va then .error (.access va)
    else
      let k := min n (65536 - va % 65536)
      match s.walk die asid va (if write then .write else .read) priv with
      | .ok p => match State.walkRange s die asid priv write fuel (va + k) (n - k) with
        | .ok ps => .ok ((p, k) :: ps)
        | .error e => .error e
      | .absent l => .error (.absent va l write)
      | .access => .error (.access va)

/-- Places of a range. -/
def State.range (s : State) (cid : Nat) (write : Bool) (va n : Nat) : Except DFail (List (PAddr × Nat)) :=
  s.walkRange (s.portOf cid) (s.ctx cid).asid (s.ctx cid).priv write (n / 65536 + 2) va n

/-- A range of a chunk: its space, 0 global and 1 scratchpad, its address, its length and whether it is written. -/
structure DRange where
  space : Nat
  addr : Nat
  len : Nat
  write : Bool
  deriving DecidableEq, Repr

/-- Translation of a range fails. -/
def State.rangeFail (s : State) (cid : Nat) (r : DRange) : Option DFail :=
  if r.space = 0 then (match s.range cid r.write r.addr r.len with | .error e => some e | .ok _ => none) else none

/-- A scratchpad range reaches beyond a bound. -/
def boundFail (lim : Nat) (r : DRange) : Option DFail :=
  if r.space = 1 && decide (lim < r.addr + r.len) then some (.bound (max r.addr lim)) else none

/-- The first failure of a chunk's ranges: translations first, then bounds (R290). -/
def State.rangesFail (s : State) (c : Cmd) (rs : List DRange) : Option DFail :=
  match rs.findSome? (s.rangeFail c.cid) with
  | some e => some e
  | none => rs.findSome? (boundFail (s.group c.gid).spLim)

/-- Read a range that has passed its checks. -/
def State.readRange (s : State) (c : Cmd) (r : DRange) : List DByte :=
  if r.space = 1 then s.enginePad c.gid false r.addr r.len
  else match s.range c.cid r.write r.addr r.len with
    | .ok ps => ps.flatMap fun p => s.engineMem c p.1 p.2
    | .error _ => []

/-- Places in global memory of a range that has passed its checks. -/
def State.rangePlaces (s : State) (c : Cmd) (r : DRange) : List (PAddr × Nat) :=
  if r.space = 1 then [] else match s.range c.cid r.write r.addr r.len with | .ok ps => ps | .error _ => []

/-- Targets of bytes in a range that has passed its checks. -/
def State.aim (s : State) (c : Cmd) (r : DRange) (bs : List DByte) : List (Aim × List DByte) :=
  if r.space = 1 then [(.pad c.gid false r.addr, bs)]
  else match s.range c.cid true r.addr r.len with
    | .ok ps => (ps.foldl (fun (acc : List (Aim × List DByte) × List DByte) p =>
        (acc.1 ++ [(.mem p.1, acc.2.take p.2)], acc.2.drop p.2)) ([], bs)).1
    | .error _ => []

/-! ## Relay destinations (R160, R161, R293, R297) -/

/-- The buffer that a relay destination names: its group, its number there and its state. -/
def State.relayDest (s : State) (c : Cmd) (v : Drv) : Except DFail (Nat × Nat × Relay) :=
  if v.dsp = 2 then
    let n := v.dst % 16
    let g := s.group c.gid
    match (if n < g.nrelays then g.relays[n]? else none) with
    | some r => .ok (c.gid, n, r)
    | none => .error (.access v.dst)
  else
    let hit (g : Nat × Group) : Option (Nat × Nat × Relay) :=
      if g.2.resident && g.2.unit == bitsOf v.dst 0 6 then
        (findPos (fun (r : Relay) => r.phys == bitsOf v.dst 6 4 && r.gen % 2 ^ 22 == bitsOf v.dst 10 22) g.2.relays 0).map
          fun p => (g.1, p.1, p.2)
      else none
    match s.groups.findSome? hit with
    | some x => .ok x
    | none => .error (.access v.dst)

/-- The group of the buffer that a handle names is saved: its allotment stands, and a producer waits for its return (R151, R166 item
4; DESIGN CHOICE, log 53). -/
def State.relayAway (s : State) (v : Drv) : Bool :=
  v.dsp == 3 && s.groups.any fun g =>
    !g.2.resident && g.2.unit == bitsOf v.dst 0 6 &&
      g.2.relays.any fun r => r.phys == bitsOf v.dst 6 4 && r.gen % 2 ^ 22 == bitsOf v.dst 10 22

/-- Address of stream byte `o` past the fill point. -/
def Relay.byteAt (r : Relay) (o : Nat) : Nat :=
  r.base + (r.fill + (r.fillOff + o) / r.slot) % r.count * r.slot + (r.fillOff + o) % r.slot

/-- Slots that a stream of `n` bytes touches. -/
def Relay.touched (r : Relay) (n : Nat) : List Nat :=
  if n = 0 then [] else (List.range ((r.fillOff + n - 1) / r.slot + 1)).map fun k => (r.fill + k) % r.count

/-- Cycle at the serai that owns a buffer. -/
def State.relayCycle (s : State) (g : Nat) : Nat := (s.serai (s.group g).unit).cyc

/-- A slot may be written: FREE since an earlier cycle, or FILLING with no running command but this one filling it (R164, R165,
R297). -/
def State.slotOpen (s : State) (id g : Nat) (r : Relay) (k : Nat) : Bool :=
  match r.slots[k]? with
  | some .free => true
  | some (.freed cycle) => decide (cycle < s.relayCycle g)
  | some (.filling x) => x == id || !(s.cmds.any fun c => c.id == x && c.start.isSome)
  | _ => false

/-- Every slot a chunk touches may be written; a chunk that touches more slots than the buffer has waits for as long as it runs (R165;
DESIGN CHOICE, log 97). -/
def State.slotsOpen (s : State) (id g : Nat) (r : Relay) (ks : List Nat) : Bool :=
  decide (ks.length ≤ r.count) && ks.all fun k => s.slotOpen id g r k

/-- Mark slots as being filled. -/
def Relay.claim (r : Relay) (id : Nat) (ks : List Nat) : Relay :=
  { r with slots := ks.foldl (fun sl k => sl.set k (.filling id)) r.slots }

/-- The buffer after a stream of `n` bytes has been committed at a cycle: slots whose last byte is written are FILLED. -/
def Relay.commitStream (r : Relay) (cycle n : Nat) : Relay :=
  let full := (r.fillOff + n) / r.slot
  { r with
    slots := (List.range full).foldl (fun sl k => sl.set ((r.fill + k) % r.count) (.filled cycle)) r.slots
    fill := (r.fill + full) % r.count
    fillOff := (r.fillOff + n) % r.slot }

/-- The buffer after a `cp.sct` chunk has filled the slot at the fill index (R293). -/
def Relay.commitSlot (r : Relay) (cycle : Nat) : Relay :=
  { r with slots := r.slots.set r.fill (.filled cycle), fill := (r.fill + 1) % r.count, fillOff := 0 }

/-! ## Plans -/

/-- One element written to a tensor: tile, plane-major or not, width, block stride, element, code, poison. -/
structure ElemPut where
  pa : Nat
  pm : Bool
  w : Nat
  bs : Nat
  e : Nat
  code : Nat
  bad : Bool
  deriving DecidableEq, Repr

/-- What a chunk does once it has passed its checks: plain writes, writes to the relay stream by offset from the fill point,
scale bytes beside stream bytes, tensor elements, flags, how far the stream moves, and the places in global memory that it reads. -/
structure Plan where
  writes : List (Aim × List DByte)
  stream : List (Nat × List DByte)
  scales : List (Nat × DByte)
  elems : List ElemPut
  flags : FpFlags
  span : Nat
  reads : List (PAddr × Nat)
  deriving DecidableEq, Repr

/-- A plan that writes nothing. -/
def Plan.none : Plan := ⟨[], [], [], [], 0, 0, []⟩

/-- Address modulo 2^64. -/
def wrap64 (a : Nat) : Nat := a % 2 ^ 64

/-- The tag word of a chunk, translated with it (R291). -/
def Drv.tagRange (v : Drv) (k : Nat) : List DRange := if v.gt then [⟨0, wrap64 (v.tag + 4 * k), 4, true⟩] else []

/-- Source and destination of chunk `k` of `cp.lin` and `cp.fill` (R292). -/
def State.planLin (s : State) (c : Cmd) (v : Drv) (k : Nat) : Except DFail Plan :=
  let lo := 4096 * k
  let n := min (lo + 4096) v.len - lo
  let src : DRange := ⟨v.ssp, wrap64 (v.src + lo), n, false⟩
  let dst : DRange := ⟨v.dsp, wrap64 (v.dst + lo), n, true⟩
  match s.rangesFail c ((if v.kind = 0 then [src] else []) ++ (if v.relay then [] else [dst]) ++ v.tagRange k) with
  | some e => .error e
  | none =>
    let data : List DByte :=
      if v.kind = 0 then s.readRange c src
      else (List.range n).map fun i => (BitVec.ofNat 8 (v.src >>> (8 * ((lo + i) % 8))), false)
    let reads := if v.kind = 0 then s.rangePlaces c src else []
    if v.relay then .ok { Plan.none with stream := [(0, data)], span := n, reads := reads }
    else .ok { Plan.none with writes := s.aim c dst data, reads := reads }

/-- A row of `cp.gat` and `cp.sct`: where it comes from, and where it goes from the start of DST, of the stream or of the
slot. -/
structure Row where
  from_ : Nat
  to_ : Nat
  deriving DecidableEq, Repr

/-- Rows of chunk `k`, their index entries read (R293). -/
def State.rowsOf (s : State) (c : Cmd) (v : Drv) (k : Nat) : Except DFail (List Row) :=
  let r0 := v.rows * k
  let rs := (List.range (min v.rows (v.count - r0))).map fun i => r0 + i
  let lim := (s.group c.gid).spLim
  match rs.findSome? fun r => boundFail lim ⟨1, v.idx + 4 * r, 4, false⟩ with
  | some e => .error e
  | none =>
    .ok (rs.map fun r =>
      let x := leNat ((s.group c.gid).sp.bytes (v.idx + 4 * r) 4)
      if v.kind = 2 then
        ⟨wrap64 (v.src + x * v.sstride), if v.relay then (r - r0) * v.dstride else wrap64 (v.dst + r * v.dstride)⟩
      else ⟨wrap64 (v.src + r * v.sstride), if v.relay then x * v.dstride else wrap64 (v.dst + x * v.dstride)⟩)

/-- Chunk `k` of `cp.gat` and `cp.sct` (R293). -/
def State.planRows (s : State) (c : Cmd) (v : Drv) (slot k : Nat) : Except DFail Plan :=
  match s.rowsOf c v k with
  | .error e => .error e
  | .ok rows =>
    let src (r : Row) : DRange := ⟨v.ssp, r.from_, v.rowBytes, false⟩
    let dst (r : Row) : DRange := ⟨v.dsp, r.to_, v.rowBytes, true⟩
    match s.rangesFail c (rows.map src ++ (if v.relay then [] else rows.map dst) ++ v.tagRange k) with
    | some e => .error e
    | none =>
      if v.relay then
        let out := rows.map fun r => (r.to_, s.readRange c (src r))
        if v.kind = 3 && rows.any fun r => decide (slot < r.to_ + v.rowBytes) then .error .illegal
        else
          let last := decide (v.count ≤ v.rows * (k + 1))
          .ok { Plan.none with
            stream := out
            span := if last then (rows.length - 1) * v.dstride + v.rowBytes else v.rows * v.dstride
            reads := rows.flatMap fun r => s.rangePlaces c (src r) }
      else
        .ok { Plan.none with
          writes := rows.flatMap fun r => s.aim c (dst r) (s.readRange c (src r))
          reads := rows.flatMap fun r => s.rangePlaces c (src r) }

/-! ## cp.ten (R294 to R296) -/

/-- An element on its way: its code, whether it lies beyond the tensor, and its poison. -/
structure El where
  code : Nat
  outside : Bool
  bad : Bool
  deriving DecidableEq, Repr

/-- Bits of bytes with poison: `w` bits from bit `pos`. -/
def dbits (bs : List DByte) (pos w : Nat) : Nat := bitsOf (leNat (bs.map (·.1))) pos w

/-- Read an element of a tile (R234, R294): codes that fill no whole byte follow each other from bit 0 (DESIGN CHOICE, log 80). -/
def State.tileElem (s : State) (c : Cmd) (m : Man) (t : Ty) (pa e : Nat) : El :=
  if m.pm then
    let words := (List.range t.w).map fun p => s.engineMem c ⟨0, pa + e / 32 * t.bs + 4 * p⟩ 4
    ⟨packCodes 1 (words.map fun bs => dbits bs (e % 32) 1), false, words.any fun bs => bs.any (·.2)⟩
  else
    let bs := s.engineMem c ⟨0, pa + e * m.ebits / 8⟩ (m.ebits / 8 + 2)
    let used := bs.take ((e * m.ebits % 8 + m.ebits + 7) / 8)
    ⟨dbits bs (e * m.ebits % 8) m.ebits, false, used.any (·.2)⟩

/-- Address of the scale of the block of element `e` in a tile (R294). -/
def Man.scaleAt (m : Man) (pa e : Nat) : Nat := pa + m.tbytes - m.blocks + e / 32

/-- Elements `n` to `n + k - 1` of the box and their scale, read from the tensor (DESIGN CHOICE, log 14). -/
def State.tensorGroup (s : State) (c : Cmd) (v : Drv) (m : Man) (n k : Nat) : List El × DByte :=
  let locs := (List.range k).map fun i => s.locate v m false (n + i)
  let els := locs.map fun l => match l with
    | .ok (.at_ pa e) => s.tileElem c m v.tty pa e
    | _ => ⟨0, true, false⟩
  let scale : DByte := match locs.head? with
    | some (.ok (.at_ pa e)) => ((s.engineMem c ⟨0, m.scaleAt pa e⟩ 1).head?).getD (0, false)
    | _ => ((Config.freeWord (s.free + n)).setWidth 8, false)
  (els, scale)

/-- Places of elements of a box in their tiles, with the scales of their blocks. -/
def State.tensorPlaces (s : State) (v : Drv) (m : Man) (ns : List Nat) : List (PAddr × Nat) :=
  ns.flatMap fun n => match s.locate v m false n with
    | .ok (.at_ pa e) =>
      (if m.pm then (List.range v.tty.w).map fun p => ((⟨0, pa + e / 32 * v.tty.bs + 4 * p⟩ : PAddr), 4)
        else [(⟨0, pa + e * m.ebits / 8⟩, (e * m.ebits % 8 + m.ebits + 7) / 8)]) ++
        (if v.tty.mx then [(⟨0, m.scaleAt pa e⟩, 1)] else [])
    | _ => []

/-- Byte offset in the image of element `n`, which starts a group. -/
def Drv.imageAt (v : Drv) (n : Nat) : Nat := if v.blocks then n / 32 * v.blockBytes else n * v.sty.box / 8

/-- Elements `n` to `n + k - 1` of the box and their scale, read from the image in the scratchpad. -/
def State.imageGroup (s : State) (c : Cmd) (v : Drv) (n k : Nat) : List El × DByte :=
  let a := v.src + v.imageAt n
  let t := v.sty
  let bs := s.enginePad c.gid false a (if v.slay then 4 * t.w else (k * t.box + 7) / 8)
  let els := (List.range k).map fun i =>
    if v.slay then
      ⟨packCodes 1 ((List.range t.w).map fun p => dbits bs (32 * p + i) 1), false,
        ((List.range t.w).any fun p => ((bs[4 * p + i / 8]?).getD (0, false)).2)⟩
    else ⟨dbits bs (t.box * i) t.w, false,
        ((bs.drop (t.box * i / 8)).take ((t.box + 7) / 8)).any (·.2)⟩
  (els, ((s.enginePad c.gid true (a / 16) 1).head?).getD (0, false))

/-- The format of a type that is not MX: binary32 or bfloat16. -/
def Ty.fmt (t : Ty) : Fmt := if t.ty = 8 then fmt32 else fmtB16

/-- Convert a group from one type to another (R295): codes, scale and flags. -/
def convGroup (a b : Ty) (els : List El) (scale : DByte) : List El × DByte × FpFlags :=
  if a = b then (els, scale, 0)
  else if a.mx then
    let rs : List (El × FpFlags) := els.map fun x =>
      if x.outside then (x, 0)
      else let (r, f) := expandMx a.ty b.fmt x.code scale.1.toNat; ({ x with code := r, bad := x.bad || scale.2 }, f)
    (rs.map (·.1), (0, false), rs.foldl (fun f r => f ||| r.2) 0)
  else if b.mx then
    let blk := packBlock b.ty (els.map fun x => Fp.ofBits a.fmt x.code)
    let bad := els.any (·.bad)
    ((els.zip blk.elems).map fun p => { p.1 with code := p.2, bad := bad }, (BitVec.ofNat 8 blk.scale, bad), blk.flags)
  else
    let rs : List (El × FpFlags) := els.map fun x =>
      if x.outside then (x, 0) else let (r, f) := fpToFp b.fmt 0 (Fp.ofBits a.fmt x.code); ({ x with code := r }, f)
    (rs.map (·.1), (0, false), rs.foldl (fun f r => f ||| r.2) 0)

/-- Image bytes of a group of a load.  The container bits above an INTn element are open (DESIGN CHOICE, log 14). -/
def State.imageBytes (s : State) (v : Drv) (n : Nat) (els : List El) : List DByte :=
  let t := v.sty
  let flag (data : List Byte) (bad : Nat → Bool) : List DByte := (List.range data.length).map fun i => ((data[i]?).getD 0, bad i)
  let badAt (i : Nat) : Bool := ((els[i]?).map (·.bad)).getD false
  if v.slay then
    flag (natLe (4 * t.w) (packCodes 32 ((List.range t.w).map fun p =>
      packCodes 1 ((List.range 32).map fun i => bitsOf (((els[i]?).map (·.code)).getD 0) p 1))))
      fun b => (List.range 8).any fun j => badAt (b % 4 * 8 + j)
  else
    let codes := (List.range els.length).map fun i =>
      let x := ((els[i]?).map (·.code)).getD 0
      if t.ty = 7 then x + 2 ^ t.w * (Config.freeWord (s.free + n + i)).toNat else x
    flag (natLe ((els.length * t.box + 7) / 8) (packCodes t.box codes))
      fun b => if t.box = 4 then badAt (2 * b) || badAt (2 * b + 1) else badAt (8 * b / t.box)

/-- Groups of at most 32 elements of chunk `k` of a `cp.ten`: first element and length. -/
def Drv.groups (v : Drv) (k : Nat) : List (Nat × Nat) :=
  let n0 := v.perChunk * k
  let n1 := min (n0 + v.perChunk) v.elems
  (List.range ((n1 - n0 + 31) / 32)).map fun g => (n0 + 32 * g, min 32 (n1 - n0 - 32 * g))

/-- Side-bank bytes of the blocks of a chunk's image in the scratchpad. -/
def Drv.sideBytes (v : Drv) (base k : Nat) : List Nat :=
  if v.sty.mx then (v.groups k).map fun g => (base + v.imageAt g.1) / 16 else []

/-- A side-bank byte beyond its bound. -/
def sideFail (lim : Nat) (ys : List Nat) : Option DFail := (ys.find? fun y => decide (lim < y + 1)).map fun y => .bound y

/-- Chunk `k` of a `cp.ten` that loads (R294 to R296). -/
def State.planLoad (s : State) (c : Cmd) (v : Drv) (m : Man) (k : Nat) : Except DFail Plan :=
  let lo := v.chunkBytes * k
  let n := min (lo + v.chunkBytes) v.imageBytes - lo
  let gs := v.groups k
  let els := gs.flatMap fun g => (List.range g.2).map fun i => g.1 + i
  match els.findSome? (fun e => match s.locate v m false e with | .error f => some f | .ok _ => Option.none) with
  | some f => .error f
  | none =>
    let lim := (s.group c.gid).spLim
    match (if v.relay then Option.none
        else (boundFail lim ⟨1, wrap64 (v.dst + lo), n, true⟩).orElse fun _ => sideFail (lim / 16) (v.sideBytes v.dst k)) with
    | some f => .error f
    | none =>
      let outs := gs.map fun g =>
        let (els, sc) := s.tensorGroup c v m g.1 g.2
        let (els, sc, f) := convGroup v.tty v.sty els sc
        (v.imageAt g.1, s.imageBytes v g.1 els, sc, f)
      let flags := outs.foldl (fun f o => f ||| o.2.2.2) 0
      if v.relay then
        .ok { Plan.none with
          stream := outs.map fun o => (o.1 - lo, o.2.1)
          scales := if v.sty.mx then outs.map fun o => (o.1 - lo, o.2.2.1) else []
          flags := flags
          span := n
          reads := s.tensorPlaces v m els }
      else
        .ok { Plan.none with
          reads := s.tensorPlaces v m els
          writes := outs.flatMap fun o =>
            (Aim.pad c.gid false (v.dst + o.1), o.2.1) ::
              (if v.sty.mx then [(Aim.pad c.gid true ((v.dst + o.1) / 16), [o.2.2.1])] else [])
          flags := flags }

/-- Chunk `k` of a `cp.ten` that stores (R294 to R296). -/
def State.planStore (s : State) (c : Cmd) (v : Drv) (m : Man) (k : Nat) : Except DFail Plan :=
  let lo := v.chunkBytes * k
  let n := min (lo + v.chunkBytes) v.imageBytes - lo
  let gs := v.groups k
  let els := gs.flatMap fun g => (List.range g.2).map fun i => g.1 + i
  match els.findSome? (fun e => match s.locate v m true e with | .error f => some f | .ok _ => Option.none) with
  | some f => .error f
  | none =>
    let lim := (s.group c.gid).spLim
    match (s.rangesFail c (v.tagRange k)).orElse (fun _ => (boundFail lim ⟨1, wrap64 (v.src + lo), n, false⟩).orElse fun _ =>
        sideFail (lim / 16) (v.sideBytes v.src k)) with
    | some f => .error f
    | none =>
      let outs := gs.map fun g =>
        let (els, sc) := s.imageGroup c v g.1 g.2
        let locs := (List.range g.2).map fun i => s.locate v m true (g.1 + i)
        let els := (els.zip locs).map fun (p : El × Except DFail TLoc) => match p.2 with
          | .ok (.at_ _ _) => p.1
          | _ => { p.1 with outside := true }
        let (els, sc, f) := convGroup v.sty v.tty els sc
        let puts := (els.zip locs).filterMap fun (p : El × Except DFail TLoc) => match p.2 with
          | .ok (.at_ pa e) => some (ElemPut.mk pa m.pm v.tty.w v.tty.bs e p.1.code p.1.bad)
          | _ => Option.none
        let scale : List (Aim × List DByte) := match locs.head? with
          | some (.ok (.at_ pa e)) => if v.tty.mx then [(Aim.mem ⟨0, m.scaleAt pa e⟩, [sc])] else []
          | _ => []
        (puts, scale, f)
      .ok { Plan.none with
        writes := outs.flatMap fun o => o.2.1
        elems := outs.flatMap fun o => o.1
        flags := outs.foldl (fun f o => f ||| o.2.2) 0 }

/-- Put one bit into a number. -/
def putBit (x i b : Nat) : Nat := if bitsOf x i 1 = b then x else if b = 1 then x + 2 ^ i else x - 2 ^ i

/-- Write `w` bits from bit `pos` of package memory on. -/
def State.putBits (s : State) (cid pos w v : Nat) (bad : Bool) : State :=
  let a := pos / 8
  let n := (pos % 8 + w + 7) / 8
  let old := leNat (s.bytesSeen viewHome 0 a n)
  let new := (List.range w).foldl (fun x i => putBit x (pos % 8 + i) (bitsOf v i 1)) old
  s.putBytes cid (.mem ⟨0, a⟩) ((natLe n new).map fun b => (b, bad))

/-- Write an element of a tile (R234, R294). -/
def State.putElem (s : State) (cid : Nat) (p : ElemPut) : State :=
  if p.pm then
    (List.range p.w).foldl (fun s k =>
      s.putBits cid (8 * (p.pa + p.e / 32 * p.bs + 4 * k) + p.e % 32) 1 (bitsOf p.code k 1) p.bad) s
  else s.putBits cid (8 * p.pa + p.e * p.w) p.w p.code p.bad

/-- The plan of chunk `k`; `slot` is the slot size of a relay destination (DEDUCED, log 42). -/
def State.planChunk (s : State) (c : Cmd) (v : Drv) (slot k : Nat) : Except DFail Plan :=
  match v.kind with
  | 1 =>
    match s.manOf c v with
    | .error e => .error e
    | .ok m => if v.out then s.planStore c v m k else s.planLoad c v m k
  | 2 => s.planRows c v slot k
  | 3 => s.planRows c v slot k
  | _ => s.planLin c v k

/-! ## Work and paths (R299, R330) -/

/-- Command kinds and their descriptor copies. -/
def Cmd.drv? (c : Cmd) : Option Drv := match c.op with | .drover k _ _ => some ⟨k, c.copyOf⟩ | _ => none

/-- The command runs at a depot core. -/
def Cmd.atDepot (c : Cmd) : Bool := isDepot c.cid

/-- R: bytes in a cycle (R299, R330). -/
def State.rate (s : State) (c : Cmd) (v : Drv) : Nat :=
  let glob := v.kind == 1 || (v.ssp == 0 && v.kind != 4) || v.dsp == 0
  if c.atDepot then (if glob || v.relay then 256 else 512)
  else if glob then 20480 / s.clkOf (seraiOf c.cid) else 512

/-- The type or the layout changes in a `cp.ten`. -/
def State.changes (s : State) (c : Cmd) (v : Drv) : Bool :=
  v.tty != v.sty || (match s.manOf c v with | .ok m => m.pm != v.slay | .error _ => false)

/-- W of the chunks from K up to but not including `e` (R299). -/
def State.workTo (s : State) (c : Cmd) (v : Drv) (K e : Nat) : Nat :=
  let R := s.rate c v
  let up (a b : Nat) : Nat := (a + b - 1) / b
  if e ≤ K then 0
  else match v.kind with
    | 1 => up (min (v.chunkBytes * e) v.imageBytes - v.chunkBytes * K) R + (if s.changes c v then 16 else 0)
    | 2 => let rows := min (v.rows * e) v.count - v.rows * K; up (4 * rows) 512 + rows * up v.rowBytes R
    | 3 => let rows := min (v.rows * e) v.count - v.rows * K; up (4 * rows) 512 + rows * up v.rowBytes R
    | _ => up (min (4096 * e) v.len - 4096 * K) R

/-- The number by which the caches settle an access of a chunk (R432, R433; DESIGN CHOICE, log 9). -/
def Cmd.access (c : Cmd) (k : Nat) (write : Bool) : Nat := 2 ^ 64 * (2 * k + (if write then 2 else 1)) + c.id

/-- Count to a virtual address: its walk, where one is needed, and the path of its place (R299, R433). -/
def State.vaCount (s : State) (c : Cmd) (k va : Nat) (write : Bool) : Nat :=
  let n := c.access k write
  match s.range c.cid write va 1 with
  | .ok ((p, _) :: _) => s.walkTime c.cid n (s.ctx c.cid).asid va 1 + s.homePath c.cid n (cacheHit n 1) p
  | _ => if 2 ^ 57 ≤ va then 0 else s.walkTime c.cid n (s.ctx c.cid).asid va 1

/-- Count to the first element of chunk `k` that lies in the tensor; where its tile is not present, that of the entry which says so
(R299; DEDUCED, log 42). -/
def State.tileCount' (s : State) (c : Cmd) (v : Drv) (k : Nat) : Nat :=
  let n := c.access k v.out
  let to_ (a : Nat) : Nat := s.homePath c.cid n (cacheHit n 1) ⟨0, a⟩
  match s.manOf c v with
  | .ok m =>
    ((List.range (min v.perChunk (v.elems - v.perChunk * k))).findSome? fun i =>
      match s.locate v m v.out (v.perChunk * k + i) with
      | .ok (.at_ pa _) => some (to_ pa)
      | .ok .outside => none
      | .error (.tileAbsent tile _) => some (to_ (m.ttab + 8 * tile))
      | .error _ => some 0).getD 0
  | .error _ => 0

/-- The first row of chunk `k`, if its index entry lies in the allotment. -/
def State.firstRow (s : State) (c : Cmd) (v : Drv) (k : Nat) : Option Row :=
  match s.rowsOf c { v with d := v.d.take 32 ++ natLe 4 (min v.count (v.rows * k + 1)) ++ v.d.drop 36 } k with
  | .ok rs => rs.head?
  | .error _ => none

/-- Source and destination counts of chunk `k`: of its first bytes (R299; DEDUCED, log 42). -/
def State.chunkPaths (s : State) (c : Cmd) (v : Drv) (k : Nat) : Nat × Nat :=
  let far (space va : Nat) (write : Bool) : Nat :=
    if space = 0 then s.vaCount c k va write else if write then 0 else 8
  match v.kind with
  | 1 => if v.out then (8, s.tileCount' c v k) else (s.tileCount' c v k, 0)
  | 0 => (far v.ssp (wrap64 (v.src + 4096 * k)) false, far v.dsp (wrap64 (v.dst + 4096 * k)) true)
  | 4 => (0, far v.dsp (wrap64 (v.dst + 4096 * k)) true)
  | _ =>
    let r0 := v.rows * k
    let row := s.firstRow c v k
    let from_ := if v.kind = 3 then some (wrap64 (v.src + r0 * v.sstride)) else row.map (·.from_)
    let to_ := if v.kind = 2 then some (wrap64 (v.dst + r0 * v.dstride)) else row.map (·.to_)
    ((match from_ with | some a => far v.ssp a false | none => if v.ssp = 0 then 0 else 8),
      (match to_ with | some a => far v.dsp a true | none => 0))

/-- Relay row of R323 from a depot core to a serai. -/
def relayRow (depotCid serai : Nat) : Nat :=
  let core := coreOf depotCid
  if quarterOfCore core = serai / 6 then 60 else if dieOfCore core = serai / 24 then 88 else 130

/-- Lr of a depot command with a relay handle, whose low bits name the serai (R160, R330). -/
def Cmd.relayPath (c : Cmd) (v : Drv) : Nat := if c.atDepot && v.dsp == 3 then relayRow c.cid (bitsOf v.dst 0 6) else 0

/-- Lowest and highest address of some ranges. -/
def spanOf (rs : List (Nat × Nat)) : Option (Nat × Nat) :=
  rs.foldl (fun acc r => match acc with
    | some (lo, hi) => some (min lo r.1, max hi (r.1 + r.2))
    | none => some (r.1, r.1 + r.2)) none

/-- Ranges of chunk `k`: sources and destinations (DEDUCED, log 42). -/
def State.chunkSpans (s : State) (c : Cmd) (v : Drv) (k : Nat) : List (Nat × Nat) × List (Nat × Nat) :=
  match v.kind with
  | 0 =>
    let n := min (4096 * k + 4096) v.len - 4096 * k
    ([(wrap64 (v.src + 4096 * k), n)], [(wrap64 (v.dst + 4096 * k), n)])
  | 2 => (match s.rowsOf c v k with
    | .ok rs => (rs.map fun r => (r.from_, v.rowBytes), rs.map fun r => (r.to_, v.rowBytes))
    | .error _ => ([], []))
  | 3 => (match s.rowsOf c v k with
    | .ok rs => (rs.map fun r => (r.from_, v.rowBytes), rs.map fun r => (r.to_, v.rowBytes))
    | .error _ => ([], []))
  | _ => ([], [])

/-- Where `n` stream bytes from place `p` of a buffer's ring stand in the scratchpad (R161). -/
def Relay.ringSpans (r : Relay) (p n : Nat) : List (Nat × Nat) :=
  let size := r.count * r.slot
  let a := p % max 1 size
  if size ≤ n then [(r.base, size)]
  else if a + n ≤ size then [(r.base + a, n)]
  else [(r.base + a, size - a), (r.base, a + n - size)]

/-- Where the chunks from K up to `k` have put their bytes in a relay buffer of the command's own group; a buffer of another group lies in
no allotment of the source (R161, R293, R299). -/
def State.relaySpans (s : State) (c : Cmd) (v : Drv) (K k : Nat) : List (Nat × Nat) :=
  match s.relayDest c v with
  | .error _ => []
  | .ok (g, _, r) =>
    let size := max 1 (r.count * r.slot)
    let per := if v.kind = 3 then r.slot else if v.kind = 2 then v.rows * v.dstride else 4096
    if g ≠ c.gid then []
    else (List.range (k - K)).flatMap fun i =>
      let back := per * (k - K - i)
      let start := r.fill * r.slot + r.fillOff + (back / size + 1) * size - back
      if v.kind = 0 then r.ringSpans start 4096
      else match s.rowsOf c v (K + i) with
        | .ok rs => rs.flatMap fun x => r.ringSpans (start + x.to_) v.rowBytes
        | .error _ => []

/-- Chunk `k` reads bytes in the range that the chunks before it wrote (R299). -/
def State.chunkOverlaps (s : State) (c : Cmd) (v : Drv) (K k : Nat) : Bool :=
  (v.ssp == v.dsp || (v.ssp == 1 && v.relay)) &&
    match spanOf (s.chunkSpans c v k).1,
      spanOf (if v.relay then s.relaySpans c v K k
        else (List.range (k - K)).flatMap fun i => (s.chunkSpans c v (K + i)).2) with
    | some (a, b), some (x, y) => decide (a < y) && decide (x < b)
    | _, _ => false

/-! ## Events (R285, R287, R289 to R291, R298, R299) -/

/-- The drover command that starts now. -/
def State.droverStart? (s : State) (drover : Nat) : Option Cmd :=
  if !(s.running (.drover drover)).isEmpty then none else
    match s.nextCmd (.drover drover) with
    | some c => if s.mayStart c then some c else none
    | none => none

/-- Offset of a drover command's descriptor. -/
def CmdOp.descAt : CmdOp → Nat
  | .drover _ d _ => d
  | .step _ d _ _ => d
  | .coll _ d => d
  | .launch d _ => d
  | _ => 0

/-- The descriptor breaks a rule, those of a manifest that can be read included. -/
def State.droverIllegal (s : State) (c : Cmd) (v : Drv) : Bool :=
  !v.legal || (v.kind == 1 && (match s.manOf c v with | .ok m => !v.manLegal m | .error _ => false))

/-- DROVER_COMMAND_START: the descriptor is copied; a command that runs no chunk is over 8 cycles later (R285, R287, R288,
R299).  A command that was saved keeps its copy (R300; DEDUCED, log 42). -/
def execDroverCommandStart (drover : Nat) (s : State) : Res :=
  match s.droverStart? drover with
  | none => .refused (.notEnabled "DROVER_COMMAND_START")
  | some c =>
    let t := s.unitCycle c.queue
    let d := if c.copyOf.isEmpty then (s.group c.gid).sp.bytes c.op.descAt 96 else c.copyOf
    match ({ c with copyOf := d } : Cmd).drv? with
    | none => .refused (.notEnabled "DROVER_COMMAND_START")
    | some v =>
      let K := c.op.first
      if s.droverIllegal c v then
        .next (s.startCmd c fun x => { x with copyOf := d, work := K, fault := some (5, 0, 0), due := t + 8 })
      else if v.chunks ≤ K then .next (s.startCmd c fun x => { x with copyOf := d, work := K, due := t + 8 })
      else
        let (ls, ld) := s.chunkPaths c v K
        .next (s.startCmd c fun x =>
          { x with
            copyOf := d
            work := K
            number := K
            aux := ls
            occ := ld
            lead := ls
            refused := ld
            due := t + 4 + ls + c.relayPath v })

/-- The running command of a drover with chunks to run. -/
def State.chunkRunning? (s : State) (drover : Nat) : Option (Cmd × Drv) :=
  match (s.running (.drover drover)).head? with
  | some c =>
    match c.drv? with
    | some v => if c.fault.isNone && decide (c.work < v.chunks) then some (c, v) else none
    | none => none
  | none => none

/-- Slots that a chunk touches. -/
def Drv.slots (v : Drv) (r : Relay) (p : Plan) : List Nat := if v.kind = 3 then [r.fill] else r.touched p.span

/-- What a chunk finds at its boundary or at its commit. -/
inductive ChunkStep where
  | fail (f : DFail)
  | wait
  | ready (p : Plan) (relay : Option (Nat × Nat × Relay × List Nat))
  deriving DecidableEq, Repr

/-- A command's chunk waits at the relay unit for buffer `n` of group `g` (R331). -/
def State.waitsAt (s : State) (g n : Nat) (x : Cmd) : Bool :=
  x.reached != 0 && x.start.isSome && !x.updating && x.fault.isNone && (!s.stopping x || x.work == x.op.first) &&
    match x.drv? with
    | some w => (match s.relayDest x w with | .ok (h, m, _) => h == g && m == n | .error _ => false)
    | none => false

/-- Another chunk that reached the relay unit earlier claims its slot first, but for one that goes on in a slot of its own command (R331). -/
def State.relayTurn (s : State) (c : Cmd) (g n : Nat) (r : Relay) : Bool :=
  r.slots[r.fill]? == some (.filling c.id) ||
    !(s.cmds.any fun x => x.id != c.id && s.waitsAt g n x && (c.reached == 0 || decide (x.reached < c.reached)))

/-- The chunk that a command has reached, its buffer and its plan; one that moves while `rly.init` starts is dropped unwritten (R160,
R162, R290, R297; DESIGN CHOICE, log 88). -/
def State.chunkStep (s : State) (c : Cmd) (v : Drv) : ChunkStep :=
  if v.relay then
    match s.relayDest c v with
    | .error f => if s.relayAway v then .wait else .fail f
    | .ok (g, n, r) =>
      if c.verdict = 6 then .fail .reset
      else if !r.ready && r.init.isNone then .fail (.access v.dst)
      else if r.running || r.init.isSome then .wait
      else match s.planChunk c v r.slot c.work with
        | .error f => .fail f
        | .ok p =>
          let ks := v.slots r p
          if c.updating then
            (if ks.all fun k => r.slots[k]? == some (.filling c.id) then .ready p (some (g, n, r, ks)) else .fail .reset)
          else if s.slotsOpen c.id g r ks && s.relayTurn c g n r then .ready p (some (g, n, r, ks)) else .wait
  else match s.planChunk c v 0 c.work with
    | .error f => .fail f
    | .ok p => .ready p none

/-- A chunk whose source is host memory, and which the suspend or the kill has waited for long enough: its read is abandoned, and it counts
as not run (R300, R361). -/
def State.readAbandoned (s : State) (c : Cmd) (v : Drv) : Bool :=
  s.stopping c && !s.settlesWithin c chunkPatience &&
    (match s.planChunk c v (2 ^ 64) c.work with | .ok p => p.reads.any fun r => decide (2 ≤ r.1.mt) | .error _ => false)

/-- A chunk reaches the relay unit and has to wait there (R331). -/
def State.reachesRelay (s : State) (c : Cmd) (v : Drv) : Bool :=
  v.relay && !c.updating && c.reached == 0 && (match s.relayDest c v with | .ok _ => true | .error _ => false)

/-- The chunk that acts now: as it comes to wait at the relay unit, at its boundary or at its commit.  Of a command that is to settle, the chunk that runs, the first one
from the start on, goes on, but for one whose host read is abandoned (R300). -/
def State.chunkNow? (s : State) (drover : Nat) : Option (Cmd × Drv × ChunkStep) :=
  match s.chunkRunning? drover with
  | some (c, v) =>
    if decide (c.due ≤ s.unitCycle c.queue) && decide (c.number = c.work ∨ ¬ v.gt) && (c.updating || !s.stopping c || c.work == c.op.first) &&
        !s.readAbandoned c v then
      match s.chunkStep c v with
      | .wait => if s.reachesRelay c v then some (c, v, .wait) else none
      | x => some (c, v, x)
    else none
  | none => none

/-- Page faults of engine commands: the number taken, and the entry that waits to be written (R249, R298). -/
def State.engineFault (s : State) (c : Cmd) (kind va level : Nat) (write : Bool) (tensor tile chunk : Nat) : Nat × State :=
  let x := s.ctx c.cid
  let (seq, s) := s.takeSeq x.asid
  let (q, n) := s.conIds x
  let e := faultEntry seq x.asid kind write false (BitVec.ofNat 64 va) c.pc (unitOf c.cid) (whoOf c.cid) level x.fgrp tensor tile
    chunk q n
  (seq, { s with faultsOut := s.faultsOut ++ [⟨x.asid, e⟩] })

/-- A chunk ends its command: KIND, ADDR and SEQ of the status record (R234, R249, R289, R296, R298; DESIGN CHOICE, log 14). -/
def State.chunkFail (s : State) (c : Cmd) (v : Drv) (f : DFail) : State × Nat × Nat × Nat :=
  let open_ (kind : Nat) : State × Nat × Nat × Nat :=
    let (w, s) := s.takeFree
    (s, kind, w.toNat, 0)
  match f with
  | .absent va l w =>
    let (seq, s) := s.engineFault c (if c.atDepot then 7 else 6) va l w 0 0 c.work
    (s, 1, va, seq)
  | .access a => (s, 2, a, 0)
  | .bound a => (s, 4, a, 0)
  | .illegal => (s, 5, 0, 0)
  | .reset => (s, 6, 0, 0)
  | .range => open_ 3
  | .tileAccess => open_ 2
  | .tileAbsent tile w =>
    let (seq, s) := s.engineFault c 9 0 0 w v.tid tile c.work
    (s, 1, 0, seq)

/-- Cycles from the boundary of the chunk to its commit: its work, Ls of chunk K where it overlaps, and a source or destination home
further away than any before; and the counts to hold against later chunks (R299). -/
def State.chunkCycles (s : State) (c : Cmd) (v : Drv) : Nat × Nat × Nat :=
  let K := c.op.first
  let w := s.workTo c v K (c.work + 1) - s.workTo c v K c.work
  if c.work ≤ K then (w, c.aux, c.occ)
  else
    let (ls, ld) := s.chunkPaths c v c.work
    let extra := if s.chunkOverlaps c v K c.work then c.lead else 0
    (w + extra + (ls - c.aux) + (ld - c.occ), max c.aux ls, max c.occ ld)

/-- Stream bytes and scales go to their places in the ring. -/
def State.putStream (s : State) (cid g : Nat) (r : Relay) (slotWise : Bool) (p : Plan) : State :=
  let at_ (o : Nat) : Nat := if slotWise then r.base + r.fill * r.slot + o else r.byteAt o
  let s := p.stream.foldl (fun s x =>
    (List.range x.2.length).foldl (fun s i => s.putBytes cid (.pad g false (at_ (x.1 + i))) ((x.2[i]?).toList)) s) s
  p.scales.foldl (fun s x => s.putBytes cid (.pad g true (at_ x.1 / 16)) [x.2]) s

/-- The lines that some parts of global memory lie in, each once. -/
def linesAt (ps : List (PAddr × Nat)) : List (PAddr × Nat) :=
  ((ps.filter fun p => decide (0 < p.2)).flatMap fun p =>
    (List.range ((p.1.addr + p.2 - 1) / 64 - p.1.addr / 64 + 1)).map fun i =>
      ((⟨p.1.mt, 64 * (p.1.addr / 64 + i)⟩ : PAddr), 64)).eraseDups

/-- Places in global memory that a chunk writes, tensor elements included (R235). -/
def Plan.places (p : Plan) : List (PAddr × Nat) :=
  (p.writes.filterMap fun (w : Aim × List DByte) => match w.1 with | .mem a => some (a, w.2.length) | _ => Option.none) ++
    p.elems.flatMap fun (e : ElemPut) =>
      if e.pm then (List.range e.w).map fun k => (⟨0, e.pa + e.e / 32 * e.bs + 4 * k⟩, 4)
      else [(⟨0, e.pa + e.e * e.w / 8⟩, (e.e * e.w % 8 + e.w + 7) / 8)]

/-- A chunk commits; each line that it reads or writes is one request (R235, R290, R291). -/
def State.commitChunk (s : State) (c : Cmd) (v : Drv) (p : Plan) (relay : Option (Nat × Nat × Relay × List Nat)) : State :=
  let s := p.writes.foldl (fun s w => s.putBytes c.cid w.1 w.2) s
  let s := p.elems.foldl (fun s e => s.putElem c.cid e) s
  let s := match relay with
    | some (g, n, r, _) =>
      let cyc := s.relayCycle g
      (s.putStream c.cid g r (v.kind == 3) p).modRelay g n fun x =>
        if v.kind = 3 then x.commitSlot cyc else x.commitStream cyc p.span
    | none => s
  let s := s.toll (dieOf c.cid) (linesAt p.reads ++ linesAt p.places)
  let s := { s with free := s.free + (if v.kind = 1 then v.perChunk * (c.work + 1) else 0) }
  let t := s.unitCycle c.queue
  s.modCmd c.id fun x =>
    { x with
      updating := false
      work := x.work + 1
      flags := x.flags ||| mxFlags p.flags
      due := if v.chunks ≤ x.work + 1 then t + 4 + x.refused else t }

/-- DROVER_CHUNK_COMMIT: a chunk is checked at its boundary, takes its turn at the relay unit, claims its slots and commits, or the command
ends there (R290, R291, R297, R298, R331; DEDUCED, log 42). -/
def execDroverChunkCommit (drover : Nat) (s : State) : Res :=
  match s.chunkNow? drover with
  | none => .refused (.notEnabled "DROVER_CHUNK_COMMIT")
  | some (c, v, .fail f) =>
    let (s, kind, addr, seq) := s.chunkFail c v f
    let t := s.unitCycle c.queue
    .next (s.modCmd c.id fun x => { x with updating := false, reached := 0, fault := some (kind, addr, seq), due := t + 4 + x.refused })
  | some (c, _, .wait) => .next ({ s with nextId := s.nextId + 1 }.modCmd c.id fun x => { x with reached := s.nextId + 1 })
  | some (c, v, .ready p relay) =>
    if c.updating then .next (s.commitChunk c v p relay)
    else
      let (w, ls, ld) := s.chunkCycles c v
      let t := s.unitCycle c.queue
      let s := match relay with
        | some (g, n, _, ks) => s.modRelay g n fun r => r.claim c.id ks
        | none => s
      .next (s.modCmd c.id fun x => { x with updating := true, reached := 0, aux := ls, occ := ld, due := t + w })

/-- The command with a chunk tag to write. -/
def State.tagDue? (s : State) (drover : Nat) : Option (Cmd × Drv) :=
  match (s.running (.drover drover)).head? with
  | some c =>
    match c.drv? with
    | some v => if v.gt && c.fault.isNone && decide (c.op.first ≤ c.number) && decide (c.number < c.work) &&
        decide (c.work ≤ v.chunks) then some (c, v) else none
    | none => none
  | none => none

/-- CHUNK_TAG_WRITE: GEN goes to the tag of a chunk whose writes are performed, as a system-scope atomic (R264, R291;
DEDUCED, log 42). -/
def execChunkTagWrite (drover : Nat) (s : State) : Res :=
  match s.tagDue? drover with
  | none => .refused (.notEnabled "CHUNK_TAG_WRITE")
  | some (c, v) =>
    let s' := s.modCmd c.id fun x => { x with number := x.number + 1 }
    match s.range c.cid true (wrap64 (v.tag + 4 * c.number)) 4 with
    | .ok ((p, _) :: _) =>
      let s' := ((s'.publishElement (coreOf c.cid) p 4).performed .atomic s.nextId c.cid p.mt p.addr ((v.d.drop 20).take 4)).fresh
      .next (s'.toll (dieOf c.cid) [(p, 4)])
    | _ => .next s'

/-- The status record (R289). -/
def Cmd.droverStatus (c : Cmd) (v : Drv) : List Byte :=
  let (kind, addr, seq) := c.fault.getD (0, 0, 0)
  let x := c.flags &&& 0x3D#8
  natLe 1 (if c.fault.isSome then 2 else 1) ++ natLe 1 kind ++ [x, 0#8] ++
    natLe 4 (if c.fault.isSome then c.work else v.chunks) ++ natLe 4 seq ++ natLe 4 0 ++ natLe 8 addr ++ natLe 8 0

/-- The drover command that completes now. -/
def State.droverDone? (s : State) (drover : Nat) : Option (Cmd × Drv) :=
  match s.dueIn (.drover drover) with
  | some c =>
    match c.drv? with
    | some v => if (c.fault.isSome || decide (v.chunks ≤ c.work)) && (s.tagDue? drover).isNone then some (c, v) else none
    | none => none
  | none => none

/-- DROVER_COMMAND_COMPLETE (R289; DEDUCED, log 42). -/
def execDroverCommandComplete (drover : Nat) (s : State) : Res :=
  match s.droverDone? drover with
  | none => .refused (.notEnabled "DROVER_COMMAND_COMPLETE")
  | some (c, v) => .next ((s.padWrite c.gid false (c.op.descAt + 96) (c.droverStatus v)).endCmd c)

/-! ## rly.init in the relay unit (R162) -/

/-- The `rly.init` that starts now. -/
def State.relayStart? (s : State) (serai : Nat) : Option Cmd :=
  if !(s.running (.relay serai)).isEmpty then none else
    match s.nextCmd (.relay serai) with
    | some c => if s.mayStart c then some c else none
    | none => none

/-- A running drover command writes to relay buffer `rb` of a group. -/
def State.feeds (s : State) (gid rb : Nat) (c : Cmd) : Bool :=
  match c.drv? with
  | some v =>
    c.start.isSome && v.legal && v.relay && (match s.relayDest c v with | .ok (g, n, _) => g == gid && n == rb | .error _ => false)
  | none => false

/-- RLY_INIT_START: producers in flight on the buffer end at their next chunk boundary (R160, R162, R300). -/
def execRlyInitStart (serai : Nat) (s : State) : Res :=
  match s.relayStart? serai with
  | none => .refused (.notEnabled "RLY_INIT_START")
  | some c =>
    match c.op with
    | .relayInit rb _ _ _ =>
      let hit := (s.cmds.filter (s.feeds c.gid rb)).map (·.id)
      let s : State := { s with cmds := s.cmds.map fun (x : Cmd) => if hit.contains x.id then { x with verdict := 6 } else x }
      .next (s.startCmd c fun x => { x with due := s.unitCycle c.queue + 3 })
    | _ => .refused (.notEnabled "RLY_INIT_START")

/-- RLY_INIT_COMPLETE (R162). -/
def execRlyInitComplete (serai : Nat) (s : State) : Res :=
  match s.dueIn (.relay serai) with
  | none => .refused (.notEnabled "RLY_INIT_COMPLETE")
  | some c =>
    match c.op with
    | .relayInit rb _ _ _ =>
      let more := s.cmds.any fun x => x.id != c.id && x.gid == c.gid &&
        (match x.op with | .relayInit n _ _ _ => n == rb | _ => false)
      .next ((s.modRelay c.gid rb fun r => { r with running := more }).endCmd c)
    | _ => .refused (.notEnabled "RLY_INIT_COMPLETE")

end Sys2Proof.Machine
end

