-- ==== Sys2Proof/Machine/StepCache.lean ====
section
/-! DEFINITION. The step cache: directory, metric, and the events of a probe, a commit and a drop (R303 to R319). -/

namespace Sys2Proof.Machine

open Sys2Proof

/-! ## Descriptor (R308) -/

/-- TAG. -/
def scTag (d : List Byte) : Word := BitVec.ofNat 64 (dnum d 0 8)
/-- IN. -/
def scIn (d : List Byte) : Nat := dnum d 8 8
/-- OUT. -/
def scOut (d : List Byte) : Nat := dnum d 16 8
/-- ISP: the input lies in the scratchpad. -/
def scIsp (d : List Byte) : Nat := bitsOf (dnum d 24 1) 0 1
/-- OSP. -/
def scOsp (d : List Byte) : Nat := bitsOf (dnum d 24 1) 1 1
/-- ITY. -/
def scIty (d : List Byte) : Nat := dnum d 25 1
/-- METRIC. -/
def scMetric (d : List Byte) : Nat := dnum d 26 1
/-- MAXSKIP. -/
def scMaxSkip (d : List Byte) : Nat := dnum d 27 1
/-- INB. -/
def scInb (d : List Byte) : Nat := dnum d 28 4
/-- OUTB. -/
def scOutb (d : List Byte) : Nat := dnum d 32 4
/-- THRESH. -/
def scThresh (d : List Byte) : Nat := dnum d 40 8

/-- A byte count of an input or an output. -/
def scBytesOk (n : Nat) : Bool := n % 128 == 0 && decide (128 ≤ n) && decide (n ≤ 65536)

/-- The descriptor obeys R308; `kind` 0 probe, 1 commit, 2 drop. -/
def scLegal (kind : Nat) (d : List Byte) : Bool :=
  kind == 2 ||
    (scIn d % 4 == 0 && scOut d % 4 == 0 && bitsOf (dnum d 24 1) 2 6 == 0 && decide (scIty d < 3) &&
      (kind != 0 || decide (scMetric d < 2)) && (kind != 1 || decide (scMaxSkip d < 8)) && scBytesOk (scInb d) &&
      scBytesOk (scOutb d) && dzero d 36 39 && dzero d 48 63)

/-! ## Directory (R303 to R305) -/

/-- Die of the directory that a tag is homed in (R303). -/
def scHome (tag : Word) : Nat := ((List.range 64).foldl (fun n i => if tag.getLsbD i then n + 1 else n) 0) % 2

/-- An entry is there: one that its holder has removed stands to the end of the cycle of the unlock (R314). -/
def SCEntry.standing (now : Nat) (e : SCEntry) : Bool := e.valid || e.lock.isSome || decide (now < e.freeAt)

/-- The directory of a die. -/
def State.dir (s : State) (die : Nat) : List SCEntry := ((Table.find? s.steps die).getD []).filter (SCEntry.standing s.now)

/-- Change the directory of a die. -/
def State.modDir (s : State) (die : Nat) (f : List SCEntry → List SCEntry) : State :=
  { s with steps := Table.put s.steps die (f (s.dir die)) }

/-- An entry of a consignment under a tag. -/
def SCEntry.named (e : SCEntry) (owner : Nat) (tag : Word) : Bool := e.owner == owner && e.tag == tag

/-- The consignment of a command. -/
def State.ownerOf (s : State) (c : Cmd) : Nat := (s.ctx c.cid).cons.getD 0

/-- The entry that a command names, a fresh one included. -/
def State.scEntry? (s : State) (c : Cmd) : Option SCEntry :=
  let tag := scTag c.copyOf
  (s.dir (scHome tag)).find? fun e => e.named (s.ownerOf c) tag

/-- Change the entry that a command names. -/
def State.modEntry (s : State) (c : Cmd) (f : SCEntry → SCEntry) : State :=
  let tag := scTag c.copyOf
  let owner := s.ownerOf c
  s.modDir (scHome tag) fun l => l.map fun e => if e.named owner tag then f e else e

/-- Remove the entry that a command names. -/
def State.dropEntry (s : State) (c : Cmd) : State :=
  let tag := scTag c.copyOf
  let owner := s.ownerOf c
  s.modDir (scHome tag) fun l => l.filter fun e => !e.named owner tag

/-- Units of a run (R304). -/
def runUnits (inb outb : Nat) : Nat := (inb + outb + 4095) / 4096

/-- Base and quota of a consignment's backing store, in bytes and units (R304, R338). -/
def State.backingStore (s : State) (owner : Nat) : Nat × Nat :=
  match s.con? owner with
  | some x => (x.pk.scqBase.toNat, x.pk.scQuota)
  | none => (0, 0)

/-- Runs in use: those of valid entries and those that commits under way have taken. -/
def State.runsInUse (s : State) (owner : Nat) : List (Nat × Nat) :=
  (s.steps.flatMap fun d => (d.2.filter fun e => e.owner == owner && e.valid).map fun e => (e.unit, runUnits e.inb e.outb)) ++
    (s.cmds.filter fun c => c.updating && s.ownerOf c == owner &&
      (match c.op with | .step 1 _ _ _ => true | _ => false) && decide (0 < c.occ)).map fun c => (c.refused, c.occ)

/-- The lowest-addressed run of `n` free units (R304). -/
def State.freeRun (s : State) (owner n : Nat) : Option Nat :=
  let quota := (s.backingStore owner).2
  let used := s.runsInUse owner
  let starts := 0 :: used.map fun r => r.1 + r.2
  let ok (u : Nat) : Bool := decide (u + n ≤ quota) && used.all fun r => !rangesMeet u n r.1 r.2
  (starts.filter ok).foldl (fun b u => match b with | none => some u | some x => some (min x u)) none

/-! ## Metric (R311) -/

/-- Format of ITY. -/
def scFmt (ity : Nat) : Fmt := match ity with | 0 => fmt32 | 1 => fmtB16 | _ => fmt16

/-- Elements of a buffer as exact data. -/
def scElems (ity : Nat) (bs : List Byte) : List Fp :=
  let n := if ity = 0 then 4 else 2
  (List.range (bs.length / n)).map fun i => Fp.ofBits (scFmt ity) (leNat ((bs.drop (n * i)).take n))

/-- Magnitude of a difference rounded to a format, as its code. -/
def diffCode (f : Fmt) (a b : Fp) : Nat :=
  match a, b with
  | .inf m, .inf n => if m = n then 0 else f.infCode
  | .inf _, _ => f.infCode
  | _, .inf _ => f.infCode
  | .fin x, .fin y => (roundTo f 0 { Dy.add 0 x { y with neg := !y.neg } with neg := false }).1
  | _, _ => f.canonNan

/-- The metric of two inputs without NaNs, as a binary64 code (R311). -/
def scMetricOf (metric : Nat) (xs ys : List Fp) : Nat :=
  let ps := xs.zip ys
  if metric = 0 then
    let top := (ps.map fun p => diffCode fmt32 p.1 p.2).foldl max 0
    (fpToFp fmt64 0 (Fp.ofBits fmt32 top)).1
  else
    ps.foldl (fun acc p => (fpAdd fmt64 0 (Fp.ofBits fmt64 acc) (Fp.ofBits fmt64 (diffCode fmt64 p.1 p.2))).1) 0

/-- The exact comparison with THRESH (R310). -/
def scWithin (mval thresh : Nat) : Bool :=
  let a := Fp.ofBits fmt64 mval
  let t := Fp.ofBits fmt64 thresh
  !a.isNan && !t.isNan && !(t.lt a)

/-! ## Ranges and faults (R310, R318) -/

/-- Bytes of a range in the scratchpad (space 1) or global memory, with their poison. -/
def State.scRead (s : State) (c : Cmd) (space a n : Nat) : List DByte := s.readRange c ⟨space, a, n, false⟩

/-- Virtual address of the first byte of a run. -/
def State.runVa (s : State) (owner unit : Nat) : Nat := wrap64 ((s.backingStore owner).1 + 4096 * unit)

/-- A check of a range in the order of R319; `backing` for the stored run. -/
def State.scCheck (s : State) (c : Cmd) (r : DRange × Bool) : Option (DFail × Bool) :=
  ((s.rangeFail c.cid r.1).orElse fun _ => boundFail (s.group c.gid).spLim r.1).map fun e => (e, r.2)

/-- KIND, ADDR and SEQ of a failure, with the fault-queue entry of a page that is not present (R318). -/
def State.scFail (s : State) (c : Cmd) (f : DFail × Bool) : State × Nat × Nat × Nat :=
  match f.1 with
  | .absent va l w =>
    let (seq, s) := s.engineFault c (if f.2 then 8 else 6) va l w 0 0 0
    (s, 1, va, seq)
  | .bound a => (s, 4, a, 0)
  | .access a => (s, 2, a, 0)
  | _ => (s, 2, 0, 0)

/-- Cycles of the walks of a range, up to the first that fails (R319, R433). -/
def State.rangeWalks (s : State) (c : Cmd) (n : Nat) (r : DRange) : Nat :=
  if r.space = 1 then 0
  else
    let asid := (s.ctx c.cid).asid
    let page (i : Nat) : Nat := if i = 0 then r.addr else (r.addr / 65536 + i) * 65536
    let pages := (List.range ((r.addr + r.len - 1) / 65536 - r.addr / 65536 + 1)).map page
    let good (va : Nat) : Bool :=
      match s.walk (s.portOf c.cid) asid va (if r.write then .write else .read) (s.ctx c.cid).priv with | .ok _ => true | _ => false
    let k := (pages.takeWhile good).length + 1
    ((pages.take k).map fun va => if 2 ^ 57 ≤ va then 0 else s.pageTime c.cid n asid va).foldl (· + ·) 0

/-- Cycles that the walks of a failing command take: those it has made one after another, none where it fails at a bound (R319, R433;
DEDUCED, log 43; DESIGN CHOICE, log 9). -/
def State.scWalks (s : State) (c : Cmd) (checks : List (DRange × Bool)) (f : DFail × Bool) : Nat :=
  match f.1 with
  | .bound _ => 0
  | _ =>
    let k := (checks.takeWhile fun r => (s.scCheck c r).isNone).length + 1
    ((List.range k).map fun i => match checks[i]? with
      | some r => s.rangeWalks c (c.access i r.1.write) r.1
      | none => 0).foldl (· + ·) 0

/-- Rg (R319). -/
def State.scRate (s : State) (c : Cmd) : Nat := 20480 / s.clkOf (seraiOf c.cid)

/-- Path count of the buffer that a command checks in place `i`. -/
def State.scPath (s : State) (c : Cmd) (i space a : Nat) (write : Bool) : Nat := if space = 1 then 8 else s.vaCount c i a write

/-- Quotient rounded up. -/
def ceilDiv (a b : Nat) : Nat := (a + b - 1) / b

/-! ## Events (R306, R308, R309, R314, R319) -/

/-- The step-cache command that starts now. -/
def State.scStart? (s : State) (serai : Nat) : Option Cmd :=
  if !(s.running (.step serai)).isEmpty then none else
    match s.nextCmd (.step serai) with
    | some c => if s.mayStart c then some c else none
    | none => none

/-- Kind of a step-cache command. -/
def CmdOp.stepKind : CmdOp → Nat | .step k _ _ _ => k | _ => 0
/-- Step of a step-cache command. -/
def CmdOp.stepNo : CmdOp → Nat | .step _ _ n _ => n | _ => 0

/-- Cycles to the home directory (R314). -/
def State.dirCount (s : State) (c : Cmd) (tag : Word) : Nat :=
  s.pathCount c.cid (if scHome tag = dieOf c.cid then 40 else 300)

/-- SC_COMMAND_START: the descriptor is copied; an ILLEGAL command never reaches the directory (R306, R308). -/
def execScCommandStart (serai : Nat) (s : State) : Res :=
  match s.scStart? serai with
  | none => .refused (.notEnabled "SC_COMMAND_START")
  | some c =>
    let t := s.unitCycle c.queue
    let d := if c.copyOf.isEmpty then (s.group c.gid).sp.bytes c.op.descAt 64 else c.copyOf
    if scLegal c.op.stepKind d then
      .next (s.startCmd c fun x => { x with copyOf := d, aux := 0, due := t + 8 + s.dirCount c (scTag d) })
    else
      .next (s.startCmd c fun x =>
        { x with
          copyOf := d
          updating := true
          fault := some (5, 0, 0)
          verdict := if c.op.stepKind = 0 then 8 else 0
          due := t + 8 })

/-- A serai's cycle begins in this base cycle. -/
def Serai.begins (k : Serai) : Bool := decide (k.phase < k.clk)

/-- An entry is locked (R314). -/
def State.locked (s : State) (e : SCEntry) : Bool := e.lock.isSome || decide (s.now < e.freeAt)

/-- Commands that arrived at the same entry before a waiter and wait there too (R314): by arrival, serai and push. -/
def State.waitsBefore (s : State) (c : Cmd) : Bool :=
  s.cmds.any fun x =>
    x.id != c.id && decide (0 < x.aux) && !x.updating && x.start.isSome &&
      (match x.op with | .step _ _ _ _ => true | _ => false) &&
      scTag x.copyOf == scTag c.copyOf && s.ownerOf x == s.ownerOf c &&
      (decide (x.aux < c.aux) || (x.aux == c.aux && (decide (seraiOf x.cid < seraiOf c.cid) ||
        (seraiOf x.cid == seraiOf c.cid && decide (x.id < c.id)))))

/-- What a step-cache command does at its home now: it arrives at a locked entry and waits, or takes its directory point; one that finds its
entry unlocked does not stand behind those that wait for their clocks (R314; DEDUCED, log 24). -/
def State.scPoint? (s : State) (serai : Nat) : Option (Cmd × Bool) :=
  match (s.running (.step serai)).head? with
  | some c =>
    if c.updating || s.stopping c || decide (s.unitCycle c.queue < c.due) then none
    else
      let shut := (match s.scEntry? c with | some e => s.locked e | none => false) || (c.aux != 0 && s.waitsBefore c)
      if shut then (if c.aux = 0 then some (c, false) else none)
      else if c.aux = 0 || (s.serai serai).begins then some (c, true) else none
  | none => none

/-- Stored data of an entry with its poison. -/
def State.stored (s : State) (c : Cmd) (e : SCEntry) (off n : Nat) : List DByte :=
  s.scRead c 0 (wrap64 (s.runVa e.owner e.unit + off)) n

/-- The lines of some ranges are requests, counted where their memory is the other die's (R235). -/
def State.scToll (s : State) (c : Cmd) (rs : List DRange) : State :=
  s.toll (dieOf c.cid) (linesAt (rs.flatMap (s.rangePlaces c)))

/-- A finished command: verdict, metric, failure and completion cycle. -/
def State.scDecide (s : State) (c : Cmd) (verdict : Nat) (metric : Nat) (fault : Option (Nat × Nat × Nat)) (due : Nat) : State :=
  s.modCmd c.id fun x =>
    { x with updating := true, verdict := verdict, metric := BitVec.ofNat 64 metric, fault := fault, due := due }

/-- A probe at its directory point (R310, R311, R314, R319; DEDUCED, log 43). -/
def State.probePoint (s : State) (c : Cmd) : Res :=
  let d := c.copyOf
  let D := s.unitCycle c.queue
  let miss (v : Nat) : Res := .next (s.scDecide c v 0 none D)
  match (match s.scEntry? c with | some e => if e.valid then some e else none | none => none) with
  | none => miss 2
  | some e =>
    if e.ity ≠ scIty d || e.inb ≠ scInb d || e.outb ≠ scOutb d then miss 3
    else if e.step ≠ (c.op.stepNo + 2 ^ 32 - 1) % 2 ^ 32 then miss 4
    else if e.maxSkip ≤ e.run then miss 5
    else
      let va := s.runVa e.owner e.unit
      let checks : List (DRange × Bool) :=
        [(⟨scIsp d, scIn d, e.inb, false⟩, false), (⟨0, va, e.inb + e.outb, false⟩, true), (⟨scOsp d, scOut d, e.outb, true⟩, false)]
      let s := s.modEntry c fun x => { x with lock := some c.id }
      match checks.findSome? (s.scCheck c) with
      | some f =>
        let (s', k, a, q) := s.scFail c f
        .next (s'.scDecide c 8 0 (some (k, a, q)) (D + s.scWalks c checks f))
      | none =>
        let R := s.scRate c
        let pb := s.scPath c 1 0 va false
        let M := max (s.scPath c 0 (scIsp d) (scIn d) false) pb + ceilDiv (2 * e.inb) R
        let old := s.stored c e 0 e.inb
        let all := s.stored c e 0 (e.inb + e.outb)
        let s := s.scToll c [⟨scIsp d, scIn d, e.inb, false⟩, ⟨0, va, e.inb, false⟩]
        if all.any (·.2) then .next (s.scDecide c 8 0 (some (8, 0, 0)) (D + M))
        else
          let xs := scElems e.ity ((s.scRead c (scIsp d) (scIn d) e.inb).map (·.1))
          let ys := scElems e.ity (old.map (·.1))
          if (xs ++ ys).any Fp.isNan then .next (s.scDecide c 6 0 none (D + M))
          else
            let m := scMetricOf (scMetric d) xs ys
            if scWithin m (scThresh d) then
              let H := pb + ceilDiv e.outb R + (if scOsp d = 1 then 0 else s.scPath c 2 0 (scOut d) true)
              .next ((s.scDecide c 1 m none (D + M + H)).modCmd c.id fun x => { x with lead := D + M })
            else .next (s.scDecide c 7 m none (D + M))

/-- A commit at its directory point: it locks the entry or takes a fresh one, and takes its run (R304, R312, R314, R319;
DEDUCED, log 43). -/
def State.commitPoint (s : State) (c : Cmd) : Res :=
  let d := c.copyOf
  let D := s.unitCycle c.queue
  let owner := s.ownerOf c
  let home := scHome (scTag d)
  let n := runUnits (scInb d) (scOutb d)
  let fresh := (s.scEntry? c).isNone
  match (if decide (8192 ≤ (s.dir home).length) then none else s.freeRun owner n) with
  | none => .next (s.scDecide c 0 0 (some (7, 0, 0)) D)
  | some u =>
    let va := s.runVa owner u
    let checks : List (DRange × Bool) :=
      [(⟨scIsp d, scIn d, scInb d, false⟩, false), (⟨0, va, scInb d + scOutb d, true⟩, true),
       (⟨scOsp d, scOut d, scOutb d, false⟩, false)]
    let old := match s.scEntry? c with
      | some e => e.valid && (s.stored c e 0 (e.inb + e.outb)).any (·.2)
      | none => false
    let s :=
      if fresh then s.modDir home fun l => l ++ [⟨false, scTag d, owner, 0, some c.id, 0, 0, 0, 0, 0, 0, 0⟩]
      else s.modEntry c fun x => { x with lock := some c.id }
    let s := s.modCmd c.id fun x => { x with refused := u, occ := n }
    match checks.findSome? (s.scCheck c) with
    | some f =>
      let (s', k, a, q) := s.scFail c f
      .next (s'.scDecide c 0 0 (some (k, a, q)) (D + s.scWalks c checks f))
    | none =>
      let due := D + max (s.scPath c 0 (scIsp d) (scIn d) false) (s.scPath c 2 (scOsp d) (scOut d) false) +
        ceilDiv (scInb d + scOutb d) (s.scRate c) + s.scPath c 1 0 va true
      .next (s.scDecide c 0 0 (if old then some (8, 0, 0) else none) due)

/-- SC_DIRECTORY_POINT: a drop, which completes in the same cycle, removes its entry in the order of the points (R310, R312 to R314,
R319; DEDUCED, log 24). -/
def execScDirectoryPoint (serai : Nat) (s : State) : Res :=
  match s.scPoint? serai with
  | none => .refused (.notEnabled "SC_DIRECTORY_POINT")
  | some (c, false) => .next (s.modCmd c.id fun x => { x with aux := s.now + 1 })
  | some (c, true) =>
    match c.op.stepKind with
    | 0 => s.probePoint c
    | 1 => s.commitPoint c
    | _ => .next ((s.dropEntry c).scDecide c (if (s.scEntry? c).isSome then 0 else 2) 0 none (s.unitCycle c.queue))

/-- Base cycles to the next cycle of a serai. -/
def Serai.toNext (k : Serai) : Nat := (160 - k.phase + k.clk - 1) / k.clk

/-- The lock that a command holds ends with its completion cycle, of an entry that is removed too (R312, R314). -/
def State.unlock (s : State) (c : Cmd) : State :=
  let tag := scTag c.copyOf
  let at_ := s.now + (s.serai (seraiOf c.cid)).toNext
  s.modDir (scHome tag) fun l =>
    l.map fun e => if e.lock = some c.id then { e with lock := none, freeAt := at_ } else e

/-- Store bytes with their poison to a range that has passed its checks. -/
def State.scWrite (s : State) (c : Cmd) (space a : Nat) (bs : List DByte) : State :=
  (s.aim c ⟨space, a, bs.length, true⟩ bs).foldl (fun s w => s.putBytes c.cid w.1 w.2) s

/-- Effects of a hit (R235, R310, R316, R317). -/
def State.hit (s : State) (c : Cmd) (e : SCEntry) : State :=
  let d := c.copyOf
  let run : DRange := ⟨0, wrap64 (s.runVa e.owner e.unit + e.inb), e.outb, false⟩
  let s := (s.scToll c [run, ⟨scOsp d, scOut d, e.outb, true⟩]).scWrite c (scOsp d) (scOut d) (s.stored c e e.inb e.outb)
  let s := s.modEntry c fun x => { x with run := x.run + 1, step := c.op.stepNo }
  let s := s.modCtx c.cid fun x => x.countSkip (s.cycleOf c.cid)
  s.modCon (s.ownerOf c) fun x => { x with skips := x.skips + 1 }

/-- Effects of a commit: the data is written and the entry switches (R235, R312). -/
def State.switchEntry (s : State) (c : Cmd) : State :=
  let d := c.copyOf
  let va := s.runVa (s.ownerOf c) c.refused
  let ins := s.scRead c (scIsp d) (scIn d) (scInb d)
  let outs := s.scRead c (scOsp d) (scOut d) (scOutb d)
  let s := s.scToll c [⟨scIsp d, scIn d, scInb d, false⟩, ⟨scOsp d, scOut d, scOutb d, false⟩, ⟨0, va, (ins ++ outs).length, true⟩]
  let s := s.scWrite c 0 va (ins ++ outs)
  s.modEntry c fun x =>
    { x with
      valid := true
      maxSkip := scMaxSkip d
      run := 0
      ity := scIty d
      inb := scInb d
      outb := scOutb d
      unit := c.refused
      step := c.op.stepNo }

/-- The work of a completing command on its entry. -/
def State.scEffect (s : State) (c : Cmd) : State :=
  match c.fault with
  | some (8, _, _) => s.modEntry c fun e => { e with valid := false }
  | some _ => s
  | none =>
    match c.op.stepKind with
    | 0 => if c.verdict = 1 then (match s.scEntry? c with | some e => s.hit c e | none => s) else s
    | 1 => s.switchEntry c
    | _ => s

/-- RUN and ESTEP of the entry after a command; 0 where there is none, or where the command never reached it (DEDUCED, log
43). -/
def State.scAfter (s : State) (c : Cmd) : Nat × Nat :=
  match c.fault with
  | some (5, _, _) => (0, 0)
  | _ => match s.scEntry? c with | some e => if e.valid then (e.run, e.step) else (0, 0) | none => (0, 0)

/-- The status record (R309; DEDUCED, log 43). -/
def Cmd.scStatus (c : Cmd) (run step : Nat) : List Byte :=
  let (kind, addr, seq) := c.fault.getD (0, 0, 0)
  natLe 1 (if c.fault.isSome then 2 else 1) ++ natLe 1 kind ++ natLe 1 c.verdict ++ natLe 1 run ++ natLe 4 step ++ natLe 4 seq ++
    natLe 4 0 ++ natLe 8 addr ++ natLe 8 c.metric.toNat

/-- The verdict word (R309). -/
def Cmd.verdictWord (c : Cmd) (run step : Nat) : Word :=
  BitVec.ofNat 64 (c.verdict + 256 * (c.fault.getD (0, 0, 0)).1 + 65536 * run + 2 ^ 32 * step)

/-- The stored data that a command reads or replaces holds an uncorrectable error now (R318). -/
def State.scSpoilt (s : State) (c : Cmd) : Bool :=
  c.updating && c.fault.isNone && (c.op.stepKind == 1 || (c.op.stepKind == 0 && [1, 6, 7].contains c.verdict)) &&
    match s.scEntry? c with
    | some e => e.valid && (s.stored c e 0 (e.inb + e.outb)).any (·.2)
    | none => false

/-- The step-cache command that completes now; a hit whose stored data goes bad ends as the data is delivered (R318, R319). -/
def State.scDone? (s : State) (serai : Nat) : Option Cmd :=
  match (s.running (.step serai)).head? with
  | some c =>
    let t := s.unitCycle c.queue
    if c.updating && (decide (c.due ≤ t) || (c.op.stepKind == 0 && c.verdict == 1 && decide (c.lead ≤ t) && s.scSpoilt c)) then some c
    else none
  | none => none

/-- A command that ends on an error in the stored data (R318; DEDUCED, log 43). -/
def Cmd.spoilt (c : Cmd) : Cmd :=
  { c with fault := some (8, 0, 0), verdict := if c.op.stepKind = 0 then 8 else 0, metric := 0 }

/-- SC_COMMAND_COMPLETE (R309 to R317). -/
def execScCommandComplete (serai : Nat) (s : State) : Res :=
  match s.scDone? serai with
  | none => .refused (.notEnabled "SC_COMMAND_COMPLETE")
  | some c =>
    let c := if s.scSpoilt c then c.spoilt else c
    let s := (s.scEffect c).unlock c
    let (run, step) := s.scAfter c
    let s := s.padWrite c.gid false (c.op.descAt + 96) (c.scStatus run step)
    let s := match c.op with
      | .step _ _ _ (some e) => s.modFar c.cid e fun x => { x with data := .arrived ((c.verdictWord run step).setWidth 1024) }
      | _ => s
    .next (s.endCmd c)

end Sys2Proof.Machine
end

