-- ==== Sys2Proof/Machine/Queues.lean ====
section
/-! DEFINITION. The drain unit, the device's own reads and writes in an address space, work queues with their status block and
completion ring, and the launch unit (R281 to R283, R332 to R337, R353 to R356). -/

namespace Sys2Proof.Machine

open Sys2Proof

/-! ## Drains (R281 to R283, R354) -/

/-- A drain still awaits something of its classes; an atomic whose cycle this is is performed in it.  Of what its own bundle
sends it awaits the engine commands and no store or atomic (R282; DESIGN CHOICE, log 102). -/
def State.drainWaits (s : State) (c : Cmd) : Bool :=
  match c.op with
  | .drain cls _ _ _ _ =>
    let lim := if c.number = 0 then c.id else c.number
    (cls.testBit 0 && s.posted.any fun p => p.cid == c.cid && !p.performed && decide (p.id < lim)) ||
      (cls.testBit 1 && s.atomics.any fun a => a.cid == c.cid && decide (a.id < lim) && !s.atomicDue a) ||
      s.cmds.any fun x => x.cid == c.cid && decide (x.id < c.id) &&
        (match x.queue.cls with | some k => cls.testBit k | none => false)
  | _ => false

/-- The drain of a context that starts now (R282). -/
def State.drainStart? (s : State) (cid : Nat) : Option Cmd :=
  match s.nextCmd (.drain cid) with
  | some c => if s.mayStart c then some c else none
  | none => none

/-- DRAIN_START (R282). -/
def execDrainStart (cid : Nat) (s : State) : Res :=
  match s.drainStart? cid with
  | some c => .next (s.startCmd c fun x => x)
  | none => .refused (.notEnabled "DRAIN_START")

/-- The oldest drain of a context finds its items done, or its release published. -/
def State.drainDone? (s : State) (cid : Nat) : Option Cmd :=
  match (s.queueOf (.drain cid)).head? with
  | some c =>
    match c.start with
    | some t =>
      let cycle := s.cycleOf cid
      if c.updating then (if c.due ≤ cycle then some c else none)
      else if decide (t + 2 ≤ cycle) && !s.drainWaits c then some c else none
    | none => none
  | none => none

/-- The completion signal of a drain: those that read its semaphore read it, and the stores that it awaited happen-before what an
observer does (R257, R283 items 1 to 3). -/
def State.drainSignals (s : State) (c : Cmd) : State :=
  let lim := if c.number = 0 then c.id else c.number
  let n := tailSS c.tail
  let stores : Bool := match c.op with | .drain cls _ _ _ _ => cls.testBit 0 | _ => false
  let given : List Rel := [.signal c.gid (coreOf c.cid) n s.nextId]
  let awaited (x : Posted) : Bool := stores && x.kind == .plain && x.cid == c.cid && decide (x.id < lim)
  let give (x : Posted) : Posted := if awaited x then { x with rel := x.rel ++ given } else x
  if tailInc c.tail = 0 then s
  else (({ s with posted := s.posted.map give } : State).noteSem c.cid false n s.nextId).fresh

/-- A drain ends: it signals, its arrival is counted in this cycle, and an `ltrig` triggers its parcel (R282, R354). -/
def State.drainEnds (s : State) (c : Cmd) : State :=
  let s := s.drainSignals c
  let s := match c.op with
    | .drain _ _ _ (some _) _ =>
      { s with phops := s.phops.map fun (o : PhOp) => if o.id = c.aux then { o with held := false, due := s.cycleOf o.cid } else o }
    | .drain _ _ _ none true =>
      (match (s.ctx c.cid).cons with
       | some k => s.modCon k fun x => x.trigger (s.ctx c.cid).parcel
       | none => s)
    | _ => s
  s.endCmd c

/-- What a drain releases as: a fence; with ARR the arrival at the phase that it was issued for, and for `ltrig` what the parcels of a
dependent acquire (R257, R283, R353). -/
def State.drainRels (s : State) (c : Cmd) : List Rel :=
  match c.op with
  | .drain _ scope _ ph trigger =>
    .fence c.cid (coreOf c.cid) scope s.nextId ::
      ((match ph with | some n => [.phase ((s.ctx c.cid).phOwner n) n c.lead] | none => []) ++
        (match (s.ctx c.cid).cons with | some k => if trigger then [.trigger k] else [] | none => []))
  | _ => []

/-- DRAIN_COMPLETE: with REL the release begins, and the drain ends with its publication (R266, R282, R283). -/
def execDrainComplete (cid : Nat) (s : State) : Res :=
  match s.drainDone? cid with
  | none => .refused (.notEnabled "DRAIN_COMPLETE")
  | some c =>
    match c.op with
    | .drain _ scope true _ _ =>
      if c.updating then .next (s.drainEnds c)
      else
        let (done, s) := s.releaseAs cid scope (s.drainRels c)
        .next (s.modCmd c.id fun x => { x with updating := true, due := done })
    | _ => .next (s.drainEnds c)

/-! ## Reads and writes of the device in an address space -/

/-- First failing address of a range, 0 where none is named. -/
def DFail.va : DFail → Nat
  | .absent va _ _ => va
  | .access va => va
  | _ => 0

/-- Places of a range of an address space as a unit of a die meets them, unprivileged (R230). -/
def State.asidRange (s : State) (die asid : Nat) (write : Bool) (va n : Nat) : Except DFail (List (PAddr × Nat)) :=
  s.walkRange die asid false write (n / 65536 + 2) va n

/-- Read a range of an address space at the home points. -/
def State.asidRead (s : State) (die asid va n : Nat) : Except DFail (List Byte) :=
  match s.asidRange die asid false va n with
  | .ok ps => .ok (ps.flatMap fun p => s.bytesSeen viewHome p.1.mt p.1.addr p.2)
  | .error e => .error e

/-- Write a range of an address space. -/
def State.asidWrite (s : State) (die asid va : Nat) (bs : List Byte) : Except DFail State :=
  match s.asidRange die asid true va bs.length with
  | .ok ps => .ok ((cutParts ps bs).foldl (fun s p => s.writeHome p.at_.mt p.at_.addr p.data) s)
  | .error e => .error e

/-- A write that is dropped where it fails to translate (DESIGN CHOICE, log 46). -/
def State.asidPut (s : State) (die asid va : Nat) (bs : List Byte) : State :=
  match s.asidWrite die asid va bs with | .ok s' => s' | .error _ => s

/-- An 8-byte number of an address space, if it can be read. -/
def State.asidNum? (s : State) (die asid va : Nat) : Option Nat :=
  match s.asidRead die asid va 8 with | .ok b => some (leNat b) | .error _ => none

/-- Add to an event object, as `amo.add` at system scope (R341, R351; DESIGN CHOICE, log 47). -/
def State.eventAdd (s : State) (die asid va inc : Nat) : State :=
  match s.asidNum? die asid va with
  | some v => s.asidPut die asid va (natLe 8 (v + inc))
  | none => s

/-! ## Queues (R332 to R337) -/

/-- Physical address of a queue descriptor (R332; DEDUCED, log 51). -/
def State.qdAddr (s : State) (q : Nat) : Nat := s.pk.qtab.toNat % 2 ^ 52 / 64 * 64 + 64 * q

/-- A field of a queue descriptor. -/
def State.qdNum (s : State) (q off n : Nat) : Nat := s.devNum (s.qdAddr q + off) n

/-- First number of the queues in which the packets of graph replays run (R342; DEDUCED, log 48). -/
def replayBase : Nat := 8192

/-- A sequence number is at or before another (R334). -/
def seqLe (a b : Nat) : Bool := !laterPhase a b

/-- Die that serves a queue (R336, R407). -/
def State.dieOfQueue (s : State) (q : Nat) : Nat :=
  if replayBase ≤ q then (match s.con? (q - replayBase) with | some x => x.die | none => 0)
  else if q < 64 * max 1 s.pk.split then 0 else 1

/-- Write into the status block of a queue (R334; DESIGN CHOICE, log 46). -/
def State.statusWrite (s : State) (q off : Nat) (bs : List Byte) : State :=
  if replayBase ≤ q then s else s.asidPut (s.dieOfQueue q) (s.queue q).asid ((s.queue q).stat.toNat + off) bs

/-- A graph replay meets a packet it cannot fetch or a packet that is none: its record says REFUSED (R342; DEDUCED, log 52). -/
def State.failReplay (s : State) (anchor : Nat) : State := s.modCon anchor fun x => { x with status := 2, reason := 1 }

/-- A queue enters ERROR (R333, R334, R337, R351). -/
def State.queueError (s : State) (q err found addr : Nat) : State :=
  if replayBase ≤ q then (s.failReplay (q - replayBase)).modQueue q fun x => { x with st := .error, packet := none }
  else
    let s := s.modQueue q fun x => { x with st := .error, packet := none }
    s.statusWrite q 12 ([3#8, BitVec.ofNat 8 err, 0#8, 0#8] ++ natLe 4 (s.queue q).expect ++ natLe 4 found ++ natLe 8 addr)

/-- A power of two from 16 to 65,536. -/
def ringSizeOk (n : Nat) : Bool := (List.range 13).any fun k => n == 2 ^ (k + 4)

/-- A queue as its descriptor describes it (R332; DEDUCED, log 62). -/
def State.describedQueue (s : State) (q : Nat) : Queue :=
  let first := s.qdNum q 40 4
  { Queue.closed with
    st := .open_
    ring := BitVec.ofNat 64 (s.qdNum q 0 8)
    rsize := s.qdNum q 8 4
    asid := s.qdNum q 12 2
    cls := s.qdNum q 14 1 % 8
    dev := (s.qdNum q 15 1).testBit 2
    stat := BitVec.ofNat 64 (s.qdNum q 16 8)
    cpl := BitVec.ofNat 64 (s.qdNum q 24 8)
    csize := s.qdNum q 32 4
    prod := s.qdNum q 36 4
    expect := first
    consumed := (first + 2 ^ 32 - 1) % 2 ^ 32
    completed := (first + 2 ^ 32 - 1) % 2 ^ 32 }

/-- The descriptor obeys R332. -/
def State.descriptorOk (s : State) (q : Nat) : Bool :=
  let x := s.describedQueue q
  x.ring.toNat % 4096 == 0 && ringSizeOk x.rsize && decide (s.qdNum q 14 1 < 8) && decide (s.qdNum q 15 1 < 8) &&
    x.stat.toNat % 64 == 0 && x.cpl.toNat % 64 == 0 && ringSizeOk x.csize && s.qdNum q 44 20 == 0

/-- QUEUE_OPEN: EN is written 1; it has no effect unless BOOT.STATE is RUN, and while the queue is not CLOSED the FLAGS of its descriptor
alone count (R332 to R334, R412; DEDUCED, log 62). -/
def execQueueOpen (queue : Nat) (s : State) : Res :=
  if replayBase ≤ queue || s.pk.bootState ≠ 1 then .next s
  else if (s.queue queue).st ≠ .closed then .next (s.modQueue queue fun x => { x with dev := (s.describedQueue queue).dev })
  else
    let x := s.describedQueue queue
    let ok := s.descriptorOk queue
    let s := s.modQueue queue fun _ => x
    if ok then
      .next ((s.statusWrite queue 0 (natLe 4 x.consumed ++ natLe 4 x.completed)).statusWrite queue 12 (natLe 20 1))
    else .next (s.queueError queue 3 x.expect 0)

/-- EN is written 0 (R333, R356). -/
def State.closeQueue (s : State) (q : Nat) : State :=
  match (s.queue q).st with
  | .open_ => (s.modQueue q fun x => { x with st := .closing, packet := none }).statusWrite q 12 [2#8]
  | .error => (s.modQueue q fun x => { x with st := .closing, packet := none }).statusWrite q 12 [2#8]
  | _ => s

/-- QUEUE_CLOSE (R333, R356). -/
def execQueueClose (queue : Nat) (s : State) : Res := .next (s.closeQueue queue)

/-- Consignments of a queue, replays and the consignments of replays included. -/
def State.consOf (s : State) (q : Nat) : List Nat := (s.cons.filter fun x => x.2.queue == q).map (·.1)

/-- Close a queue and kill its accepted consignments (R356, R408). -/
def State.killQueue (s : State) (q : Nat) : State := (s.consOf q).foldl (fun s k => s.killCon k 3 0) (s.closeQueue q)

/-- QUEUE_KILL (R356). -/
def execQueueKill (queue : Nat) (s : State) : Res := .next (s.killQueue queue)

/-- QUEUE_DOORBELL: a host writes PROD (R333). -/
def execQueueDoorbell (queue prod : Nat) (s : State) : Res :=
  if replayBase ≤ queue || (s.queue queue).st = .closed || (s.queue queue).dev then .next s
  else .next (s.modQueue queue fun x => { x with prod := prod % 2 ^ 32 })

/-- A closing queue has nothing left (R333). -/
def State.closedNow (s : State) (q : Nat) : Bool := (s.queue q).st == .closing && (s.consOf q).isEmpty

/-- QUEUE_CLOSED (R333). -/
def execQueueClosed (queue : Nat) (s : State) : Res :=
  if s.closedNow queue then .next ((s.modQueue queue fun x => { x with st := .closed }).statusWrite queue 12 [0#8])
  else .refused (.notEnabled "QUEUE_CLOSED")

/-- Packets written and not consumed. -/
def Queue.waiting (x : Queue) : Nat := (x.prod + 2 ^ 32 - x.k % 2 ^ 32) % 2 ^ 32

/-- The next packet is to be fetched (R333). -/
def Queue.fetchDue (x : Queue) : Bool :=
  x.st == .open_ && x.packet.isNone && decide (0 < x.waiting) && decide (x.waiting < 2 ^ 31)

/-- PACKET_FETCH (R337; DESIGN CHOICE, log 9). -/
def execPacketFetch (queue : Nat) (s : State) : Res :=
  let x := s.queue queue
  if !x.fetchDue then .refused (.notEnabled "PACKET_FETCH")
  else match s.asidRead (s.dieOfQueue queue) x.asid (wrap64 (x.ring.toNat + 128 * (x.k % x.rsize))) 128 with
    | .error e => .next (s.queueError queue 2 x.expect e.va)
    | .ok b =>
      let type := dnum b 4 1
      if dnum b 0 4 ≠ x.expect then .next (s.queueError queue 1 (dnum b 0 4) 0)
      else if type = 0 || 5 < type then .next (s.queueError queue 3 x.expect 0)
      else .next (s.modQueue queue fun y => { y with packet := some b, pollTick := 0 })

/-- COMPLETED moves as far as completed packets follow one another (R334). -/
def Queue.moved : Nat → Queue → Queue
  | 0, x => x
  | n + 1, x =>
    let next := (x.completed + 1) % 2 ^ 32
    if x.done.contains next then Queue.moved n { x with completed := next, done := x.done.filter fun d => d != next } else x

/-- A packet has completed; COMPLETED is written where the watermark moves (R334, R351). -/
def State.packetDone (s : State) (q seq : Nat) : State :=
  let old := (s.queue q).completed
  let s := s.modQueue q fun x => Queue.moved (x.done.length + 1) { x with done := x.done ++ [seq] }
  if (s.queue q).completed = old then s else s.statusWrite q 4 (natLe 4 (s.queue q).completed)

/-- A packet is consumed (R334, R337). -/
def State.consume (s : State) (q : Nat) : State :=
  let seq := (s.queue q).expect
  (s.modQueue q fun x =>
    { x with
      k := x.k + 1
      expect := (seq + 1) % 2 ^ 32
      consumed := seq
      packet := none
      pollTick := 0 }).statusWrite q 0 (natLe 4 seq)

/-- Packet `n` of a queue has completed since the queue was opened (R341; DEDUCED, log 49). -/
def Queue.completedSeq (x : Queue) (n : Nat) : Bool :=
  x.rsize != 0 && (seqLe n x.completed || x.done.contains n || x.done.contains (n + 2 ^ 32))

/-! ## launch (R355) -/

/-- The launch command that starts now. -/
def State.launchStart? (s : State) (unit : Nat) : Option Cmd :=
  if !(s.running (.launch unit)).isEmpty then none else
    match s.nextCmd (.launch unit) with
    | some c => if s.mayStart c then some c else none
    | none => none

/-- Queue of a `launch`. -/
def CmdOp.launchQueue : CmdOp → Nat
  | .launch _ q => q
  | _ => 0

/-- Virtual address of the ring slot of PROD. -/
def Queue.prodSlot (x : Queue) : Nat := wrap64 (x.ring.toNat + 128 * (x.prod % x.rsize))

/-- Count of the path to the ring's home (R355, R433). -/
def State.ringCount (s : State) (c : Cmd) : Nat :=
  let va := (s.queue c.op.launchQueue).prodSlot
  let n := c.access 0 true
  match s.asidRange (s.portOf c.cid) (s.ctx c.cid).asid true va 1 with
  | .ok ((p, _) :: _) => s.walkTime c.cid n (s.ctx c.cid).asid va 1 + s.homePath c.cid n (cacheHit n 1) p
  | _ => 0

/-- LAUNCH_COMMAND_START: the packet image is read once (R263, R355). -/
def execLaunchCommandStart (unit : Nat) (s : State) : Res :=
  match s.launchStart? unit with
  | some c => .next (s.startCmd c fun x =>
      { x with copyOf := (s.group c.gid).sp.bytes c.op.descAt 128, due := s.unitCycle c.queue + 16 + s.ringCount c })
  | none => .refused (.notEnabled "LAUNCH_COMMAND_START")

/-- The device queue may take a packet of this context (DEDUCED, log 54). -/
def State.launchable (s : State) (c : Cmd) : Bool :=
  let x := s.queue c.op.launchQueue
  x.dev && x.asid == (s.ctx c.cid).asid && x.st == .open_

/-- The launch command that completes now: the ring slot of PROD is free, or no packet is to be written (DEDUCED, log 54). -/
def State.launchDone? (s : State) (unit : Nat) : Option Cmd :=
  match s.dueIn (.launch unit) with
  | some c =>
    if !s.launchable c || (s.queue c.op.launchQueue).waiting < (s.queue c.op.launchQueue).rsize then some c else none
  | none => none

/-- The end of a `launch`: SEQ and LSTAT go to the image, then the tail signals (DEDUCED, log 54). -/
def State.launchEnds (s : State) (c : Cmd) (seq lstat : Nat) : State :=
  let a := c.op.descAt
  let n := if lstat = 1 then seq else 0xFFFFFFFF
  ((s.padWrite c.gid false a (natLe 4 n)).padWrite c.gid false (a + 6) [BitVec.ofNat 8 lstat]).endCmd c

/-- LAUNCH_COMPLETE (R355). -/
def execLaunchComplete (unit : Nat) (s : State) : Res :=
  match s.launchDone? unit with
  | none => .refused (.notEnabled "LAUNCH_COMPLETE")
  | some c =>
    if !s.launchable c then .next (s.launchEnds c 0 2)
    else
      let q := c.op.launchQueue
      let x := s.queue q
      let seq := (x.expect + x.waiting) % 2 ^ 32
      match s.asidRange (s.portOf c.cid) x.asid true x.prodSlot 128 with
      | .error _ => .next (s.launchEnds c 0 3)
      | .ok ps =>
        let s := (cutParts ps (natLe 4 seq ++ c.copyOf.drop 4)).foldl (fun s p => s.engineWrite c.cid p.at_.mt p.at_.addr p.data) s
        let s := s.modQueue q fun x =>
          { x with
            prod := (x.prod + 1) % 2 ^ 32
            issuers := match (s.ctx c.cid).cons with | some k => x.issuers ++ [(x.k + x.waiting, k)] | none => x.issuers }
        let s := s.writeHome 0 (s.qdAddr q + 36) (natLe 4 (s.queue q).prod)
        .next (s.launchEnds c seq 1)

end Sys2Proof.Machine
end

