-- ==== Sys2Proof/Machine/Consign.lean ====
section
/-! DEFINITION. Packets as they are consumed, graph replays, and consignments from acceptance to their completion record (R273,
R334, R338 to R342, R351 to R353, R356, R361). -/

namespace Sys2Proof.Machine

open Sys2Proof

/-! ## LAUNCH packets (R338, R339) -/

/-- Fields of a LAUNCH packet (R338). -/
def Packet.ofBytes (b : List Byte) : Packet where
  dep := (dnum b 5 1).testBit 0
  early := (dnum b 5 1).testBit 1
  entry := BitVec.ofNat 64 (dnum b 8 8)
  args := BitVec.ofNat 64 (dnum b 16 8)
  handler := BitVec.ofNat 64 (dnum b 24 8)
  depot := BitVec.ofNat 64 (dnum b 32 8)
  scqBase := BitVec.ofNat 64 (dnum b 40 8)
  scQuota := dnum b 48 4
  p := dnum b 52 1
  c := dnum b 53 1
  s := dnum b 54 1
  q := dnum b 55 1
  d := dnum b 56 1
  fg := dnum b 57 1
  tregs := dnum b 58 1
  spg := dnum b 59 1
  tsg := dnum b 60 1
  relays := dnum b 61 1
  depots := dnum b 62 1
  g := dnum b 64 4
  sems := dnum b 68 2
  phn := dnum b 70 2
  energy := dnum b 72 4
  current := dnum b 76 4
  argStride := dnum b 80 4
  wdog := dnum b 84 4
  event := BitVec.ofNat 64 (dnum b 88 8)
  simg := BitVec.ofNat 64 (dnum b 96 8)
  slen := dnum b 104 4

/-- A number lies in a range. -/
def within (lo hi x : Nat) : Bool := decide (lo ≤ x) && decide (x ≤ hi)

/-- The fields obey the limits of R338; `graph` for a packet of a replay. -/
def launchLegal (b : List Byte) (graph : Bool) : Bool :=
  let k := Packet.ofBytes b
  decide (dnum b 5 1 < 4) && (!k.early || k.dep) && k.entry.toNat % 64 == 0 && (k.args.toNat % 2 ^ 63) % 8 == 0 &&
    (graph || decide (k.args.toNat < 2 ^ 63)) && k.handler.toNat % 64 == 0 && (k.depots == 0 || k.depot.toNat % 64 == 0) &&
    k.scqBase.toNat % 65536 == 0 && within 1 4 k.p && within 1 4 k.c && within 1 6 k.s && within 1 4 k.q && within 1 2 k.d &&
    decide (k.fg < 3) && decide (k.tregs ≤ 16) && decide (k.spg ≤ 192) && decide (k.tsg ≤ 32) && decide (k.relays ≤ 16) &&
    decide (k.depots ≤ 4) && dnum b 63 1 == 0 && within 1 16777215 k.g && decide (k.sems ≤ 256) && decide (k.phn ≤ 512) &&
    decide (1 ≤ k.energy) && decide (1 ≤ k.current) && k.argStride % 8 == 0 && k.event.toNat % 8 == 0 &&
    k.simg.toNat % 64 == 0 && k.slen % 16 == 0 && decide (k.slen ≤ 65536 * k.spg) && (k.simg != 0 || k.slen == 0) &&
    dzero b 108 127

/-- Reason of a refusal, 0 where the packet is accepted (R339). -/
def refusal (b : List Byte) (graph : Bool) : Nat :=
  let k := Packet.ofBytes b
  if !launchLegal b graph then 1
  else if 16 < k.p * k.tregs then 2
  else if 600000 < k.energy * k.p * k.c || 80000 < k.current then 3
  else if k.depots ≠ 0 && k.depot = 0 then 4
  else 0

/-- Groups of a packet: serai groups, and those of a top-level group (R340, R343). -/
def Packet.groups (k : Packet) : Nat := k.g * k.d * k.q * k.s
/-- Serai groups of a top-level group. -/
def Packet.gang (k : Packet) : Nat := k.d * k.q * k.s

/-- Accepted consignments of a die that have not completed; a replay's own record is none. -/
def State.acceptedOn (s : State) (die : Nat) : Nat :=
  (s.cons.filter fun x => x.2.die == die && x.2.status != 2 && x.2.pk.g != 0).length

/-- A consignment that was killed or aborted has given its resources back (R361). -/
def Cons.returned (x : Cons) : Bool := x.state == .completing && x.status != 1

/-- Package phaser records bound (R273). -/
def State.boundRecords (s : State) : Nat := ((s.cons.filter fun x => !x.2.returned).map fun x => x.2.pk.phn).foldl (· + ·) 0

/-- The packet of a type that a queue has fetched and not consumed. -/
def State.headPacket (s : State) (q type : Nat) : Option (List Byte) :=
  let x := s.queue q
  if x.st != .open_ then none else
    match x.packet with
    | some b => if dnum b 4 1 = type then some b else none
    | none => none

/-- Queue and sequence number that a packet's consignment is known by: those of the GRAPH packet within a replay (R342). -/
def State.rootOf (s : State) (q : Nat) : Nat × Nat :=
  if replayBase ≤ q then (match s.con? (q - replayBase) with | some a => (a.queue, a.seq) | none => (q, 0))
  else (q, (s.queue q).expect)

/-- A consignment as it is accepted or refused. -/
def State.newCons (s : State) (q : Nat) (pk : Packet) (state : ConsState) (status reason : Nat) (pred : Option Nat) : Cons where
  queue := (s.rootOf q).1
  seq := (s.rootOf q).2
  asid := (s.queue q).asid
  die := s.dieOfQueue q
  pk := pk
  state := state
  nextGroup := 0
  halted := 0
  triggered := []
  skips := 0
  energy := 0
  overdraw := 0
  accepted := s.tick
  watch := s.tick
  status := status
  reason := reason
  pred := pred
  phasers := []
  bound := []
  saved := []
  releaseAfter := false
  graph := if replayBase ≤ q then some (q - replayBase) else none
  params := (match s.replays.find? fun r => r.anchor == q - replayBase with | some r => if replayBase ≤ q then r.params else 0 | none => 0)
  doneSeq := (s.queue q).expect
  ended := s.nextId
  asked := 0

/-- Put a consignment under the next number. -/
def State.addCons (s : State) (x : Cons) : State := { s with nextId := s.nextId + 1, cons := Table.put s.cons s.nextId x }

/-- The predecessor of a packet with DEP: the consignment whose `launch` appended it, or the queue's previous LAUNCH packet
(R353). -/
def Queue.predecessor (x : Queue) (k : Packet) : Option Nat :=
  if !k.dep then none
  else match x.issuers.find? fun p => p.1 == x.k with
    | some (_, c) => some c
    | none => x.lastLaunch

/-- The LAUNCH packet of a queue that is consumed now, one that is to be refused too; a packet that asks for more records than there are
waits for none (R339; DESIGN CHOICE, log 81). -/
def State.launchReady? (s : State) (q : Nat) : Option (List Byte) :=
  match s.headPacket q 1 with
  | some b =>
    let n := (Packet.ofBytes b).phn
    if s.acceptedOn (s.dieOfQueue q) < 256 && (512 < n || s.boundRecords + n ≤ 512) then some b else none
  | none => none

/-- LAUNCH_PACKET: consumed, and accepted or refused (R338, R339, R353). -/
def execLaunchPacket (queue : Nat) (s : State) : Res :=
  match s.launchReady? queue with
  | none => .refused (.notEnabled "LAUNCH_PACKET")
  | some b =>
    let k := Packet.ofBytes b
    let r := refusal b (decide (replayBase ≤ queue))
    let x := s.queue queue
    let c := s.newCons queue k (if r = 0 then .accepted else .completing) (if r = 0 then 1 else 2) r (x.predecessor k)
    let id := s.nextId
    let s := (s.addCons c).consume queue
    .next (s.modQueue queue fun x =>
      { x with lastLaunch := some id, issuers := x.issuers.filter fun p => decide (x.k ≤ p.1) })

/-! ## WAITSEQ, EVWAIT, EVSIG (R341) -/

/-- TYPE of packet `n` of a queue, where it stands in the ring and is not yet consumed (R341). -/
def State.ringType? (s : State) (q n : Nat) : Option Nat :=
  let x := s.queue q
  let i := (n + 2 ^ 32 - x.expect) % 2 ^ 32
  if x.st = .open_ && i < x.waiting then
    match s.asidRead (s.dieOfQueue q) x.asid (wrap64 (x.ring.toNat + 128 * ((x.k + i) % x.rsize))) 128 with
    | .ok b => if dnum b 0 4 = n then some (dnum b 4 1) else none
    | .error _ => none
  else none

/-- The condition of a WAITSEQ packet of queue `q` (R341, R342; DEDUCED, log 49). -/
def State.waitseqHolds (s : State) (q : Nat) (b : List Byte) : Bool :=
  let w := dnum b 8 8
  let named := bitsOf w 0 13
  let n := dnum b 16 4
  let q' := if replayBase ≤ q && named = 8191 then q else named
  let x := s.queue q'
  if x.asid ≠ (s.queue q).asid then true
  else if x.completedSeq n then true
  else if bitsOf w 13 3 = 1 then
    if (s.ringType? q' n).any fun t => t != 1 then true
    else x.rsize != 0 && seqLe n x.consumed &&
      !(s.cons.any fun c =>
        (if replayBase ≤ q' then c.2.graph == some (q' - replayBase) && c.2.doneSeq == n
         else c.2.queue == q' && c.2.seq == n && c.2.graph.isNone) &&
        c.2.pk.g != 0 && (c.2.status == 2 || decide (c.2.triggered.length < c.2.pk.allParcels)))
  else false

/-- WAITSEQ_PACKET (R341). -/
def execWaitseqPacket (queue : Nat) (s : State) : Res :=
  match s.headPacket queue 2 with
  | some b =>
    if s.waitseqHolds queue b then .next ((s.consume queue).packetDone queue (s.queue queue).expect)
    else .refused (.notEnabled "WAITSEQ_PACKET")
  | none => .refused (.notEnabled "WAITSEQ_PACKET")

/-- The event object of a waiting EVWAIT packet is to be read now: first, 100 ticks after the previous read, or after an EVSIG
of the package (R341). -/
def State.pollDue (s : State) (q : Nat) : Bool :=
  (s.headPacket q 3).isSome && ((s.queue q).pollTick == 0 || decide ((s.queue q).pollTick + 99 ≤ s.tick))

/-- EVENT_OBJECT_POLL (R341). -/
def execEventObjectPoll (queue : Nat) (s : State) : Res :=
  if s.pollDue queue then .next (s.modQueue queue fun x => { x with pollTick := s.tick + 1 })
  else .refused (.notEnabled "EVENT_OBJECT_POLL")

/-- The event object read in this tick has reached its target (DESIGN CHOICE, log 47). -/
def State.evwaitHolds (s : State) (q : Nat) (b : List Byte) : Bool :=
  (s.queue q).pollTick == s.tick + 1 &&
    (match s.asidNum? (s.dieOfQueue q) (s.queue q).asid (dnum b 8 8) with
     | some v => decide (dnum b 16 8 ≤ v)
     | none => false)

/-- EVWAIT_PACKET (R341). -/
def execEvwaitPacket (queue : Nat) (s : State) : Res :=
  match s.headPacket queue 3 with
  | some b =>
    if s.evwaitHolds queue b then .next ((s.consume queue).packetDone queue (s.queue queue).expect)
    else .refused (.notEnabled "EVWAIT_PACKET")
  | none => .refused (.notEnabled "EVWAIT_PACKET")

/-- EVSIG_PACKET: the increment is added, and every awaited event object is read again (R341). -/
def execEvsigPacket (queue : Nat) (s : State) : Res :=
  match s.headPacket queue 4 with
  | some b =>
    let n := (s.queue queue).expect
    let s := s.eventAdd (s.dieOfQueue queue) (s.queue queue).asid (dnum b 8 8) (dnum b 16 8)
    let s : State := { s with queues := s.queues.map fun (x : Nat × Queue) => (x.1, { x.2 with pollTick := 0 }) }
    .next ((s.consume queue).packetDone queue n)
  | none => .refused (.notEnabled "EVSIG_PACKET")

/-! ## GRAPH (R342) -/

/-- Limits of a graph object. -/
def graphLegal (o : List Byte) : Bool :=
  within 1 4096 (dnum o 8 4) && dnum o 12 4 % 64 == 0 && within 64 65536 (dnum o 12 4)

/-- The pool block that a replay takes, if one is free. -/
def State.graphBlock (s : State) (asid : Nat) (object : Word) (multi : Bool) : Option Nat :=
  let used := (s.replays.filter fun r =>
    r.object == object && (match s.con? r.anchor with | some a => a.asid == asid | none => false)).map (·.block)
  if multi then (List.range 4).find? fun i => !used.contains i else if used.isEmpty then some 0 else none

/-- Apply patch entries: what breaks the limits ends the list (R342; DEDUCED, log 48). -/
def State.patches (s : State) (die asid block plen : Nat) : List Byte → Nat → Except (Option DFail × State) State
  | _, 0 => .ok s
  | l, n + 1 =>
    let off := dnum l 0 8
    if off % 8 ≠ 0 || plen ≤ off then .error (none, s)
    else match s.asidWrite die asid (wrap64 (block + off)) ((l.drop 8).take 8) with
      | .error e => .error (some e, s)
      | .ok s' => State.patches s' die asid block plen (l.drop 16) n

/-- Copy the base block and patch it (DEDUCED, log 48). -/
def State.fillBlock (s : State) (die asid params block plen list count : Nat) : Except (Option DFail × State) State :=
  match s.asidRead die asid params plen, s.asidRead die asid list (16 * count) with
  | .ok base, .ok l =>
    (match s.asidWrite die asid block base with
     | .ok s' => s'.patches die asid block plen l count
     | .error e => .error (some e, s))
  | .error e, _ => .error (some e, s)
  | _, .error e => .error (some e, s)

/-- A replay that ends at once: its record says so. -/
def State.replayEnds (s : State) (q status reason : Nat) : State :=
  (s.addCons (s.newCons q (Packet.ofBytes []) .completing status reason none)).consume q

/-- A replay whose block is ready: its packets form a queue of their own (DEDUCED, log 48). -/
def State.replayStarts (s : State) (q : Nat) (o : List Byte) (object : Word) (block params : Nat) : State :=
  let id := s.nextId
  let x := s.queue q
  let c := s.newCons q (Packet.ofBytes []) .running 1 0 none
  let s := (s.addCons c).consume q
  let s : State := { s with replays := s.replays ++ [⟨id, object, block, params⟩] }
  s.modQueue (replayBase + id) fun _ =>
    { Queue.closed with
      st := .open_
      ring := BitVec.ofNat 64 (dnum o 0 8)
      rsize := 65536
      asid := x.asid
      cls := x.cls
      prod := dnum o 8 4
      expect := 0
      consumed := 2 ^ 32 - 1
      completed := 2 ^ 32 - 1 }

/-- What a GRAPH packet does now; `none` while it waits for a block (DEDUCED, log 48). -/
def State.graphStep (s : State) (q : Nat) (b : List Byte) : Option Res :=
  let x := s.queue q
  let object := BitVec.ofNat 64 (dnum b 8 8)
  let die := s.dieOfQueue q
  match s.asidRead die x.asid object.toNat 64 with
  | .error _ => some (.next (s.replayEnds q 4 8))
  | .ok o =>
    if !graphLegal o || 4096 < dnum b 24 4 then some (.next (s.replayEnds q 2 1))
    else match s.graphBlock x.asid object (dnum o 24 1 == 1) with
      | none => none
      | some i =>
        let plen := dnum o 12 4
        let block := wrap64 (dnum o 16 8 + (i + 1) * plen)
        match s.fillBlock die x.asid (dnum o 16 8) block plen (dnum b 16 8) (dnum b 24 4) with
        | .ok s => some (.next (s.replayStarts q o object i block))
        | .error (none, s) => some (.next (s.replayEnds q 2 1))
        | .error (some _, s) => some (.next (s.replayEnds q 4 8))

/-- GRAPH_PACKET (R342). -/
def execGraphPacket (queue : Nat) (s : State) : Res :=
  match s.headPacket queue 5 with
  | some b => (s.graphStep queue b).getD (.refused (.notEnabled "GRAPH_PACKET"))
  | none => .refused (.notEnabled "GRAPH_PACKET")

/-! ## Completion (R351, R353, R361) -/

/-- Commands of a consignment's contexts. -/
def State.workOf (s : State) (k : Nat) : List Cmd := s.cmds.filter fun c => (s.ctx c.cid).cons == some k

/-- A drover command has no chunk that runs: none has begun since the last one, or the first one waits for a relay slot (R165, R300;
DEDUCED, log 42). -/
def State.betweenChunks (s : State) (c : Cmd) (v : Drv) : Bool :=
  !c.updating && (decide (c.op.first < c.work) || (decide (c.due ≤ s.unitCycle c.queue) && s.chunkStep c v == .wait))

/-- A running command stands at a boundary where it can become a record (R222, R282, R300, R320; DEDUCED, log 57; DEDUCED,
log 58). -/
def State.atBoundary (s : State) (c : Cmd) : Bool :=
  match c.op with
  | .copy _ _ _ _ _ =>
    (match c.op.copy? with | some k => decide (c.work < k.beats) && s.copyHeld c | none => false)
  | .drover _ _ _ =>
    (match c.drv? with
     | some v => c.fault.isNone && decide (c.work < v.chunks) && decide (c.number = c.work ∨ ¬ v.gt) &&
         (s.betweenChunks c v || s.readAbandoned c v)
     | none => false)
  | .step _ _ _ _ => !c.updating
  | .drain _ _ _ _ _ => !c.updating && (s.queueOf c.queue).any fun d => decide (d.id ≤ c.id) && s.drainStuck d
  | _ => false

/-- The engines of a consignment have settled: no command runs on, no atomic is on its way and no publication is under way
(R358). -/
def State.settled (s : State) (k : Nat) : Bool :=
  (s.workOf k).all (fun c => c.start.isNone || s.atBoundary c) &&
    !(s.atomics.any fun a => (s.ctx a.cid).cons == some k) &&
    s.ctxs.all fun c => c.2.cons != some k || c.2.release.isNone

/-- A replay has no packet left to run. -/
def State.replayOver (s : State) (k : Nat) (x : Cons) : Bool :=
  let q := s.queue (replayBase + k)
  (q.st != .open_ || x.state == .killing || q.waiting == 0) && !(s.cons.any fun c => c.2.graph == some k)

/-- A consignment completes now (R351, R361). -/
def State.conDone (s : State) (k : Nat) : Bool :=
  match s.con? k with
  | none => false
  | some x =>
    if x.pk.g = 0 then (x.state == .running || x.state == .killing) && s.replayOver k x
    else match x.state with
      | .killing => s.settled k
      | .running | .draining | .suspending => x.halted == x.pk.allParcels && (s.workOf k).isEmpty
      | _ => false

/-- A store of consignment `k` as its completion leaves it: nothing holds it back any more (R258, R351). -/
def Posted.letGo (p : Posted) (k : Nat) : Posted :=
  if p.cons = some k then { p with wait := 0, ask := [], performed := p.performed || decide (savedBase ≤ p.cid) } else p

/-- The stores of a consignment are published at system scope, whatever holds them back (R258, R351). -/
def State.publishAll (s : State) (k : Nat) : State :=
  ({ s with posted := s.posted.map fun p => p.letGo k } : State).publish 7 0 fun p => p.cons == some k

/-- Poison of registers, tiles and scratchpads that return to the scheduler goes with them. -/
def goneWith (cids gids : List Nat) : Place → Bool
  | .scratch g _ => gids.contains g
  | .side g _ => gids.contains g
  | .tileStore g _ => gids.contains g
  | .tile c _ => cids.contains c
  | .tileScale c _ => cids.contains c
  | .scalar c _ => cids.contains c
  | .address c _ => cids.contains c
  | .vector c _ _ => cids.contains c
  | .mask c _ => cids.contains c
  | .line c => cids.contains c
  | .farEntry c _ => cids.contains c
  | .memory _ => false
  | .stepData _ _ => false

/-- The resources of a consignment return (R151, R160, R210, R303, R327, R351, R361). -/
def State.returnUnits (s : State) (k : Nat) : State :=
  let cids := (s.ctxs.filter fun x => x.2.cons == some k).map (·.1)
  let gids := (s.groups.filter fun x => x.2.cons == some k).map (·.1)
  { s with
    cmds := s.cmds.filter fun c => !cids.contains c.cid
    ctxs := s.ctxs.filter fun x => x.2.cons != some k
    cores := s.cores.map fun x => (x.1, match x.2.holder with
      | some h => if cids.contains h then { x.2 with holder := none } else x.2
      | none => x.2)
    groups := s.groups.filter fun x => x.2.cons != some k
    phops := s.phops.filter fun o => o.cons != some k
    steps := s.steps.map fun d => (d.1, d.2.filter fun e => e.owner != k)
    poison := s.poison.filter fun p => !goneWith cids gids p
    rejoins := s.rejoins.filter fun r => !cids.contains r.cid
    replays := s.replays.filter fun r => r.anchor != k
    queues := s.queues.filter fun x => x.1 != replayBase + k
    pk := { s.pk with prBusy := s.pk.prBusy.filter fun x => x.1 != k } }

/-- The resources of a consignment return, and it is complete (R351). -/
def State.returnAll (s : State) (k : Nat) : State :=
  let s := s.returnUnits k
  { s with cons := Table.drop s.cons k }

/-- CONSIGNMENT_COMPLETE: it publishes, and its record waits to be written; what a killed one has held returns at once (R351,
R361; DEDUCED, log 37). -/
def execConsignmentComplete (cons : Nat) (s : State) : Res :=
  if s.conDone cons then
    let s' := (s.publishAll cons).modCon cons fun x => { x with state := .completing, watch := s.tick, ended := s.nextId }
    .next (if (s.con? cons).any (fun x => x.state == .killing) then s'.fresh.returnUnits cons else s'.fresh)
  else .refused (.notEnabled "CONSIGNMENT_COMPLETE")

/-- The completion record (R351). -/
def Cons.record (x : Cons) : List Byte :=
  natLe 4 x.seq ++ natLe 1 x.status ++ natLe 1 x.reason ++ natLe 2 0 ++ natLe 8 x.skips ++ natLe 8 x.energy ++
    natLe 4 x.overdraw ++ natLe 4 (x.watch - x.accepted)

/-- ACKED of a queue (R334; DESIGN CHOICE, log 46). -/
def State.ackedOf (s : State) (q : Nat) : Option Nat :=
  match s.asidRead (s.dieOfQueue q) (s.queue q).asid (wrap64 ((s.queue q).stat.toNat + 8)) 4 with
  | .ok b => some (leNat b)
  | .error _ => none

/-- The next slot of the completion ring is free (R334). -/
def State.recordSlotFree (s : State) (q : Nat) : Bool :=
  let x := s.queue q
  match x.records.find? fun r => r.1 == x.nrec % x.csize with
  | none => true
  | some r => match s.ackedOf q with | some a => seqLe r.2 a | none => false

/-- A record of the same queue that has waited for longer (R334). -/
def State.recordBefore (s : State) (x : Cons) : Bool :=
  s.cons.any fun y => y.2.state == .completing && y.2.graph.isNone && y.2.queue == x.queue && decide (y.2.ended < x.ended)

/-- A completed consignment's record can be written now: records enter the ring in completion order (R334). -/
def State.recordReady (s : State) (k : Nat) : Bool :=
  match s.con? k with
  | some x => x.state == .completing && (x.graph.isSome || (s.recordSlotFree x.queue && !s.recordBefore x))
  | none => false

/-- After the record: EVENT is signalled, by a refused packet too, and the resources return (R339, R351; DESIGN CHOICE, log 47). -/
def State.afterRecord (s : State) (k : Nat) (x : Cons) : State :=
  (if x.pk.event = 0 || x.pk.event.toNat % 8 ≠ 0 then s else s.eventAdd x.die x.asid x.pk.event.toNat 1).returnAll k

/-- A consignment of a replay adds its totals to the replay's (R342). -/
def State.addSums (s : State) (a : Nat) (x : Cons) : State :=
  (s.modCon a fun y =>
    { y with skips := y.skips + x.skips, energy := y.energy + x.energy, overdraw := y.overdraw + x.overdraw }).packetDone
    (replayBase + a) x.doneSeq

/-- COMPLETION_RECORD_WRITE (R334, R342, R351, R410). -/
def execCompletionRecordWrite (cons : Nat) (s : State) : Res :=
  match s.con? cons with
  | none => .refused (.notEnabled "COMPLETION_RECORD_WRITE")
  | some x =>
    if !s.recordReady cons then .refused (.notEnabled "COMPLETION_RECORD_WRITE")
    else match x.graph with
      | some a => .next ((s.addSums a x).afterRecord cons x)
      | none =>
        let q := s.queue x.queue
        let j := q.nrec % q.csize
        match s.asidWrite (s.dieOfQueue x.queue) q.asid (wrap64 (q.cpl.toNat + 32 * j)) x.record with
        | .error e =>
          let s := s.modQueue x.queue fun y => { y with done := y.done ++ [x.seq + 2 ^ 32] }
          .next ((s.queueError x.queue 4 (s.queue x.queue).expect e.va).afterRecord cons x)
        | .ok s =>
          let s := s.modQueue x.queue fun y =>
            { y with nrec := y.nrec + 1, records := (y.records.filter fun r => r.1 != j) ++ [(j, x.seq)] }
          .next (((s.packetDone x.queue x.seq).msi 0 [s.dieOfQueue x.queue]).afterRecord cons x)

/-- The watchdog of a consignment has run out (R352): `watch` is the tick from which it counts. -/
def State.watchdogOver (s : State) (k : Nat) : Bool :=
  match s.con? k with
  | some x =>
    x.pk.wdog != 0 && decide (x.watch + 1000 * x.pk.wdog ≤ s.tick) &&
      (x.state == .accepted || x.state == .running || x.state == .suspending || x.state == .draining)
  | none => false

/-- WATCHDOG_EXPIRY (R352). -/
def execWatchdogExpiry (cons : Nat) (s : State) : Res :=
  if s.watchdogOver cons then .next (s.killCon cons 5 0) else .refused (.notEnabled "WATCHDOG_EXPIRY")

end Sys2Proof.Machine
end

