-- ==== Sys2Proof/Machine/Phasers.lean ====
section
/-! DEFINITION. Events at the phasers: registrations, drops and arrivals as they apply, the advance of a phase and its delivery
(R273 to R279). -/

namespace Sys2Proof.Machine

open Sys2Proof

/-- The record that an operation acts on: of its group for ph0 to ph63, of its consignment above (R273). -/
def State.phaserOf (s : State) (o : PhOp) : Phaser :=
  if o.ph < 64 then (Table.find? (s.group o.gid).phasers o.ph).getD .fresh
  else match o.cons with
    | some k => (match s.con? k with | some c => (Table.find? c.phasers o.ph).getD .fresh | none => .fresh)
    | none => .fresh

/-- Replace the record that an operation acts on. -/
def State.setPhaser (s : State) (o : PhOp) (p : Phaser) : State :=
  if o.ph < 64 then s.modGroup o.gid fun g => { g with phasers := Table.put g.phasers o.ph p }
  else match o.cons with
    | some k => s.modCon k fun c => { c with phasers := Table.put c.phasers o.ph p }
    | none => s

/-- Two operations go to one phaser. -/
def PhOp.samePhaser (a b : PhOp) : Bool := a.ph == b.ph && (if a.ph < 64 then a.gid == b.gid else a.cons == b.cons)

/-- The registration of a context in the phaser's own record. -/
def Phaser.reg? (p : Phaser) (cid : Nat) : Option (Nat × Nat × Nat × Nat) := p.regs.find? fun r => r.1 == cid

/-- An operation of the parcel's own, in its issue order (R279). -/
def PhOp.ordered (o : PhOp) : Bool :=
  match o.act with | .carried => false | .deliver _ => false | _ => true

/-- The time of an operation has come; one of a saved parcel is on its way as before, its time counted as `cycleOf` counts for it
(R276). -/
def State.opDue (s : State) (o : PhOp) : Bool := decide (o.due ≤ s.cycleOf o.cid)

/-- An operation may apply now: it has reached the phaser, none of its parcel stands before it, and an arrival finds its phase
no more than one ahead (R279). -/
def State.opReady (s : State) (o : PhOp) : Bool :=
  let before := s.phops.takeWhile fun x => x.id != o.id
  let early := o.act == .arrive &&
    (match (s.phaserOf o).reg? o.cid with | some r => r.2.2.1 == phaseAdd (s.phaserOf o).phase 2 | none => false)
  s.opDue o && !o.held && !early && !(o.ordered && before.any fun x => x.ordered && x.cid == o.cid && x.samePhaser o)

/-- Groups that a phase of this phaser is delivered to, with a context of each (R276). -/
def State.audience (s : State) (o : PhOp) : List (Nat × Nat) :=
  let gs := s.groups.filter fun g =>
    g.2.resident && (if o.ph < 64 then g.1 == o.gid else g.2.cons.isSome && g.2.cons == o.cons)
  gs.filterMap fun g => match g.2.cores with | k :: _ => some (g.1, firstCtxOf k) | [] => none

/-- Deliver a phase to every group concerned (R276). -/
def State.deliver (s : State) (o : PhOp) (phase : Nat) : State :=
  (s.audience o).foldl (fun s g =>
    let due := s.cycleOf g.2 + (if o.ph < 64 then 2 else s.pathCount g.2 262)
    { s with
      nextId := s.nextId + 1
      phops := s.phops ++ [⟨s.nextId, g.2, g.1, o.cons, o.ph, .deliver phase, due, false⟩] }) s

/-- A record meets the condition of an advance (R275). -/
def Phaser.full (p : Phaser) : Bool := p.arr0 == p.nsig && decide (max 1 p.quorum ≤ p.nsig)

/-- The record after an advance (R275). -/
def Phaser.advanced (p : Phaser) : Phaser := { p with phase := phaseAdd p.phase 1, arr0 := p.arr1, arr1 := 0 }

/-- Arrivals that waited for a phase are counted in the next cycle (R279). -/
def State.wakeOps (s : State) (o : PhOp) : State :=
  { s with phops := s.phops.map fun x =>
      if x.act == .arrive && x.samePhaser o && s.opDue x then { x with due := s.cycleOf x.cid + 1 } else x }

/-- The phase advances: it is delivered, and arrivals carried over may complete the new phase in the next cycle (R275). -/
def State.phAdvance (s : State) (o : PhOp) : State :=
  let p := (s.phaserOf o).advanced
  let s := ((s.setPhaser o p).wakeOps o).deliver o p.phase
  if p.full then
    { s with
      nextId := s.nextId + 1
      phops := s.phops ++ [{ o with id := s.nextId, act := .carried, due := s.cycleOf o.cid + 1, held := false }] }
  else s

/-- Arrivals and drops of this cycle that have not yet acted on the phaser of `o` (R275). -/
def State.moreToCount (s : State) (o : PhOp) : Bool :=
  s.phops.any fun x =>
    x.samePhaser o && (match x.act with | .arrive => true | .drop => true | .carried => true | _ => false) && s.opReady x

/-- The one test for an advance of a cycle, after its arrivals and drops (R275). -/
def State.testAdvance (s : State) (o : PhOp) : State :=
  if !s.moreToCount o && (s.phaserOf o).full then s.phAdvance o else s

/-- The operation of a number, if it is ready. -/
def State.readyOp (s : State) (id : Nat) : Option PhOp := s.phops.find? fun o => o.id == id && s.opReady o

/-- Take an operation off the list. -/
def State.dropOp (s : State) (id : Nat) : State := { s with phops := s.phops.filter fun o => o.id != id }

/-- Later operations of the parcel on the phaser wait for the next cycle (R279). -/
def State.delayAfter (s : State) (o : PhOp) : State :=
  { s with phops := s.phops.map fun x =>
      if x.ordered && x.cid = o.cid && x.samePhaser o && s.opDue x then
        { x with due := s.cycleOf x.cid + 1 } else x }

/-- PHASER_REGISTRATION_APPLY (R275, R277, R279). -/
def execPhaserRegistrationApply (op : Nat) (s : State) : Res :=
  match s.readyOp op with
  | some o =>
    match o.act with
    | .register mode q ap =>
      let p := s.phaserOf o
      let ap := if laterPhase p.phase ap then p.phase else ap
      let p := { p with
        nsig := if mode = 2 then p.nsig else p.nsig + 1
        quorum := max p.quorum q
        regs := p.regs ++ [(o.cid, mode, ap, ap)] }
      .next (((s.dropOp op).setPhaser o p).delayAfter o)
    | _ => .refused (.notEnabled "PHASER_REGISTRATION_APPLY")
  | none => .refused (.notEnabled "PHASER_REGISTRATION_APPLY")

/-- A registration leaves the record and withdraws its arrivals (R277). -/
def Phaser.withdraw (p : Phaser) (cid : Nat) : Phaser :=
  match p.reg? cid with
  | none => p
  | some (_, mode, ap, _) =>
    let one := ap = phaseAdd p.phase 1
    let two := ap = phaseAdd p.phase 2
    { p with
      arr0 := if one || two then p.arr0 - 1 else p.arr0
      arr1 := if two then p.arr1 - 1 else p.arr1
      nsig := if mode = 2 then p.nsig else p.nsig - 1
      regs := p.regs.filter fun r => r.1 != cid }

/-- PHASER_DROP_APPLY (R275, R277). -/
def execPhaserDropApply (op : Nat) (s : State) : Res :=
  match s.readyOp op with
  | some o =>
    if o.act = .drop then .next (((s.dropOp op).setPhaser o ((s.phaserOf o).withdraw o.cid)).testAdvance o)
    else .refused (.notEnabled "PHASER_DROP_APPLY")
  | none => .refused (.notEnabled "PHASER_DROP_APPLY")

/-- An arrival is counted by the phaser's own AP (R279). -/
def Phaser.count (p : Phaser) (cid : Nat) : Phaser :=
  match p.reg? cid with
  | none => p
  | some (_, _, ap, _) =>
    let now := ap = p.phase
    { p with
      arr0 := if now then p.arr0 + 1 else p.arr0
      arr1 := if now then p.arr1 else p.arr1 + 1
      regs := p.regs.map fun r => if r.1 = cid then (r.1, r.2.1, phaseAdd ap 1, r.2.2.2) else r }

/-- PHASER_ARRIVAL_COUNT: an arrival is counted, or those carried over are tested (R275, R279). -/
def execPhaserArrivalCount (op : Nat) (s : State) : Res :=
  match s.readyOp op with
  | some o =>
    match o.act with
    | .arrive => .next (((s.dropOp op).setPhaser o ((s.phaserOf o).count o.cid)).testAdvance o)
    | .carried => .next ((s.dropOp op).testAdvance o)
    | _ => .refused (.notEnabled "PHASER_ARRIVAL_COUNT")
  | none => .refused (.notEnabled "PHASER_ARRIVAL_COUNT")

/-- Arrivals of a context that have not been counted yet. -/
def State.inFlight (s : State) (cid : Nat) (o : PhOp) : Nat :=
  (s.phops.filter fun x => x.cid == cid && x.samePhaser o && x.act == .arrive).length

/-- The phaser's record of a context is that of an earlier registration, whose `ph.drop` is still on its way (R279). -/
def State.dropping (s : State) (cid : Nat) (o : PhOp) : Bool := s.phops.any fun x => x.cid == cid && x.samePhaser o && x.act == .drop

/-- The parcel's table takes the values that a late registration raised (R279). -/
def State.raiseRegs (s : State) (o : PhOp) : State :=
  (s.phaserOf o).regs.foldl (fun s r =>
    if (s.ctx r.1).gid = o.gid && !s.dropping r.1 o then
      let ap := phaseAdd r.2.2.1 (s.inFlight r.1 o)
      s.modCtx r.1 fun c => c.modReg o.ph fun x =>
        { x with
          ap := if laterPhase ap x.ap then ap else x.ap
          wp := if laterPhase r.2.2.2 x.wp then r.2.2.2 else x.wp }
    else s) s

/-- PHASE_DELIVERY (R276, R279). -/
def execPhaseDelivery (op : Nat) (s : State) : Res :=
  match s.readyOp op with
  | some o =>
    match o.act with
    | .deliver p =>
      .next (((s.dropOp op).modGroup o.gid fun g => { g with seen := Table.put g.seen o.ph p }).raiseRegs o)
    | _ => .refused (.notEnabled "PHASE_DELIVERY")
  | none => .refused (.notEnabled "PHASE_DELIVERY")

/-- Whether an operation is of the kind that an event applies: arrivals and drops first, then registrations, then deliveries. -/
def PhOp.rank (o : PhOp) : Nat :=
  match o.act with | .arrive => 0 | .carried => 0 | .drop => 1 | .register _ _ _ => 2 | .deliver _ => 3

/-- The event of the first ready operation of a rank. -/
def State.opEvent (s : State) (rank : Nat) : Option Res :=
  match s.phops.find? fun o => o.rank == rank && s.opReady o with
  | some o =>
    some (match rank with
      | 0 => execPhaserArrivalCount o.id s
      | 1 => execPhaserDropApply o.id s
      | 2 => execPhaserRegistrationApply o.id s
      | _ => execPhaseDelivery o.id s)
  | none => none

end Sys2Proof.Machine
end

