-- ==== Sys2Proof/Machine/Place.lean ====
section
/-! DEFINITION. Placement: what fits where, power admission, the selection of a die, the binding of groups and depot cores, the
scratch image, and the start of a group (R80, R81, R147, R148, R160, R168, R207, R268, R325 to R327, R340, R343 to R348, R360). -/

namespace Sys2Proof.Machine

open Sys2Proof

/-! ## What is free (R80, R147, R160, R168, R207, R268, R327) -/

/-- Groups resident on a serai. -/
def State.groupsOn (s : State) (serai : Nat) : List (Nat × Group) :=
  s.groups.filter fun g => g.2.resident && g.2.unit == serai && g.2.cons.isSome

/-- A context that the scheduler may give to a parcel: one that holds none, or whose parcel halted in an earlier cycle (R80). -/
def State.ctxFree (s : State) (cid : Nat) : Bool :=
  (s.ctx cid).status == .idle || ((s.ctx cid).status == .halted && decide ((s.ctx cid).notBefore ≤ s.cycleOf cid))

/-- A halted parcel still has tile or array commands (R168). -/
def State.tilesBusy (s : State) (cid : Nat) : Bool :=
  s.cmds.any fun c => c.cid == cid && (match c.queue with | .tile _ => true | .array _ => true | _ => false)

/-- Tile registers of a core in use (R168). -/
def State.tregsUsed (s : State) (core : Nat) : Nat :=
  ((s.ctxs.filter fun x =>
    decide (x.1 < savedBase) && coreOf x.1 == core && (x.2.status != .halted || s.tilesBusy x.1)).map fun x =>
      x.2.ntregs).foldl (· + ·) 0

/-- A core group still holds its semaphores (R268). -/
def State.semsHeld (s : State) (gid core : Nat) : Bool :=
  (s.ctxs.any fun x => x.2.gid == gid && coreOf x.1 == core && x.2.status != .halted && x.2.status != .idle) ||
    s.cmds.any fun c => c.gid == gid && coreOf c.cid == core && (tailWT c.tail != 0 || tailInc c.tail != 0)

/-- Semaphores of a core in use (R268). -/
def State.semsUsed (s : State) (core : Nat) : Nat :=
  ((s.groups.filter fun g => g.2.resident && g.2.cores.contains core && s.semsHeld g.1 core).map fun g =>
    g.2.nsems).foldl (· + ·) 0

/-- The lowest free run of `n` among `total` granules; none at all stands at 0 (DESIGN CHOICE, log 79). -/
def lowestRun (total n : Nat) (used : List (Nat × Nat)) : Option Nat :=
  if n = 0 then some 0 else
    let ok (u : Nat) : Bool := decide (u + n ≤ total) && used.all fun r => !rangesMeet u n r.1 r.2
    ((0 :: used.map fun r => r.1 + r.2).filter ok).foldl (fun b u => match b with
      | none => some u
      | some x => some (min x u)) none

/-- A depot core that the scheduler may bind (R327). -/
def State.depotFree (s : State) (d : Nat) : Bool :=
  let cid := Config.depotBase + d
  s.ctxFree cid && !(s.cmds.any fun c => c.cid == cid && c.queue == .drover (192 + d))

/-! ## Power admission (R347, R348) -/

/-- A serai holds a resident group. -/
def State.active (s : State) (serai : Nat) : Bool := !(s.groupsOn serai).isEmpty

/-- Packet of a group. -/
def State.packetOf (s : State) (g : Group) : Option Packet :=
  match g.cons with | some k => (s.con? k).map (·.pk) | none => none

/-- Declared energy of a group. -/
def Packet.groupEnergy (k : Packet) : Nat := k.energy * k.p * k.c

/-- Sum over the resident groups of a serai. -/
def State.sumOn (s : State) (serai : Nat) (f : Packet → Nat) : Nat :=
  ((s.groupsOn serai).map fun g => match s.packetOf g.2 with | some k => f k | none => 0).foldl (· + ·) 0

/-- Budget of an active serai, the candidate counted active (R347; DESIGN CHOICE, log 11). -/
def State.seraiBudget (s : State) (serai : Nat) : Int :=
  let k := ((List.range 48).filter fun i => i == serai || s.active i).length
  min 600000 ((20000000 - (Config.uncoreEnergy (s.tick / 1000) : Int) - 40000 * (48 - (k : Int))) / (k : Int))

/-- Power admits a group on a serai (R348). -/
def State.admits (s : State) (serai : Nat) (k : Packet) : Bool :=
  decide ((s.sumOn serai Packet.groupEnergy + k.groupEnergy : Int) ≤ s.seraiBudget serai) &&
    decide (s.sumOn serai (·.current) + k.current ≤ 80000)

/-! ## Where a group fits (R343 to R345) -/

/-- A place for a serai group: serai, cores with their contexts, first granules, relay buffers, depot cores. -/
structure Spot where
  serai : Nat
  cores : List (Nat × List Nat)
  sp : Nat
  ts : Nat
  relays : List Nat
  depots : List Nat
  deriving DecidableEq, Repr

/-- Cores of a serai that fit, each with its lowest idle contexts. -/
def State.fitCores (s : State) (k : Packet) (serai : Nat) : List (Nat × List Nat) :=
  ((List.range 4).filterMap fun i =>
    let core := 4 * serai + i
    let free := (List.range 4).filter fun c => s.ctxFree (4 * core + c)
    if k.p ≤ free.length && s.tregsUsed core + k.p * k.tregs ≤ 16 && s.semsUsed core + k.sems ≤ 256 then
      some (core, (free.take k.p).map fun c => 4 * core + c)
    else none).take k.c

/-- The place a serai offers (R344, R345). -/
def State.spotOn (s : State) (k : Packet) (depots : List Nat) (serai : Nat) : Option Spot :=
  let cores := s.fitCores k serai
  let gs := s.groupsOn serai
  let relays := ((List.range 16).filter fun b => !(gs.any fun g => g.2.relays.any fun r => r.phys == b)).take k.relays
  match lowestRun 192 k.spg ((gs.map fun g => (g.2.spBase / 65536, g.2.spLim / 65536)).filter fun r => r.2 != 0),
        lowestRun 32 k.tsg ((gs.map fun g => (g.2.tsBase / 32, g.2.tsLim / 32)).filter fun r => r.2 != 0) with
  | some sp, some ts =>
    if cores.length = k.c && relays.length = k.relays && s.admits serai k then some ⟨serai, cores, sp, ts, relays, depots⟩ else none
  | _, _ => none

/-- The quarter that a quarter group is fixed to (R343). -/
def Cons.quarterOf (x : Cons) (qg : Nat) : Option Nat := (x.bound.find? fun b => b.1 == qg).map (·.2.1)

/-- Die of a quarter group (R343). -/
def Cons.dieOf (x : Cons) (qg : Nat) : Nat :=
  if x.pk.d = 1 then x.die else if qg / x.pk.q % 2 = 0 then x.die else 1 - x.die

/-- The place of serai group `sg` (R343 to R345). -/
def State.spotFor (s : State) (x : Cons) (sg : Nat) : Option Spot :=
  let qg := sg / x.pk.s
  let inQuarter (quarter : Nat) (depots : List Nat) : Option Spot :=
    (List.range 6).findSome? fun i => s.spotOn x.pk depots (6 * quarter + i)
  match x.quarterOf qg with
  | some quarter => inQuarter quarter []
  | none =>
    (List.range 4).findSome? fun i =>
      let quarter := 4 * x.dieOf qg + i
      let free := ((List.range 4).map fun j => 4 * quarter + j).filter s.depotFree
      if free.length < x.pk.depots then none else inQuarter quarter (free.take x.pk.depots)

/-! ## Moving records -/

/-- A place that names a context, renamed. -/
def movePlace (old new : Nat) : Place → Place
  | .tile c b => .tile (if c = old then new else c) b
  | .tileScale c i => .tileScale (if c = old then new else c) i
  | .scalar c r => .scalar (if c = old then new else c) r
  | .address c r => .address (if c = old then new else c) r
  | .vector c r l => .vector (if c = old then new else c) r l
  | .mask c r => .mask (if c = old then new else c) r
  | .line c => .line (if c = old then new else c)
  | .farEntry c e => .farEntry (if c = old then new else c) e
  | p => p

/-- A phaser record with a registration renamed. -/
def Phaser.rename (old new : Nat) (p : Phaser) : Phaser :=
  { p with regs := p.regs.map fun r => if r.1 = old then (new, r.2) else r }

/-- A relay-buffer slot with its holder renamed. -/
def SlotState.rename (old new : Nat) : SlotState → SlotState
  | .taken c o g => .taken (if c = old then new else c) o g
  | x => x

/-- The record of a context takes another number, with everything that names it; its stores stay
where they have been posted, and stand on the core that resumes it too (R259, R260, R359; DESIGN CHOICE, log 8).  The delivery of a
phase goes to a group and stays (R276). -/
def State.renameCtx (s : State) (old new : Nat) : State :=
  let r (c : Nat) : Nat := if c = old then new else c
  { s with
    ctxs := (Table.put (Table.drop s.ctxs old) new (s.ctx old)).map fun x =>
      (x.1, { x.2 with reads := x.2.reads.map fun w => (r w.1, w.2) })
    cmds := s.cmds.map fun c =>
      { c with
        cid := r c.cid
        queue := match c.queue with | .drain d => .drain (r d) | q => q }
    posted := s.posted.map fun (p : Posted) =>
      { p with
        cid := r p.cid
        stood := if p.cid = old && decide (new < savedBase) && p.core != coreOf new && !p.stood.contains (coreOf new) then
          coreOf new :: p.stood else p.stood
        rel := p.rel.map fun x => match x with | .fence c k sc n => .fence (r c) k sc n | x => x
        hb := p.hb.map fun h => (r h.1, h.2) }
    semWrites := s.semWrites.map fun w => { w with cid := r w.cid }
    atomics := s.atomics.map fun (a : AtomicReq) => { a with cid := r a.cid }
    phops := s.phops.map fun (o : PhOp) => match o.act with | .deliver _ => o | _ => { o with cid := r o.cid }
    groups := s.groups.map fun g =>
      (g.1, { g.2 with
        phasers := g.2.phasers.map fun p => (p.1, p.2.rename old new)
        relays := g.2.relays.map fun b => { b with slots := b.slots.map fun x => x.rename old new } })
    cons := s.cons.map fun c => (c.1, { c.2 with phasers := c.2.phasers.map fun p => (p.1, p.2.rename old new) })
    poison := s.poison.map fun p => movePlace old new p
    rejoins := s.rejoins.map fun x => { x with cid := r x.cid } }

/-- A context is freed for another parcel: the record of the parcel that halted there goes to a number of its own (R80). -/
def State.vacate (s : State) (cid : Nat) : State :=
  if (s.ctx cid).status = .halted then { s.renameCtx cid (1024 * (s.nextId + 1) + cid) with nextId := s.nextId + 1 } else s

/-! ## Binding (R148, R160, R325, R327, R343, R346) -/

/-- First cycle of a context's unit that begins now or later. -/
def State.firstCycle (s : State) (cid : Nat) : Nat :=
  let t := s.cycleOf cid
  let begins :=
    if isSerai cid then (s.serai (seraiOf cid)).begins else if isDepot cid then s.now % 2 == 0 else s.now % 4 == 0
  if begins then t else t + 1

/-- Bytes of a scratch image with those of the side bank (R338, R346). -/
def Cons.imageBytes (x : Cons) : Nat := x.pk.slen + x.pk.slen / 16

/-- First byte of chunk `k` of a scratch image. -/
def Cons.imageChunk (x : Cons) (k : Nat) : Nat := wrap64 (x.pk.simg.toNat + 4096 * k)

/-- Count to chunk `k` of a scratch image: its walk, where one is needed, and the path of its home from the placed serai (R299, R346, R432,
R433; DESIGN CHOICE, log 9). -/
def State.imagePath (s : State) (x : Cons) (serai k : Nat) : Nat :=
  let cid := 16 * serai
  let n := 2 ^ 64 * (2 * k + 1) + s.nextId
  let va := x.imageChunk k
  s.walkTime cid n x.asid va 1 +
    match s.asidRange x.die x.asid false va 1 with
    | .ok ((p, _) :: _) => s.homePath cid n (cacheHit n 1) p
    | _ => 0

/-- Ls of the copy of a scratch image, and the cycle of its first chunk's boundary, or of its end where it has no byte (R299, R346; DEDUCED,
log 25). -/
def State.imageStart (s : State) (x : Cons) (serai : Nat) : Nat × Nat :=
  let ls := if x.imageBytes = 0 then 0 else s.imagePath x serai 0
  (ls, s.firstCycle (16 * serai) + 8 + ls)

/-- Handle of a relay buffer (R160; DESIGN CHOICE, log 53). -/
def Relay.handle (r : Relay) (serai : Nat) : Nat := serai % 64 + 64 * (r.phys % 16) + 1024 * (r.gen % 2 ^ 22)

/-- Depot groups of a quarter group of a consignment. -/
def State.depotGroups (s : State) (k qg : Nat) : List Nat :=
  (s.groups.filter fun g => g.2.cons == some k && g.2.qgroup == qg && decide (64 ≤ g.2.unit)).map (·.1)

/-- A write of the scheduler into a depot scratchpad: loads see it from the next cycle on (R155, R325). -/
def State.tableWrite (s : State) (gid a : Nat) (data : List Byte) : State :=
  { s with late := s.late ++ [⟨Config.outriderBase, gid, false, a, data⟩] }

/-- Write the relay handles of a serai group into the handle tables of its quarter group (R325); zeros while it is away. -/
def State.writeHandles (s : State) (gid : Nat) : State :=
  let g := s.group gid
  match g.cons with
  | none => s
  | some k =>
    match s.con? k with
    | none => s
    | some x =>
      (s.depotGroups k g.qgroup).foldl (fun s d =>
        ((List.range g.relays.length).zip g.relays).foldl (fun s b =>
          s.tableWrite d (0x10 + 64 * (g.index % x.pk.s) + 4 * b.1) (natLe 4 (if g.resident then b.2.handle g.unit else 0))) s) s

/-- The handle table of a depot parcel, its head written afresh and every handle of its quarter group (R325, R328). -/
def State.writeTable (s : State) (gid : Nat) (k : Packet) (d : Nat) : State :=
  let g := s.group gid
  let s := s.tableWrite gid 0 (natLe 4 k.s ++ natLe 4 k.relays ++ natLe 4 d ++ natLe 4 k.depots ++ List.replicate 1008 0)
  ((s.groups.filter fun x => x.2.cons == g.cons && x.2.qgroup == g.qgroup && decide (x.2.unit < 64)).map (·.1)).foldl
    State.writeHandles s

/-- A parcel on its context, before its first bundle (R81). -/
def newParcel (k : Nat) (x : Cons) (n gid fgrp tregs : Nat) (pc : Word) : Ctx :=
  { Ctx.idle with
    status := .starting
    cons := some k
    parcel := n
    gid := gid
    asid := x.asid
    fgrp := fgrp
    ntregs := tregs
    pc := pc
    regs := { CtxRegs.start with thand := x.pk.handler } }

/-- Package phasers as a group that is placed now sees them, and its own as they stand: also an advance whose delivery is still on its way to
others (R276; DESIGN CHOICE, log 96). -/
def State.showPhases (s : State) (gid : Nat) : State :=
  let g := s.group gid
  let far := match g.cons with | some k => (match s.con? k with | some x => x.phasers | none => []) | none => []
  let seen := (g.phasers ++ far).foldl (fun t p => Table.put t p.1 p.2.phase) g.seen
  s.modGroup gid fun g => { g with seen := seen }

/-- Bind a depot core to a quarter group (R327). -/
def State.bindDepot (s : State) (k : Nat) (x : Cons) (qg : Nat) (d : Nat × Nat) : State :=
  let cid := Config.depotBase + d.2
  let gid := 2 + s.nextId
  let s := { s with nextId := s.nextId + 1 }.vacate cid
  let s := s.modGroup gid fun _ =>
    { Group.empty with
      cons := some k
      index := d.1
      qgroup := qg
      unit := 64 + d.2
      cores := [cid]
      resident := true
      startTick := s.tick
      spLim := 0x200000
      nsems := 64 }
  let s := s.setCtx cid (newParcel k x (x.pk.parcels + qg * x.pk.depots + d.1) gid 0 0 x.pk.depot)
  (s.showPhases gid).writeTable gid x.pk d.1

/-- The registrations of a group's parcels take the values that late registrations raised while the group was away (R279). -/
def State.raiseAll (s : State) (gid : Nat) : State :=
  let cons := (s.group gid).cons
  (s.group gid).seen.foldl (fun s p => s.raiseRegs ⟨0, 0, gid, cons, p.1, .deliver p.2, 0, false⟩) s

/-- Put the parcels of a new group on their contexts. -/
def State.seatParcels (s : State) (k : Nat) (x : Cons) (sg gid : Nat) (seats : List Nat) : State :=
  ((List.range seats.length).zip seats).foldl (fun s c =>
    (s.vacate c.2).setCtx c.2 (newParcel k x (sg * x.pk.c * x.pk.p + c.1) gid x.pk.fg x.pk.tregs x.pk.entry)) s

/-- The quarter of a quarter group is fixed, and its depot cores are noted (R327, R343). -/
def State.fixQuarter (s : State) (k qg : Nat) (p : Spot) : State :=
  s.modCon k fun x =>
    if x.bound.any fun b => b.1 == qg then x else { x with bound := x.bound ++ [(qg, p.serai / 6, p.depots)] }

/-- The relay buffers of a group come to stand under other handles: a producer that has started stays with its buffer (R166 item 4;
DESIGN CHOICE, log 53). -/
def State.moveRelays (s : State) (gid unit : Nat) (rs : List Relay) : State :=
  let g := s.group gid
  let olds := g.relays.map fun r => r.handle g.unit
  let move (c : Cmd) : Cmd :=
    match c.drv? with
    | some v =>
      if c.copyOf.isEmpty || v.dsp != 3 then c
      else match findPos (fun h => h == v.dst) olds 0 with
        | some (i, _) => { c with copyOf := natLe 4 (((rs[i]?).map fun r => r.handle unit).getD 0) ++ c.copyOf.drop 4 }
        | none => c
    | none => c
  ({ s with cmds := s.cmds.map move } : State).modGroup gid fun x => { x with relays := rs }

/-- Relay buffers of a serai go to a group: a saved group that had some of them loses its allotment (R151, R160; DESIGN CHOICE, log
53). -/
def State.reclaimRelays (s : State) (serai : Nat) (phys : List Nat) : State :=
  let hit := (s.groups.filter fun g =>
    !g.2.resident && g.2.unit == serai && g.2.relays.any fun r => phys.contains r.phys).map (·.1)
  hit.foldl (fun s gid =>
    let gen := s.freeRelayGen % 2 ^ 22
    ({ s with freeRelayGen := s.freeRelayGen + 1 } : State).moveRelays gid serai
      ((s.group gid).relays.map fun r => { r with gen := gen })) s

/-- Place a new serai group (R148, R160, R327, R343, R345, R346; DESIGN CHOICE, log 53). -/
def State.placeNew (s : State) (k : Nat) (x : Cons) (sg : Nat) (p : Spot) : State :=
  let s := s.reclaimRelays p.serai p.relays
  let qg := sg / x.pk.s
  let gid := 2 + s.nextId
  let gen := s.freeRelayGen % 2 ^ 22
  let (ls, copyAt) := s.imageStart x p.serai
  let s : State := { s with nextId := s.nextId + 1, freeRelayGen := s.freeRelayGen + 1 }
  let s := s.seatParcels k x sg gid (p.cores.flatMap (·.2))
  let s := s.modGroup gid fun _ =>
    { Group.empty with
      cons := some k
      index := sg
      qgroup := qg
      unit := p.serai
      cores := p.cores.map (·.1)
      resident := true
      startTick := s.tick
      imageDone := x.pk.simg == 0
      copyAt := copyAt
      copyNext := 0
      copyPath := ls
      spBase := 65536 * p.sp
      spLim := 65536 * x.pk.spg
      tsBase := 32 * p.ts
      tsLim := 32 * x.pk.tsg
      nsems := x.pk.sems
      nrelays := x.pk.relays
      relays := p.relays.map fun b => Relay.fresh b gen }
  let s := ((List.range p.depots.length).zip p.depots).foldl (fun s d => s.bindDepot k x qg d) s
  let s := (((s.fixQuarter k qg p).showPhases gid).writeHandles gid)
  s.modCon k fun x => { x with state := if x.state = .accepted then .running else x.state, nextGroup := x.nextGroup + 1 }

/-! ## Saved groups return (R151, R169, R210, R328, R360) -/

/-- A result whose age is counted from cycle `t`, or at it: the time for which its context is saved is no part of it, and the cycles of
the two units add up (R36, R360; DESIGN CHOICE, log 93). -/
def Result.aged (t : Nat) (x : Result) : Result := { x with issued := t - x.issued }

/-- Times of a record counted from a cycle `t` of its unit: as they are saved, and as they are restored (R202; DESIGN CHOICE, log 93). -/
def Ctx.away (c : Ctx) (t : Nat) : Ctx :=
  { c with
    far := c.far.map fun (e : FarEntry) => { e with due := e.due - t }
    acquireAt := c.acquireAt - t
    notBefore := c.notBefore - t
    returning := c.returning.map fun r => r - t
    replay := c.replay.map (Result.aged t)
    held := c.held.map (Result.aged t)
    deferred := c.deferred.map fun d => { d with at_ := t - d.at_ }
    line := none }

/-- An operation of a context that is on its way to a phaser (R276). -/
def PhOp.ofCtx (o : PhOp) (cid : Nat) : Bool := o.cid == cid && (match o.act with | .deliver _ => false | _ => true)

/-- Base cycles that `n` cycles of a context's unit last (R4, R403). -/
def State.baseTime (s : State) (cid n : Nat) : Nat :=
  if isSerai cid then ceilDiv (160 * n) (s.clkOf (seraiOf cid)) else if isDepot cid then 2 * n else 4 * n

/-- Cycles of a context's unit that `n` base cycles last (R4, R403). -/
def State.unitTime (s : State) (cid n : Nat) : Nat :=
  if isSerai cid then ceilDiv (n * s.clkOf (seraiOf cid)) 160 else if isDepot cid then ceilDiv n 2 else ceilDiv n 4

/-- The record of a context as cycle `t` of its new unit finds it (R36, R202, R360; DESIGN CHOICE, log 93). -/
def Ctx.back (c : Ctx) (t : Nat) : Ctx :=
  { c with
    cycle0 := t
    far := c.far.map fun (e : FarEntry) => { e with due := e.due + t }
    acquireAt := c.acquireAt + t
    notBefore := c.notBefore + t
    returning := c.returning.map fun r => r + t
    replay := c.replay.map (Result.aged t)
    held := c.held.map (Result.aged t)
    finished := none
    deferred := c.deferred.map fun d => { d with at_ := t - d.at_ } }

/-- A relay-buffer slot of a saved group: what an earlier cycle of its old serai settled stays settled (R151, R161). -/
def SlotState.settled : SlotState → SlotState
  | .filled _ => .filled 0
  | .freed _ => .free
  | x => x

/-- A relay buffer as it is restored. -/
def Relay.restored (r : Relay) : Relay := { r with slots := r.slots.map SlotState.settled }

/-- The queue of a command record of context `cid`. -/
def QueueId.moved (q : QueueId) (cid : Nat) : QueueId :=
  match q with
  | .array _ => .array (seraiOf cid)
  | .tile _ => .tile (coreOf cid)
  | .copy _ => .copy (seraiOf cid)
  | .relay _ => .relay (seraiOf cid)
  | .drover d => if isSerai cid then .drover (4 * seraiOf cid + d % 4) else .drover (192 + (locOf cid - Config.depotBase))
  | .drain _ => .drain cid
  | .step _ => .step (seraiOf cid)
  | .coll _ => .coll (dieOf cid)
  | .launch _ => .launch (if isSerai cid then seraiOf cid else 48 + (locOf cid - Config.depotBase))

/-- Saved contexts of a group, by parcel. -/
def State.savedCtxs (s : State) (gid : Nat) : List (Nat × Nat) :=
  (s.ctxs.filter fun x => x.2.gid == gid && decide (savedBase ≤ x.1)).map fun x => (x.2.parcel, x.1)

/-- The number that a list of old and new numbers gives an old one. -/
def movedTo (l : List (Nat × Nat)) (q : Nat) : Option Nat := (l.find? fun x => x.1 == q).map (·.2)

/-- Stores that concern a saved group: its consignment's, and those that happen-before one of its contexts. -/
def Posted.concerns (x : Posted) (s : State) (g : Group) (cids : List Nat) : Bool :=
  (x.cons.isSome && x.cons == g.cons) || cids.any fun c => x.before s c

/-- The cores of a saved group become others.  What its releases have published in its serai or quarter is published in those of the new
cores too, its fences and the writes that others have read of it count for the new cores as for the old ones, and the completion signals
of its drains belong to the new ones (R257, R259, R263, R360; DESIGN CHOICE, log 95). -/
def State.moveCores (s : State) (gid : Nat) (l : List (Nat × Nat)) : State :=
  let g := s.group gid
  let cids := (s.savedCtxs gid).map (·.2)
  let pubs (x : Posted) : List (Nat × Nat) := x.pub.filterMap fun y =>
    if y.1 = 2 ∨ y.1 = 3 then (movedTo l y.2).map fun q => (y.1, q) else none
  let rels (r : Rel) : List Rel := match r with
    | .fence k q sc n => if cids.contains k then r :: ((movedTo l q).map fun q => Rel.fence k q sc n).toList else [r]
    | .signal h q n id => if h = gid then [.signal h ((movedTo l q).getD q) n id] else [r]
    | r => [r]
  { s with
    posted := s.posted.map fun x =>
      { x with
        pub := if x.concerns s g cids then (x.pub ++ pubs x).eraseDups else x.pub
        rel := (x.rel.flatMap rels).eraseDups }
    semWrites := s.semWrites.map fun w => if w.gid = gid then { w with core := (movedTo l w.core).getD w.core } else w
    ctxs := s.ctxs.map fun c =>
      (c.1, c.2.noteReads (c.2.reads.filterMap fun w => if cids.contains w.1 then (movedTo l w.2.1).map fun q => (w.1, q, w.2.2) else none)) }

/-- A saved record takes a context: its registers come back, its far loads are sent again and its command records are queued again
(R237, R360). -/
def State.seatSaved (s : State) (old new : Nat) : State :=
  let s := (s.vacate new).renameCtx old new
  let s := s.showTo new fun x => x.before s new
  let t := s.cycleOf new
  let s := s.modCtx new fun c => c.back t
  let s : State := { s with
    phops := s.phops.map fun (o : PhOp) => if o.ofCtx new then { o with due := t + s.unitTime new (4 * o.due - s.now) } else o }
  let s := s.modCtx new fun c => { c with far := c.far.map fun (e : FarEntry) => if e.sought || e.onWay then s.sendFar new t e else e }
  { s with
    cmds := s.cmds.map fun c =>
      if c.cid = new then
        let q := c.queue.moved new
        { c with queue := q, pushed := s.unitCycle q, hold := 0 }
      else c
    posted := s.posted.map fun (p : Posted) => 
      if p.cid = new && !p.performed then { p with due := t + s.homePath new p.id (cacheHit p.id 1) p.piece.at_ / 2, left := s.tick } else p }

/-- The command records of a group stand behind the commands already queued, in their order (R360). -/
def State.requeue (s : State) (gid : Nat) : State :=
  { s with cmds := (s.cmds.filter fun c => c.gid != gid) ++ s.cmds.filter fun c => c.gid == gid }

/-- A saved depot parcel takes a depot core (R328). -/
def State.returnDepot (s : State) (x : Cons) (gid : Nat) (d : Nat) : State :=
  let cid := Config.depotBase + d
  let s := s.moveCores gid ((s.group gid).cores.map fun q => (q, cid))
  let s := (s.savedCtxs gid).foldl (fun s c => s.seatSaved c.2 cid) (s.requeue gid)
  let i := (s.group gid).index
  let s := (s.modGroup gid fun g =>
    { g with unit := 64 + d, cores := [cid], resident := true, started := false, startTick := s.tick }).writeTable gid x.pk i
  (s.showPhases gid).raiseAll gid

/-- Place a saved serai group: on its old buffers its handles stay good (R151, R160, R166, R360; DEDUCED, log 56; DESIGN CHOICE,
log 53). -/
def State.placeSaved (s : State) (k : Nat) (x : Cons) (gid : Nat) (p : Spot) : State :=
  let g := s.group gid
  let same := g.unit = p.serai && g.relays.map (·.phys) = p.relays
  let gen := s.freeRelayGen % 2 ^ 22
  let (ls, copyAt) := s.imageStart x p.serai
  let s := if same then s else
    let s := s.moveRelays gid p.serai ((g.relays.zip p.relays).map fun b => { b.1 with phys := b.2, gen := gen })
    ({ s with freeRelayGen := s.freeRelayGen + 1 } : State).reclaimRelays p.serai p.relays
  let s := s.moveCores gid (g.cores.zip (p.cores.map (·.1)))
  let seats := p.cores.flatMap (·.2)
  let first := g.index * x.pk.c * x.pk.p
  let s := (s.savedCtxs gid).foldl (fun s c =>
    match seats[c.1 - first]? with | some new => s.seatSaved c.2 new | none => s) (s.requeue gid)
  let s := s.modGroup gid fun g =>
    { g with
      unit := p.serai
      cores := p.cores.map (·.1)
      resident := true
      started := false
      startTick := s.tick
      copyAt := copyAt
      copyNext := 0
      copyPath := ls
      spBase := 65536 * p.sp
      tsBase := 32 * p.ts
      relays := g.relays.map Relay.restored }
  let ds := (s.groups.filter fun y => y.2.cons == some k && y.2.qgroup == g.qgroup && decide (64 ≤ y.2.unit)).map (·.1)
  let s := (ds.zip p.depots).foldl (fun s d => s.returnDepot x d.1 d.2) s
  let s := (((s.fixQuarter k g.qgroup p).showPhases gid).raiseAll gid).writeHandles gid
  s.modCon k fun x => { x with saved := x.saved.filter fun y => y != gid }

/-! ## Selection (R343, R345, R353) -/

/-- The predecessor of a consignment no longer holds it back (R353). -/
def State.depMet (s : State) (x : Cons) : Bool :=
  match x.pred with
  | none => true
  | some p =>
    match s.con? p with
    | none => true
    | some y => x.pk.early && y.status != 2 && y.pk.g != 0 && decide (y.pk.allParcels ≤ y.triggered.length)

/-- A consignment offers a candidate. -/
def State.offers (s : State) (x : Cons) : Bool :=
  (x.state == .accepted || x.state == .running) && x.pk.g != 0 && (!x.saved.isEmpty || decide (x.nextGroup < x.pk.groups)) &&
    s.depMet x

/-- Place a gang, group by group in ascending index: all or none (R343). -/
def State.placeGang (s : State) (k : Nat) (x : Cons) : Nat → Nat → Option State
  | 0, _ => some s
  | n + 1, sg =>
    match s.con? k with
    | none => none
    | some y =>
      match s.spotFor y sg with
      | some p => State.placeGang (s.placeNew k y sg p) k x n (sg + 1)
      | none => none

/-- The candidate of a consignment, placed, if it fits (R343, R345). -/
def State.tryPlace (s : State) (k : Nat) : Option State :=
  match s.con? k with
  | none => none
  | some x =>
    if !s.offers x then none
    else match x.saved with
      | gid :: _ => (s.spotFor x (s.group gid).index).map fun p => s.placeSaved k x gid p
      | [] => s.placeGang k x (if x.pk.phn = 0 then 1 else x.pk.gang) x.nextGroup

/-- Effective class of a queue (R345). -/
def Queue.effective (x : Queue) : Nat := min 7 (x.cls + x.raises)

/-- Place of a queue in the round robin that starts after the one served last (R345). -/
def queueTurn (last : Option Nat) (q : Nat) : Nat := match last with | some l => (q + 8191 - l % 8192) % 8192 | none => q

/-- A candidate goes before another: higher class, earlier turn, earlier acceptance (R345). -/
def State.candBefore (s : State) (last : Option Nat) (a b : Nat × Nat) : Bool :=
  let ca := (s.queue a.1).effective
  let cb := (s.queue b.1).effective
  let ta := queueTurn last a.1
  let tb := queueTurn last b.1
  decide (cb < ca) || (ca == cb && (decide (ta < tb) || (ta == tb && decide (a.2 ≤ b.2))))

/-- Consignments of a die that offer a candidate. -/
def State.candidates (s : State) (die : Nat) : List Nat :=
  (s.cons.filter fun x => x.2.die == die && s.offers x.2).map (·.1)

/-- A selection is due (R345). -/
def State.selectionDue (s : State) (die : Nat) : Bool :=
  decide ((Table.find? s.lastSelect die).getD 0 ≠ s.tick + 1) && !(s.candidates die).isEmpty

/-- Queues that offered a fitting candidate and were not served are passed over (R345). -/
def Queue.passOver (x : Queue) : Queue :=
  if 63 ≤ x.passed then { x with passed := 0, raises := x.raises + 1 } else { x with passed := x.passed + 1 }

/-- SCHEDULER_SELECTION (R343 to R345). -/
def execSchedulerSelection (die : Nat) (s : State) : Res :=
  if !s.selectionDue die then .refused (.notEnabled "SCHEDULER_SELECTION")
  else
    let s : State := { s with lastSelect := Table.put s.lastSelect die (s.tick + 1) }
    let last := Table.find? s.lastServed die
    let fits := ((s.candidates die).filter fun k => (s.tryPlace k).isSome).map fun k =>
      ((match s.con? k with | some x => x.queue | none => 0), k)
    let best := fits.foldl (fun b c => match b with
      | none => some c
      | some x => if s.candBefore last x c then some x else some c) none
    match best with
    | none => .next s
    | some (q, k) =>
      let s := (fits.map (·.1)).eraseDups.foldl (fun s o =>
        if o = q then s else s.modQueue o Queue.passOver) ((s.tryPlace k).getD s)
      .next ({ s with lastServed := Table.put s.lastServed die q }.modQueue q fun x => { x with raises := 0 })

/-! ## The scratch image and the start of a group (R340, R346) -/

/-- Contexts of a group on the package. -/
def State.seated (s : State) (gid : Nat) : List Nat :=
  (s.ctxs.filter fun x => x.2.gid == gid && decide (x.1 < 1024)).map (·.1)

/-- A context of the group is parked by a fault before its first bundle. -/
def State.heldBack (s : State) (gid : Nat) : Bool :=
  (s.seated gid).any fun c => (s.ctx c).status == .starting && (s.ctx c).parked.isSome

/-- The next chunk of a group's image, or the end of the copy, is due (R346; DEDUCED, log 25). -/
def State.imageDue (s : State) (gid : Nat) : Bool :=
  let g := s.group gid
  g.resident && !g.imageDone && decide (g.copyAt ≤ s.cycleOf (16 * g.unit)) && !s.heldBack gid

/-- A failing read before a group's first bundle (R340, R346). -/
def State.startFails (s : State) (gid cid : Nat) (e : DFail) : Res :=
  match e with
  | .absent va l _ => .next (s.takeFault cid 5 (BitVec.ofNat 64 va) l)
  | _ => .next (match (s.group gid).cons with | some k => s.killCon k 4 8 | none => s)

/-- A chunk of the scratch image is written; the next one comes after this one's work, and later where this one's home is further away than
any before (R299, R346; DEDUCED, log 25). -/
def State.copyChunk (s : State) (gid : Nat) (x : Cons) (b : List Byte) : State :=
  let g := s.group gid
  let k := g.copyNext
  let R := 20480 / s.clkOf g.unit
  let work (e : Nat) : Nat := ceilDiv (min (4096 * e) x.imageBytes) R
  let path := if k = 0 then g.copyPath else s.imagePath x g.unit k
  let main := x.pk.slen - 4096 * k
  let s := (s.padWrite gid false (4096 * k) (b.take main)).padWrite gid true (4096 * k - x.pk.slen) (b.drop main)
  s.modGroup gid fun g =>
    { g with
      copyNext := k + 1
      copyPath := max g.copyPath path
      copyAt := g.copyAt + (work (k + 1) - work k) + (path - g.copyPath) }

/-- SCRATCH_IMAGE_COPY_DONE: the copy comes to its next chunk, or to its end (R148, R299, R346; DEDUCED, log 25). -/
def execScratchImageCopyDone (gid : Nat) (s : State) : Res :=
  if !s.imageDue gid then .refused (.notEnabled "SCRATCH_IMAGE_COPY_DONE")
  else
    match (match (s.group gid).cons with | some k => s.con? k | none => none) with
    | none => .refused (.notEnabled "SCRATCH_IMAGE_COPY_DONE")
    | some x =>
      let k := (s.group gid).copyNext
      if x.imageBytes ≤ 4096 * k then .next (s.modGroup gid fun g => { g with imageDone := true })
      else match s.asidRead x.die x.asid (x.imageChunk k) (min 4096 (x.imageBytes - 4096 * k)) with
        | .error e => s.startFails gid ((s.seated gid).headD 0) e
        | .ok b => .next (s.copyChunk gid x b)

/-- Address of a parcel's argument record; `none` where there is none (R340; DEDUCED, log 50). -/
def Cons.recordAt (x : Cons) (n : Nat) : Option Nat :=
  if x.pk.args = 0 || x.pk.parcels ≤ n then none
  else
    let base := if x.pk.args.getLsbD 63 then x.params + x.pk.args.toNat % 2 ^ 63 else x.pk.args.toNat
    some (wrap64 (base + n * x.pk.argStride))

/-- Registers that masks preset. -/
def presetRegs (smask amask : Nat) : List (Bool × Nat) :=
  (((List.range 63).map (· + 1)).filter fun k => smask.testBit k).map (fun k => (true, k)) ++
    (((List.range 31).map (· + 1)).filter fun k => amask.testBit k).map (fun k => (false, k))

/-- A parcel takes the values of its record (R340). -/
def Ctx.preset (c : Ctx) (ssp : Nat) (vals : List ((Bool × Nat) × Nat)) : Ctx :=
  vals.foldl (fun c v =>
    if v.1.1 then { c with s := c.s.set v.1.2 (BitVec.ofNat 64 v.2) } else { c with a := c.a.set v.1.2 (BitVec.ofNat 64 v.2) })
    { c with regs := { c.regs with ssp := BitVec.ofNat 64 ssp &&& 0x01FFFFFFFFFFFFF8#64 } }

/-- Read the argument record of a context (R340). -/
def State.argsOf (s : State) (x : Cons) (cid : Nat) : Except DFail Ctx :=
  let c := s.ctx cid
  match x.recordAt c.parcel with
  | none => .ok c
  | some a =>
    match s.asidRead x.die x.asid a 24 with
    | .error e => .error e
    | .ok h =>
      let regs := presetRegs (dnum h 0 8) (dnum h 8 4)
      match s.asidRead x.die x.asid (wrap64 (a + 24)) (8 * regs.length) with
      | .error e => .error e
      | .ok v => .ok (c.preset (dnum h 16 8) ((List.range regs.length).zip regs |>.map fun r => (r.2, dnum v (8 * r.1) 8)))

/-- Read every argument record of a group: the contexts as they start, or the first that fails. -/
def State.argsAll (s : State) (x : Cons) : List Nat → Except (Nat × DFail) (List (Nat × Ctx))
  | [] => .ok []
  | c :: rest =>
    if (s.ctx c).status ≠ .starting then State.argsAll s x rest
    else match s.argsOf x c with
      | .error e => .error (c, e)
      | .ok y => match State.argsAll s x rest with
        | .ok l => .ok ((c, y) :: l)
        | .error e => .error e

/-- A placed group starts now (R346; DEDUCED, log 56). -/
def State.startDue (s : State) (gid : Nat) : Bool :=
  let g := s.group gid
  g.resident && !g.started && g.cons.isSome && g.imageDone && decide (g.startTick + 4 ≤ s.tick) && !s.heldBack gid &&
    (match g.cons with | some k => (match s.con? k with | some x => x.state == .running | none => false) | none => false)

/-- A parcel starts, or comes back from a suspend. -/
def State.startCtx (s : State) (cid : Nat) : State :=
  let t := s.firstCycle cid
  let s := s.modCtx cid fun c =>
    if c.status = .starting then
      { c with status := .ready, frozen := false, cycle0 := t, cycles := 0, notBefore := t, line := none }
    else { c with frozen := false, cycle0 := t, notBefore := max t c.notBefore, line := none }
  if (s.ctx cid).status = .ready && (s.ctx cid).parked.isNone then s.askAgain cid else s

/-- What happened-before the `ltrig` commands of its predecessor happens-before a parcel's start (R257, R353). -/
def State.acquireTrigger (s : State) (cid k : Nat) : State :=
  s.acquire cid fun x => x.rel.any fun r => match r with | .trigger j => j == k | _ => false

/-- GROUP_START (R81, R257, R340, R346, R360). -/
def execGroupStart (gid : Nat) (s : State) : Res :=
  if !s.startDue gid then .refused (.notEnabled "GROUP_START")
  else
    match (match (s.group gid).cons with | some k => s.con? k | none => none) with
    | none => .refused (.notEnabled "GROUP_START")
    | some x =>
      match s.argsAll x (s.seated gid) with
      | .error (c, e) => s.startFails gid c e
      | .ok l =>
        let s := l.foldl (fun s c => s.setCtx c.1 c.2) s
        let s := match x.pred with
          | some k => (s.seated gid).foldl (fun (s : State) c => s.acquireTrigger c k) s
          | none => s
        .next ((s.seated gid).foldl (fun s c => s.startCtx c) (s.modGroup gid fun g => { g with started := true }))

end Sys2Proof.Machine
end

