-- ==== Sys2Proof/Machine/Suspend.lean ====
section
/-! DEFINITION. Pre-emption, and the return of parked and stopped contexts: PREEMPT, the freeze of a context, the save of a
consignment, RESUME, TRESUME and the rejoins (R107, R114, R183, R222, R248, R250, R300, R320, R328, R357 to R362, R367, R371). -/

namespace Sys2Proof.Machine

open Sys2Proof

/-! ## PREEMPT (R357, R358, R360 to R362) -/

/-- Accepted consignments that a queue and a sequence number name; a replay's name all of its consignments (R342, R357). -/
def State.victims (s : State) (queue seq : Nat) (p : Cons → Bool) : List Nat :=
  (s.cons.filter fun x => x.2.queue == queue && x.2.seq == seq && x.2.status != 2 && p x.2).map (·.1)

/-- An action on some consignments is under way (R357, R371): 1 a suspend, 2 a kill, 3 an abort. -/
def State.actionBegins (s : State) (ks : List Nat) (op : Nat) : State :=
  s.modPk fun p => { p with prBusy := p.prBusy ++ ks.map fun k => (k, op) }

/-- A consignment that can be suspended. -/
def Cons.canSuspend (x : Cons) : Bool :=
  x.pk.g != 0 && (x.state == .accepted || x.state == .running || x.state == .draining)

/-- A consignment as a suspend finds it: it is to be suspended, or, while an earlier suspend settles, it stays so in spite of a release
written between the two (R358, R362). -/
def Cons.suspend (x : Cons) (tick : Nat) : Cons :=
  if x.canSuspend then { x with state := .suspending, asked := tick } else { x with releaseAfter := false }

/-- PREEMPT_SUSPEND (R358, R362; DEDUCED, log 37). -/
def execPreemptSuspend (queue seq : Nat) (s : State) : Res :=
  let ks := s.victims queue seq fun x => x.canSuspend || x.state == .suspending
  .next ((ks.foldl (fun s k => s.modCon k fun x => x.suspend s.tick) s).actionBegins ks 1)

/-- PREEMPT_KILL (R361, R362; DEDUCED, log 37). -/
def execPreemptKill (queue seq : Nat) (s : State) : Res :=
  let ks := s.victims queue seq fun x => x.state != .completing && x.state != .complete && x.state != .killing
  .next ((ks.foldl (fun s k => s.killCon k 3 0) s).actionBegins ks 2)

/-- A suspended consignment is released: its saved groups are candidates again, and its watchdog counts on (R352, R353, R360). -/
def State.release (s : State) (k : Nat) : State :=
  s.modCon k fun x =>
    { x with
      state := if x.nextGroup = 0 then .accepted else if x.saved.isEmpty && x.halted = x.pk.allParcels then .draining else .running
      watch := s.tick - x.watch
      releaseAfter := false }

/-- PREEMPT_RELEASE (R360, R362). -/
def execPreemptRelease (queue seq : Nat) (s : State) : Res :=
  let now := s.victims queue seq fun x => x.state == .suspended
  let later := s.victims queue seq fun x => x.state == .suspending
  let s := now.foldl (fun s k => s.release k) s
  .next (later.foldl (fun s k => s.modCon k fun x => { x with releaseAfter := true }) s)

/-! ## Freezing and saving (R114, R358, R359) -/

/-- A context that a suspend freezes at its bundle boundary, before its core asks it in the cycle (R358; DEDUCED, log 37). -/
def State.freezeDue (s : State) (cid : Nat) : Bool :=
  let c := s.ctx cid
  !c.frozen && s.untried (coreOf cid) && c.status != .idle && c.status != .halted && decide (cid < savedBase) &&
    (match c.cons with
     | some k => (match s.con? k with | some x => x.state == .suspending | none => false)
     | none => false)

/-- A context as it freezes in a cycle: what is pending goes to the replay buffer (R87, R358). -/
def Ctx.freeze (c : Ctx) (cycle : Nat) : Ctx :=
  { c.pendToReplay cycle with
    frozen := true
    waitSince := none
    holdSince := none
    walk := none
    fetchWalk := none
    fillWalk := none
    line := none
    cycles := if c.parked.isSome || c.status == .starting then c.cycles else c.cycles + (cycle - c.cycle0)
    cycle0 := cycle }

/-- CONTEXT_FREEZE (R183, R358; DEDUCED, log 37). -/
def execContextFreeze (cid : Nat) (s : State) : Res :=
  if !s.freezeDue cid then .refused (.notEnabled "CONTEXT_FREEZE")
  else
    let cycle := s.cycleOf cid
    let s := (s.endLease cid true).modCtx cid fun c => c.freeze cycle
    .next (s.modCore (coreOf cid) fun k => if k.holder = some cid then { k with holder := none } else k)

/-- The save of a consignment can end: every context is frozen and the engines have settled (R358). -/
def State.saveDue (s : State) (k : Nat) : Bool :=
  match s.con? k with
  | some x =>
    x.state == .suspending && s.settled k &&
      s.ctxs.all fun c => c.2.cons != some k || c.2.frozen || c.2.status == .halted || c.2.status == .idle
  | none => false

/-- The tail of a record: the wait of a command that has started is over (R65, R222, R282, R300; DEDUCED, log 57). -/
def Cmd.recordTail (c : Cmd) : BitVec 24 := if c.start.isSome then c.tail &&& ~~~(0x00FC00#24) else c.tail

/-- The work that a record still counts as done: a copy resumes at the first row that is not whole (R222; DEDUCED, log 57). -/
def Cmd.recordWork (c : Cmd) : Nat :=
  match c.op.copy? with
  | some k => c.work / max 1 k.rowBeats * k.rowBeats
  | none => c.work

/-- A command as a record (R222, R300, R320; DEDUCED, log 57). -/
def Cmd.asRecord (c : Cmd) : Cmd :=
  { c with
    tail := c.recordTail
    work := c.recordWork
    start := none
    updating := false
    due := 0
    hold := 0
    reached := 0
    aux := match c.op with | .step _ _ _ _ => 0 | _ => c.aux
    op := match c.op with
      | .drover k d f => .drover k d (if c.start.isSome then c.work else f)
      | op => op
    queue := match c.queue with
      | .array _ => .array savedBase
      | .tile _ => .tile savedBase
      | .copy _ => .copy savedBase
      | .relay _ => .relay savedBase
      | .drover d => .drover (savedBase + (if d < 192 then d % 4 else 0))
      | .step _ => .step savedBase
      | .launch _ => .launch savedBase
      | q => q }

/-- Save the record of a context under a number of its own. -/
def State.saveCtx (s : State) (cid : Nat) : State :=
  let t := s.cycleOf cid
  let s := (s.leaveCore cid).modCtx cid fun c => c.away t
  let s : State := { s with
    cmds := s.cmds.map fun (c : Cmd) => if c.cid = cid then c.asRecord else c
    posted := s.posted.map fun (p : Posted) => if p.cid = cid then { p with wait := 0 } else p
    phops := s.phops.map fun (o : PhOp) => if o.ofCtx cid then { o with due := ceilDiv (s.now + s.baseTime cid (o.due - t)) 4 } else o }
  { s.renameCtx cid (savedBase + s.nextId) with nextId := s.nextId + 1 }

/-- SUSPEND_SAVE_COMPLETE: contexts, engine records and groups are saved, and the quarters are free again (R358 to R360). -/
def execSuspendSaveComplete (cons : Nat) (s : State) : Res :=
  if !s.saveDue cons then .refused (.notEnabled "SUSPEND_SAVE_COMPLETE")
  else
    let cids := (s.ctxs.filter fun x => x.2.cons == some cons && decide (x.1 < savedBase)).map (·.1)
    let gids := (s.groups.filter fun g => g.2.cons == some cons && g.2.resident).map (·.1)
    let s := cids.foldl (fun s c => s.saveCtx c) s
    let s := gids.foldl (fun s g => s.modGroup g fun x => { x with resident := false }) s
    let s := gids.foldl (fun s g => if (s.group g).unit < 64 then s.writeHandles g else s) s
    let order := (gids.filter fun g => decide ((s.group g).unit < 64)).mergeSort fun a b =>
      decide ((s.group a).index ≤ (s.group b).index)
    let again := match s.con? cons with | some x => x.releaseAfter | none => false
    let s := s.modCon cons fun x =>
      { x with state := .suspended, saved := x.saved ++ order, bound := [], watch := s.tick - x.watch }
    let s := s.modPk fun p => { p with prBusy := p.prBusy.filter fun x => x != (cons, 1) }
    .next (if again then s.release cons else s)

/-! ## RESUME (R250) -/

/-- The tick of a rejoin: within 64 ticks, and not before an earlier one (R250, R371; DEDUCED, log 10). -/
def State.rejoinTick (s : State) : Nat :=
  (s.rejoins.map (·.at_)).foldl max (s.tick + Config.rejoinDelay s.nextId % 65)

/-- A context's rejoin is noted (DEDUCED, log 10). -/
def State.noteRejoin (s : State) (cid : Nat) (trap : Bool) : State :=
  { s with nextId := s.nextId + 1, rejoins := s.rejoins ++ [⟨cid, s.rejoinTick, trap⟩] }

/-- Contexts parked on a number of an address space whose group no earlier write has resumed (R250). -/
def State.parkedOn (s : State) (seq asid : Nat) : List Nat :=
  let on (c : Ctx) : Bool := c.parked == some seq && c.asid == asid
  let noted (gid : Nat) : Bool := s.rejoins.any fun r => !r.trap && on (s.ctx r.cid) && (s.ctx r.cid).gid == gid
  (s.ctxs.filter fun x => on x.2 && !noted x.2.gid).map (·.1)

/-- RESUME: FAULTED entries ask again, and the group parked on the number is to rejoin (R250). -/
def execResume (seq asid : Nat) (s : State) : Res :=
  let s := (s.ctxs.filter fun x => x.2.asid == asid).foldl (fun s x => s.resendFar x.1 seq) s
  .next (match s.parkedOn seq asid with
    | [] => s
    | c :: _ => s.noteRejoin c false)

/-- The first rejoin of a kind that is due. -/
def State.rejoinDue (s : State) (cid : Nat) (trap : Bool) : Bool :=
  s.rejoins.any fun r => r.cid == cid && r.trap == trap && decide (r.at_ ≤ s.tick) &&
    (!trap || ((s.ctx cid).parked.isNone && !(s.ctx cid).frozen && decide (cid < savedBase)))

/-- A rejoin is done. -/
def State.dropRejoin (s : State) (cid : Nat) (trap : Bool) : State :=
  { s with rejoins := s.rejoins.filter fun r => !(r.cid == cid && r.trap == trap) }

/-- A parked context rejoins: it asks for the lease it held, and its count of cycles goes on (R83, R183, R250). -/
def State.unpark (s : State) (cid : Nat) : State :=
  let t := s.cycleOf cid
  let s := s.modCtx cid fun c => { c with parked := none, cycle0 := t, line := none }
  if (s.ctx cid).status = .ready && !(s.ctx cid).frozen then s.askAgain cid else s

/-- GROUP_REJOIN: the group of a context rejoins at its restart bundles (R248, R250). -/
def execGroupRejoin (cid : Nat) (s : State) : Res :=
  if !s.rejoinDue cid false then .refused (.notEnabled "GROUP_REJOIN")
  else
    let c := s.ctx cid
    let group := (s.ctxs.filter fun x => x.2.parked == c.parked && x.2.parked.isSome && x.2.asid == c.asid && x.2.gid == c.gid).map (·.1)
    .next ((group.foldl (fun s k => s.unpark k) s).dropRejoin cid false)

/-! ## TRESUME (R367, R371) -/

/-- TRESUME_RESUME (R371). -/
def execTresumeResume (unit who asid : Nat) (s : State) : Res :=
  match s.stoppedAt unit who asid with
  | some cid =>
    if s.rejoins.any fun r => r.cid == cid && r.trap then .next s else .next (s.noteRejoin cid true)
  | none => .next s

/-- TRESUME_ABORT: BUSY reads 1 until the kill is complete (R371). -/
def execTresumeAbort (unit who asid : Nat) (s : State) : Res :=
  match s.stoppedAt unit who asid with
  | some cid =>
    (match (s.ctx cid).cons with
     | some k => .next ((s.killCon k 4 ((s.ctx cid).regs.tcause.toNat % 256)).actionBegins [k] 3)
     | none => .next s)
  | none => .next s

/-- A stopped context proceeds: as by `eret`, or, stopped inside its handler, at TEPC with INH still 1 (R367, R371). -/
def Ctx.proceed (c : Ctx) (cycle : Nat) : Ctx :=
  let c := { c with status := .ready, line := none }
  if c.regs.inh then { c with pc := c.regs.tepc } else c.leaveHandler cycle

/-- CONTEXT_REJOIN (R371). -/
def execContextRejoin (cid : Nat) (s : State) : Res :=
  if !s.rejoinDue cid true || (s.ctx cid).status ≠ .stopped then .refused (.notEnabled "CONTEXT_REJOIN")
  else
    let t := s.cycleOf cid
    let s := (s.dropRejoin cid true).modCtx cid fun c => c.proceed t
    .next (s.askAgain cid)

end Sys2Proof.Machine
end

