-- ==== Sys2Proof/Machine/Power.lean ====
section
/-! DEFINITION. Power metering, overdraw, and the clock and throttle registers (R347 to R350, R378 to R380). -/

namespace Sys2Proof.Machine

open Sys2Proof

/-! ## Intervals and windows (R347, R349, R350) -/

/-- Energy that a serai drew in an interval: its ten windows (R349, R350). -/
def intervalEnergy (serai i : Nat) : Nat :=
  ((List.range 10).map fun w => Config.energyOf serai (10 * i + w)).foldl (· + ·) 0

/-- An interval of 1,000 ticks begins (R347). -/
def State.intervalBegins (s : State) : Bool := decide (s.tick / 1000 ≠ s.lastPower / 1000)

/-- The energy of a serai in the past interval is charged to its resident groups by their declarations (R350). -/
def State.charge (s : State) (serai i : Nat) : State :=
  let total := s.sumOn serai Packet.groupEnergy
  (s.groupsOn serai).foldl (fun s g =>
    match g.2.cons, s.packetOf g.2 with
    | some k, some p => s.modCon k fun x => { x with energy := x.energy + intervalEnergy serai i * p.groupEnergy / total }
    | _, _ => s) s

/-- POWER_INTERVAL: EU is fixed for the interval, and the past one is charged (R347, R350; DESIGN CHOICE, log 11). -/
def execPowerInterval (s : State) : Res :=
  if !s.intervalBegins then .refused (.notEnabled "POWER_INTERVAL")
  else
    let i := s.tick / 1000 - 1
    .next ((List.range 48).foldl (fun s k => s.charge k i) { s with lastPower := s.tick })

/-- A window of 100 ticks ends (R349). -/
def State.windowEnds (s : State) : Bool := decide (s.tick / 100 ≠ s.lastWindow / 100)

/-- A serai overdraws in a window (R349; DEDUCED, log 59). -/
def State.overdraws (s : State) (serai w : Nat) : Bool :=
  decide (s.sumOn serai Packet.groupEnergy < 10 * Config.energyOf serai w) ||
    decide (s.sumOn serai (·.current) < Config.peakOf serai w)

/-- Consignments with a group on a serai. -/
def State.consOn (s : State) (serai : Nat) : List Nat := ((s.groupsOn serai).filterMap fun g => g.2.cons).eraseDups

/-- The overdraw cap of a serai falls by 25 MHz, down to 400 MHz, and each consignment there counts it (R349; DEDUCED, log
59). -/
def State.lowerCap (s : State) (serai : Nat) : State :=
  let cap := capOf (s.serai serai).ocap
  let s := s.modSerai serai fun k => { k with ocap := max 16 (cap - 1), overdrawn := s.tick }
  if cap ≤ 16 then s else (s.consOn serai).foldl (fun s k => s.modCon k fun x => { x with overdraw := x.overdraw + 1 }) s

/-- OVERDRAW_WINDOW (R349; DESIGN CHOICE, log 11; DEDUCED, log 59). -/
def execOverdrawWindow (s : State) : Res :=
  if !s.windowEnds then .refused (.notEnabled "OVERDRAW_WINDOW")
  else
    let w := s.tick / 100 - 1
    let s : State := { s with lastWindow := s.tick }
    let active := (List.range 48).filter s.active
    let s := ((List.range 48).filter fun k => s.overdraws k w).foldl (fun s k => s.lowerCap k) s
    let s := if 2000000 < Config.packageEnergy w then active.foldl (fun s k => s.lowerCap k) s else s
    .next s.lowerClocks

/-- The overdraw cap of a serai rises (R349). -/
def State.capRises (s : State) (serai : Nat) : Bool :=
  (s.serai serai).ocap != 0 && decide ((s.serai serai).overdrawn + 25000 ≤ s.tick)

/-- OVERDRAW_CAP_RISE: the cap rises 25 MHz, and a clock that it held rises with it (R349, R378). -/
def execOverdrawCapRise (serai : Nat) (s : State) : Res :=
  if !s.capRises serai then .refused (.notEnabled "OVERDRAW_CAP_RISE")
  else
    let cap := (s.serai serai).ocap
    let held := (s.serai serai).clk = cap
    let s := s.modSerai serai fun k => { k with ocap := if 159 ≤ cap then 0 else cap + 1, overdrawn := s.tick }
    .next (if held && cap < s.wantClk serai then s.setClk serai (cap + 1) else s)

/-- A held increase of a serai's clock takes effect (R378). -/
def State.clockRises (s : State) (serai : Nat) : Bool :=
  decide ((s.serai serai).clk < s.wantClk serai) &&
    (match (s.serai serai).changed with | some t => decide (t + 25000 ≤ s.tick) | none => true)

/-- CLOCK_RAISE (R378). -/
def execClockRaise (serai : Nat) (s : State) : Res :=
  if s.clockRises serai then .next (s.setClk serai (s.wantClk serai)) else .refused (.notEnabled "CLOCK_RAISE")

/-! ## FLLSET and THROTTLE (R379, R380) -/

/-- FLLSET_WRITE (R378, R379). -/
def execFllsetWrite (value : Word) (s : State) : Res :=
  .next (s.modPk fun p => { p with target := max 16 (min 160 (bitsOf value.toNat 0 8)) }).lowerClocks

/-- THROTTLE_WRITE (R380). -/
def execThrottleWrite (value : Word) (s : State) : Res :=
  .next ((List.range 48).foldl (fun s k =>
    if (s.serai k).level = bitsOf value.toNat 0 3 then s
    else s.modSerai k fun x => { x with level := bitsOf value.toNat 0 3 }) s)

end Sys2Proof.Machine
end

