-- ==== Sys2Proof/Machine/Package.lean ====
section
/-! DEFINITION. Package registers, hardware errors, temperature monitors, link training and interrupts (R124, R228, R372 to R377,
R392, R393, R402, R406, R407, R410, R415, R416). -/

namespace Sys2Proof.Machine

open Sys2Proof

/-! ## Registers (R124, R228, R332, R374, R381, R392, R394, R406, R407, R415, R416) -/

/-- ERRCNT_WRITE (R374). -/
def execErrcntWrite (value : Word) (s : State) : Res := .next (s.modPk fun p => PkgRegs.written { p with errcnt := value } 0x817)

/-- ERRCNT2_WRITE (R416). -/
def execErrcnt2Write (value : Word) (s : State) : Res :=
  .next (s.modPk fun p => PkgRegs.written { p with errcnt2 := value &&& 0x0000FFFFFFFFFFFF#64 } 0x818)

/-- MERR_CLEAR: a STOP bit written 1 is cleared (R415). -/
def execMerrClear (value : Word) (s : State) : Res :=
  .next (s.modPk fun p => PkgRegs.written { p with merr := p.merr &&& ~~~(value &&& 3#64) } 0x833)

/-- QPART_WRITE: ignored and counted while a queue is not CLOSED (R407). -/
def execQpartWrite (value : Word) (s : State) : Res :=
  if s.queues.any fun q => q.2.st != .closed then .next (s.tally 0x818 32 1)
  else .next (s.modPk fun p => { p with split := max 1 (bitsOf value.toNat 0 7) })

/-- PWIN_WRITE (R406). -/
def execPwinWrite (value : Word) (s : State) : Res := .next (s.modPk fun p => { p with pwin := value })

/-- Bits `hi` down to `lo` of a written value. -/
def keepBits (hi lo : Nat) (v : Word) : Word := v &&& BitVec.ofNat 64 (2 ^ (hi + 1) - 2 ^ lo)

/-- CONTROL_REGISTER_WRITE: the registers that only store what is written (R228, R332, R381, R392, R394). -/
def execControlRegisterWrite (index : Nat) (value : Word) (s : State) : Res :=
  let f (lo len : Nat) : Nat := bitsOf value.toNat lo len
  .next (match index with
    | 0x303 => if s.pace.mstate = 0 then s.modPace fun p => { p with cvn := f 12 16 } else s
    | 0x812 => s.modPk fun p => { p with astab := keepBits 51 7 value }
    | 0x813 => s.modPk fun p => { p with tollbase := keepBits 51 16 value }
    | 0x814 => s.modPk fun p => { p with qtab := keepBits 51 6 value }
    | 0x819 => s.modPk fun p => { p with coltab := keepBits 51 14 value }
    | 0x81A => s.modPk fun p => { p with cvtab := keepBits 51 6 value }
    | n =>
      if 0x820 ≤ n && n ≤ 0x829 then
        s.modTmon (n - 0x820) fun t => { t with thr := f 9 9, hyst := f 18 5, aen := value.getLsbD 24, sem := f 25 6 }
      else s)

/-! ## Hardware errors (R372, R374, R416) -/

/-- CORRECTABLE_ERROR: corrected in place and counted (R372, R374; DEDUCED, log 45). -/
def execCorrectableError (hbm : Bool) (times : Nat) (s : State) : Res :=
  .next (s.tally 0x817 (if hbm then 16 else 0) times)

/-- Place of the first byte of a stored run of the step cache. -/
def State.runPlace (s : State) (die entry : Nat) : Option Place :=
  match (s.dir die)[entry]? with
  | some e =>
    (match s.con? e.owner with
     | some x =>
       (match s.asidRange die x.asid false (wrap64 (s.runVa e.owner e.unit)) 1 with
        | .ok ((p, _) :: _) => if p.mt = 0 then some (.memory p.addr) else none
        | _ => none)
     | none => none)
  | none => none

/-- An element is poisoned (R372, R373). -/
def State.poisonPlace (s : State) (p : Place) : State :=
  match p with
  | .line c => s.modCtx c fun x => { x with line := x.line.map fun l => (l.1, .poisoned) }
  | .farEntry c e => s.modFar c e fun x => { x with data := .poisoned }
  | .stepData d e =>
    (match s.runPlace d e with
     | some q => if s.poison.contains q then s else { s with poison := s.poison ++ [q] }
     | none => s)
  | q => if s.poison.contains q then s else { s with poison := s.poison ++ [q] }

/-- UNCORRECTABLE_ERROR (R372 to R374; DEDUCED, log 45). -/
def execUncorrectableError (place : Place) (s : State) : Res :=
  .next ((s.poisonPlace place).tally 0x817 32 1)

/-- PCIE_CORRECTABLE_ERROR (R416). -/
def execPcieCorrectableError (_port : Nat) (s : State) : Res :=
  .next (s.tally 0x818 16 1)

/-! ## Temperature (R392, R393, R402) -/

/-- A condition with threshold `x` and hysteresis `h` after a sample: set at or above the threshold, cleared by a sample at or
below the lower bound once the condition has held for 100,000 ticks.  `since` is the tick in which it set (R393). -/
def sampled (set : Bool) (since : Option Nat) (temp x h tick : Nat) : Bool × Option Nat :=
  if !set then (if x ≤ temp then (true, some tick) else (false, none))
  else if decide (temp + h ≤ x) && decide (since.getD tick + 100000 ≤ tick) then (false, none)
  else (true, some (since.getD tick))

/-- The tick in which condition `i` of a monitor set. -/
def Tmon.since (t : Tmon) (i : Nat) : Option Nat := Table.find? t.sinceSet i

/-- Note since when a condition holds. -/
def Tmon.note (t : Tmon) (i : Nat) (v : Option Nat) : Tmon :=
  { t with sinceSet := match v with | some x => Table.put t.sinceSet i x | none => Table.drop t.sinceSet i }

/-- A sample of a monitor: TEMP and ALERT (R393). -/
def Tmon.sample (t : Tmon) (temp tick : Nat) : Tmon :=
  let t := { t with temp := temp % 512 }
  let (a, v) := sampled t.alert (t.since 0) t.temp t.thr (2 * t.hyst) tick
  ({ t with alert := a } : Tmon).note 0 v

/-- The steps of an HBM stack: HREF at 85 °C and 95 °C, HCAP at 95 °C and 105 °C, with 5 °C of hysteresis (R393). -/
def Tmon.steps (t : Tmon) (tick : Nat) : Tmon :=
  let (r1, v1) := sampled (decide (1 ≤ t.href)) (t.since 1) t.temp 170 10 tick
  let (r2, v2) := sampled (decide (2 ≤ t.href)) (t.since 2) t.temp 190 10 tick
  let (c1, v3) := sampled (decide (1 ≤ t.hcap)) (t.since 3) t.temp 190 10 tick
  let (c2, v4) := sampled (decide (2 ≤ t.hcap)) (t.since 4) t.temp 210 10 tick
  let step (a b : Bool) : Nat := if b then 2 else if a then 1 else 0
  ((((({ t with href := step r1 r2, hcap := step c1 c2 } : Tmon).note 1 v1).note 2 v2).note 3 v3).note 4 v4)

/-- A rising ALERT with AEN adds 1 to a semaphore of the outrider of die 0 (R392, R402). -/
def State.alertRises (s : State) (i : Nat) (old : Bool) : State :=
  let t := s.tmon i
  if t.alert && !old && t.aen then s.semChange 0 Config.outriderBase t.sem 1 else s

/-- TEMP_SAMPLE (R393). -/
def execTempSample (die temp : Nat) (s : State) : Res :=
  if 2 ≤ die then .next s
  else .next ((s.modTmon die fun t => t.sample temp s.tick).alertRises die (s.tmon die).alert)

/-- HBM_TEMP_SAMPLE (R393). -/
def execHbmTempSample (stack temp : Nat) (s : State) : Res :=
  if 8 ≤ stack then .next s
  else
    .next ((s.modTmon (2 + stack) fun t => (t.sample temp s.tick).steps s.tick).alertRises (2 + stack) (s.tmon (2 + stack)).alert)

/-! ## Link training (R375, R376) -/

/-- LINK_TRAINING: the fabric assigns the package id, and TICK takes the domain time, once (R375, R376; DESIGN CHOICE, log
3). -/
def execLinkTraining (pkg tick : Nat) (s : State) : Res :=
  if s.pk.trained then .next s
  else
    .next ({ s with tick := tick, lastPower := tick, lastWindow := tick, lastRound := tick / 100000, lastBeat := tick / 20000,
                    pk := { s.pk with trained := true } }.modPace fun p => { p with pkg := pkg % 4096 })

/-! ## Interrupts (R410) -/

/-- Number of a vector of a port. -/
def vectorKey (port vector : Nat) : Nat := 3 * port + vector

/-- A port may send messages: its configuration space has MSI-X and the bus master enabled (R408, R410; PRESUMED, log 6). -/
def State.msixOn (s : State) (port : Nat) : Bool := s.pk.msixEn.getD port false && s.pk.busEn.getD port false

/-- Ticks since power-on: domain time jumps at link training, the gap between two messages does not (R376, R410). -/
def State.upTicks (s : State) : Nat := s.now / Config.baseCyclesPerTick

/-- A message of a vector may be sent: a condition stands, and 10 ticks have passed since the last (R410). -/
def State.msixReady (s : State) (port vector : Nat) : Bool :=
  s.pk.msixDue.contains (port, vector) && s.msixOn port &&
    (match Table.find? s.pk.msixLast (vectorKey port vector) with | some t => decide (t + 10 ≤ s.upTicks) | none => true)

/-- MSIX_MESSAGE (R410). -/
def execMsixMessage (port vector : Nat) (s : State) : Res :=
  if !s.msixReady port vector then .refused (.notEnabled "MSIX_MESSAGE")
  else
    .next ((s.modPk fun p =>
      { p with
        msixDue := p.msixDue.filter fun x => x != (port, vector)
        msixLast := Table.put p.msixLast (vectorKey port vector) s.upTicks }).send (.interrupt port vector))

end Sys2Proof.Machine
end

