-- ==== Sys2Proof/Machine/HostPort.lean ====
section
/-! DEFINITION. The host ports, the boot ROM and attestation (R404 to R414, R417, R418). -/

namespace Sys2Proof.Machine

open Sys2Proof

/-! ## BAR0 (R404, R413) -/

/-- Register index at a BAR0 offset. -/
def barIndex (offset : Nat) : Nat := 0x800 + offset / 8

/-- A register that BAR0 serves now: in recovery BOOT, MERR and ERRCNT2 only (R413). -/
def State.barReg (s : State) (offset : Nat) : Option Word :=
  let i := barIndex offset
  if 0x800 ≤ offset then none
  else if s.pk.bootState = 2 && i != 0x832 && i != 0x833 && i != 0x818 then none
  else s.pkgReg i

/-- A port answers memory accesses: its configuration space has memory enabled (R408; PRESUMED, log 6). -/
def State.barOn (s : State) (port : Nat) : Bool := s.pk.memEn.getD port false

/-- HOST_BAR0_ACCESS (R404, R405, R408, R413). -/
def execHostBar0Access (access : HostAccess) (s : State) : Res :=
  if !s.barOn access.port || access.atomic || access.size ≠ 8 || access.offset % 8 ≠ 0 || 2 ^ 20 ≤ access.offset then
    .next (if access.write && !access.atomic then s else s.send (.unsupported access.port))
  else if access.write then
    match s.barReg access.offset with
    | some _ =>
      .next { s with inputs := regEvents (barIndex access.offset) (BitVec.ofNat 64 (leNat (access.data.take 8))) ++ s.inputs }
    | none => .next s
  else .next (s.send (.completion access.port (natLe 8 ((s.barReg access.offset).getD 0).toNat)))

/-! ## BAR2 (R332, R333, R405, R406, R413) -/

/-- Window of a port: base and size in bytes, as PWIN stood when the cycle began (R406). -/
def State.window (s : State) (port : Nat) : Nat × Nat :=
  let w := s.pk.windows.toNat
  (bitsOf w (32 * (port % 2)) 16 * 2 ^ 30, min 512 (bitsOf w (32 * (port % 2) + 16) 16) * 2 ^ 30)

/-- Package address of a BAR2 access, if it reaches the package map (R405; DESIGN CHOICE, log 55). -/
def State.barAddr (s : State) (a : HostAccess) : Option Nat :=
  let (base, size) := s.window a.port
  if a.offset + a.size ≤ size && devOk (base + a.offset) a.size then some (base + a.offset) else none

/-- Queues whose FLAGS byte or PROD field a write of `n` bytes at `addr` covers, with the event each stands for (R333, R356). -/
def State.descriptorEvents (s : State) (addr n : Nat) : List Instr :=
  let base := s.qdAddr 0
  let first := (addr - base) / 64
  let last := (addr + n - 1 - base) / 64
  if addr + n ≤ base || n = 0 then [] else
    ((List.range (last + 1 - first)).map fun i => first + i).flatMap fun q =>
      if replayBase ≤ q then []
      else
        let flags := s.qdNum q 15 1
        (if rangesMeet addr n (s.qdAddr q + 15) 1 then
           [if flags.testBit 0 then Instr.queueOpen q else if flags.testBit 1 then Instr.queueKill q else Instr.queueClose q]
         else []) ++
        (if rangesMeet addr n (s.qdAddr q + 36) 4 then [Instr.queueDoorbell q (s.qdNum q 36 4)] else [])

/-- A host write into package memory, with the queue events it stands for. -/
def State.hostWrite (s : State) (addr : Nat) (data : List Byte) : State :=
  let s := s.writeHome 0 addr data
  { s with inputs := s.descriptorEvents addr data.length ++ s.inputs }

/-- The staging buffer of recovery (R413). -/
def State.stagingAccess (s : State) (a : HostAccess) : Res :=
  if 2 ^ 26 < a.offset + a.size then .next (if a.write then s else s.send (.unsupported a.port))
  else if a.write then .next { s with staging := s.staging.setBytes a.offset (a.data.take a.size) }
  else .next (s.send (.completion a.port (s.staging.bytes a.offset a.size)))

/-- HOST_BAR2_ACCESS (R405, R408, R413; DESIGN CHOICE, log 55). -/
def execHostBar2Access (access : HostAccess) (s : State) : Res :=
  if access.atomic then .next (s.send (.unsupported access.port))
  else if !s.barOn access.port then .next (if access.write then s else s.send (.unsupported access.port))
  else if s.pk.bootState = 2 then s.stagingAccess access
  else match s.barAddr access with
    | none => .next (if access.write then s else s.send (.unsupported access.port))
    | some a =>
      if access.write then .next (s.hostWrite a (access.data.take access.size))
      else .next (s.send (.completion access.port (s.bytesSeen viewHost 0 a access.size)))

/-- FUNCTION_LEVEL_RESET: every queue of the port is closed and killed, and the port's configuration is cleared (R408;
PRESUMED, log 6; DEDUCED, log 51). -/
def execFunctionLevelReset (port : Nat) (s : State) : Res :=
  let mine := (s.queues.filter fun q => decide (q.1 < replayBase) && s.dieOfQueue q.1 == port).map (·.1)
  let s := mine.foldl (fun s q => s.killQueue q) s
  .next (s.modPk fun p =>
    { p with
      memEn := p.memEn.set port false
      busEn := p.busEn.set port false
      msixEn := p.msixEn.set port false
      atomicEn := p.atomicEn.set port false
      mailbox := p.mailbox.set port ⟨[], [], []⟩
      msixDue := p.msixDue.filter fun x => x.1 != port })

/-! ## What happens outside (R267, R405, R408, R409, R412) -/

/-- A configuration register of a port: memory and bus master enables, no AtomicOp completer support, the AtomicOp Requester Enable,
and MSI-X with three vectors (R405, R408 to R410; PRESUMED, log 6). -/
def State.configReg (s : State) (port : Nat) : CfgReg → Nat
  | .command => 2 * (s.pk.memEn.getD port false).toNat + 4 * (s.pk.busEn.getD port false).toNat
  | .deviceCapabilities2 => 0
  | .deviceControl2 => 64 * (s.pk.atomicEn.getD port false).toNat
  | .msixControl => 2 + 32768 * (s.pk.msixEn.getD port false).toNat

/-- A write of a configuration register (R405, R408 to R410; PRESUMED, log 6). -/
def State.configWrite (s : State) (port : Nat) (reg : CfgReg) (v : Nat) : State :=
  s.modPk fun p => match reg with
    | .command => { p with memEn := p.memEn.set port (v.testBit 1), busEn := p.busEn.set port (v.testBit 2) }
    | .deviceCapabilities2 => p
    | .deviceControl2 => { p with atomicEn := p.atomicEn.set port (v.testBit 6) }
    | .msixControl => { p with msixEn := p.msixEn.set port (v.testBit 15) }

/-- An act of the outside world: a host store to host memory enters the coherence order there (R267). -/
def State.outside (s : State) : OutsideAct → State
  | .store port addr data => s.writeHome (hostSide port) addr data
  | .configWrite port reg v => s.configWrite port reg v
  | .configRead port reg => s.send (.completion port (natLe 4 (s.configReg port reg)))
  | .flashFails bad => { s with flashBad := bad }

/-! ## Boot (R411 to R414) -/

/-- BODYLEN of an image. -/
def bodyLen (img : List Byte) : Nat := dnum img 12 4

/-- MAGIC, FORMAT, BODYLEN and the zero bytes (R411, R412). -/
def imageForm (img : List Byte) : Bool :=
  dnum img 0 4 == 0x57465A4B && dnum img 4 4 == 1 && bodyLen img % 64 == 0 && within 64 50331648 (bodyLen img) &&
    dzero img 448 511 && decide (bodyLen img + 17120 ≤ img.length)

/-- The measurement M of an image (R411). -/
def measurement (img : List Byte) : List Byte := (Config.sha384 (img.take (512 + bodyLen img))).toList

/-- A part of an image. -/
def imagePart (img : List Byte) (lo n : Nat) : List Byte := (img.drop lo).take n

/-- CAUSE of an image: its first failing check, 0 for none; `bad` where its read met an uncorrectable error (R412). -/
def bootCause (bad : Bool) (img : List Byte) : Nat :=
  let b := bodyLen img
  if bad then 1
  else if !imageForm img then 2
  else if Config.sha384 (imagePart img 16 384) ≠ Config.fusedRsaDigest || Config.sha384 (imagePart img 400 48) ≠ Config.fusedSlhDigest
    then 3
  else if dnum img 8 4 < Config.fusedMinSvn then 4
  else if !Config.rsaVerifies (imagePart img 16 384) (measurement img) (imagePart img (512 + b) 384) then 5
  else if !Config.slhVerifies (imagePart img 400 48) (measurement img) (imagePart img (896 + b) 16224) then 6
  else 0

/-- Groups of the outriders: their 64 semaphores and nothing of a serai (R125, R392; DESIGN CHOICE, log 5). -/
def outriderGroup (die : Nat) : Group :=
  { Group.empty with
    unit := 100 + die
    cores := [Config.outriderBase + die]
    resident := true
    started := true
    nsems := 64 }

/-- The outrider of die 0 loads BODY and enters it (R226, R411, R412; DESIGN CHOICE, log 4). -/
def State.enterBody (s : State) : State :=
  let s := s.writeHome 0 Config.firmwareBase (imagePart s.flash 512 (bodyLen s.flash))
  let s : State := { s with groups := Table.put (Table.put s.groups 0 (outriderGroup 0)) 1 (outriderGroup 1) }
  s.setCtx Config.outriderBase
    { Ctx.idle with
      status := .ready
      priv := true
      asid := Config.firmwareAsid % 65536
      pc := Config.firmwareEntry &&& ~~~63#64
      cycle0 := s.cycleOf Config.outriderBase
      notBefore := s.cycleOf Config.outriderBase + 1 }

/-- POWER_ON: the boot ROM reads and checks the image (R412, R414; DESIGN CHOICE, log 4). -/
def execPowerOn (s : State) : Res :=
  if s.pk.poweredOn then .refused (.notEnabled "POWER_ON")
  else
    let c := bootCause s.flashBad s.flash
    let s := (s.modPk fun p =>
      { p with poweredOn := true, bootState := if c = 0 then 1 else 2, bootCause := c, svn := dnum s.flash 8 4 }).msi 2 [0, 1]
    .next (if c = 0 then s.enterBody else s)

/-- The package after a reset by BOOT: memory, flash, what has left the package, the configuration space of the ports and the time of
their last messages stay, and so do TICK and the package id (R335, R376, R410, R414; DESIGN CHOICE, log 4). -/
def State.rebooted (s : State) : State :=
  let kept (p : Posted) : Bool := !p.pub.isEmpty
  let f (p : Posted) : Posted := { p with performed := true, wait := 0, pub := p.pub ++ [(7, p.core)] }
  let m := ({ s with now := s.now + 1, ctxs := [], posted := (s.posted.filter kept).map f } : State).settleAll
  { State.reset with
    now := s.now
    tick := s.tick
    inputs := s.inputs
    acts := s.acts
    outbox := s.outbox
    free := s.free
    nextId := s.nextId
    mem := m.mem
    hostMem := m.hostMem
    hostMem1 := m.hostMem1
    peerMem := m.peerMem
    flash := s.flash
    flashBad := s.flashBad
    lastPower := s.tick
    lastWindow := s.tick
    lastRound := s.tick / 100000
    lastBeat := s.tick / 20000
    pk := { PkgRegs.fresh with
              trained := s.pk.trained
              msixDue := s.pk.msixDue
              msixLast := s.pk.msixLast
              memEn := s.pk.memEn
              busEn := s.pk.busEn
              msixEn := s.pk.msixEn
              atomicEn := s.pk.atomicEn }
    pace := { Pace.fresh with pkg := s.pace.pkg } }

/-- BOOT_REBOOT (R414; DESIGN CHOICE, log 4; DESIGN CHOICE, log 36). -/
def execBootReboot (s : State) : Res := .next s.rebooted

/-- Bytes of the staged image. -/
def State.staged (s : State) : List Byte := s.staging.bytes 0 (17120 + min 50331648 (leNat (s.staging.bytes 12 4)))

/-- BOOT_FLASH: in recovery the staged image is checked, programmed when it passes, and the package reboots (R413, R414;
DESIGN CHOICE, log 36). -/
def execBootFlash (s : State) : Res :=
  if s.pk.bootState ≠ 2 then .next s
  else
    let img := s.staged
    let c := bootCause false img
    if c = 0 then .next ({ s with flash := img, flashBad := false } : State).rebooted
    else .next (s.modPk fun p => { p with bootCause := c, svn := dnum img 8 4 })

/-! ## Attestation (R417, R418; PRESUMED, log 12) -/

/-- An SPDM message: version 1.3, code, two parameters, body. -/
def spdmMsg (code p1 p2 : Nat) (body : List Byte) : List Byte :=
  [0x13#8, BitVec.ofNat 8 code, BitVec.ofNat 8 p1, BitVec.ofNat 8 p2] ++ body

/-- Log of a port's mailbox. -/
def State.mail (s : State) (port : Nat) : SpdmLog := s.pk.mailbox.getD port ⟨[], [], []⟩

/-- A response leaves, and the log takes what the transcripts of SPDM hold of the exchange. -/
def State.respond (s : State) (port code : Nat) (said : List Byte) (f : SpdmLog → SpdmLog) : Res :=
  .next ((s.modPk fun p => { p with mailbox := p.mailbox.set port (f (s.mail port)) }).send (.doe port code said))

/-- A response under the negotiated version. -/
def State.reply (s : State) (port code p1 p2 : Nat) (body : List Byte) (f : SpdmLog → SpdmLog) : Res :=
  s.respond port code (spdmMsg code p1 p2 body) f

/-- ERROR with an error code and its data. -/
def State.spdmError (s : State) (port error data : Nat) : Res := s.reply port 0x7F error data [] id

/-- A request is answered in RUN, and with ERROR Busy otherwise (R418). -/
def State.spdm (s : State) (port : Nat) (answer : Res) : Res :=
  if s.pk.bootState = 1 then answer else s.spdmError port 0x03 0

/-- ERROR with UnsupportedRequest (R417). -/
def State.spdmUnsupported (s : State) (port code : Nat) : Res := s.spdmError port 0x07 code

/-- A request or a response of the first exchange, whose header names version 1.0. -/
def spdmFirst (code : Nat) (body : List Byte) : List Byte := [0x10#8, BitVec.ofNat 8 code, 0#8, 0#8] ++ body

/-- The exchange up to the negotiation grows. -/
def SpdmLog.firstly (l : SpdmLog) (xs : List Byte) : SpdmLog := { l with first := l.first ++ xs }

/-- The exchange of certificates grows. -/
def SpdmLog.certify (l : SpdmLog) (xs : List Byte) : SpdmLog := { l with certs := l.certs ++ xs }

/-- GET_VERSION: VERSION names SPDM 1.3; the exchange begins anew (R417). -/
def execGetVersion (port : Nat) (s : State) : Res :=
  let said := spdmFirst 0x04 (natLe 1 0 ++ natLe 1 1 ++ natLe 2 0x1300)
  s.spdm port (s.respond port 0x04 said fun _ => ⟨spdmFirst 0x84 [] ++ said, [], []⟩)

/-- GET_CAPABILITIES: certificates, challenge and signed measurements (R417). -/
def execGetCapabilities (req : SpdmReq) (s : State) : Res :=
  let said := natLe 4 0 ++ natLe 4 0x16 ++ natLe 8 Config.spdmSizes.toNat
  s.spdm req.port (s.reply req.port 0x61 0 0 said fun l => l.firstly (spdmMsg 0xE1 req.p1 req.p2 req.body ++ spdmMsg 0x61 0 0 said))

/-- NEGOTIATE_ALGORITHMS: RSASSA-PSS 3072 and SHA-384, for measurements too (R417). -/
def execNegotiateAlgorithms (req : SpdmReq) (s : State) : Res :=
  let said := natLe 2 36 ++ natLe 1 1 ++ natLe 1 0 ++ natLe 4 0x04 ++ natLe 4 0x08 ++ natLe 4 0x02 ++ natLe 16 0
  s.spdm req.port (s.reply req.port 0x63 0 0 said fun l => l.firstly (spdmMsg 0xE3 req.p1 req.p2 req.body ++ spdmMsg 0x63 0 0 said))

/-- GET_DIGESTS: slot 0 (R417). -/
def execGetDigests (port : Nat) (s : State) : Res :=
  let body := (Config.sha384 Config.certificateChain).toList
  s.spdm port (s.reply port 0x01 1 1 body fun l => l.certify (spdmMsg 0x81 0 0 [] ++ spdmMsg 0x01 1 1 body))

/-- GET_CERTIFICATE: a portion of the chain of slot 0, with its length and what remains (R417). -/
def execGetCertificate (port slot offset length : Nat) (s : State) : Res :=
  s.spdm port
    (if slot ≠ 0 then s.spdmUnsupported port 0x82
     else
       let part := imagePart Config.certificateChain offset length
       let body := natLe 2 part.length ++ natLe 2 (Config.certificateChain.length - offset - part.length) ++ part
       s.reply port 0x02 0 0 body fun l =>
         l.certify (spdmMsg 0x82 0 0 (natLe 2 offset ++ natLe 2 length) ++ spdmMsg 0x02 0 0 body))

/-- What a measurement block holds (R418). -/
def State.measured (s : State) (i : Nat) : List Byte :=
  match i with
  | 1 => natLe 4 Config.bootRomVersion.toNat
  | 2 => measurement s.flash
  | 3 => natLe 4 s.pk.svn
  | _ => Config.fusedRsaDigest.toList ++ Config.fusedSlhDigest.toList

/-- The kind of a block's value: a version of the ROM, the digest of mutable firmware, a security version, a hardware configuration. -/
def measuredKind (i : Nat) : Nat := match i with | 1 => 0x80 | 2 => 0x01 | 3 => 0x87 | _ => 0x82

/-- A measurement block: its index, its specification and size, and its value (R418; PRESUMED, log 12). -/
def State.measurementBlock (s : State) (i : Nat) : List Byte :=
  let v := s.measured i
  natLe 1 i ++ natLe 1 1 ++ natLe 2 (v.length + 3) ++ natLe 1 (measuredKind i) ++ natLe 2 v.length ++ v

/-- The blocks that a request names: all of them under 0xFF, none under 0. -/
def measuredIndices (index : Nat) : List Nat := if index = 0 then [] else if index = 0xFF then [1, 2, 3, 4] else [index]

/-- The blocks of a response with their count and length. -/
def State.measurements (s : State) (index : Nat) : List Byte :=
  let record := (measuredIndices index).flatMap s.measurementBlock
  natLe 1 (measuredIndices index).length ++ natLe 3 record.length ++ record

/-- Text of a signing context. -/
def asciiBytes (t : String) : List Byte := t.toList.map fun c => BitVec.ofNat 8 c.toNat

/-- What goes before a digest that is signed: the version four times, and the purpose at the end of 36 bytes (PRESUMED, log 12). -/
def signingPrefix (purpose : String) : List Byte :=
  let p := asciiBytes purpose
  (List.range 4).flatMap (fun _ => asciiBytes "dmtf-spdm-v1.3.*") ++ List.replicate (36 - p.length) 0 ++ p

/-- OpaqueData's element 0x5341 and the signature, both over one digest of the transcript (R418): the signature that the element holds is
no part of what it signs (PRESUMED, log 12). -/
def signedBy (purpose : String) (transcript : List Byte) : List Byte × List Byte :=
  let digest := (Config.sha384 transcript).toList
  ((Config.identitySlh digest).toList, (Config.identityRsa (signingPrefix purpose ++ digest)).toList)

/-- Length of OpaqueData: the element's ID and its signature. -/
def opaqueLength : Nat := 2 + 16224

/-- A signed response: what comes before OpaqueData, OpaqueData, the requester's context, the signature.  Its transcript is what went
before, the request, and the response but for the two signatures. -/
def State.signedReply (s : State) (port code p1 p2 : Nat) (purpose : String) (before said context : List Byte) (f : SpdmLog → SpdmLog) :
    Res :=
  let head := said ++ natLe 2 opaqueLength ++ natLe 2 0x5341
  let (slh, rsa) := signedBy purpose (before ++ spdmMsg code p1 p2 (head ++ context))
  ({ s with free := s.free + 1 } : State).reply port code p1 p2 (head ++ slh ++ context ++ rsa) f

/-- MeasurementSummaryHash: none, or that of all the blocks (R418; PRESUMED, log 12). -/
def State.summaryHash (s : State) (kind : Nat) : List Byte :=
  if kind = 0 then [] else (Config.sha384 ([1, 2, 3, 4].flatMap s.measurementBlock)).toList

/-- CHALLENGE on slot 0: the transcript holds the negotiation, the certificates and this exchange (R417, R418). -/
def execChallenge (port slot : Nat) (ask : SpdmAsk) (s : State) : Res :=
  let l := s.mail port
  let request := spdmMsg 0x83 slot ask.param (ask.nonce ++ ask.context)
  let said := (Config.sha384 Config.certificateChain).toList ++ (Config.spdmNonce s.free).toList ++ s.summaryHash ask.param
  s.spdm port
    (if slot ≠ 0 then s.spdmUnsupported port 0x83
     else s.signedReply port 0x03 0 1 "responder-challenge_auth signing" (l.first ++ l.certs ++ request) said ask.context
       fun l => { l with certs := [] })

/-- GET_MEASUREMENTS: a signature covers the negotiation and every request since the last one that was signed (R417, R418). -/
def execGetMeasurements (port index : Nat) (signed : Bool) (ask : SpdmAsk) (s : State) : Res :=
  let l := s.mail port
  let count := if index = 0 then 4 else 0
  let said := s.measurements index ++ (Config.spdmNonce s.free).toList
  let request := spdmMsg 0xE0 signed.toNat index ((if signed then ask.nonce ++ natLe 1 ask.param else []) ++ ask.context)
  s.spdm port
    (if 4 < index && index ≠ 0xFF || signed && ask.param ≠ 0 then s.spdmUnsupported port 0xE0
     else if signed then
       s.signedReply port 0x60 count 0 "responder-measurements signing" (l.first ++ l.measured ++ request) said ask.context
         fun l => { l with measured := [] }
     else
       let said := said ++ natLe 2 0 ++ ask.context
       ({ s with free := s.free + 1 } : State).reply port 0x60 count 0 said
         fun l => { l with measured := l.measured ++ request ++ spdmMsg 0x60 count 0 said })

/-- SPDM_UNSUPPORTED_REQUEST (R417, R418; PRESUMED, log 12). -/
def execSpdmUnsupportedRequest (port code : Nat) (s : State) : Res := s.spdm port (s.spdmUnsupported port code)

end Sys2Proof.Machine
end

