-- ==== Sys2Proof/Machine/Collective.lean ====
section
/-! DEFINITION. The collective engine (R394 to R400): start, data flits, completion and timeout. -/

namespace Sys2Proof.Machine

open Sys2Proof

/-! ## Descriptor (R396) -/

/-- SRC. -/
def colSrc (d : List Byte) : Nat := dnum d 0 8
/-- DST. -/
def colDst (d : List Byte) : Nat := dnum d 8 8
/-- COUNT. -/
def colCount (d : List Byte) : Nat := dnum d 16 4
/-- ETY: 0 binary32, 1 bfloat16. -/
def colEty (d : List Byte) : Nat := dnum d 20 1
/-- WIRE: 0 none, 1 E4M3, 2 E5M2, 3 bfloat16. -/
def colWire (d : List Byte) : Nat := dnum d 21 1
/-- TOPO. -/
def colTopo (d : List Byte) : Nat := dnum d 22 2
/-- ROOT. -/
def colRoot (d : List Byte) : Nat := dnum d 24 4
/-- TLIM. -/
def colTlim (d : List Byte) : Nat := dnum d 28 4
/-- Bytes of an ETY element. -/
def colBytes (d : List Byte) : Nat := if colEty d = 0 then 4 else 2

/-- MODE of a collective command, 3 for a gather. -/
def CmdOp.collMode : CmdOp → Nat | .coll m _ => m | _ => 0

/-- The descriptor obeys its table (R396). -/
def colLegal (mode : Nat) (d : List Byte) : Bool :=
  colSrc d % 4 == 0 && colDst d % 4 == 0 && decide (1 ≤ colCount d) && decide (colCount d ≤ 2 ^ 28) && decide (colEty d ≤ 1) &&
    decide (colWire d ≤ 3) && decide (colTopo d < 64) && (mode == 0 || colRoot d == 0) && dzero d 32 95

/-- A wire of packed blocks. -/
def mxWire (wire : Nat) : Bool := wire == 1 || wire == 2

/-- Elements of a segment (R397). -/
def segLen (mode n count : Nat) : Nat := if mode = 1 ∨ mode = 2 then count / n else count

/-- What the topology table asks of a command (R396). -/
def colFits (mode n : Nat) (d : List Byte) : Bool :=
  (mode != 0 || decide (colRoot d < n)) && (!(mode == 1 || mode == 2) || colCount d % n == 0) &&
    (!mxWire (colWire d) || segLen mode n (colCount d) % 32 == 0)

/-! ## Topology tables (R394) -/

/-- Address of a topology table (DEDUCED, log 60). -/
def State.topoAddr (s : State) (t : Nat) : Nat := s.pk.coltab.toNat % 2 ^ 52 / 16384 * 16384 + 16384 * t

/-- Ranks of a table: package id and die. -/
def State.topoRanks (s : State) (t : Nat) : List (Nat × Nat) :=
  (List.range (min 4096 (s.devNum (s.topoAddr t) 2))).map fun r =>
    let e := s.devNum (s.topoAddr t + 16 + 2 * r) 2
    (e % 4096, e / 4096 % 2)

/-- The rank of an engine in a usable table that lists it once (DEDUCED, log 60). -/
def State.topoRank? (s : State) (t die : Nat) (l : List (Nat × Nat)) : Option Nat :=
  let n := s.devNum (s.topoAddr t) 2
  let me := (s.pace.pkg, die)
  if n < 2 || 4096 < n || !(s.devNum (s.topoAddr t + 2) 1).testBit 0 || l.count me != 1 then none
  else some (l.idxOf me)

/-! ## Arithmetic (R397) -/

/-- In: an ETY element as binary32; a signalling NaN of bfloat16 becomes quiet (R47). -/
def colIn (ety x : Nat) : Nat × FpFlags := if ety = 0 then (x, 0) else fpToFp fmt32 0 (Fp.ofBits fmtB16 x)

/-- Out: binary32 as an ETY element. -/
def colOut (ety x : Nat) : Nat × FpFlags := if ety = 0 then (x, 0) else fpToFp fmtB16 0 (Fp.ofBits fmt32 x)

/-- Format of an E4M3 or E5M2 wire. -/
def wireMx (wire : Nat) : MxType := if wire = 1 then 0 else 1

/-- Parts of 32. -/
def parts32 {α : Type} (n : Nat) (xs : List α) : List (List α) := (List.range ((xs.length + n - 1) / n)).map fun i => (xs.drop (n * i)).take n

/-- Q: binary32 values as wire values. -/
def colQ (wire : Nat) (xs : List Nat) : List Nat × FpFlags :=
  if mxWire wire then
    (parts32 32 xs).foldl (fun acc b =>
      let m := packBlock (wireMx wire) (b.map (Fp.ofBits fmt32))
      (acc.1 ++ m.scale :: m.elems, acc.2 ||| m.flags)) ([], 0)
  else if wire = 3 then
    xs.foldl (fun acc x => let r := fpToFp fmtB16 0 (Fp.ofBits fmt32 x); (acc.1 ++ [r.1], acc.2 ||| r.2)) ([], 0)
  else (xs, 0)

/-- Xp: wire values as binary32. -/
def colX (wire : Nat) (ws : List Nat) : List Nat :=
  if mxWire wire then
    (parts32 33 ws).flatMap fun b => (b.drop 1).map fun e => (expandMx (wireMx wire) fmt32 e (b.headD 0)).1
  else if wire = 3 then ws.map fun w => (fpToFp fmt32 0 (Fp.ofBits fmtB16 w)).1
  else ws

/-- Sum of two segments. -/
def colSum (xs ys : List Nat) : List Nat × FpFlags :=
  (xs.zip ys).foldl (fun acc p =>
    let r := fpAdd fmt32 0 (Fp.ofBits fmt32 p.1) (Fp.ofBits fmt32 p.2)
    (acc.1 ++ [r.1], acc.2 ||| r.2)) ([], 0)

/-- Poisoned elements of a packed segment: a block with one is poisoned whole (R372). -/
def wireBad (wire : Nat) (bad : List Nat) : List Nat :=
  if mxWire wire then (bad.flatMap fun i => (List.range 32).map fun k => i / 32 * 32 + k).eraseDups else bad

/-! ## A running command: `aux` ranks, `occ` its own rank, `number` its sequence number -/

/-- The local input of a segment as its bits. -/
def Cmd.colBits (c : Cmd) (j : Nat) : List Nat :=
  let d := c.copyOf
  let n := segLen c.op.collMode c.aux (colCount d)
  let from_ := if c.op.collMode = 1 ∨ c.op.collMode = 2 then j * n else 0
  let w := colBytes d
  (List.range n).map fun i => dnum d (96 + w * (from_ + i)) w

/-- The local input of a segment as binary32, with its poisoned elements and its flags (R397). -/
def Cmd.colLocal (c : Cmd) (j : Nat) : List Nat × List Nat × FpFlags :=
  let d := c.copyOf
  let n := segLen c.op.collMode c.aux (colCount d)
  let from_ := if c.op.collMode = 1 ∨ c.op.collMode = 2 then j * n else 0
  let xs := (c.colBits j).map (colIn (colEty d))
  (xs.map (·.1), (List.range n).filter fun i => (c.present[from_ + i]?).getD false, xs.foldl (fun a x => a ||| x.2) 0)

/-- Note flags of a command. -/
def State.colFlags (s : State) (c : Cmd) (f : FpFlags) : State := s.modCmd c.id fun x => { x with flags := x.flags ||| mxFlags f }

/-- Send a flit to the next rank of the ring, as the table stood at the command's start (R394). -/
def State.sendFlit (s : State) (c : Cmd) (f : Flit) : State :=
  let e := c.ring.getD ((c.occ + 1) % c.aux) (0, 0)
  if e.1 = s.pace.pkg then { s with inputs := s.inputs ++ [.colFlitReceive e.2 f] }
  else s.send (.flit e.1 e.2 f)

/-- A flit of a command. -/
def Cmd.flit (c : Cmd) (seg hop : Nat) (final : Bool) (ws bad : List Nat) : Flit :=
  let d := c.copyOf
  ⟨colTopo d, c.number, colCount d, c.op.collMode, colEty d, colWire d, colRoot d, seg, hop, final, ws.map (BitVec.ofNat 32), bad⟩

/-- A final segment is in hand. -/
def State.colFinal (s : State) (c : Cmd) (f : Flit) : State :=
  s.modCmd c.id fun x => { x with finals := x.finals ++ [f] }

/-- The segments that a rank injects (R397). -/
def State.colInject (s : State) (c : Cmd) : State :=
  let d := c.copyOf
  let seg (j : Nat) (final : Bool) (s : State) : State :=
    let (xs, bad, fi) := c.colLocal j
    let copy := c.op.collMode == 3 && colEty d == 1 && colWire d == 0
    let (ws, f) := if copy then ((c.colBits j).map (· * 65536), 0) else colQ (colWire d) xs
    let m := c.flit j 1 final ws (wireBad (colWire d) bad)
    let s := (s.colFlags c (if copy then 0 else fi ||| f)).sendFlit c m
    if final then s.colFinal c m else s
  match c.op.collMode with
  | 0 => if c.occ = (colRoot d + 1) % c.aux then seg (colRoot d) false s else s
  | 3 => seg c.occ true s
  | _ => seg ((c.occ + c.aux - 1) % c.aux) false s

/-- A partial segment reaches a rank: the rank adds its input, and passes it on or has the sum (R397). -/
def State.colPartial (s : State) (c : Cmd) (f : Flit) : State :=
  let d := c.copyOf
  let (xs, bad, fi) := c.colLocal f.segment
  let (ys, fl) := colSum (colX (colWire d) (f.data.map (·.toNat))) xs
  let bad := (f.bad ++ bad).eraseDups
  let s := (s.colFlags c (fi ||| fl)).modCmd c.id fun x => { x with work := x.work + 1 }
  if c.occ = f.segment then
    if c.op.collMode = 1 then
      let (ws, fq) := colQ (colWire d) ys
      let m := c.flit f.segment 1 true ws (wireBad (colWire d) bad)
      ((s.colFlags c fq).sendFlit c m).colFinal c m
    else s.colFinal c { c.flit f.segment 1 true ys bad with wire := 0 }
  else
    let (ws, fq) := colQ (colWire d) ys
    (s.colFlags c fq).sendFlit c (c.flit f.segment (f.hop + 1) false ws (wireBad (colWire d) bad))

/-- A flit says what the receiver's command says (R396). -/
def Cmd.agrees (c : Cmd) (f : Flit) : Bool :=
  let d := c.copyOf
  f.count == colCount d && f.mode == c.op.collMode && f.ety == colEty d && f.wire == colWire d && f.root == colRoot d

/-- A running command takes a flit (R396, R397). -/
def State.colTake (s : State) (c : Cmd) (f : Flit) : State :=
  if c.fault.isSome then s
  else if !c.agrees f then s.modCmd c.id fun x => { x with fault := some (9, 0, 0), due := s.tick }
  else if f.final then
    let s := s.colFinal c f
    if f.hop < c.aux - 1 then s.sendFlit c { f with hop := f.hop + 1 } else s
  else s.colPartial c f

/-- The command that a flit belongs to. -/
def State.colFor? (s : State) (die : Nat) (f : Flit) : Option Cmd :=
  (s.running (.coll die)).find? fun c => colTopo c.copyOf == f.table && c.number == f.cseq && !c.copyOf.isEmpty

/-- Key of the count that an engine keeps for a table (R395). -/
def colKey (die t : Nat) : Nat := 64 * die + t

/-- COL_FLIT_RECEIVE: the running command of the table takes the flit; one for a later command waits; one of an earlier command
is dropped (R395, R397, R399; DEDUCED, log 60). -/
def execColFlitReceive (die : Nat) (flit : Flit) (s : State) : Res :=
  match s.colFor? die flit with
  | some c => .next (s.colTake c flit)
  | none =>
    if decide (flit.table < 64) && decide ((s.pk.colCount.get (colKey die flit.table)).toNat ≤ flit.cseq) then
      .next { s with flits := s.flits ++ [(die, flit)] }
    else .next s

/-! ## Start, completion, timeout (R395, R398 to R400) -/

/-- The command that starts now. -/
def State.colStart? (s : State) (die : Nat) : Option Cmd :=
  if !(s.running (.coll die)).isEmpty then none else
    match s.nextCmd (.coll die) with
    | some c => if s.mayStart c then some c else none
    | none => none

/-- Bytes that a rank writes (R397). -/
def colOutBytes (mode n me : Nat) (d : List Byte) : Nat :=
  colBytes d * (match mode with
    | 0 => if me = colRoot d then colCount d else 0
    | 1 => colCount d
    | 2 => colCount d / n
    | _ => n * colCount d)

/-- Wire bytes of a segment (R400). -/
def wireBytes (wire len : Nat) : Nat := match wire with | 0 => 4 * len | 3 => 2 * len | _ => len + len / 32

/-- Ticks from start to completion where every hop is one direct link and nothing else loads it (R400). -/
def colTicks (mode n : Nat) (d : List Byte) : Nat :=
  10 + (if mode = 1 then 2 * (n - 1) else n - 1) * (64 + (wireBytes (colWire d) (segLen mode n (colCount d)) + 1999) / 2000)

/-- Ranges of the input and of the result. -/
def colRanges (mode n me : Nat) (d : List Byte) : List DRange :=
  [⟨0, colSrc d, colBytes d * colCount d, false⟩, ⟨0, colDst d, colOutBytes mode n me d, true⟩]

/-- A failing range ends a command (R249, R398). -/
def State.colFail (s : State) (c : Cmd) (f : DFail) : State × Nat × Nat × Nat :=
  match f with
  | .absent va l w =>
    let (seq, s) := s.engineFault c 6 va l w 0 0 0
    (s, 1, va, seq)
  | .access a => (s, 2, a, 0)
  | _ => (s, 2, 0, 0)

/-- COL_COMMAND_START: the descriptor is copied, the table and the ranges are checked, the input is read and this rank's
segments leave (R395, R396, R398; DEDUCED, log 60). -/
def execColCommandStart (die : Nat) (s : State) : Res :=
  match s.colStart? die with
  | none => .refused (.notEnabled "COL_COMMAND_START")
  | some c =>
    let d := (s.group c.gid).sp.bytes c.op.descAt 96
    let t := colTopo d
    let mode := c.op.collMode
    let bad (s : State) (fault : Nat × Nat × Nat) (number : Nat) : State :=
      s.startCmd c fun x => { x with copyOf := d, number := number, fault := some fault, due := s.tick + 10 }
    if 64 ≤ t then .next (bad s (5, 0, 0) 0)
    else
      let seq := (s.pk.colCount.get (colKey die t)).toNat
      let s := s.modPk fun p => { p with colCount := p.colCount.set (colKey die t) (BitVec.ofNat 64 ((seq + 1) % 2 ^ 32)) }
      let n := s.devNum (s.topoAddr t) 2
      let ring := s.topoRanks t
      match s.topoRank? t die ring with
      | none => .next (bad s (5, 0, 0) seq)
      | some me =>
        if !(colLegal mode d && colFits mode n d) then .next (bad s (5, 0, 0) seq)
        else
          let rs := colRanges mode n me d
          match s.rangesFail c rs with
          | some f =>
            let (s', k, a, q) := s.colFail c f
            .next (bad s' (k, a, q) seq)
          | none =>
            let w := colBytes d
            let input : DRange := ⟨0, colSrc d, w * colCount d, false⟩
            let src := s.readRange c input
            let s := s.toll (dieOf c.cid) (linesAt (s.rangePlaces c input))
            let poisoned := (parts32 w src).map fun e => e.any (·.2)
            let s := s.startCmd c fun x =>
              { x with
                copyOf := d ++ src.map (·.1)
                present := poisoned
                ring := ring
                aux := n
                occ := me
                number := seq
                due := s.tick + colTicks mode n d }
            match s.cmd? c.id with
            | none => .refused (.notEnabled "COL_COMMAND_START")
            | some x =>
              let mine := s.flits.filter fun f => f.1 == die && f.2.table == t && f.2.cseq == seq
              let s := { s with flits := s.flits.filter fun f => !(f.1 == die && f.2.table == t && f.2.cseq == seq) }
              .next { s.colInject x with inputs := (s.colInject x).inputs ++ mine.map fun f => .colFlitReceive die f.2 }

/-- A command has every flit that it takes and sends. -/
def Cmd.colComplete (c : Cmd) : Bool :=
  c.fault.isSome ||
    match c.op.collMode with
    | 0 => c.occ == (colRoot c.copyOf + 1) % c.aux || decide (1 ≤ c.work)
    | 2 => decide (c.aux - 1 ≤ c.work)
    | _ => decide (c.aux ≤ c.finals.length)

/-- The command that completes now. -/
def State.colDone? (s : State) (die : Nat) : Option Cmd :=
  match s.dueIn (.coll die) with
  | some c => if c.colComplete then some c else none
  | none => none

/-- The status record (R396). -/
def Cmd.colStatus (c : Cmd) (state culprit : Nat) : List Byte :=
  let (kind, addr, seq) := if state = 2 then c.fault.getD (0, 0, 0) else (0, 0, 0)
  natLe 1 state ++ natLe 1 kind ++ [c.flags &&& 0x3D#8, 0#8] ++ natLe 4 c.number ++ natLe 4 seq ++ natLe 2 culprit ++ natLe 2 0 ++
    natLe 8 addr ++ natLe 8 0

/-- The elements of a final segment as this rank writes them, with their flags; a gather of bfloat16 without a wire format
copies the bits (R397; DEDUCED, log 60). -/
def Cmd.colWrites (c : Cmd) (f : Flit) : Nat × List DByte × FpFlags :=
  let d := c.copyOf
  let mode := c.op.collMode
  let w := colBytes d
  let copy := mode == 3 && colEty d == 1 && colWire d == 0
  let els := (colX f.wire (f.data.map (·.toNat))).map fun x => if copy then (x / 65536, 0) else colOut (colEty d) x
  let at_ := colDst d + (match mode with | 1 => w * (colCount d / c.aux) * f.segment | 3 => w * colCount d * f.segment | _ => 0)
  (at_, (List.range els.length).flatMap fun i =>
      (natLe w ((els[i]?).getD (0, 0)).1).map fun b => (b, f.bad.contains i),
    els.foldl (fun a e => a ||| e.2) 0)

/-- The results of a command go to its destination; this rank's flags include those of the conversion (R397, R398). -/
def State.colWrite (s : State) (c : Cmd) : State :=
  if c.op.collMode = 0 && c.occ != colRoot c.copyOf then s else
    c.finals.foldl (fun s f =>
      let (a, bs, fl) := c.colWrites f
      let s := s.colFlags c fl
      let ts := s.aim c ⟨0, a, bs.length, true⟩ bs
      let s := ts.foldl (fun s w => s.putBytes c.cid w.1 w.2) s
      s.toll (dieOf c.cid) (linesAt (s.rangePlaces c ⟨0, a, bs.length, true⟩))) s

/-- COL_COMMAND_COMPLETE: the results are written, then the status record, and the command signals (R396 to R398, R400). -/
def execColCommandComplete (die : Nat) (s : State) : Res :=
  match s.colDone? die with
  | none => .refused (.notEnabled "COL_COMMAND_COMPLETE")
  | some c =>
    let finish (s : State) (state : Nat) : Res :=
      let c := (s.cmd? c.id).getD c
      .next ((s.padWrite c.gid false (c.op.descAt + 96) (c.colStatus state 0xFFFF)).endCmd c)
    if c.fault.isSome then finish s 2
    else
      match s.rangesFail c ((colRanges c.op.collMode c.aux c.occ c.copyOf).drop 1) with
      | some f =>
        let (s', k, a, q) := s.colFail c f
        finish (s'.modCmd c.id fun x => { x with fault := some (k, a, q) }) 2
      | none => finish (s.colWrite c) 1

/-- A rank of a command's table lies in a package that is SILENT or DEPARTED (R399). -/
def State.colAbsent (s : State) (l : List (Nat × Nat)) : Option Nat :=
  let gone := (s.pace.peers.filter fun p => p.view == .silent || p.view == .departed).map (·.pkg)
  if gone.isEmpty then none else (List.range l.length).find? fun r => gone.contains ((l[r]?).getD (0, 0)).1

/-- CULPRIT of a running command that times out now (R399). -/
def State.colLate? (s : State) (die : Nat) : Option (Cmd × Nat) :=
  match (s.running (.coll die)).head? with
  | some c =>
    if c.fault.isSome then none
    else match s.colAbsent c.ring with
      | some r => some (c, r)
      | none =>
        let lim := colTlim c.copyOf
        if decide (0 < lim) && decide (c.start.getD 0 + 1000 * lim ≤ s.tick) then some (c, 0xFFFF) else none
  | none => none

/-- COL_TIMEOUT (R399; DEDUCED, log 60). -/
def execColTimeout (die : Nat) (s : State) : Res :=
  match s.colLate? die with
  | none => .refused (.notEnabled "COL_TIMEOUT")
  | some (c, culprit) => .next ((s.padWrite c.gid false (c.op.descAt + 96) (c.colStatus 3 culprit)).endCmd c)

end Sys2Proof.Machine
end

