-- ==== Sys2Proof/Machine/Convoy.lean ====
section
/-! DEFINITION. The pace unit: messages, round boundaries, views and membership (R381 to R390). -/

namespace Sys2Proof.Machine

open Sys2Proof

/-- The pace unit has stopped with the outrider of die 0 (R385). -/
def Pace.halted (p : Pace) : Bool := p.stoppedAt.isSome && p.mstate != 0

/-- Change a peer record. -/
def Pace.modPeer (p : Pace) (k : Nat) (f : Peer → Peer) : Pace :=
  { p with peers := p.peers.map fun x => if x.pkg = k then f x else x }

/-- A record for a package of the table; it is ABSENT until a message or a boundary says otherwise. -/
def Pace.withPeer (p : Pace) (k tick : Nat) : Pace :=
  if p.peers.any fun x => x.pkg == k then p else { p with peers := p.peers ++ [⟨k, .absent, 160, [], tick, 160, none, none⟩] }

/-- FROZEN is 1 while any member is SILENT (R381, R389). -/
def Pace.thaw (p : Pace) : Pace := { p with frozen := p.frozen && p.peers.any fun x => x.view == .silent }

/-- The round boundary that the package has last passed. -/
def State.roundTick (s : State) : Nat := 100000 * s.lastRound

/-- The limits of the other members that count: those of LIVE peers, and the frozen limits of SILENT ones (R382). -/
def Pace.limits (p : Pace) : List (Nat × Nat) :=
  (p.peers.filter fun x => x.view == .live).map (fun x => (x.pkg, x.limit)) ++
    (p.peers.filter fun x => x.view == .silent).map fun x => (x.pkg, x.frozen)

/-- The ceiling over limits that count, F among them while it caps (R382). -/
def Pace.ceilOf (p : Pace) (l : List (Nat × Nat)) (cap : Bool) : Nat :=
  let c := (l.map (·.2)).foldl min p.lim
  if cap then min c p.freeze else c

/-- The ceiling of R382 at a boundary, `extra` counting beside the members' limits; what counts stands until the next boundary. -/
def Pace.settleWith (p : Pace) (extra : List (Nat × Nat)) : Pace :=
  let l := p.limits ++ extra
  { p with counts := l, capped := p.frozen, ceil := p.ceilOf l p.frozen }

/-- A MEMBER or LEAVING package takes the ceiling of R382. -/
def Pace.settle (p : Pace) : Pace := if p.mstate = 2 ∨ p.mstate = 3 then p.settleWith [] else p

/-- A late announcement applies at once where the peer's limit counts; every other limit, and F, stand as at the boundary (R387,
R389; DEDUCED, log 61). -/
def Pace.settleLate (p : Pace) (pkg lim : Nat) (silent : Bool) : Pace :=
  let l := p.counts.map fun x => if x.1 = pkg then (pkg, if silent then min x.2 lim else lim) else x
  { p with counts := l, ceil := p.ceilOf l (p.capped || p.frozen) }

/-! ## Messages (R383 to R387) -/

/-- A message counts: the unit runs, CVN is its own, SRC is another package of its table, and that peer is not DEPARTED unless
the message is a JOIN (R383, R385; DEDUCED, log 61). -/
def State.hears (s : State) (m : PaceMsg) (join : Bool) : Bool :=
  !s.pace.halted && s.pk.cvtab != 0 && m.cvn == s.pace.cvn && m.src != s.pace.pkg && s.cvTable.contains m.src &&
    (join || !(s.pace.peers.any fun x => x.pkg == m.src && x.view == .departed))

/-- Take a message: the peer was heard at this tick, and a SILENT peer is LIVE again (R384, R389). -/
def State.hear (s : State) (m : PaceMsg) (join : Bool) (f : Pace → Pace) : Res :=
  if !s.hears m join then .next s
  else
    let s := s.modPace fun p =>
      (((p.withPeer m.src s.tick).modPeer m.src fun x =>
        { x with last := s.tick, view := if x.view = .silent then .live else x.view })).thaw
    .next ((s.modPace f).lowerClocks)

/-- A peer that was SILENT or ABSENT brings its limit in effect with it (R385, R389). -/
def State.wasSilent (s : State) (k : Nat) : Bool := s.pace.peers.any fun x => x.pkg == k && x.view == .silent

/-- ANN_RECEIVE: the limit waits for its boundary; one that comes late counts at once (R387, R388; DEDUCED, log 61). -/
def execAnnReceive (msg : PaceMsg) (s : State) : Res :=
  let silent := s.wasSilent msg.src
  s.hear msg false fun p =>
    if msg.eff ≤ s.roundTick then
      let p := p.modPeer msg.src fun x => { x with limit := msg.limit }
      if p.mstate = 2 ∨ p.mstate = 3 then { p with late := min (2 ^ 32 - 1) (p.late + 1) }.settleLate msg.src msg.limit silent else p
    else p.modPeer msg.src fun x => { x with announced := putLimit x.announced msg.eff msg.limit }

/-- HB_RECEIVE: a MEMBER sets an ABSENT peer LIVE (R384, R385, R389). -/
def execHbReceive (msg : PaceMsg) (s : State) : Res :=
  let silent := s.wasSilent msg.src
  s.hear msg false fun p =>
    p.modPeer msg.src fun x =>
      if silent then { x with limit := msg.limit }
      else if p.mstate = 2 && x.view == .absent then { x with view := .live, limit := msg.limit }
      else x

/-- JOIN_RECEIVE: a MEMBER or a joiner owes a WELCOME, and the joiner is LIVE at its boundary (R385; DEDUCED, log 61). -/
def execJoinReceive (msg : PaceMsg) (s : State) : Res :=
  s.hear msg true fun p =>
    if p.mstate = 1 ∨ p.mstate = 2 then
      let p := { p with owe := p.owe ++ [(msg.src, s.tick)] }
      if msg.eff ≤ s.roundTick then p.modPeer msg.src fun x => { x with view := .live, limit := msg.limit }
      else p.modPeer msg.src fun x => { x with joinAt := some (msg.eff, msg.limit) }
    else p

/-- WELCOME_RECEIVE (R385). -/
def execWelcomeReceive (msg : PaceMsg) (s : State) : Res :=
  s.hear msg false fun p =>
    if p.mstate = 1 then
      { p.modPeer msg.src fun x => { x with view := .live, limit := msg.limit } with
        cprime := min p.cprime msg.ceil
        welcomes := p.welcomes + 1 }
    else if p.mstate = 2 then
      p.modPeer msg.src fun x => if x.view = .absent then { x with view := .live, limit := msg.limit } else x
    else p

/-- LEAVE_RECEIVE: the leaver is DEPARTED at its boundary (R385). -/
def execLeaveReceive (msg : PaceMsg) (s : State) : Res :=
  s.hear msg false fun p =>
    if p.mstate = 0 then p
    else if msg.eff ≤ s.roundTick then p.modPeer msg.src fun x => { x with view := .departed }
    else p.modPeer msg.src fun x => { x with leaveAt := some msg.eff }

/-- A WELCOME is owed to a package. -/
def State.owes (s : State) (pkg : Nat) : Bool := !s.pace.halted && s.pace.owe.any fun x => x.1 == pkg

/-- WELCOME_SEND: the answer to a JOIN, which goes where every pace message goes (R381, R385; DEDUCED, log 61). -/
def execWelcomeSend (pkg : Nat) (s : State) : Res :=
  if s.owes pkg then
    .next ((s.paceAll (s.paceMsg 4 false s.pace.lim 0)).modPace fun p =>
      { p with owe := p.owe.filter fun x => x.1 != pkg })
  else .refused (.notEnabled "WELCOME_SEND")

/-- A heartbeat falls in this tick (R384). -/
def State.beats (s : State) : Bool :=
  s.tick % 20000 == 0 && decide (s.lastBeat < s.tick / 20000) && (s.pace.mstate == 2 || s.pace.mstate == 3) && !s.pace.halted

/-- HEARTBEAT_SEND (R384). -/
def execHeartbeatSend (s : State) : Res :=
  if s.beats then .next ({ s with lastBeat := s.tick / 20000 }.paceAll (s.paceMsg 2 false s.pace.lim 0))
  else .refused (.notEnabled "HEARTBEAT_SEND")

/-! ## Round boundaries (R382, R385, R388, R390) -/

/-- Announced limits whose boundary has come apply, the latest last; the others wait (R388). -/
def applyLimits (lim : Nat) (l : List (Nat × Nat)) (e : Nat) : Nat × List (Nat × Nat) :=
  (((l.filter fun x => decide (x.1 ≤ e)).foldl (fun b x => if b.1 ≤ x.1 then x else b) (0, lim)).2,
    l.filter fun x => decide (e < x.1))

/-- A peer record at a boundary: joins, leaves, announced limits; `welcomed` is false at the boundary of a join that nobody
welcomed, which leaves every record ABSENT (R385; DEDUCED, log 61). -/
def Peer.atBoundary (x : Peer) (e : Nat) (welcomed : Bool) : Peer :=
  let x := match x.joinAt with
    | some (b, lim) => if b ≤ e then { x with joinAt := none, view := if welcomed then .live else x.view, limit := lim } else x
    | none => x
  let x := match x.leaveAt with
    | some b => if b ≤ e then { x with leaveAt := none, view := .departed } else x
    | none => x
  let (lim, rest) := applyLimits x.limit x.announced e
  { x with limit := lim, announced := rest }

/-- Every peer record ABSENT. -/
def Pace.forget (p : Pace) : Pace :=
  { p with
    frozen := false
    owe := []
    peers := p.peers.map fun x => { x with view := .absent, joinAt := none, leaveAt := none } }

/-- What the pace unit does at boundary `e` (DEDUCED, log 61). -/
def Pace.atBoundary (p : Pace) (e : Nat) : Pace :=
  let joined := p.mstate == 1 && decide (p.boundary ≤ e)
  let (lim, rest) := applyLimits p.lim p.pending e
  let p :=
    { p with
      lim := lim
      pending := rest
      emergencies := p.emergencies.filter fun x => decide (e < x.1)
      peers := p.peers.map fun (x : Peer) => x.atBoundary e (!joined || decide (0 < p.welcomes)) }.thaw
  if p.mstate = 0 then { p with ceil := p.lim }
  else if joined then
    if p.welcomes = 0 then { p with ceil := p.lim, mstate := 2, counts := [], capped := false }
    else { p.settleWith [(p.pkg, p.cprime)] with mstate := 2 }
  else if p.mstate = 1 then p
  else if p.mstate = 3 && decide (p.boundary ≤ e) then { p.forget with ceil := p.lim, mstate := 0 }
  else p.settle

/-- A round boundary has come. -/
def State.roundDue (s : State) : Bool := decide (s.lastRound < s.tick / 100000)

/-- ROUND_BOUNDARY (R382, R385, R388, R390). -/
def execRoundBoundary (s : State) : Res :=
  if s.roundDue then
    let e := s.tick / 100000
    let s := { s with lastRound := e }
    .next (if s.pace.halted then s else (s.modPace fun p => p.atBoundary (100000 * e)).lowerClocks)
  else .refused (.notEnabled "ROUND_BOUNDARY")

/-! ## Silence and lapse (R385, R389) -/

/-- A LIVE peer has been silent for 200,000 ticks. -/
def State.silentNow (s : State) (x : Peer) : Bool := x.view == .live && decide (x.last + 200000 ≤ s.tick) && !s.pace.halted

/-- PEER_SILENT (R389). -/
def execPeerSilent (pkg : Nat) (s : State) : Res :=
  if s.pace.peers.any fun x => x.pkg == pkg && s.silentNow x then
    .next (s.modPace fun p =>
      { p.modPeer pkg fun x => { x with view := .silent, frozen := min p.ceil x.limit } with
        freeze := p.ceil
        frozen := true
        capped := true })
  else .refused (.notEnabled "PEER_SILENT")

/-- A SILENT peer has been silent for 2,000,000 ticks. -/
def State.departedNow (s : State) (x : Peer) : Bool := x.view == .silent && decide (x.last + 2000000 ≤ s.tick) && !s.pace.halted

/-- PEER_DEPARTED (R389). -/
def execPeerDeparted (pkg : Nat) (s : State) : Res :=
  if s.pace.peers.any fun x => x.pkg == pkg && s.departedNow x then
    .next (s.modPace fun p => (p.modPeer pkg fun x => { x with view := .departed }).thaw)
  else .refused (.notEnabled "PEER_DEPARTED")

/-- The membership of a package whose outrider has stopped lapses now. -/
def State.lapses (s : State) : Bool :=
  s.pace.halted && (match s.pace.stoppedAt with | some t => decide (t + 2000000 ≤ s.tick) | none => false)

/-- MEMBERSHIP_LAPSE (R385). -/
def execMembershipLapse (s : State) : Res :=
  if s.lapses then
    .next (s.modPace fun p =>
      { p.forget with
        mstate := 0
        pending := []
        peers := p.forget.peers.map fun x => { x with announced := [] }
        emergencies := []
        ceil := p.lim }).lowerClocks
  else .refused (.notEnabled "MEMBERSHIP_LAPSE")

end Sys2Proof.Machine
end

