-- ==== Sys2Proof/Machine/Vector.lean ====
section
/-! DEFINITION. Vector instructions of the VA and VB slots, apart from the mask instructions (R130 to R146). -/

namespace Sys2Proof.Machine

open Sys2Proof

/-- Element `e` of va at width `w`. -/
def State.elA (s : State) (x : VW) (w e : Nat) : Nat := elem (s.me.rv x.va) w e
/-- Element `e` of vb, or of the broadcast port, at width `w`. -/
def State.elB (s : State) (x : VW) (w e : Nat) : Nat := elem (s.opVb x w) w e
/-- Element `e` of vc at width `w`. -/
def State.elC (s : State) (x : VW) (w e : Nat) : Nat := elem (s.me.rv x.vc) w e

/-- Integer value of an element of type `ty` (R134). -/
def elInt (ty : BitVec 4) (x : Nat) : Int := intVal (elemWidth ty) (elemSigned ty) x

/-- A vector instruction without flags: element `e` of vd receives `f s e` where active (R131). -/
def vecOp (i : Instr) (x : VW) (lat : Nat) (f : State → Nat → Nat) (s : State) : Res :=
  let w := elemWidth x.ty
  slotOp (vslot x) i noCheck
    (fun s => s.landV (vslot x) x.vd (buildV w (f s)) (laneBits w (s.me.mkMask x.sel) fun _ => true) lat []) s

/-- The flags of the active elements alone (R35). -/
def activeFlags (w : Nat) (m : Mask) (rs : List (Nat × FpFlags)) : List FpFlags :=
  (List.range rs.length).map fun e => if m.getLsbD (govBit w e) then (rs[e]?.map (·.2)).getD 0 else 0

/-- A floating-point vector instruction: values and flags by element (R136). -/
def vecFp (i : Instr) (x : VW) (lat : Nat) (f : State → Nat → Nat × FpFlags) (s : State) : Res :=
  let w := elemWidth x.ty
  slotOp (vslot x) i noCheck
    (fun s =>
      let rs := (List.range (1024 / w)).map (f s)
      let m := s.me.mkMask x.sel
      s.landV (vslot x) x.vd (BitVec.ofNat 1024 (ofElems w (rs.map (·.1)))) (laneBits w m fun _ => true) lat
        (elemFlags w (activeFlags w m rs))) s

/-! ## Integer and bit instructions (R133 to R135) -/

/-- Sum or difference, saturated when SAT is set (R134). -/
def satVal (ty : BitVec 4) (sat : Bool) (x : Int) : Nat :=
  let w := elemWidth ty
  intCode w (if sat then clampTo w (elemSigned ty) x else x)

/-- Shift amount of a vector shift (R134). -/
def State.vshAmt (s : State) (x : VW) (e : Nat) : Nat :=
  if x.fn.getLsbD 0 then (x.fn.extractLsb' 1 6).toNat else s.elB x (elemWidth x.ty) e % elemWidth x.ty

/-- Condition of `vcmp` on integers (R134). -/
def icmpHolds (cc : Nat) (a b : Int) : Bool :=
  match cc with
  | 0 => a == b | 1 => a != b | 2 => decide (a < b) | 3 => decide (a ≤ b) | 4 => decide (b < a) | _ => decide (b ≤ a)

/-- VADD (R134). -/
def execVadd (x : VW) (s : State) : Res :=
  vecOp (.vadd x) x 2 (fun s e => satVal x.ty (x.fn.getLsbD 0) ((elInt x.ty (s.elA x (elemWidth x.ty) e)) + (elInt x.ty (s.elB x (elemWidth x.ty) e)))) s
/-- VSUB (R134). -/
def execVsub (x : VW) (s : State) : Res :=
  vecOp (.vsub x) x 2 (fun s e => satVal x.ty (x.fn.getLsbD 0) ((elInt x.ty (s.elA x (elemWidth x.ty) e)) - (elInt x.ty (s.elB x (elemWidth x.ty) e)))) s
/-- VAND (R133). -/
def execVand (x : VW) (s : State) : Res :=
  vecOp (.vand x) x 2 (fun s e => (s.elA x (elemWidth x.ty) e) &&& (s.elB x (elemWidth x.ty) e)) s
/-- VOR (R133). -/
def execVor (x : VW) (s : State) : Res :=
  vecOp (.vor x) x 2 (fun s e => (s.elA x (elemWidth x.ty) e) ||| (s.elB x (elemWidth x.ty) e)) s
/-- VXOR (R133). -/
def execVxor (x : VW) (s : State) : Res :=
  vecOp (.vxor x) x 2 (fun s e => (s.elA x (elemWidth x.ty) e) ^^^ (s.elB x (elemWidth x.ty) e)) s
/-- VSHL (R134). -/
def execVshl (x : VW) (s : State) : Res :=
  vecOp (.vshl x) x 2 (fun s e => (s.elA x (elemWidth x.ty) e) <<< s.vshAmt x e) s
/-- VSHR (R134). -/
def execVshr (x : VW) (s : State) : Res :=
  vecOp (.vshr x) x 2 (fun s e => (s.elA x (elemWidth x.ty) e) >>> s.vshAmt x e) s
/-- VSRA (R134). -/
def execVsra (x : VW) (s : State) : Res :=
  vecOp (.vsra x) x 2 (fun s e => intCode (elemWidth x.ty) (intVal (elemWidth x.ty) true (s.elA x (elemWidth x.ty) e) / (2 ^ s.vshAmt x e : Nat))) s
/-- VMIN (R133). -/
def execVmin (x : VW) (s : State) : Res :=
  vecOp (.vmin x) x 2 (fun s e => if (elInt x.ty (s.elA x (elemWidth x.ty) e)) ≤ (elInt x.ty (s.elB x (elemWidth x.ty) e)) then (s.elA x (elemWidth x.ty) e) else (s.elB x (elemWidth x.ty) e)) s
/-- VMAX (R133). -/
def execVmax (x : VW) (s : State) : Res :=
  vecOp (.vmax x) x 2 (fun s e => if (elInt x.ty (s.elA x (elemWidth x.ty) e)) ≤ (elInt x.ty (s.elB x (elemWidth x.ty) e)) then (s.elB x (elemWidth x.ty) e) else (s.elA x (elemWidth x.ty) e)) s
/-- VABS (R134): on FP types the sign bit is cleared (R28). -/
def execVabs (x : VW) (s : State) : Res :=
  vecOp (.vabs x) x 2 (fun s e =>
    let w := elemWidth x.ty
    if elemFp x.ty then s.elA x w e % 2 ^ (w - 1) else intCode w (elInt x.ty (s.elA x w e)).natAbs) s
/-- VNEG (R134): on FP types the sign bit is inverted (R28). -/
def execVneg (x : VW) (s : State) : Res :=
  vecOp (.vneg x) x 2 (fun s e =>
    let w := elemWidth x.ty
    if elemFp x.ty then s.elA x w e ^^^ 2 ^ (w - 1) else intCode w (-(elInt x.ty (s.elA x w e)))) s
/-- VCMP (R134). -/
def execVcmp (x : VW) (s : State) : Res :=
  vecOp (.vcmp x) x 2 (fun s e => if icmpHolds (x.fn.extractLsb' 0 4).toNat (elInt x.ty (s.elA x (elemWidth x.ty) e)) (elInt x.ty (s.elB x (elemWidth x.ty) e)) then 2 ^ (elemWidth x.ty) - 1 else 0) s
/-- VSEL (R133). -/
def execVsel (x : VW) (s : State) : Res :=
  vecOp (.vsel x) x 2 (fun s e => if (s.elC x (elemWidth x.ty) e) ≠ 0 then (s.elA x (elemWidth x.ty) e) else (s.elB x (elemWidth x.ty) e)) s
/-- VCLZ (R133). -/
def execVclz (x : VW) (s : State) : Res :=
  vecOp (.vclz x) x 2 (fun s e => leadingZeros (elemWidth x.ty) (s.elA x (elemWidth x.ty) e)) s
/-- VPOPC (R133). -/
def execVpopc (x : VW) (s : State) : Res :=
  vecOp (.vpopc x) x 2 (fun s e => popCount (elemWidth x.ty) (s.elA x (elemWidth x.ty) e)) s
/-- VIDX (R133). -/
def execVidx (x : VW) (s : State) : Res :=
  vecOp (.vidx x) x 2 (fun s e => (fun _ => e) s) s
/-- VMOV (R133). -/
def execVmov (x : VW) (s : State) : Res :=
  vecOp (.vmov x) x 2 (fun s e => (s.elA x (elemWidth x.ty) e)) s
/-- VSPLAT (R133). -/
def execVsplat (x : VW) (s : State) : Res :=
  vecOp (.vsplat x) x 2 (fun s e => (fun _ => (s.me.rs (x.va.extractLsb' 0 6)).toNat) e) s
/-- VMUL (R135). -/
def execVmul (x : VW) (s : State) : Res :=
  vecOp (.vmul x) x 4 (fun s e => (s.elA x (elemWidth x.ty) e) * (s.elB x (elemWidth x.ty) e)) s
/-- VMULH (R135). -/
def execVmulh (x : VW) (s : State) : Res :=
  vecOp (.vmulh x) x 4 (fun s e => intCode (elemWidth x.ty) ((elInt x.ty (s.elA x (elemWidth x.ty) e)) * (elInt x.ty (s.elB x (elemWidth x.ty) e)) / (2 ^ (elemWidth x.ty) : Nat))) s
/-- VMADD (R135). -/
def execVmadd (x : VW) (s : State) : Res :=
  vecOp (.vmadd x) x 4 (fun s e => (s.elA x (elemWidth x.ty) e) * (s.elB x (elemWidth x.ty) e) + (s.elC x (elemWidth x.ty) e)) s

/-! ## Floating-point arithmetic (R136, R137) -/

/-- Datum of an element in the format of TY. -/
def elFp (ty : BitVec 4) (x : Nat) : Fp := Fp.ofBits (fmtOf ty) x

/-- VFADD (R137). -/
def execVfadd (x : VW) (s : State) : Res :=
  vecFp (.vfadd x) x 4 (fun s e => fpAdd (fmtOf x.ty) s.rm (elFp x.ty (s.elA x (elemWidth x.ty) e)) (elFp x.ty (s.elB x (elemWidth x.ty) e))) s
/-- VFSUB (R137). -/
def execVfsub (x : VW) (s : State) : Res :=
  vecFp (.vfsub x) x 4 (fun s e => fpSub (fmtOf x.ty) s.rm (elFp x.ty (s.elA x (elemWidth x.ty) e)) (elFp x.ty (s.elB x (elemWidth x.ty) e))) s
/-- VFMIN (R34, R137). -/
def execVfmin (x : VW) (s : State) : Res :=
  vecFp (.vfmin x) x 4 (fun s e => fpMinMax (fmtOf x.ty) false (s.elA x (elemWidth x.ty) e) (s.elB x (elemWidth x.ty) e)) s
/-- VFMAX (R34, R137). -/
def execVfmax (x : VW) (s : State) : Res :=
  vecFp (.vfmax x) x 4 (fun s e => fpMinMax (fmtOf x.ty) true (s.elA x (elemWidth x.ty) e) (s.elB x (elemWidth x.ty) e)) s
/-- VFCMP (R137). -/
def execVfcmp (x : VW) (s : State) : Res :=
  vecFp (.vfcmp x) x 4 (fun s e =>
    let r := fpCmp (x.fn.extractLsb' 0 3) (elFp x.ty (s.elA x (elemWidth x.ty) e)) (elFp x.ty (s.elB x (elemWidth x.ty) e))
    (if r.1 then 2 ^ elemWidth x.ty - 1 else 0, r.2)) s
/-- VFMUL (R137). -/
def execVfmul (x : VW) (s : State) : Res :=
  vecFp (.vfmul x) x 5 (fun s e => fpMul (fmtOf x.ty) s.rm (elFp x.ty (s.elA x (elemWidth x.ty) e)) (elFp x.ty (s.elB x (elemWidth x.ty) e))) s
/-- VFMA (R137). -/
def execVfma (x : VW) (s : State) : Res :=
  vecFp (.vfma x) x 5 (fun s e => fpFma (fmtOf x.ty) s.rm false false (elFp x.ty (s.elA x (elemWidth x.ty) e)) (elFp x.ty (s.elB x (elemWidth x.ty) e)) (elFp x.ty (s.elC x (elemWidth x.ty) e))) s
/-- VFMS, which negates its addend (R136, R137). -/
def execVfms (x : VW) (s : State) : Res :=
  vecFp (.vfms x) x 5 (fun s e => fpFma (fmtOf x.ty) s.rm false true (elFp x.ty (s.elA x (elemWidth x.ty) e)) (elFp x.ty (s.elB x (elemWidth x.ty) e)) (elFp x.ty (s.elC x (elemWidth x.ty) e))) s
/-- VFNMA, which negates its product (R136, R137). -/
def execVfnma (x : VW) (s : State) : Res :=
  vecFp (.vfnma x) x 5 (fun s e => fpFma (fmtOf x.ty) s.rm true false (elFp x.ty (s.elA x (elemWidth x.ty) e)) (elFp x.ty (s.elB x (elemWidth x.ty) e)) (elFp x.ty (s.elC x (elemWidth x.ty) e))) s
/-- VFDIV (R137). -/
def execVfdiv (x : VW) (s : State) : Res :=
  vecFp (.vfdiv x) x (if x.ty = 8#4 then 24 else 16) (fun s e => fpDiv (fmtOf x.ty) s.rm (elFp x.ty (s.elA x (elemWidth x.ty) e)) (elFp x.ty (s.elB x (elemWidth x.ty) e))) s
/-- VFSQRT (R137). -/
def execVfsqrt (x : VW) (s : State) : Res :=
  vecFp (.vfsqrt x) x (if x.ty = 8#4 then 28 else 18) (fun s e => fpSqrt (fmtOf x.ty) s.rm (elFp x.ty (s.elA x (elemWidth x.ty) e))) s
/-- VFCLASS (R27, R137). -/
def execVfclass (x : VW) (s : State) : Res :=
  vecOp (.vfclass x) x 2 (fun s e => fpClass (fmtOf x.ty) (s.elA x (elemWidth x.ty) e)) s

/-! ## Conversions and MX blocks (R138 to R142) -/

/-- VCVT: part P of a conversion between widths (R138, R139). -/
def execVcvt (x : VW) (s : State) : Res :=
  slotOp (vslot x) (.vcvt x) noCheck (fun s =>
    let src := x.fn.extractLsb' 3 4
    let p := (x.fn.extractLsb' 0 3).toNat
    let wS := elemWidth src
    let wT := elemWidth x.ty
    let nS := 1024 / wS
    let nT := 1024 / wT
    let inPart (e : Nat) : Bool := decide (wS < wT) || (decide (p * nS ≤ e) && decide (e < p * nS + nS))
    let from_ (e : Nat) : Nat := if wS < wT then p * nT + e else e - p * nS
    let rs := (List.range nT).map fun e =>
      if inPart e then convElem s.rm src x.ty (elem (s.me.rv x.va) wS (from_ e)) else (0, 0)
    let m := s.me.mkMask x.sel
    s.landV (vslot x) x.vd (BitVec.ofNat 1024 (ofElems wT (rs.map (·.1)))) (laneBits wT m inPart) 3
      (elemFlags wT (activeFlags wT m rs))) s

/-- Bytes that a block's elements fill in a register: E2M1 two to a byte (R42, R140). -/
def mxBytes (t : MxType) (es : List Nat) : List Nat :=
  if t = 4 then
    (List.range 16).map (fun k => (es[2 * k]?).getD 0 + 16 * (es[2 * k + 1]?).getD 0) ++ List.replicate 16 0
  else es

/-- Element `i` of block `b` of a packed register (R42, R140). -/
def mxElemAt (t : MxType) (v : VWord) (b i : Nat) : Nat :=
  if t = 4 then bitsOf (elem v 8 (32 * b + i / 2)) (4 * (i % 2)) 4
  else elem v 8 (32 * b + i) % 2 ^ mxBits t

/-- VMXPACK (R141): RNE whatever FPCTL.RM holds. -/
def execVmxpack (x : VW) (s : State) : Res :=
  slotOp (vslot x) (.vmxpack x) noCheck (fun s =>
    let t := (x.fn.extractLsb' 0 3).toNat
    let w := elemWidth x.ty
    let block (b : Nat) : MxBlock := packBlock t ((List.range 32).map fun i => elFp x.ty (s.elA x w (32 * b + i)))
    let b0 := block 0
    let two := x.ty = 11#4
    let b1 := block 1
    let bytes := mxBytes t b0.elems ++ (if two then mxBytes t b1.elems else List.replicate 32 0) ++
      [b0.scale, if two then b1.scale else 0]
    s.landV (vslot x) x.vd (BitVec.ofNat 1024 (ofElems 8 bytes)) (BitVec.allOnes 1024) 6
      (elemFlags 32 (if two then [b0.flags, b1.flags] else [b0.flags]))) s

/-- VMXUNPACK (R142): expansion does not use FPCTL.RM. -/
def execVmxunpack (x : VW) (s : State) : Res :=
  vecFp (.vmxunpack x) x 6 (fun s e =>
    let t := (x.fn.extractLsb' 0 3).toNat
    let v := s.me.rv x.va
    expandMx t (fmtOf x.ty) (mxElemAt t v (e / 32) (e % 32)) (elem v 8 (64 + e / 32))) s

/-! ## Reductions and scans (R143) -/

/-- Combine of R143. -/
def combine (op : Nat) (ty : BitVec 4) (rm : BitVec 2) (a b : Nat) : Nat × FpFlags :=
  let w := elemWidth ty
  match op with
  | 0 => ((a + b) % 2 ^ w, 0)
  | 1 => (if elInt ty a ≤ elInt ty b then a else b, 0)
  | 2 => (if elInt ty a ≤ elInt ty b then b else a, 0)
  | 3 => (a &&& b, 0)
  | 4 => (a ||| b, 0)
  | 5 => (a ^^^ b, 0)
  | 8 => fpAdd (fmtOf ty) rm (elFp ty a) (elFp ty b)
  | 9 => fpMinMax (fmtOf ty) false a b
  | _ => fpMinMax (fmtOf ty) true a b

/-- The first active element enters as it is; a signalling NaN sets NV and SN and enters quiet (R143). -/
def firstAcc (ty : BitVec 4) (x : Nat) : Nat × FpFlags :=
  if elemFp ty then
    match elFp ty x with
    | .nan n m => ((fmtOf ty).quietNan n m, snanFlags [.nan n m])
    | _ => (x, 0)
  else (x, 0)

/-- The prefix combinations of the active elements: for each element the value after it and the flags of its step. -/
def scanElems (op : Nat) (ty : BitVec 4) (rm : BitVec 2) : Option Nat → List (Nat × Bool) → List (Nat × FpFlags)
  | _, [] => []
  | acc, (x, active) :: rest =>
    if active then
      let r := match acc with | none => firstAcc ty x | some a => combine op ty rm a x
      r :: scanElems op ty rm (some r.1) rest
    else (acc.getD 0, 0) :: scanElems op ty rm acc rest

/-- The elements of va with their activity. -/
def State.activeElems (s : State) (x : VW) : List (Nat × Bool) :=
  let w := elemWidth x.ty
  let m := s.me.mkMask x.sel
  (List.range (1024 / w)).map fun e => (s.elA x w e, m.getLsbD (govBit w e))

/-- VRED: every active element receives the combination of all; with none active no result starts (R143; DESIGN CHOICE, log 87). -/
def execVred (x : VW) (s : State) : Res :=
  slotOp (vslot x) (.vred x) noCheck (fun s =>
    let w := elemWidth x.ty
    let es := s.activeElems x
    let rs := scanElems (x.fn.extractLsb' 0 4).toNat x.ty s.rm none es
    let last := (rs.getLast?.map (·.1)).getD 0
    if es.any (·.2) then
      s.landV (vslot x) x.vd (buildV w fun _ => last) (laneBits w (s.me.mkMask x.sel) fun _ => true) 8
        (elemFlags w (rs.map (·.2)))
    else s) s

/-- VSCAN: every active element receives the combination up to itself; with none active no result starts (R143; DESIGN CHOICE, log
87). -/
def execVscan (x : VW) (s : State) : Res :=
  slotOp (vslot x) (.vscan x) noCheck (fun s =>
    let w := elemWidth x.ty
    let es := s.activeElems x
    let rs := scanElems (x.fn.extractLsb' 0 4).toNat x.ty s.rm none es
    if es.any (·.2) then
      s.landV (vslot x) x.vd (BitVec.ofNat 1024 (ofElems w (rs.map (·.1))))
        (laneBits w (s.me.mkMask x.sel) fun _ => true) 10 (elemFlags w (rs.map (·.2)))
    else s) s

/-! ## Moving elements (R144, R145) and the hash (R146) -/

/-- Rotation or element number: an immediate, or vb element 0 modulo n (R144, R145). -/
def State.rotK (s : State) (x : VW) : Nat :=
  let w := elemWidth x.ty
  if x.fn.getLsbD 7 then s.elB x w 0 % (1024 / w) else (x.fn.extractLsb' 0 7).toNat

/-- VPERM (R144). -/
def execVperm (x : VW) (s : State) : Res :=
  vecOp (.vperm x) x 3 (fun s e =>
    let w := elemWidth x.ty
    let b := s.elB x w e
    if b < 1024 / w then s.elA x w b else 0) s

/-- VROT (R144). -/
def execVrot (x : VW) (s : State) : Res :=
  vecOp (.vrot x) x 3 (fun s e => let w := elemWidth x.ty; s.elA x w ((e + s.rotK x) % (1024 / w))) s

/-- VEXT (R144). -/
def execVext (x : VW) (s : State) : Res :=
  vecOp (.vext x) x 3 (fun s e =>
    let w := elemWidth x.ty
    let k := e + (x.fn.extractLsb' 0 7).toNat
    if k < 1024 / w then s.elA x w k else s.elB x w (k - 1024 / w)) s

/-- V2S (R145): .i types sign-extended, every other zero-extended. -/
def execV2s (x : VW) (s : State) : Res :=
  slotOp (vslot x) (.v2s x) noCheck (fun s =>
    let w := elemWidth x.ty
    let y := s.elA x w (s.rotK x)
    s.landS (vslot x) (x.vd.extractLsb' 0 6) (BitVec.ofInt 64 (intVal w (elemSigned x.ty) y)) 3) s

/-- A fused sum of products in binary32, in lane order (R146). -/
def dot32 (rm : BitVec 2) : List (Nat × Nat) → Nat → Nat
  | [], acc => acc
  | (a, b) :: rest, acc =>
    dot32 rm rest (fpFma fmt32 rm false false (Fp.ofBits fmt32 a) (Fp.ofBits fmt32 b) (Fp.ofBits fmt32 acc)).1

/-- The dot product lies above +0 (R146). -/
def abovePlusZero (x : Nat) : Bool :=
  match Fp.ofBits fmt32 x with
  | .nan _ _ => false
  | .inf n => !n
  | .fin d => !d.neg && d.man != 0

/-- VHASH_SRP: no flag and no trap (R146). -/
def execVhashSrp (x : VW) (s : State) : Res :=
  slotOp (vslot x) (.vhashSrp x) noCheck (fun s =>
    let va := s.me.rv x.va
    let bit (j : Nat) : Nat :=
      let vb := s.me.rv (BitVec.ofNat 10 (x.vb.toNat + j))
      if abovePlusZero (dot32 s.rm ((List.range 32).map fun i => (elem va 32 i, elem vb 32 i)) 0) then 2 ^ j else 0
    let h := ((List.range 16).map bit).sum
    let l := (x.fn.extractLsb' 0 5).toNat
    s.landV (vslot x) x.vd (buildV 32 fun _ => h) (laneBits 32 (BitVec.allOnes 32) fun e => e == l) 12 []) s

end Sys2Proof.Machine
end

