-- ==== Sys2Proof/Machine/Mask.lean ====
section
/-! DEFINITION. The mask instructions of the VA and VB slots (R108 to R110). -/

namespace Sys2Proof.Machine

open Sys2Proof

/-- Bit i is 1 when 32-bit lane i is nonzero (R109). -/
def laneMask (v : VWord) : Mask :=
  (List.range 32).foldl (fun m i => if elem v 32 i ≠ 0 then m ||| ((1 : Mask) <<< i) else m) 0

/-- MSTK on an empty stack (R109). -/
def needDepth (s : State) : Verdict := if s.me.depth = 0 then .trap .mstk 0 else .ok

/-- MPUSH (R109). -/
def execMpush (x : VW) (s : State) : Res :=
  slotOp (vslot x) (.mpush x) (fun s => if 16 ≤ s.me.depth then .trap .mstk 0 else .ok)
    (fun s =>
      let src := if x.fn.getLsbD 0 then s.me.mask x.va.toNat else laneMask (s.me.rv x.va)
      s.landStack (vslot x) ((if x.fn.getLsbD 1 then src else src &&& s.me.topMask) :: s.me.stack)) s

/-- MINV: the top becomes the entry under it without the top's bits (R109). -/
def execMinv (x : VW) (s : State) : Res :=
  slotOp (vslot x) (.minv x) needDepth
    (fun s =>
      let below := (s.me.stack.drop 1).head?.getD (BitVec.allOnes 32)
      s.landStack (vslot x) ((below &&& ~~~s.me.topMask) :: s.me.stack.drop 1)) s

/-- MPOP (R109). -/
def execMpop (x : VW) (s : State) : Res :=
  slotOp (vslot x) (.mpop x) needDepth (fun s => s.landStack (vslot x) (s.me.stack.drop 1)) s

/-- Second source of `mand` and `mor` (R109). -/
def State.srcB (s : State) (x : VW) : Mask :=
  let b := if x.fn.getLsbD 0 then laneMask (s.me.rv x.vb) else s.me.mask x.vb.toNat
  if x.fn.getLsbD 1 then ~~~b else b

/-- Writing the top of an empty stack raises MSTK (R109). -/
def topWritable (x : VW) (s : State) : Verdict := if x.vd = 1 then needDepth s else .ok

/-- MAND (R109). -/
def execMand (x : VW) (s : State) : Res :=
  slotOp (vslot x) (.mand x) (topWritable x)
    (fun s => s.landM (vslot x) x.vd.toNat (s.me.mask x.va.toNat &&& s.srcB x)) s

/-- MOR (R109). -/
def execMor (x : VW) (s : State) : Res :=
  slotOp (vslot x) (.mor x) (topWritable x)
    (fun s => s.landM (vslot x) x.vd.toNat (s.me.mask x.va.toNat ||| s.srcB x)) s

/-- MCNT (R109). -/
def execMcnt (x : VW) (s : State) : Res :=
  slotOp (vslot x) (.mcnt x) noCheck
    (fun s => s.landS (vslot x) (x.vd.extractLsb' 0 6) (BitVec.ofNat 64 (popCount 32 (s.me.mask x.va.toNat).toNat)) 1) s

end Sys2Proof.Machine
end

