-- ==== Sys2Proof/Machine/Dispatch.lean ====
section
/-! DEFINITION. What each instruction and event of the part means: one arm for each. -/

namespace Sys2Proof.Machine

open Sys2Proof

def exec (i : Instr) (s : State) : Host.Outcome State Fault Refusal :=
  match i with
  | .nop slot body => Sys2Proof.Machine.execNop slot body s
  | .hint slot code body => Sys2Proof.Machine.execHint slot code body s
  | .add x => Sys2Proof.Machine.execAdd x s
  | .sub x => Sys2Proof.Machine.execSub x s
  | .and x => Sys2Proof.Machine.execAnd x s
  | .or x => Sys2Proof.Machine.execOr x s
  | .xor x => Sys2Proof.Machine.execXor x s
  | .andn x => Sys2Proof.Machine.execAndn x s
  | .shl x => Sys2Proof.Machine.execShl x s
  | .shr x => Sys2Proof.Machine.execShr x s
  | .sra x => Sys2Proof.Machine.execSra x s
  | .rotl x => Sys2Proof.Machine.execRotl x s
  | .min x => Sys2Proof.Machine.execMin x s
  | .max x => Sys2Proof.Machine.execMax x s
  | .scmp x => Sys2Proof.Machine.execScmp x s
  | .sel x => Sys2Proof.Machine.execSel x s
  | .li x => Sys2Proof.Machine.execLi x s
  | .lih x => Sys2Proof.Machine.execLih x s
  | .addi x => Sys2Proof.Machine.execAddi x s
  | .mov x => Sys2Proof.Machine.execMov x s
  | .clz x => Sys2Proof.Machine.execClz x s
  | .ctz x => Sys2Proof.Machine.execCtz x s
  | .popc x => Sys2Proof.Machine.execPopc x s
  | .bfx x => Sys2Proof.Machine.execBfx x s
  | .bfi x => Sys2Proof.Machine.execBfi x s
  | .s2a x => Sys2Proof.Machine.execS2a x s
  | .a2s x => Sys2Proof.Machine.execA2s x s
  | .mul x => Sys2Proof.Machine.execMul x s
  | .mulh x => Sys2Proof.Machine.execMulh x s
  | .div x => Sys2Proof.Machine.execDiv x s
  | .rem x => Sys2Proof.Machine.execRem x s
  | .mfc x => Sys2Proof.Machine.execMfc x s
  | .mtc x => Sys2Proof.Machine.execMtc x s
  | .faddD x => Sys2Proof.Machine.execFaddD x s
  | .fsubD x => Sys2Proof.Machine.execFsubD x s
  | .fmulD x => Sys2Proof.Machine.execFmulD x s
  | .fmaD x => Sys2Proof.Machine.execFmaD x s
  | .fdivD x => Sys2Proof.Machine.execFdivD x s
  | .fsqrtD x => Sys2Proof.Machine.execFsqrtD x s
  | .fminD x => Sys2Proof.Machine.execFminD x s
  | .fmaxD x => Sys2Proof.Machine.execFmaxD x s
  | .fcmpD x => Sys2Proof.Machine.execFcmpD x s
  | .fclassD x => Sys2Proof.Machine.execFclassD x s
  | .fcvt x => Sys2Proof.Machine.execFcvt x s
  | .vadd x => Sys2Proof.Machine.execVadd x s
  | .vsub x => Sys2Proof.Machine.execVsub x s
  | .vand x => Sys2Proof.Machine.execVand x s
  | .vor x => Sys2Proof.Machine.execVor x s
  | .vxor x => Sys2Proof.Machine.execVxor x s
  | .vshl x => Sys2Proof.Machine.execVshl x s
  | .vshr x => Sys2Proof.Machine.execVshr x s
  | .vsra x => Sys2Proof.Machine.execVsra x s
  | .vmin x => Sys2Proof.Machine.execVmin x s
  | .vmax x => Sys2Proof.Machine.execVmax x s
  | .vabs x => Sys2Proof.Machine.execVabs x s
  | .vneg x => Sys2Proof.Machine.execVneg x s
  | .vcmp x => Sys2Proof.Machine.execVcmp x s
  | .vsel x => Sys2Proof.Machine.execVsel x s
  | .vclz x => Sys2Proof.Machine.execVclz x s
  | .vpopc x => Sys2Proof.Machine.execVpopc x s
  | .vidx x => Sys2Proof.Machine.execVidx x s
  | .vmov x => Sys2Proof.Machine.execVmov x s
  | .vsplat x => Sys2Proof.Machine.execVsplat x s
  | .vmul x => Sys2Proof.Machine.execVmul x s
  | .vmulh x => Sys2Proof.Machine.execVmulh x s
  | .vmadd x => Sys2Proof.Machine.execVmadd x s
  | .vfadd x => Sys2Proof.Machine.execVfadd x s
  | .vfsub x => Sys2Proof.Machine.execVfsub x s
  | .vfmin x => Sys2Proof.Machine.execVfmin x s
  | .vfmax x => Sys2Proof.Machine.execVfmax x s
  | .vfcmp x => Sys2Proof.Machine.execVfcmp x s
  | .vfmul x => Sys2Proof.Machine.execVfmul x s
  | .vfma x => Sys2Proof.Machine.execVfma x s
  | .vfms x => Sys2Proof.Machine.execVfms x s
  | .vfnma x => Sys2Proof.Machine.execVfnma x s
  | .vfdiv x => Sys2Proof.Machine.execVfdiv x s
  | .vfsqrt x => Sys2Proof.Machine.execVfsqrt x s
  | .vfclass x => Sys2Proof.Machine.execVfclass x s
  | .vcvt x => Sys2Proof.Machine.execVcvt x s
  | .vmxpack x => Sys2Proof.Machine.execVmxpack x s
  | .vmxunpack x => Sys2Proof.Machine.execVmxunpack x s
  | .vred x => Sys2Proof.Machine.execVred x s
  | .vscan x => Sys2Proof.Machine.execVscan x s
  | .vperm x => Sys2Proof.Machine.execVperm x s
  | .vrot x => Sys2Proof.Machine.execVrot x s
  | .vext x => Sys2Proof.Machine.execVext x s
  | .v2s x => Sys2Proof.Machine.execV2s x s
  | .vhashSrp x => Sys2Proof.Machine.execVhashSrp x s
  | .mpush x => Sys2Proof.Machine.execMpush x s
  | .minv x => Sys2Proof.Machine.execMinv x s
  | .mpop x => Sys2Proof.Machine.execMpop x s
  | .mand x => Sys2Proof.Machine.execMand x s
  | .mor x => Sys2Proof.Machine.execMor x s
  | .mcnt x => Sys2Proof.Machine.execMcnt x s
  | .mlease x => Sys2Proof.Machine.execMlease x s
  | .mfree x => Sys2Proof.Machine.execMfree x s
  | .tld x => Sys2Proof.Machine.execTld x s
  | .tst x => Sys2Proof.Machine.execTst x s
  | .mma x => Sys2Proof.Machine.execMma x s
  | .mmaBs x => Sys2Proof.Machine.execMmaBs x s
  | .mmaNm x => Sys2Proof.Machine.execMmaNm x s
  | .mzero x => Sys2Proof.Machine.execMzero x s
  | .tsld x => Sys2Proof.Machine.execTsld x s
  | .tsst x => Sys2Proof.Machine.execTsst x s
  | .ld x => Sys2Proof.Machine.execLd x s
  | .vld x => Sys2Proof.Machine.execVld x s
  | .vlds x => Sys2Proof.Machine.execVlds x s
  | .vldx x => Sys2Proof.Machine.execVldx x s
  | .ldf x => Sys2Proof.Machine.execLdf x s
  | .vldf x => Sys2Proof.Machine.execVldf x s
  | .popf x => Sys2Proof.Machine.execPopf x s
  | .vpopf x => Sys2Proof.Machine.execVpopf x s
  | .rlyTake x => Sys2Proof.Machine.execRlyTake x s
  | .st x => Sys2Proof.Machine.execSt x s
  | .vst x => Sys2Proof.Machine.execVst x s
  | .vsts x => Sys2Proof.Machine.execVsts x s
  | .vstx x => Sys2Proof.Machine.execVstx x s
  | .rlyGive x => Sys2Proof.Machine.execRlyGive x s
  | .stg x => Sys2Proof.Machine.execStg x s
  | .vstg x => Sys2Proof.Machine.execVstg x s
  | .amoAdd x => Sys2Proof.Machine.execAmoAdd x s
  | .amoMin x => Sys2Proof.Machine.execAmoMin x s
  | .amoMax x => Sys2Proof.Machine.execAmoMax x s
  | .amoAnd x => Sys2Proof.Machine.execAmoAnd x s
  | .amoOr x => Sys2Proof.Machine.execAmoOr x s
  | .amoXor x => Sys2Proof.Machine.execAmoXor x s
  | .amoSwap x => Sys2Proof.Machine.execAmoSwap x s
  | .amoCas x => Sys2Proof.Machine.execAmoCas x s
  | .amoFadd x => Sys2Proof.Machine.execAmoFadd x s
  | .fenceAcq x => Sys2Proof.Machine.execFenceAcq x s
  | .fenceRel x => Sys2Proof.Machine.execFenceRel x s
  | .fenceAr x => Sys2Proof.Machine.execFenceAr x s
  | .rlyInit x => Sys2Proof.Machine.execRlyInit x s
  | .cpLin x => Sys2Proof.Machine.execCpLin x s
  | .cpTen x => Sys2Proof.Machine.execCpTen x s
  | .cpGat x => Sys2Proof.Machine.execCpGat x s
  | .cpSct x => Sys2Proof.Machine.execCpSct x s
  | .cpFill x => Sys2Proof.Machine.execCpFill x s
  | .drain x => Sys2Proof.Machine.execDrain x s
  | .scProbe x => Sys2Proof.Machine.execScProbe x s
  | .scCommit x => Sys2Proof.Machine.execScCommit x s
  | .scDrop x => Sys2Proof.Machine.execScDrop x s
  | .colRedRoot x => Sys2Proof.Machine.execColRedRoot x s
  | .colRedAll x => Sys2Proof.Machine.execColRedAll x s
  | .colRedScat x => Sys2Proof.Machine.execColRedScat x s
  | .colGat x => Sys2Proof.Machine.execColGat x s
  | .launch x => Sys2Proof.Machine.execLaunch x s
  | .ltrig x => Sys2Proof.Machine.execLtrig x s
  | .br x => Sys2Proof.Machine.execBr x s
  | .bz x => Sys2Proof.Machine.execBz x s
  | .bnz x => Sys2Proof.Machine.execBnz x s
  | .bmNone x => Sys2Proof.Machine.execBmNone x s
  | .bmAny x => Sys2Proof.Machine.execBmAny x s
  | .jmp x => Sys2Proof.Machine.execJmp x s
  | .call x => Sys2Proof.Machine.execCall x s
  | .ret x => Sys2Proof.Machine.execRet x s
  | .loopImm x => Sys2Proof.Machine.execLoopImm x s
  | .loopReg x => Sys2Proof.Machine.execLoopReg x s
  | .loopx x => Sys2Proof.Machine.execLoopx x s
  | .yield x => Sys2Proof.Machine.execYield x s
  | .halt x => Sys2Proof.Machine.execHalt x s
  | .xim x => Sys2Proof.Machine.execXim x s
  | .mark x => Sys2Proof.Machine.execMark x s
  | .wait x => Sys2Proof.Machine.execWait x s
  | .semAdd x => Sys2Proof.Machine.execSemAdd x s
  | .semSet x => Sys2Proof.Machine.execSemSet x s
  | .semRd x => Sys2Proof.Machine.execSemRd x s
  | .phReg x => Sys2Proof.Machine.execPhReg x s
  | .phDrop x => Sys2Proof.Machine.execPhDrop x s
  | .phArr x => Sys2Proof.Machine.execPhArr x s
  | .phWait x => Sys2Proof.Machine.execPhWait x s
  | .phArw x => Sys2Proof.Machine.execPhArw x s
  | .dupcmp x => Sys2Proof.Machine.execDupcmp x s
  | .trap x => Sys2Proof.Machine.execTrap x s
  | .sys x => Sys2Proof.Machine.execSys x s
  | .eret x => Sys2Proof.Machine.execEret x s
  | .paceAnn x => Sys2Proof.Machine.execPaceAnn x s
  | .paceAnnE x => Sys2Proof.Machine.execPaceAnnE x s
  | .paceJoin x => Sys2Proof.Machine.execPaceJoin x s
  | .paceLeave x => Sys2Proof.Machine.execPaceLeave x s
  | .colFlitReceive die flit => Sys2Proof.Machine.execColFlitReceive die flit s
  | .tollCount frame slot times => Sys2Proof.Machine.execTollCount frame slot times s
  | .queueOpen queue => Sys2Proof.Machine.execQueueOpen queue s
  | .queueClose queue => Sys2Proof.Machine.execQueueClose queue s
  | .queueKill queue => Sys2Proof.Machine.execQueueKill queue s
  | .queueDoorbell queue prod => Sys2Proof.Machine.execQueueDoorbell queue prod s
  | .preemptSuspend queue seq => Sys2Proof.Machine.execPreemptSuspend queue seq s
  | .preemptKill queue seq => Sys2Proof.Machine.execPreemptKill queue seq s
  | .preemptRelease queue seq => Sys2Proof.Machine.execPreemptRelease queue seq s
  | .resume seq asid => Sys2Proof.Machine.execResume seq asid s
  | .tresumeResume unit who asid => Sys2Proof.Machine.execTresumeResume unit who asid s
  | .tresumeAbort unit who asid => Sys2Proof.Machine.execTresumeAbort unit who asid s
  | .xlinv value => Sys2Proof.Machine.execXlinv value s
  | .errcntWrite value => Sys2Proof.Machine.execErrcntWrite value s
  | .errcnt2Write value => Sys2Proof.Machine.execErrcnt2Write value s
  | .merrClear value => Sys2Proof.Machine.execMerrClear value s
  | .qpartWrite value => Sys2Proof.Machine.execQpartWrite value s
  | .pwinWrite value => Sys2Proof.Machine.execPwinWrite value s
  | .fllsetWrite value => Sys2Proof.Machine.execFllsetWrite value s
  | .throttleWrite value => Sys2Proof.Machine.execThrottleWrite value s
  | .controlRegisterWrite index value => Sys2Proof.Machine.execControlRegisterWrite index value s
  | .bootFlash => Sys2Proof.Machine.execBootFlash s
  | .bootReboot => Sys2Proof.Machine.execBootReboot s
  | .hostBar0Access access => Sys2Proof.Machine.execHostBar0Access access s
  | .hostBar2Access access => Sys2Proof.Machine.execHostBar2Access access s
  | .functionLevelReset port => Sys2Proof.Machine.execFunctionLevelReset port s
  | .getVersion port => Sys2Proof.Machine.execGetVersion port s
  | .getCapabilities req => Sys2Proof.Machine.execGetCapabilities req s
  | .negotiateAlgorithms req => Sys2Proof.Machine.execNegotiateAlgorithms req s
  | .getDigests port => Sys2Proof.Machine.execGetDigests port s
  | .getCertificate port slot offset length => Sys2Proof.Machine.execGetCertificate port slot offset length s
  | .challenge port slot ask => Sys2Proof.Machine.execChallenge port slot ask s
  | .getMeasurements port index signed ask => Sys2Proof.Machine.execGetMeasurements port index signed ask s
  | .spdmUnsupportedRequest port code => Sys2Proof.Machine.execSpdmUnsupportedRequest port code s
  | .correctableError hbm times => Sys2Proof.Machine.execCorrectableError hbm times s
  | .uncorrectableError place => Sys2Proof.Machine.execUncorrectableError place s
  | .tempSample die temp => Sys2Proof.Machine.execTempSample die temp s
  | .hbmTempSample stack temp => Sys2Proof.Machine.execHbmTempSample stack temp s
  | .linkTraining pkg tick => Sys2Proof.Machine.execLinkTraining pkg tick s
  | .peerRequestTimeout id => Sys2Proof.Machine.execPeerRequestTimeout id s
  | .annReceive msg => Sys2Proof.Machine.execAnnReceive msg s
  | .hbReceive msg => Sys2Proof.Machine.execHbReceive msg s
  | .joinReceive msg => Sys2Proof.Machine.execJoinReceive msg s
  | .welcomeReceive msg => Sys2Proof.Machine.execWelcomeReceive msg s
  | .leaveReceive msg => Sys2Proof.Machine.execLeaveReceive msg s
  | .peerMemoryRequest req => Sys2Proof.Machine.execPeerMemoryRequest req s
  | .pcieCorrectableError port => Sys2Proof.Machine.execPcieCorrectableError port s
  | .resultLanding cid => Sys2Proof.Machine.execResultLanding cid s
  | .quantumEnd core => Sys2Proof.Machine.execQuantumEnd core s
  | .trapEventPost asid => Sys2Proof.Machine.execTrapEventPost asid s
  | .leaseGrant serai => Sys2Proof.Machine.execLeaseGrant serai s
  | .leaseIdleExpiry serai => Sys2Proof.Machine.execLeaseIdleExpiry serai s
  | .arrayCommandStart serai => Sys2Proof.Machine.execArrayCommandStart serai s
  | .arrayUpdateBegin serai => Sys2Proof.Machine.execArrayUpdateBegin serai s
  | .arrayCommandComplete serai => Sys2Proof.Machine.execArrayCommandComplete serai s
  | .mfreeMarkerSignal serai => Sys2Proof.Machine.execMfreeMarkerSignal serai s
  | .tileCommandStart core => Sys2Proof.Machine.execTileCommandStart core s
  | .tileCommandComplete core => Sys2Proof.Machine.execTileCommandComplete core s
  | .tsCopyStart serai => Sys2Proof.Machine.execTsCopyStart serai s
  | .tsCopyBeat serai => Sys2Proof.Machine.execTsCopyBeat serai s
  | .tsCopyYield serai => Sys2Proof.Machine.execTsCopyYield serai s
  | .tsCopyComplete serai => Sys2Proof.Machine.execTsCopyComplete serai s
  | .rlyInitStart serai => Sys2Proof.Machine.execRlyInitStart serai s
  | .rlyInitComplete serai => Sys2Proof.Machine.execRlyInitComplete serai s
  | .droverCommandStart drover => Sys2Proof.Machine.execDroverCommandStart drover s
  | .droverChunkCommit drover => Sys2Proof.Machine.execDroverChunkCommit drover s
  | .chunkTagWrite drover => Sys2Proof.Machine.execChunkTagWrite drover s
  | .droverCommandComplete drover => Sys2Proof.Machine.execDroverCommandComplete drover s
  | .drainStart cid => Sys2Proof.Machine.execDrainStart cid s
  | .drainComplete cid => Sys2Proof.Machine.execDrainComplete cid s
  | .scCommandStart serai => Sys2Proof.Machine.execScCommandStart serai s
  | .scDirectoryPoint serai => Sys2Proof.Machine.execScDirectoryPoint serai s
  | .scCommandComplete serai => Sys2Proof.Machine.execScCommandComplete serai s
  | .colCommandStart die => Sys2Proof.Machine.execColCommandStart die s
  | .colCommandComplete die => Sys2Proof.Machine.execColCommandComplete die s
  | .colTimeout die => Sys2Proof.Machine.execColTimeout die s
  | .launchComplete unit => Sys2Proof.Machine.execLaunchComplete unit s
  | .pageWalkComplete cid entry => Sys2Proof.Machine.execPageWalkComplete cid entry s
  | .faultQueueWrite asid => Sys2Proof.Machine.execFaultQueueWrite asid s
  | .farLoadArrival cid entry => Sys2Proof.Machine.execFarLoadArrival cid entry s
  | .parkEventPost asid => Sys2Proof.Machine.execParkEventPost asid s
  | .storePublicationDone cid => Sys2Proof.Machine.execStorePublicationDone cid s
  | .atomicPerform id => Sys2Proof.Machine.execAtomicPerform id s
  | .shadowStackSpillFill cid => Sys2Proof.Machine.execShadowStackSpillFill cid s
  | .phaserRegistrationApply op => Sys2Proof.Machine.execPhaserRegistrationApply op s
  | .phaserDropApply op => Sys2Proof.Machine.execPhaserDropApply op s
  | .phaserArrivalCount op => Sys2Proof.Machine.execPhaserArrivalCount op s
  | .phaseDelivery op => Sys2Proof.Machine.execPhaseDelivery op s
  | .phTimeout cid => Sys2Proof.Machine.execPhTimeout cid s
  | .waitTimeout cid => Sys2Proof.Machine.execWaitTimeout cid s
  | .schedulerSelection die => Sys2Proof.Machine.execSchedulerSelection die s
  | .scratchImageCopyDone gid => Sys2Proof.Machine.execScratchImageCopyDone gid s
  | .groupStart gid => Sys2Proof.Machine.execGroupStart gid s
  | .powerInterval => Sys2Proof.Machine.execPowerInterval s
  | .overdrawWindow => Sys2Proof.Machine.execOverdrawWindow s
  | .overdrawCapRise serai => Sys2Proof.Machine.execOverdrawCapRise serai s
  | .clockRaise serai => Sys2Proof.Machine.execClockRaise serai s
  | .consignmentComplete cons => Sys2Proof.Machine.execConsignmentComplete cons s
  | .completionRecordWrite cons => Sys2Proof.Machine.execCompletionRecordWrite cons s
  | .watchdogExpiry cons => Sys2Proof.Machine.execWatchdogExpiry cons s
  | .queueClosed queue => Sys2Proof.Machine.execQueueClosed queue s
  | .packetFetch queue => Sys2Proof.Machine.execPacketFetch queue s
  | .launchPacket queue => Sys2Proof.Machine.execLaunchPacket queue s
  | .waitseqPacket queue => Sys2Proof.Machine.execWaitseqPacket queue s
  | .evwaitPacket queue => Sys2Proof.Machine.execEvwaitPacket queue s
  | .evsigPacket queue => Sys2Proof.Machine.execEvsigPacket queue s
  | .graphPacket queue => Sys2Proof.Machine.execGraphPacket queue s
  | .eventObjectPoll queue => Sys2Proof.Machine.execEventObjectPoll queue s
  | .contextFreeze cid => Sys2Proof.Machine.execContextFreeze cid s
  | .suspendSaveComplete cons => Sys2Proof.Machine.execSuspendSaveComplete cons s
  | .groupRejoin cid => Sys2Proof.Machine.execGroupRejoin cid s
  | .contextRejoin cid => Sys2Proof.Machine.execContextRejoin cid s
  | .xlinvDone => Sys2Proof.Machine.execXlinvDone s
  | .powerOn => Sys2Proof.Machine.execPowerOn s
  | .msixMessage port vector => Sys2Proof.Machine.execMsixMessage port vector s
  | .roundBoundary => Sys2Proof.Machine.execRoundBoundary s
  | .heartbeatSend => Sys2Proof.Machine.execHeartbeatSend s
  | .welcomeSend pkg => Sys2Proof.Machine.execWelcomeSend pkg s
  | .peerSilent pkg => Sys2Proof.Machine.execPeerSilent pkg s
  | .peerDeparted pkg => Sys2Proof.Machine.execPeerDeparted pkg s
  | .membershipLapse => Sys2Proof.Machine.execMembershipLapse s
  | .launchCommandStart unit => Sys2Proof.Machine.execLaunchCommandStart unit s
  | .bundleFetch cid => Sys2Proof.Machine.execBundleFetch cid s
  | .globalStorePerform id => Sys2Proof.Machine.execGlobalStorePerform id s

end Sys2Proof.Machine
end

