-- ==== Sys2Proof/Machine/Issue.lean ====
section
/-! DEFINITION. Issue: the checks of a whole bundle, its effects in their order, the loop sequencer's step, and which context
a core issues from (R50, R68, R69, R73, R84 to R94, R105, R110, R202, R245, R248, R271, R364, R365, R372, R380). -/

namespace Sys2Proof.Machine

open Sys2Proof

/-! ## Checks that concern the bundle as a whole -/

/-- An S instruction that takes the extension of `xim` (R56, R120). -/
def ximOk : Instr → Bool
  | .and x | .or x | .xor x | .andn x => x.fn.getLsbD 0
  | .li _ | .addi _ => true
  | _ => false

/-- `mpush`, `minv` or `mpop` (R73, R110; DESIGN CHOICE, log 29). -/
def depthOp : Instr → Bool
  | .mpush _ | .minv _ | .mpop _ => true
  | _ => false

/-- A control transfer (R94). -/
def transferOp : Instr → Bool
  | .br _ | .bz _ | .bnz _ | .bmNone _ | .bmAny _ | .jmp _ | .call _ | .ret _ => true
  | _ => false

/-- A Y instruction that no delay bundle may hold (R94; DEDUCED, log 28). -/
def notInDelay (i : Instr) : Bool :=
  transferOp i || (match i with
    | .loopImm _ | .loopReg _ | .loopx _ | .yield _ | .halt _ | .trap _ | .sys _ | .eret _ => true
    | _ => false)

/-- A Y instruction that acts after every other slot and after the sequencer (R85, R100, R370). -/
def lateOp : Instr → Bool
  | .yield _ | .halt _ | .trap _ | .sys _ | .eret _ => true
  | _ => false

/-- A fence (R265). -/
def fenceOp : Instr → Bool
  | .fenceAcq _ | .fenceRel _ | .fenceAr _ => true
  | _ => false

/-- An atomic (R241). -/
def atomicOp : Instr → Bool
  | .amoAdd _ | .amoMin _ | .amoMax _ | .amoAnd _ | .amoOr _ | .amoXor _ | .amoSwap _ | .amoCas _ | .amoFadd _ => true
  | _ => false

/-- A Y instruction whose bundle ends its restart region (R245). -/
def endsRegion : Instr → Bool
  | .wait _ | .semAdd _ | .semSet _ | .phReg _ | .phDrop _ | .phArr _ | .phArw _ | .paceAnn _ | .paceAnnE _ | .paceJoin _
  | .paceLeave _ => true
  | _ => false

/-- A mark at the end of the bundle (R245). -/
def marksEnd (is : List (Nat × Instr)) (y : YW) : Bool :=
  slotBusy is 3 || slotBusy is 6 || y.ywt ≠ 0 || (is.any fun x => atomicOp x.2 || endsRegion x.2)

/-- A test on the instruction of a slot. -/
def slotIs (is : List (Nat × Instr)) (k : Nat) (p : Instr → Bool) : Bool :=
  match slotAt is k with | some i => p i | none => false

/-- ILLOP where a condition holds. -/
def illopIf (slot : Nat) (b : Bool) : List (Nat × Verdict) := if b then [(slot, .trap .illop 0)] else []

/-- A mask instruction that writes selector 1 (R108, R110). -/
def writesTop : Instr → Bool
  | .mand x | .mor x => x.vd = 1
  | _ => false

/-- Checks of R56, R68, R69, R73, R94 and R110 (DESIGN CHOICE, log 29). -/
def State.bundleIllops (s : State) (is : List (Nat × Instr)) : List (Nat × Verdict) :=
  let c := s.me
  let y := s.issue.common
  let flagged := y.lff == 1 || y.lfl == 1
  let active := match c.loops[y.lvl.toNat - 1]? with | some l => l.active | none => false
  let va := slotIs is 1 depthOp
  let vb := slotIs is 2 depthOp
  illopIf 7 (flagged && y.lvl ≠ 0 && !active) ++
    illopIf 7 (y.bv == 0 && slotIs is 7 readsPort) ++
    (is.map fun x => illopIf x.1 (y.bv == 0 && usesBcast x.2)).flatten ++
    illopIf 7 (s.issue.xim.isSome && !slotIs is 0 ximOk) ++
    illopIf 1 (va && vb) ++
    illopIf 1 ((va && slotIs is 2 writesTop) || (vb && slotIs is 1 writesTop)) ++
    illopIf 7 (c.xfer.isSome && slotIs is 7 notInDelay)

/-- Registers that a slot reads, the broadcast port counted for slot 7 (R91). -/
def State.slotReads (s : State) (k : Nat) (i : Instr) : List Reg :=
  regReads i ++
    (match i with
     | .dupcmp x =>
       if s.me.regs.dup then
         (List.range (dupCount x)).flatMap fun j => [Reg.v (dupFirst x + j), Reg.v (dupFirst x + j + 512)]
       else []
     | _ => []) ++
    (if k = 7 && s.issue.common.bv == 1 then [rS s.issue.common.bi] else [])

/-- Registers with a pending result (R91). -/
def Ctx.pendingRegs (c : Ctx) (t : Nat) : List Reg :=
  (c.pend.filter fun r => decide (t < r.due)).filterMap fun r => r.dest.reg

/-- LWIN of a bundle in check mode (R91). -/
def State.lwinChecks (s : State) (is : List (Nat × Instr)) : List (Nat × Verdict) :=
  let p := s.me.pendingRegs s.myCycle
  is.flatMap fun x => if (s.slotReads x.1 x.2).any fun r => p.contains r then [(x.1, Verdict.trap .lwin 0)] else []

/-- Act on one slot. -/
def State.runSlot (s : State) (i : Instr) : State :=
  match exec i { s with issue := { s.issue with phase := .act } } with
  | .next s' => s'
  | _ => s

/-- Act on the slots of a list, in its order. -/
def State.runSlots (s : State) (is : List (Nat × Instr)) (ks : List Nat) : State :=
  ks.foldl (fun s k => match slotAt is k with | some i => s.runSlot i | none => s) s

/-- Results of a context that started at an order number or later. -/
def Ctx.newResults (c : Ctx) (o : Nat) : List Result := c.pend.filter fun r => decide (o ≤ r.order)

/-- LATCONF of a bundle in check mode: the results it would start, held against each other and those pending (R92). -/
def State.latChecks (s : State) (is : List (Nat × Instr)) : List (Nat × Verdict) :=
  let o := s.me.order
  let late := slotIs is 7 lateOp
  let after := (s.runSlots is (if late then [4, 0, 1, 2] else [4, 0, 1, 2, 7])).me.pend
  let news := after.filter fun r => decide (o ≤ r.order)
  let clash (r q : Result) : Bool := r.order != q.order && r.due == q.due && r.dest.reg.isSome && r.dest.reg == q.dest.reg
  news.flatMap fun r => if after.any (clash r) then [(r.slot, Verdict.trap .latconf 0)] else []

/-- A register holds uncorrectable data (R372). -/
def State.regPoisoned (s : State) (cid : Nat) (r : Reg) : Bool :=
  s.poison.any fun p => match p, r with
    | .scalar c n, .s m => c == cid && n == m
    | .address c n, .a m => c == cid && n == m
    | .vector c n _, .v m => c == cid && n == m
    | .mask c n, .m m => c == cid && n == m
    | _, _ => false

/-- ECCU of the registers that a bundle reads (R372). -/
def State.eccuChecks (s : State) (is : List (Nat × Instr)) : List (Nat × Verdict) :=
  if s.poison.isEmpty then [] else
    is.flatMap fun x => if (s.slotReads x.1 x.2).any (s.regPoisoned s.issue.cid) then [(x.1, Verdict.trap .eccu 0)] else []

/-- The Y opcode is neither 0x00 nor hint space, assigned or not (R202). -/
def Ctx.yActs (c : Ctx) (slots : List (Nat × Except DecodeError Instr)) : Bool :=
  match slots.find? fun x => x.1 == 7 with
  | some (_, .ok i) => !idleInstr i
  | some (_, .error _) => c.lineY.extractLsb' 56 8 ≠ 0
  | none => false

/-- A deferred trap is due at this bundle (R202, R203). -/
def State.deferredDue (s : State) (slots : List (Nat × Except DecodeError Instr)) : Bool :=
  match s.me.deferred with
  | some d => d.observed && !s.me.regs.inh && s.me.yActs slots
  | none => false

/-- Cause of a deferred trap (R202). -/
def Deferred.cause (d : Deferred) : Cause := if d.nmv then .nmv else .mxx

/-- The throttle holds M commands back (R380). -/
def State.throttled (s : State) (is : List (Nat × Instr)) : Bool :=
  isSerai s.issue.cid && slotBusy is 3 &&
    decide (8 - (s.serai (seraiOf s.issue.cid)).level ≤ s.cycleReg s.issue.cid % 8)

/-- Verdicts of the slots, each by its own checks (R50). -/
def State.slotChecks (s : State) (is : List (Nat × Instr)) : List (Nat × Verdict) :=
  is.flatMap fun x =>
    match exec x.2 { s with issue := { s.issue with phase := .check, verdicts := [] } } with
    | .next s' => s'.issue.verdicts
    | _ => []

/-- Every check of the bundle under issue (R50, R67). -/
def State.allChecks (s : State) (slots : List (Nat × Except DecodeError Instr)) (is : List (Nat × Instr)) :
    List (Nat × Verdict) :=
  let bad := slots.flatMap fun x => match x.2 with | .error _ => [(x.1, Verdict.trap .illop 0)] | .ok _ => []
  let wait : List (Nat × Verdict) :=
    match slotAt is 7 with
    | some (.wait _) => []
    | _ => [(7, s.waitVerdict s.issue.common)]
  let deferred : List (Nat × Verdict) :=
    match s.me.deferred with
    | some d => if s.deferredDue slots then [(7, .trap d.cause 0)] else []
    | none => []
  bad ++ s.bundleIllops is ++ s.slotChecks is ++ wait ++ deferred ++ s.eccuChecks is ++
    (if s.throttled is then [(3, .stall)] else []) ++
    (if s.me.regs.lchk then s.lwinChecks is ++ s.latChecks is else [])

/-! ## Which verdict counts (R364) -/

/-- The better of two traps: the higher rank, then the lower slot (DEDUCED, log 27). -/
def betterTrap (a b : Nat × Cause × Word) : Nat × Cause × Word :=
  if a.2.1.rank < b.2.1.rank || (a.2.1.rank = b.2.1.rank && a.1 ≤ b.1) then a else b

/-- The first element a function answers for (DEDUCED, log 27). -/
def pickFirst {α β : Type} (f : α → Option β) : List α → Option β
  | [] => none
  | x :: xs => match f x with | some y => some y | none => pickFirst f xs

/-- The trap that a list of verdicts reports. -/
def topTrap (vs : List (Nat × Verdict)) : Option (Nat × Cause × Word) :=
  vs.foldl (fun b v => match v.2 with
    | .trap c t => some (match b with | some x => betterTrap x (v.1, c, t) | none => (v.1, c, t))
    | _ => b) none

/-- The verdict of a bundle and its slot: a block first, then a stall, a recoverable fault, a trap (R50, R84, R248, R271, R364;
DEDUCED, log 27). -/
def bundleVerdict (vs : List (Nat × Verdict)) : Nat × Verdict :=
  if vs.any fun v => v.2 == .block then (0, .block)
  else if vs.any fun v => v.2 == .stall then (0, .stall)
  else match vs.find? fun v => match v.2 with | .fault _ _ _ => true | _ => false with
    | some v => v
    | none => match topTrap vs with | some (k, c, t) => (k, .trap c t) | none => (0, .ok)

/-! ## The sequencer (R94, R105) -/

/-- The bundle after the one under issue, and the transfer in flight after it, loops apart (DEDUCED, log 28). -/
def State.follow (s : State) (transfer : Bool) : Word × Option Xfer :=
  let pc := s.issue.pc
  match s.me.xfer with
  | some x => if x.left ≤ 1 then (x.target, none) else (pc + 64, some { x with left := x.left - 1 })
  | none =>
    match s.issue.next with
    | some t => if transfer then (pc + 64, some ⟨t, 2⟩) else (t, none)
    | none => (pc + 64, none)

/-- One loop level at the end of a bundle (R105): the context, the next bundle, whether a level has looped, and the address register
value for which a shadow was short (R247; DEDUCED, log 40). -/
def Ctx.loopStep (pc : Word) (acc : Ctx × Word × Bool × Option Word) (k : Nat) : Ctx × Word × Bool × Option Word :=
  let (c, nx, taken, overrun) := acc
  match c.loops[k - 1]? with
  | none => acc
  | some l =>
    if taken || !l.active || pc ≠ l.start + BitVec.ofNat 64 (64 * (l.body - 1)) then acc
    else
      let short := match c.region with
        | some g => l.sar ≠ 0 && !(g.shadowS.any fun p => p.1 == 64 + l.sar.toNat) && decide (64 ≤ g.shadowS.length)
        | none => false
      let c := if l.sar = 0 then c else c.putA l.sar (c.ra l.sar + l.stride) true
      let again := decide (l.iter + 1 < l.count)
      let c := { c with loops := c.loops.set (k - 1) { l with iter := l.iter + 1, active := again } }
      (c, if again then l.start else nx, again, if short then some (c.ra l.sar) else overrun)

/-- The sequencer's step after the bundle under issue (R105; DEDUCED, log 40). -/
def State.sequence (s : State) (transfer : Bool) : State :=
  let (nx, xf) := s.follow transfer
  let (c, nx, _, overrun) := [6, 5, 4, 3, 2, 1].foldl (Ctx.loopStep s.issue.pc) (s.me, nx, false, none)
  let s := s.modMe fun _ => { c with pc := nx, xfer := xf }
  match overrun with
  | some v => s.takeTrap s.issue.cid ⟨.markov, v, 7, s.issue.pc, nx, 0, 0, true, false, none⟩
  | none => s

/-! ## Issuing -/

/-- The core takes a context and issues from it in this cycle (R85, R86). -/
def State.coreIssues (s : State) (cid : Nat) : State :=
  let t := s.cycleOf cid
  s.modCore (coreOf cid) fun k =>
    { k with
      holder := some cid
      since := if k.holder = some cid then k.since else t
      waited := if k.holder = some cid then k.waited else 0
      lastCtx := some cid
      nextIssue := t + 3 }

/-- The core holds a context whose bundle does not issue; `wait` counts a cycle of a compatible wait (R67, R85). -/
def State.coreHolds (s : State) (cid : Nat) (wait : Bool) : State :=
  let t := s.cycleOf cid
  s.modCore (coreOf cid) fun k =>
    { k with
      holder := some cid
      since := if k.holder = some cid then k.since else t
      waited := (if k.holder = some cid then k.waited else 0) + (if wait then 1 else 0) }

/-- The core leaves a context (R85). -/
def State.coreLeaves (s : State) (cid : Nat) : State :=
  s.modCore (coreOf cid) fun k => if k.holder = some cid then { k with holder := none } else k

/-- A wait on semaphore `n`, or its reading, observes a recorded command (R202, R219). -/
def Ctx.observe (c : Ctx) (n : Nat) : Ctx :=
  match c.deferred with
  | some d =>
    let later := c.doneMarks.any fun m => m.copy == d.copy && decide (d.number < m.number) && m.sem == some n
    if d.sem = some n || later then { c with deferred := some { d with observed := true } } else c
  | none => c

/-- The bundle that has issued observes by its wait and by its `sem.rd` (R202). -/
def State.observes (s : State) (is : List (Nat × Instr)) : State :=
  let y := s.issue.common
  let s := if y.ywt ≠ 0 then s.modMe fun c => c.observe y.yws.toNat else s
  match slotAt is 7 with
  | some (.semRd x) => s.modMe fun c => c.observe (YWsem x)
  | _ => s

/-- A Y instruction that acquires (R257). -/
def acquiresY : Instr → Bool
  | .semRd _ | .phWait _ => true
  | _ => false

/-- The order in which the slots act.  Operations of one bundle are unordered: what releases acts before what reads, and what a fence
may pair with comes after it, so that none of them orders another (R256, R257, R265).  A load of the scratchpad reads before its bundle's
store (R155). -/
def actOrder (is : List (Nat × Instr)) : List Nat :=
  let y := if slotIs is 7 lateOp || (slotIs is 7 fun i => match i with | .mark _ => true | _ => false) then [] else [7]
  if !slotIs is 5 fenceOp then [0, 1, 2, 3, 6] ++ y ++ [4, 5]
  else if slotIs is 7 acquiresY then [0, 1, 2, 3, 6, 5, 4] ++ y
  else [0, 1, 2, 3, 6] ++ y ++ [5, 4]

/-- The mark at the start of the bundle (R245). -/
def State.startMark (s : State) (is : List (Nat × Instr)) : State :=
  match slotAt is 7 with
  | some (.mark x) => s.runSlot (.mark x)
  | _ => if s.issue.common.rm == 1 then s.mark s.issue.cid else s

/-- A bundle issues: every slot takes effect, the sequencer steps, and the late Y instructions act; `trap` and `sys` come
before a landing trap of the cycle (R50, R94, R105, R245, R365; DEDUCED, log 86). -/
def State.issueBundle (s : State) (is : List (Nat × Instr)) : State :=
  let cid := s.issue.cid
  let ends := marksEnd is s.issue.common
  let s := s.coreIssues cid
  let s := s.startMark is
  let s := if ends then s.commitRegion cid else s
  let s := match slotAt is 7 with
    | some (.wait _) => s
    | _ => s.waitTake s.issue.common
  let s := s.runSlots is (actOrder is)
  let s := s.modMe fun c => { c with waitSince := none, holdSince := none, walk := none, order := c.order + 1 }
  let isEret := slotIs is 7 fun i => match i with | .eret _ => true | _ => false
  let s := if isEret then s else s.sequence (slotIs is 7 transferOp)
  let s := if ends then s.mark cid else s
  let s := s.observes is
  if slotIs is 7 lateOp then
    ({ s with issue := { s.issue with next := some s.me.pc } } : State).runSlots is [7]
  else s

/-- A suppressed bundle takes its issue cycle and the sequencer's step alone (R106); the hold of a `ph.arw` stays for the bundle
after it (DESIGN CHOICE, log 76). -/
def State.skipBundle (s : State) : State :=
  (s.coreIssues s.issue.cid).sequence false

/-! ## One attempt of a context -/

/-- What an attempt comes to: the bundle is blocked, or the core has been used. -/
inductive Attempt where
  | blocked (s : State)
  | used (s : State)

/-- Re-inject the results that wait for this issue, and land those that are due; an `eret` whose context has lost its core meanwhile
completes (R87, R358, R370, R371). -/
def State.reinject (s : State) (cid : Nat) : State :=
  let c := s.ctx cid
  let t := s.cycleOf cid
  if c.returning.isSome then (if c.returning.any fun r => decide (r ≤ t) then (s.finishReturn cid).landDue cid else s) else
    let mine := c.replay.filter fun r => r.handler == c.regs.inh
    if mine.isEmpty then s else
      (s.modCtx cid fun c =>
        { c with
          replay := c.replay.filter fun r => r.handler != c.regs.inh
          pend := c.pend ++ mine.map fun r => { r with due := t + r.due } }).landDue cid

/-- A trap at the bundle under issue (R364 to R366); while a landing trap is due the bundle merely takes no effect (R365;
DESIGN CHOICE, log 29). -/
def State.bundleTrap (s : State) (slot : Nat) (c : Cause) (tval : Word) : State :=
  let cid := s.issue.cid
  if !(s.me.trapResults s.myCycle).isEmpty then s.coreHolds cid false
  else
    let s := s.coreHolds cid false
    let s :=
      match c, s.me.deferred with
      | .mxx, some d | .nmv, some d =>
        let tv : Word := fieldAt 0 (d.number % 2 ^ 32) ||| fieldAt 32 d.bits.toNat ||| fieldAt 40 s.me.dn |||
          (if d.copy then fieldAt 48 1 else 0)
        (s.takeTrap cid ⟨c, tv, 7, s.issue.pc, s.issue.pc, ((s.myCycle : Int) - d.at_).toNat, 0, false, true, none⟩).modCtx cid fun k =>
          { k with deferred := none, dn := 0 }
      | _, _ => s.issueTrap slot c tval
    if (s.ctx cid).live then s else s.coreLeaves cid

/-- Note since when a waiting bundle waits: a `wait` from the first cycle in which it is next to issue, a phaser wait from the first
in which it is blocked, and the hold of a `ph.arw` by itself (R272, R278; DEDUCED, log 21). -/
def State.noteWait (s : State) (is : List (Nat × Instr)) : State :=
  let cid := s.issue.cid
  let own := slotIs is 7 fun i => match i with
    | .wait _ => true
    | .phWait x => (s.endHold cid).phWaitVerdict (YWph x) == .block
    | _ => false
  if s.held cid then s.modMe fun c => { c with holdSince := some (c.holdSince.getD s.now) }
  else if own then s.modMe fun c => { c with waitSince := some (c.waitSince.getD s.now) }
  else s

/-- An M instruction that a full array queue can block (R180, R181). -/
def pushesArray : Instr → Bool
  | .mma _ | .mmaBs _ | .mmaNm _ | .mzero _ => true
  | .mfree x => decide (tailInc x.tail ≠ 0)
  | _ => false

/-- The core pays the switch cost: it may not issue another context's bundle yet (R86). -/
def State.switching (s : State) (cid : Nat) : Bool :=
  let k := s.core (coreOf cid)
  k.lastCtx.isSome && k.lastCtx != some cid && decide (s.cycleOf cid < k.nextIssue)

/-- An `mlease` that alone keeps its bundle from issuing asks for the lease (R182; DEDUCED, log 22). -/
def State.noteRequest (s : State) (is : List (Nat × Instr)) (vs : List (Nat × Verdict)) : State :=
  let cid := s.issue.cid
  let k := seraiOf cid
  match slotAt is 3 with
  | some (.mlease x) =>
    if (vs.all fun v => v.2 == .ok || v == (3, .block)) && !s.switching cid && s.seraiOnly == .ok && !s.holdsLease &&
        !s.leaseGranted && !((s.serai k).reqs.any fun q => q.cid == cid) then
      s.modSerai k fun z => z.ask ⟨cid, leasePrio x, 0, leaseBudget x, false, z.cyc⟩
    else s
  | _ => s

/-- The verdict of a bundle, where the lease that an `mlease` awaits does not keep a trap or a fault of the bundle away: a request
stands only for a bundle that would issue (R182). -/
def leasedVerdict (is : List (Nat × Instr)) (vs : List (Nat × Verdict)) : Nat × Verdict :=
  if slotIs is 3 fun i => match i with | .mlease _ => true | _ => false then
    match bundleVerdict (vs.filter fun v => v != (3, .block)) with
    | (_, .ok) => bundleVerdict vs
    | v => v
  else bundleVerdict vs

/-- The holder of a lease stands blocked on a full array queue (R183). -/
def State.holderBlocked (s : State) (serai : Nat) : Bool :=
  match (s.serai serai).lease with
  | some l =>
    let c := s.ctx l.holder
    c.live && c.hasLine && s.queueFull (.array serai) && !s.nextWaits l.holder && !c.suppressed (s.frameFor l.holder).issue.common &&
      slotIs c.slotInstrs 3 pushesArray
  | none => false

/-- A holder that stands blocked on a full array queue is not idle (R183). -/
def State.refreshLeases (s : State) : State :=
  (s.serais.map (·.1)).foldl (fun s k =>
    if s.holderBlocked k then s.modSerai k fun z => { z with lease := z.lease.map fun l => { l with idle := s.now } } else s) s

/-- A request that comes to stand in this cycle while the lease is free: it may be granted in this cycle, so the core waits
(R182). -/
def State.mayGrant (s s' : State) : Bool :=
  let k := seraiOf s.issue.cid
  (s'.serai k).grantDue && decide ((s.serai k).reqs.length < (s'.serai k).reqs.length)

/-- The line of the next bundle is not one that can be read (R248, R372, R373). -/
def State.badLine (s : State) (cid : Nat) (l : Line) : Attempt :=
  let c := s.ctx cid
  match l with
  | .bytes _ => .blocked s
  | .access => .used (s.bundleTrap 0 .access c.pc)
  | .poisoned => .used (s.bundleTrap 0 .eccu c.pc)
  | .notPresent =>
    if !(c.trapResults (s.cycleOf cid)).isEmpty then .used (s.coreHolds cid false)
    else match s.translate (s.portOf cid) c.asid c.pc.toNat 64 .fetch c.priv with
      | .absent va l => .used ((s.takeFault cid 5 (BitVec.ofNat 64 va) l).coreLeaves cid)
      | _ => .used ((s.modCtx cid fun c => { c with line := none }).coreHolds cid false)

/-- A recoverable fault found at the bundle under issue; while a landing trap is due the bundle merely takes no effect (R248,
R365). -/
def State.bundleFault (s : State) (cid kind : Nat) (addr : Word) (level : Nat) : State :=
  if !((s.ctx cid).trapResults (s.cycleOf cid)).isEmpty then s.coreHolds cid false
  else (if kind = 3 then s.parkGroup cid level else s.takeFault cid kind addr level).coreLeaves cid

/-- `halt` or `eret` stands while results are pending: they land, those of the replay buffer too (R100, R370). -/
def State.drains? (s : State) (is : List (Nat × Instr)) : Bool :=
  !s.me.pend.isEmpty && slotIs is 7 fun i => match i with | .halt _ | .eret _ => true | _ => false

/-- One attempt of a context, for which the core waits where its line is not at hand: held, waiting, or checked as a whole; the checks find the hold of a `ph.arw` that
has ended returned (R50, R67, R84, R87, R278; DEDUCED, log 27). -/
def State.attemptCtx (s0 : State) (cid : Nat) : Attempt :=
  let f := s0.frameFor cid
  let t := (s0.reinject cid).frameFor cid
  let s := t.endHold cid
  let c := s.ctx cid
  if !c.hasLine then (if s.held cid then .blocked (f.noteWait []) else .used (f.coreHolds cid false))
  else if c.suppressed s.issue.common then .used t.skipBundle
  else if s.held cid then .blocked (f.noteWait [])
  else
    let is := c.slotInstrs
    match c.line with
    | some (_, .bytes _) =>
      if s.waitFails then .used ((f.noteWait is).coreHolds cid true)
      else
        let t := t.seekStore is
        let s := s.seekStore is
        let w := (({ f with nextId := s.nextId } : State).modMe fun c => { c with walk := s.me.walk }).noteWait is
        let vs := (s.startMark is).allChecks c.slots is
        match leasedVerdict is vs with
        | (_, .ok) => .used (s.issueBundle is)
        | (_, .block) =>
          let r := w.noteRequest is vs
          if w.mayGrant r then .used (r.coreHolds cid false) else .blocked r
        | (_, .stall) => .used ((if s.drains? is then t else w).coreHolds cid false)
        | (slot, .trap k tv) => .used (t.bundleTrap slot k tv)
        | (_, .fault k a l) => .used (w.bundleFault cid k a l)
    | some (_, l) => t.badLine cid l
    | none => .blocked s0

/-! ## A core's attempt of a cycle (R85, R86) -/

/-- The frame is empty again. -/
def State.endFrame (s : State) : State := { s with issue := .idle }

/-- The contexts of a core in the order in which it asks them: after the one that issued last (R85). -/
def robin (core : Nat) (last : Option Nat) : List Nat :=
  let all := ctxsOf core
  match last with
  | some l => (all.filter fun c => decide (l < c)) ++ all.filter fun c => decide (c ≤ l)
  | none => all

/-- The core asks contexts in turn until one uses it. -/
def State.askCtxs (s : State) (core : Nat) : List Nat → Attempt
  | [] => .used s
  | cid :: rest =>
    let c := s.ctx cid
    let t := s.coreCycle core
    let k := s.core core
    if !c.live || decide (t < c.notBefore) then State.askCtxs s core rest
    else match s.attemptCtx cid with
      | .blocked s' => State.askCtxs s'.endFrame core rest
      | .used s' => if k.lastCtx != some cid && k.lastCtx.isSome && decide (t < k.nextIssue) then .used s else .used s'.endFrame

/-- The core tries to issue in its present cycle: it keeps a context that cannot issue yet and whose bundle is not blocked (R85). -/
def State.coreAttempt (s : State) (core : Nat) : Attempt :=
  let t := s.coreCycle core
  let s := s.modCore core fun k => { k with tried := t + 1 }
  let k := s.core core
  match k.holder with
  | some h =>
    let c := s.ctx h
    if c.live && decide (t < c.notBefore) then .used s
    else if c.live then
      match s.attemptCtx h with
      | .blocked s' =>
        let s' := (s'.endFrame).coreLeaves h
        s'.askCtxs core ((robin core k.lastCtx).filter fun x => x != h)
      | .used s' => .used s'.endFrame
    else
      let s := s.coreLeaves h
      s.askCtxs core (robin core k.lastCtx)
  | none => s.askCtxs core (robin core k.lastCtx)

end Sys2Proof.Machine
end

