-- ==== Sys2Proof/Machine/Agenda.lean ====
section
/-! DEFINITION. Which event of the device comes next: the order in which the events that are due in a cycle act, before and
after the cores' issue, and the passing of a base cycle (R4, R13, R90, R270, R345; DESIGN CHOICE, log 7). -/

namespace Sys2Proof.Machine

open Sys2Proof

/-! ## What the events range over -/

/-- Contexts of the package. -/
def State.liveCtxs (s : State) : List Nat := (s.ctxs.filter fun x => decide (x.1 < 1024)).map (·.1)

/-- Records of contexts on the package, halted parcels that have lost their context included. -/
def State.placedCtxs (s : State) : List Nat := (s.ctxs.filter fun x => decide (x.1 < savedBase)).map (·.1)

/-- The first number of a list for which an event is due. -/
def firstEvent (ids : List Nat) (p : Nat → Bool) (f : Nat → State → Res) (s : State) : Option Res :=
  (ids.find? p).map fun c => f c s

/-- An event of the package as a whole. -/
def oneEvent (due : Bool) (f : State → Res) (s : State) : Option Res := if due then some (f s) else none

/-- Cores that have a context. -/
def State.usedCores (s : State) : List Nat := (s.liveCtxs.map coreOf).eraseDups

/-- Array queues with a command. -/
def State.arrays (s : State) : List Nat :=
  (s.cmds.filterMap fun c => match c.queue with | .array k => some k | _ => none).eraseDups
/-- Tile queues with a command. -/
def State.tileQueues (s : State) : List Nat :=
  (s.cmds.filterMap fun c => match c.queue with | .tile k => some k | _ => none).eraseDups
/-- Tile-store copy queues with a command. -/
def State.copyQueues (s : State) : List Nat :=
  (s.cmds.filterMap fun c => match c.queue with | .copy k => some k | _ => none).eraseDups
/-- Relay units with a command. -/
def State.relayUnits (s : State) : List Nat :=
  (s.cmds.filterMap fun c => match c.queue with | .relay k => some k | _ => none).eraseDups
/-- Drovers with a command, in rising order. -/
def State.drovers (s : State) : List Nat :=
  ((s.cmds.filterMap fun c => match c.queue with | .drover k => some k | _ => none).eraseDups).mergeSort fun a b => decide (a ≤ b)
/-- Drain units with a command. -/
def State.drains (s : State) : List Nat :=
  (s.cmds.filterMap fun c => match c.queue with | .drain k => if k < savedBase then some k else none | _ => none).eraseDups
/-- Step-cache queues with a command, in rising order (R314). -/
def State.stepQueues (s : State) : List Nat :=
  ((s.cmds.filterMap fun c => match c.queue with | .step k => some k | _ => none).eraseDups).mergeSort fun a b => decide (a ≤ b)
/-- Collective engines with a command. -/
def State.collEngines (s : State) : List Nat :=
  (s.cmds.filterMap fun c => match c.queue with | .coll k => some k | _ => none).eraseDups
/-- Launch units with a command. -/
def State.launchUnits (s : State) : List Nat :=
  (s.cmds.filterMap fun c => match c.queue with | .launch k => some k | _ => none).eraseDups

/-- An event of a far-load entry. -/
def State.farEvent (s : State) (p : Nat → FarEntry → Bool) (f : Nat → Nat → State → Res) : Option Res :=
  pickFirst (fun c => ((s.ctx c).far.find? (p c)).map fun e => f c e.id s) s.placedCtxs

/-- Address spaces with an entry or an event that waits inside the device. -/
def State.waitingAsids (s : State) : List Nat := ((s.faultsOut.map (·.asid)) ++ s.eventsOut.map (·.asid)).eraseDups

/-- The fault queue of an address space takes an entry now. -/
def State.faultReady (s : State) (asid : Nat) : Bool :=
  (s.faultsOut.any fun f => f.asid == asid) && !s.asidFull asid 36 40 32

/-- Serais that have been touched. -/
def State.touched (s : State) : List Nat := s.serais.map (·.1)

/-- A packet of a queue that acts now. -/
def State.packetEvent (s : State) (q : Nat) : Option Res :=
  if (s.launchReady? q).isSome then some (execLaunchPacket q s)
  else if (match s.headPacket q 2 with | some b => s.waitseqHolds q b | none => false) then some (execWaitseqPacket q s)
  else if s.pollDue q then some (execEventObjectPoll q s)
  else if (match s.headPacket q 3 with | some b => s.evwaitHolds q b | none => false) then some (execEvwaitPacket q s)
  else if (s.headPacket q 4).isSome then some (execEvsigPacket q s)
  else if (match s.headPacket q 5 with | some b => (s.graphStep q b).isSome | none => false) then some (execGraphPacket q s)
  else none

/-! ## Before the cores issue -/

/-- Results and completions, the signals of a cycle; what ends at its directory point completes before the next point (R90, R314, step 1 of
R270; DEDUCED, log 24). -/
def State.landings : List (State → Option Res) :=
  [fun s => firstEvent s.liveCtxs s.landReady execResultLanding s,
   fun s => firstEvent s.arrays (fun k => (s.arrayDone? k).isSome) execArrayCommandComplete s,
   fun s => firstEvent s.arrays (fun k => (s.markerDue? k).isSome) execMfreeMarkerSignal s,
   fun s => firstEvent s.tileQueues (fun k => (s.dueIn (.tile k)).isSome) execTileCommandComplete s,
   fun s => firstEvent s.copyQueues (fun k => (s.copyDone? k).isSome) execTsCopyComplete s,
   fun s => firstEvent s.relayUnits (fun k => (s.dueIn (.relay k)).isSome) execRlyInitComplete s,
   fun s => firstEvent s.drovers (fun k => (s.tagDue? k).isSome) execChunkTagWrite s,
   fun s => firstEvent s.drovers (fun k => (s.droverDone? k).isSome) execDroverCommandComplete s,
   fun s => firstEvent s.drains (fun k => (s.drainDone? k).isSome) execDrainComplete s,
   fun s => firstEvent s.stepQueues (fun k => (s.scDone? k).isSome) execScCommandComplete s,
   fun s => firstEvent s.stepQueues (fun k => (s.scPoint? k).isSome) execScDirectoryPoint s,
   fun s => firstEvent s.collEngines (fun k => (s.colLate? k).isSome) execColTimeout s,
   fun s => firstEvent s.collEngines (fun k => (s.colDone? k).isSome) execColCommandComplete s,
   fun s => firstEvent s.launchUnits (fun k => (s.launchDone? k).isSome) execLaunchComplete s]

/-- The memory path and the phasers. -/
def State.memoryEvents : List (State → Option Res) :=
  [fun s => firstEvent s.placedCtxs s.publicationDue execStorePublicationDone s,
   fun s => (s.posted.find? s.storeDue).map fun p => execGlobalStorePerform p.id s,
   fun s => s.farEvent s.arrivalDue execFarLoadArrival,
   fun s => s.peerLate.head?.map fun id => execPeerRequestTimeout id s,
   fun s => s.farEvent s.walkDue execPageWalkComplete,
   fun s => s.opEvent 0,
   fun s => s.opEvent 1,
   fun s => s.opEvent 2,
   fun s => s.opEvent 3,
   fun s => firstEvent s.waitingAsids s.faultReady execFaultQueueWrite s,
   fun s => firstEvent s.waitingAsids (fun a => s.eventReady a 3) execParkEventPost s,
   fun s => firstEvent s.waitingAsids (fun a => s.eventReady a 2) execTrapEventPost s]

/-- Ticks of the package: pace, power, clocks, interrupts, invalidations. -/
def State.tickEvents : List (State → Option Res) :=
  [fun s => oneEvent s.roundDue execRoundBoundary s,
   fun s => oneEvent s.lapses execMembershipLapse s,
   fun s => (s.pace.peers.find? s.silentNow).map fun p => execPeerSilent p.pkg s,
   fun s => (s.pace.peers.find? s.departedNow).map fun p => execPeerDeparted p.pkg s,
   fun s => (s.pace.owe.find? fun o => s.owes o.1).map fun o => execWelcomeSend o.1 s,
   fun s => oneEvent s.beats execHeartbeatSend s,
   fun s => oneEvent s.intervalBegins execPowerInterval s,
   fun s => oneEvent s.windowEnds execOverdrawWindow s,
   fun s => firstEvent s.touched s.capRises execOverdrawCapRise s,
   fun s => firstEvent s.touched s.clockRises execClockRaise s,
   fun s => oneEvent s.xlinvOver execXlinvDone s,
   fun s => (s.pk.msixDue.find? fun m => s.msixReady m.1 m.2).map fun m => execMsixMessage m.1 m.2 s]

/-- Queues, consignments, groups, suspends and rejoins. -/
def State.schedulerEvents : List (State → Option Res) :=
  [fun s => firstEvent (s.cons.map (·.1)) s.watchdogOver execWatchdogExpiry s,
   fun s => firstEvent s.liveCtxs s.freezeDue execContextFreeze s,
   fun s => firstEvent (s.cons.map (·.1)) s.saveDue execSuspendSaveComplete s,
   fun s => firstEvent (s.cons.map (·.1)) s.conDone execConsignmentComplete s,
   fun s => firstEvent (s.cons.map (·.1)) s.recordReady execCompletionRecordWrite s,
   fun s => firstEvent (s.queues.map (·.1)) s.closedNow execQueueClosed s,
   fun s => firstEvent (s.queues.map (·.1)) (fun q => (s.queue q).fetchDue) execPacketFetch s,
   fun s => pickFirst s.packetEvent (s.queues.map (·.1)),
   fun s => firstEvent [0, 1] s.selectionDue execSchedulerSelection s,
   fun s => firstEvent (s.groups.map (·.1)) s.imageDue execScratchImageCopyDone s,
   fun s => firstEvent (s.groups.map (·.1)) s.startDue execGroupStart s,
   fun s => firstEvent (s.rejoins.map (·.cid)) (fun c => s.rejoinDue c false) execGroupRejoin s,
   fun s => firstEvent (s.rejoins.map (·.cid)) (fun c => s.rejoinDue c true && (s.ctx c).status == .stopped) execContextRejoin s]

/-- What the contexts need before they issue. -/
def State.ctxEvents : List (State → Option Res) :=
  [fun s => firstEvent s.touched (fun k => (s.serai k).grantOld) execLeaseGrant s,
   fun s => firstEvent s.liveCtxs (fun c => (s.shadowMove c).isSome) execShadowStackSpillFill s,
   fun s => firstEvent s.liveCtxs s.fetchDue execBundleFetch s,
   fun s => firstEvent s.usedCores s.quantumOver execQuantumEnd s,
   fun s => firstEvent s.liveCtxs (fun c => (s.ranOut c (s.waitLimit c) (s.ctx c).waitSince).isSome) execWaitTimeout s,
   fun s => firstEvent s.liveCtxs (fun c => (s.ranOut c (s.phLimit c) (s.phSince c)).isSome) execPhTimeout s]

/-- The event that acts next before the cores issue (DESIGN CHOICE, log 7). -/
def State.eventBefore (s : State) : Option Res :=
  pickFirst (fun f : State → Option Res => f s)
    ((fun s => oneEvent (!s.pk.poweredOn) execPowerOn s) ::
      (State.landings ++ State.memoryEvents ++ State.tickEvents ++ State.schedulerEvents ++ State.ctxEvents))

/-! ## The lease before the cores issue (R182) -/

/-- A context of a core has an `mlease` next. -/
def State.leaseNear (s : State) (core : Nat) : Bool :=
  (ctxsOf core).any fun c =>
    (s.ctx c).live && (s.ctx c).hasLine && slotIs (s.ctx c).slotInstrs 3 fun i => match i with | .mlease _ => true | _ => false

/-- The requests that first stand in this cycle while the lease of a serai is free: what its cores come to in turn, of which the
requests alone are kept.  One of them is granted before any of the cores issues, so that what they push enters in the order of the cores
(R182, R211; DEDUCED, log 22). -/
def State.firstRequests (s : State) (serai : Nat) : State :=
  let k := s.serai serai
  let cores := ((List.range 4).map fun i => 4 * serai + i).filter s.mayTry
  if k.lease.isSome || decide (k.cyc < k.grantFrom) || !(cores.any s.leaseNear) then s
  else
    let tried := cores.foldl (fun s core => match s.coreAttempt core with | .blocked t => t | .used t => t) s
    s.modSerai serai fun z => { z with reqs := (tried.serai serai).reqs }

/-- A core issues in its present cycle, or the lease that one of its serai asks for is granted first (R85, R182). -/
def State.issueOrGrant (s : State) (core : Nat) : Res :=
  let serai := core / 4
  let asked := s.firstRequests serai
  if isSerai (firstCtxOf core) && (asked.serai serai).grantDue then execLeaseGrant serai asked
  else match s.coreAttempt core with
    | .blocked s' => .next s'
    | .used s' => .next s'

/-! ## After the cores have issued -/

/-- The event that acts next after the cores have issued: landing traps, then the starts of the engines in the order of
R270, the lease, and the atomics, which follow the publications of the cycle in the order of their cores (R182, R183, R254, R264, R270;
DESIGN CHOICE, log 7). -/
def State.eventAfter (s : State) : Option Res :=
  pickFirst (fun f : State → Option Res => f s)
    [fun s => firstEvent s.touched (fun k => (s.serai k).grantDue) execLeaseGrant s,
     fun s => firstEvent s.liveCtxs s.landTrapReady execResultLanding s,
     fun s => firstEvent s.arrays (fun k => (s.updateBegin? k).isSome) execArrayUpdateBegin s,
     fun s => firstEvent s.arrays (fun k => (s.arrayStart? k).isSome) execArrayCommandStart s,
     fun s => firstEvent s.tileQueues (fun k => (s.tileStart? k).isSome) execTileCommandStart s,
     fun s => firstEvent s.copyQueues (fun k => (s.copyStart? k).isSome) execTsCopyStart s,
     fun s => firstEvent s.copyQueues (fun k => (s.beat? k).isSome) execTsCopyBeat s,
     fun s => firstEvent s.copyQueues (fun k => (s.yield? k).isSome) execTsCopyYield s,
     fun s => firstEvent s.relayUnits (fun k => (s.relayStart? k).isSome) execRlyInitStart s,
     fun s => firstEvent s.drovers (fun k => (s.droverStart? k).isSome) execDroverCommandStart s,
     fun s => firstEvent s.drovers (fun k => (s.chunkNow? k).isSome) execDroverChunkCommit s,
     fun s => firstEvent s.drains (fun k => (s.drainStart? k).isSome) execDrainStart s,
     fun s => firstEvent s.stepQueues (fun k => (s.scStart? k).isSome) execScCommandStart s,
     fun s => firstEvent s.collEngines (fun k => (s.colStart? k).isSome) execColCommandStart s,
     fun s => firstEvent s.launchUnits (fun k => (s.launchStart? k).isSome) execLaunchCommandStart s,
     fun s => firstEvent s.touched s.leaseIdle execLeaseIdleExpiry s,
     fun s => s.atomicNext.map fun a => execAtomicPerform a.id s]

/-! ## Time -/

/-- A serai as the next base cycle finds it (R13; DESIGN CHOICE, log 7). -/
def Serai.tickOver (k : Serai) : Serai :=
  if 160 ≤ k.phase + k.clk then { k with phase := k.phase + k.clk - 160, cyc := k.cyc + 1 }
  else { k with phase := k.phase + k.clk }

/-- A base cycle of 0.25 ns passes: accesses meet PWIN as it then stands, and phaser waits are timed (R4, R278, R406; DESIGN CHOICE, log
7). -/
def State.advance (s : State) : State :=
  let s := s.maskSteps.flushLate.settleAll.refreshLeases
  let now := s.now + 1
  ({ s with
    now := now
    tick := if now % Config.baseCyclesPerTick = 0 then s.tick + 1 else s.tick
    serais := s.serais.map fun k => (k.1, k.2.tickOver)
    pk := { s.pk with windows := s.pk.pwin, bumps := [] } } : State).noteHolds

/-! ## Inputs (R126, R254, R404) -/

/-- Whether an input acts at the end of its cycle: what a host writes comes after every write of the package, and a peer's atomic after
the publications of the cycle (R126, R254, R404; DESIGN CHOICE, log 1). -/
def hostLast : Instr → Bool
  | .hostBar0Access _ => true
  | .hostBar2Access _ => true
  | .peerMemoryRequest _ => true
  | _ => false

/-- The next input for which `p` holds, and the others in their order (DESIGN CHOICE, log 1). -/
def takeInput (p : Instr → Bool) : List Instr → Option (Instr × List Instr)
  | [] => none
  | i :: rest =>
    if p i then some (i, rest)
    else match takeInput p rest with
      | some (j, l) => some (j, i :: l)
      | none => none

/-- A request of a peer. -/
def fromPeer : Instr → Bool
  | .peerMemoryRequest _ => true
  | _ => false

/-- The input that acts next at the end of a cycle: those of peers, then those of hosts (R254; DESIGN CHOICE, log 1). -/
def lastInput (l : List Instr) : Option (Instr × List Instr) :=
  match takeInput fromPeer l with
  | some x => some x
  | none => takeInput hostLast l

/-- The end of a cycle: the requests of peers, the hosts' accesses, what else happens outside, and the passing of a base cycle (R254, R267, R404;
DESIGN CHOICE, log 1; DESIGN CHOICE, log 7). -/
def endCycle (s : State) : Host.Outcome State Fault Refusal :=
  match lastInput s.inputs with
  | some (i, rest) => exec i { s with inputs := rest }
  | none =>
    match s.acts with
    | a :: rest => .next (({ s with acts := rest } : State).outside a)
    | [] => .next s.advance

end Sys2Proof.Machine
end

