-- ==== Sys2Proof/Machine/Step.lean ====
section
/-! DEFINITION. One step of the package, and the placing of one instruction as the next to run. -/

namespace Sys2Proof.Machine

open Sys2Proof

/-- One step: an input from outside, an event that is due, a core's attempt to issue, an event that follows the issue, or the
end of the cycle (DESIGN CHOICE, log 1; DEDUCED, log 16). -/
def step (s : State) : Host.Outcome State Fault Refusal :=
  match takeInput (fun i => !hostLast i) s.inputs with
  | some (i, rest) => exec i { s with inputs := rest }
  | none =>
    match s.eventBefore with
    | some r => r
    | none =>
      match s.usedCores.find? s.mayTry with
      | some k => s.issueOrGrant k
      | none =>
        match s.eventAfter with
        | some r => r
        | none => endCycle s

/-- The 64 bytes of a bundle whose low `nbits` bits are `w`. -/
def fetchBytes (nbits w : Nat) : List Byte := natToBytes 64 (w % 2 ^ nbits)

/-- A context that may issue the bundle of these bytes at its PC at once (DEDUCED, log 16). -/
def Ctx.placed (c : Ctx) (bytes : List Byte) : Ctx :=
  { c with
    status := .ready
    frozen := false
    parked := none
    leaseWanted := none
    notBefore := 0
    pend := []
    replay := []
    returning := none
    phWait := []
    line := some (c.pc, .bytes bytes) }

/-- `s` with the bundle whose low `nbits` bits are `w` as the line that context 0 issues in the very next step (DEDUCED, log
16). -/
def State.withFetchWord (s : State) (nbits w : Nat) : State :=
  let c := (s.ctx 0).placed (fetchBytes nbits w)
  { s with
    inputs := []
    pk := { s.pk with poweredOn := true }
    ctxs := [(0, c)]
    cores := []
    cmds := [] }

end Sys2Proof.Machine
end

