-- ==== Sys2Proof/Safety.lean ====
section
/-! DEFINITION. The terms in which claims about the machine are made: storage in canonical form, what it means that an
instruction takes effect, and the parts of the state that a claim says are unchanged. -/

namespace Sys2Proof.Machine

open Sys2Proof

/-- Memory in its canonical form: addresses strictly rising, and no byte listed that an unlisted address reads as (DESIGN
CHOICE, log 2). -/
def Memory.wf (m : Store 8) : Bool := m.wf

/-- The memories of the package, of the hosts and of the peers, and the staging window, are in canonical form. -/
def State.memWf (s : State) : Bool :=
  Memory.wf s.mem && Memory.wf s.hostMem && Memory.wf s.hostMem1 && Memory.wf s.peerMem && Memory.wf s.staging

/-- A slot instruction takes effect: every slot of its bundle has passed its checks, or it is issued by itself and its
fields are legal (R50, R53). -/
def State.performs (s : State) (i : Instr) : Prop := s.issue.phase = .act ∨ (s.issue.phase = .whole ∧ i.wf = true)

/-- The step stops the machine. -/
def State.stops (s : State) : Prop := ∃ r, step s = .fault r

/-- The comparison that condition code `cc` of `scmp` names (R121). -/
def ccHolds (cc : Nat) (a b : Word) : Prop :=
  match cc with
  | 0 => a = b
  | 1 => a ≠ b
  | 2 => a.toInt < b.toInt
  | 3 => a.toInt ≤ b.toInt
  | 4 => a.toInt > b.toInt
  | 5 => a.toInt ≥ b.toInt
  | 6 => a.toNat < b.toNat
  | 7 => a.toNat ≤ b.toNat
  | 8 => a.toNat > b.toNat
  | _ => a.toNat ≥ b.toNat

/-- Element `e` of width `w` of `v` holds `f e` reduced to the width, for every element (R130). -/
def elemsAre (w : Nat) (v : VWord) (f : Nat → Int) : Prop := ∀ e < 1024 / w, (elem v w e : Int) = f e % 2 ^ w

/-- The bits of element `e` are enabled just where bit ⌊e × w / 32⌋ of the mask is set (R59, R131). -/
def lanesAre (w : Nat) (m : Mask) (lanes : VWord) : Prop :=
  ∀ e < 1024 / w, ∀ b < w, lanes.getLsbD (w * e + b) = m.getLsbD (e * w / 32)

/-- Landing mask `k` of a vector result has bit `g` set just where an active element governed by `g` raised flag `k` (R35). -/
def flagsAre (w : Nat) (m : Mask) (fl : List Mask) (f : Nat → FpFlags) : Prop :=
  ∀ k < 6, ∀ g < 32, ((fl[k]?).getD 0).getLsbD g = true ↔
    ∃ e < 1024 / w, e * w / 32 = g ∧ m.getLsbD g = true ∧ (f e).getLsbD k = true

/-- The semaphores that a sync tail uses exist in the group of the context under issue (R64, R268). -/
def State.tailOk (s : State) (t : BitVec 24) : Prop :=
  (tailWT t ≠ 0 → tailWS t < (s.group s.me.gid).nsems) ∧ (tailInc t ≠ 0 → tailSS t < (s.group s.me.gid).nsems)

/-- A queue has room for one more command (R84). -/
def State.hasRoom (s : State) (q : QueueId) : Prop := (s.cmds.filter fun c => c.queue == q).length < q.capacity

/-- An access of `n` bytes at `a`, aligned to `al`, lies in the scratchpad or side bank of the context under issue (R158). -/
def State.padOk (s : State) (side : Bool) (a : Word) (n al : Nat) : Prop :=
  a.toNat % al = 0 ∧ a.toNat + n ≤ s.myGroup.limit side

/-- The gate of the open region, if there is one, has room for one more entry (R246, R247). -/
def State.gateRoom (s : State) : Prop := ∀ r, s.me.region = some r → r.entries < 64

/-- The far-load queue of the context under issue has room for the entry of its slot, those of earlier slots of the bundle counted (R237). -/
def State.farRoom (s : State) (slot : Nat) : Prop :=
  s.me.far.length + (s.issue.pushers.filter fun k => decide (k < slot)).length < 64

/-- No walk for an address of the bundle's store or atomic is outstanding (R240). -/
def State.noWalk (s : State) (ea : Word) : Prop := ∀ t, s.me.walk = some (ea, t) → t ≤ s.myCycle

/-- The context under issue may name phaser `n`: a local phaser from a serai, a package phaser that its consignment binds
(R273, R321). -/
def State.phNamed (s : State) (n : Nat) : Prop := (n < 64 → isSerai s.issue.cid = true) ∧ (64 ≤ n → n < 64 + s.phBound s.me)

/-- The parcel may arrive at phaser `n` with registration `r`: it signals, and has not arrived two phases ahead (R277). -/
def State.mayArrive (s : State) (n : Nat) (r : PhReg) : Prop :=
  s.phNamed n ∧ s.me.phReg? n = some r ∧ r.mode ≠ 2 ∧ r.ap ≠ phaseAdd (s.phSeen s.me.gid n) 2

/-- No active loop level has its last body bundle among a transfer of the bundle under issue and its two delay bundles (R94). -/
def State.delayFree (s : State) : Prop := ∀ l ∈ s.me.loops, l.endsIn s.issue.pc 3 = false

/-- The commands of `t` are those of `s` with the command of identity `id` changed by `f`. -/
def cmdChanged (s t : State) (id : Nat) (f : Cmd → Cmd) : Prop := t.cmds = s.cmds.map fun x => if x.id = id then f x else x

/-- From `s` to `t` command `c` has sent the flit `f` to the next rank of its ring and nothing else: to an engine of this package, or on the wire
(R394, R397). -/
def flitSent (s t : State) (c : Cmd) (f : Flit) : Prop :=
  let e := c.ring.getD ((c.occ + 1) % c.aux) (0, 0)
  (e.1 = s.pace.pkg → t.inputs = s.inputs ++ [.colFlitReceive e.2 f] ∧ t.outbox = s.outbox) ∧
    (e.1 ≠ s.pace.pkg → t.inputs = s.inputs ∧ t.outbox = s.outbox ++ [.flit e.1 e.2 f])

/-- Consignment `k` is being ended with a status and a reason (R351, R361). -/
def State.conEnding (s : State) (k status reason : Nat) : Prop :=
  ∃ y, s.con? k = some y ∧ y.state = .killing ∧ y.status = status ∧ y.reason = reason

/-- Two states have the same bytes at every address of the memories of the package, the hosts and the peers. -/
def sameMemory (s t : State) : Prop :=
  ∀ a, t.mem.get a = s.mem.get a ∧ t.hostMem.get a = s.hostMem.get a ∧ t.hostMem1.get a = s.hostMem1.get a ∧
    t.peerMem.get a = s.peerMem.get a

/-- From `s` to `t` the package memory has taken the bytes `bs` at `a` and after them the bytes `ds` at `d`, and no other byte. -/
def entryWritten (s t : State) (a : Nat) (bs : List Byte) (d : Nat) (ds : List Byte) : Prop :=
  ∀ x, t.mem.get x = if d ≤ x ∧ x < d + ds.length then (ds[x - d]?).getD 0
    else if a ≤ x ∧ x < a + bs.length then (bs[x - a]?).getD 0 else s.mem.get x

end Sys2Proof.Machine
end

