-- ==== Sys2Proof/Certificates/Slice0/Obligations.lean ====
section
/-! DEFINITION. The statements about the machine, each from the rules of the manual that its docstring names. -/

open Sys2Proof Sys2Proof.Machine

/-! ## The S slot -/

/-- R54.  A write to s0 or a0 starts no result and changes nothing, so it counts for no write conflict; s0 and a0 read zero
whatever the files hold; any other register reads what its file holds and a write replaces that one entry. -/
def Obligations.ZeroRegistersDiscardWrites : Prop :=
  (∀ (s : State) (slot lat : Nat) (x : Word), s.landS slot 0 x lat = s ∧ s.landA slot 0 x lat = s) ∧
  (∀ c : Ctx, c.rs 0 = 0 ∧ c.ra 0 = 0) ∧
  (∀ (c : Ctx) (x : Word), c.ws 0 x = c ∧ c.wa 0 x = c) ∧
  (∀ (c : Ctx) (r q : BitVec 6) (x : Word), r ≠ 0 → (c.ws r x).rs q = if q = r then x else c.rs q) ∧
  (∀ (c : Ctx) (r q : BitVec 5) (x : Word), r ≠ 0 → (c.wa r x).ra q = if q = r then x else c.ra q) ∧
  Dest.reg (.s 0) = none ∧ Dest.reg (.a 0) = none

/-- R120, R56.  The second operand: a register, or imm32 sign-extended, or with an `xim` the 56 bits that CO and imm32 form.  R121.  Immediates and moves. -/
def Obligations.ImmediateAndMoveResults : Prop :=
  (∀ (s : State) (x : SW),
    (x.fn.getLsbD 0 = false → s.opB x = s.me.rs x.sb) ∧
    (x.fn.getLsbD 0 = true → s.opB x = s.immOf x) ∧
    (s.issue.xim = none → (s.immOf x).toInt = x.imm.toInt) ∧
    (∀ co : BitVec 24, s.issue.xim = some co →
      (s.immOf x).toInt = (BitVec.ofNat 56 (co.toNat * 2 ^ 32 + x.imm.toNat)).toInt)) ∧
  (∀ (s : State) (x : SW),
    (s.performs (.li x) → exec (.li x) s = .next (s.landS 0 x.sd (s.immOf x) 1)) ∧
    (s.performs (.addi x) → exec (.addi x) s = .next (s.landS 0 x.sd (s.me.rs x.sa + s.immOf x) 1)) ∧
    (s.performs (.lih x) → exec (.lih x) s = .next (s.landS 0 x.sd
      (BitVec.ofNat 64 (x.imm.toNat * 2 ^ 32 + (s.me.rs x.sa).toNat % 2 ^ 32)) 1)) ∧
    (s.performs (.mov x) → exec (.mov x) s = .next (s.landS 0 x.sd (s.me.rs x.sa) 1)) ∧
    (s.performs (.s2a x) → exec (.s2a x) s = .next (s.landA 0 (x.sd.extractLsb' 0 5) (s.me.rs x.sa) 1)) ∧
    (s.performs (.a2s x) → exec (.a2s x) s = .next (s.landS 0 x.sd (s.me.ra (x.sa.extractLsb' 0 5)) 1)))

/-- R121.  Sums, differences, logic, minima, maxima, comparisons and selections land their value in sd one cycle later, and
change nothing else. -/
def Obligations.IntegerResults : Prop :=
  ∀ (s : State) (x : SW) (a b : Word), a = s.me.rs x.sa → b = s.opB x →
    (s.performs (.add x) → exec (.add x) s = .next (s.landS 0 x.sd (a + s.me.rs x.sb) 1)) ∧
    (s.performs (.sub x) → exec (.sub x) s = .next (s.landS 0 x.sd (a - s.me.rs x.sb) 1)) ∧
    (s.performs (.and x) → exec (.and x) s = .next (s.landS 0 x.sd (a &&& b) 1)) ∧
    (s.performs (.or x) → exec (.or x) s = .next (s.landS 0 x.sd (a ||| b) 1)) ∧
    (s.performs (.xor x) → exec (.xor x) s = .next (s.landS 0 x.sd (a ^^^ b) 1)) ∧
    (s.performs (.andn x) → exec (.andn x) s = .next (s.landS 0 x.sd (a &&& ~~~b) 1)) ∧
    (s.performs (.min x) → exec (.min x) s = .next (s.landS 0 x.sd
      (if x.fn.getLsbD 1 then BitVec.ofNat 64 (min a.toNat b.toNat) else BitVec.ofInt 64 (min a.toInt b.toInt)) 1)) ∧
    (s.performs (.max x) → exec (.max x) s = .next (s.landS 0 x.sd
      (if x.fn.getLsbD 1 then BitVec.ofNat 64 (max a.toNat b.toNat) else BitVec.ofInt 64 (max a.toInt b.toInt)) 1)) ∧
    (s.performs (.scmp x) → ∃ v : Word, exec (.scmp x) s = .next (s.landS 0 x.sd v 1) ∧
      (ccHolds (x.fn.extractLsb' 1 4).toNat a b → v = 1) ∧ (¬ ccHolds (x.fn.extractLsb' 1 4).toNat a b → v = 0)) ∧
    (s.performs (.sel x) → exec (.sel x) s = .next (s.landS 0 x.sd
      (if s.me.rs (x.imm.extractLsb' 0 6) ≠ 0 then a else s.me.rs x.sb) 1))

/-- R121, R122.  Shifts take the amount b[5:0], so an amount of 64 shifts by 0; `sra` rounds toward minus infinity.  R121, R122.  Counts of bits and bit fields: each result bit is given by bits of the operands. -/
def Obligations.ShiftAndBitFieldResults : Prop :=
  (∀ (s : State) (x : SW) (a : Word) (k : Nat), a = s.me.rs x.sa → k = (s.opB x).toNat % 64 →
    (s.performs (.shl x) → exec (.shl x) s = .next (s.landS 0 x.sd (BitVec.ofNat 64 (a.toNat * 2 ^ k)) 1)) ∧
    (s.performs (.shr x) → exec (.shr x) s = .next (s.landS 0 x.sd (BitVec.ofNat 64 (a.toNat / 2 ^ k)) 1)) ∧
    (s.performs (.sra x) → exec (.sra x) s = .next (s.landS 0 x.sd (BitVec.ofInt 64 (a.toInt / 2 ^ k)) 1)) ∧
    (s.performs (.rotl x) → ∃ v : Word, exec (.rotl x) s = .next (s.landS 0 x.sd v 1) ∧
      ∀ i < 64, v.getLsbD ((i + k) % 64) = a.getLsbD i) ∧
    (s.issue.phase = .whole → x.fn.getLsbD 0 = true → x.imm.extractLsb' 6 26 ≠ 0 →
      ∀ i ∈ [Instr.shl x, .shr x, .sra x, .rotl x], exec i s = .next (s.issueTrap 0 .illop 0))) ∧
  (∀ (s : State) (x : SW) (a : Word) (pos len : Nat), a = s.me.rs x.sa →
    pos = (x.imm.extractLsb' 0 6).toNat → len = (x.imm.extractLsb' 6 7).toNat →
    (s.performs (.clz x) → ∃ n ≤ 64, exec (.clz x) s = .next (s.landS 0 x.sd (BitVec.ofNat 64 n) 1) ∧
      (∀ i < n, a.getLsbD (63 - i) = false) ∧ (n < 64 → a.getLsbD (63 - n) = true)) ∧
    (s.performs (.ctz x) → ∃ n ≤ 64, exec (.ctz x) s = .next (s.landS 0 x.sd (BitVec.ofNat 64 n) 1) ∧
      (∀ i < n, a.getLsbD i = false) ∧ (n < 64 → a.getLsbD n = true)) ∧
    (s.performs (.popc x) → exec (.popc x) s =
      .next (s.landS 0 x.sd (BitVec.ofNat 64 ((List.range 64).countP fun i => a.getLsbD i)) 1)) ∧
    (s.performs (.bfx x) → ∃ v : Word, exec (.bfx x) s = .next (s.landS 0 x.sd v 1) ∧
      (Instr.wf (.bfx x) = true → ∀ i < 64, v.getLsbD i =
        if i < len then a.getLsbD (pos + i) else (x.fn.getLsbD 0 && a.getLsbD (pos + len - 1)))) ∧
    (s.performs (.bfi x) → ∃ v : Word, exec (.bfi x) s = .next (s.landS 0 x.sd v 1) ∧
      (Instr.wf (.bfi x) = true → ∀ i < 64, v.getLsbD i =
        if pos ≤ i ∧ i < pos + len then (s.me.rs x.sb).getLsbD (i - pos) else a.getLsbD i)) ∧
    (s.issue.phase = .whole → len = 0 ∨ 64 < len ∨ 64 < pos + len ∨ x.imm.extractLsb' 13 19 ≠ 0 →
      ∀ i ∈ [Instr.bfx x, .bfi x], exec i s = .next (s.issueTrap 0 .illop 0)))

/-- R123 with R71.  Products and quotients: `mul` lands after 3 cycles, `mulh` after 4, `div` and `rem` after 22 whatever the operands;
division by zero and the signed overflow complete as any other. -/
def Obligations.ProductAndQuotientResults : Prop :=
  ∀ (s : State) (x : SW) (a b : Word), a = s.me.rs x.sa → b = s.opB x →
    (s.performs (.mul x) → exec (.mul x) s = .next (s.landS 0 x.sd (BitVec.ofNat 64 (a.toNat * b.toNat)) 3)) ∧
    (s.performs (.mulh x) →
      (x.fn.extractLsb' 1 2 = 0 → exec (.mulh x) s = .next (s.landS 0 x.sd (BitVec.ofInt 64 (a.toInt * b.toInt / 2 ^ 64)) 4)) ∧
      (x.fn.extractLsb' 1 2 = 1 → exec (.mulh x) s = .next (s.landS 0 x.sd (BitVec.ofNat 64 (a.toNat * b.toNat / 2 ^ 64)) 4)) ∧
      (x.fn.extractLsb' 1 2 = 2 → exec (.mulh x) s = .next (s.landS 0 x.sd (BitVec.ofInt 64 (a.toInt * b.toNat / 2 ^ 64)) 4))) ∧
    (s.issue.phase = .whole → x.fn.extractLsb' 1 2 = 3 → exec (.mulh x) s = .next (s.issueTrap 0 .illop 0)) ∧
    (s.performs (.div x) → ∃ q : Word, exec (.div x) s = .next (s.landS 0 x.sd q 22) ∧
      (b = 0 → q = 0xFFFF_FFFF_FFFF_FFFF#64) ∧
      (b ≠ 0 → x.fn.getLsbD 1 = true → q.toNat = a.toNat / b.toNat) ∧
      (x.fn.getLsbD 1 = false → a.toInt = -2 ^ 63 → b.toInt = -1 → q.toInt = -2 ^ 63) ∧
      (b ≠ 0 → x.fn.getLsbD 1 = false → ¬ (a.toInt = -2 ^ 63 ∧ b.toInt = -1) → q.toInt = a.toInt.tdiv b.toInt)) ∧
    (s.performs (.rem x) → ∃ r : Word, exec (.rem x) s = .next (s.landS 0 x.sd r 22) ∧
      (b = 0 → r = a) ∧
      (b ≠ 0 → x.fn.getLsbD 1 = true → r.toNat = a.toNat % b.toNat) ∧
      (x.fn.getLsbD 1 = false → a.toInt = -2 ^ 63 → b.toInt = -1 → r = 0) ∧
      (b ≠ 0 → x.fn.getLsbD 1 = false → r.toInt = a.toInt.tmod b.toInt))

/-- R128, R129 with R71.  The binary64 instructions: the value and the flags are those of the rounded operation, and the result lands
after the latency of its row. -/
def Obligations.Binary64Results : Prop :=
  ∀ (s : State) (x : SW) (a b c : Fp),
    a = Fp.ofBits fmt64 (s.me.rs x.sa).toNat → b = Fp.ofBits fmt64 (s.me.rs x.sb).toNat →
    c = Fp.ofBits fmt64 (s.me.rs (x.imm.extractLsb' 0 6)).toNat →
    (∀ (i : Instr) (lat : Nat) (r : Nat × FpFlags),
      (i, lat, r) ∈
        [(Instr.faddD x, 4, fpAdd fmt64 s.rm a b), (.fsubD x, 4, fpSub fmt64 s.rm a b), (.fmulD x, 4, fpMul fmt64 s.rm a b),
         (.fmaD x, 4, fpFma fmt64 s.rm false false a b c), (.fdivD x, 24, fpDiv fmt64 s.rm a b),
         (.fsqrtD x, 30, fpSqrt fmt64 s.rm a),
         (.fminD x, 2, fpMinMax fmt64 false (s.me.rs x.sa).toNat (s.me.rs x.sb).toNat),
         (.fmaxD x, 2, fpMinMax fmt64 true (s.me.rs x.sa).toNat (s.me.rs x.sb).toNat),
         (.fclassD x, 2, (fpClass fmt64 (s.me.rs x.sa).toNat, 0))] →
      s.performs i → exec i s = .next (s.landFp 0 x.sd (BitVec.ofNat 64 r.1) lat r.2)) ∧
    (s.performs (.fcmpD x) → ∃ v : Word, exec (.fcmpD x) s =
        .next (s.landFp 0 x.sd v 2 (fpCmp (x.fn.extractLsb' 0 3) a b).2) ∧
      v = if (fpCmp (x.fn.extractLsb' 0 3) a b).1 then 1 else 0) ∧
    (s.performs (.fcvt x) → ∃ f t : BitVec 4,
      f = fcvtType (x.fn.extractLsb' 0 3) ∧ t = fcvtType (x.fn.extractLsb' 3 3) ∧
      exec (.fcvt x) s = .next (s.landFp 0 x.sd
        (BitVec.ofNat 64 (scalarOf t (convElem s.rm f t ((s.me.rs x.sa).toNat % 2 ^ elemWidth f)).1)) 3
        (convElem s.rm f t ((s.me.rs x.sa).toNat % 2 ^ elemWidth f)).2))

/-! ## The vector slots -/

/-- R133 to R135 with R130, R131 and R71.  Integer and bit instructions: each element of the result, as a number reduced to the element's
width, and the lanes that it will replace.  A and B are the operands' elements with the signedness of the type.  R134.  Vector shifts: the amount is FN[6:1], or the low bits of the element of vb. -/
def Obligations.VectorIntegerResults : Prop :=
  (∀ (s : State) (x : VW) (w : Nat) (a b c : Nat → Nat) (A B : Nat → Int) (sat : Int → Int),
    w = elemWidth x.ty → a = s.elA x w → b = s.elB x w → c = s.elC x w →
    A = (fun e => intVal w (elemSigned x.ty) (a e)) → B = (fun e => intVal w (elemSigned x.ty) (b e)) →
    sat = (fun v => if x.fn.getLsbD 0 then max (typeMin w (elemSigned x.ty)) (min (typeMax w (elemSigned x.ty)) v) else v) →
    ∀ (i : Instr) (lat : Nat) (f : Nat → Int),
      (i, lat, f) ∈
        [(Instr.vadd x, 2, fun e => sat (A e + B e)), (.vsub x, 2, fun e => sat (A e - B e)),
         (.vand x, 2, fun e => ((a e &&& b e : Nat) : Int)), (.vor x, 2, fun e => ((a e ||| b e : Nat) : Int)),
         (.vxor x, 2, fun e => ((a e ^^^ b e : Nat) : Int)),
         (.vmin x, 2, fun e => min (A e) (B e)), (.vmax x, 2, fun e => max (A e) (B e)),
         (.vabs x, 2, fun e => if elemFp x.ty then (a e % 2 ^ (w - 1) : Nat) else ((A e).natAbs : Int)),
         (.vneg x, 2, fun e => if elemFp x.ty then (a e : Int) + 2 ^ (w - 1) else - A e),
         (.vcmp x, 2, fun e => if icmpHolds (x.fn.extractLsb' 0 4).toNat (A e) (B e) then -1 else 0),
         (.vsel x, 2, fun e => if c e ≠ 0 then a e else b e),
         (.vclz x, 2, fun e => if a e = 0 then w else w - 1 - Nat.log2 (a e)),
         (.vpopc x, 2, fun e => ((List.range w).countP fun k => (a e).testBit k : Nat)),
         (.vidx x, 2, fun e => e), (.vmov x, 2, fun e => a e),
         (.vsplat x, 2, fun _ => (s.me.rs (x.va.extractLsb' 0 6)).toNat),
         (.vmul x, 4, fun e => A e * B e), (.vmulh x, 4, fun e => A e * B e / 2 ^ w),
         (.vmadd x, 4, fun e => A e * B e + c e),
         (.vperm x, 3, fun e => if b e < 1024 / w then a (b e) else 0),
         (.vrot x, 3, fun e => a ((e + s.rotK x) % (1024 / w))),
         (.vext x, 3, fun e =>
           if e + (x.fn.extractLsb' 0 7).toNat < 1024 / w then a (e + (x.fn.extractLsb' 0 7).toNat)
           else b (e + (x.fn.extractLsb' 0 7).toNat - 1024 / w)),
         (.vfclass x, 2, fun e => fpClass (fmtOf x.ty) (a e))] →
      s.performs i → ∃ v lanes, exec i s = .next (s.landV (vslot x) x.vd v lanes lat []) ∧ elemsAre w v f ∧
        lanesAre w (s.me.mkMask x.sel) lanes) ∧
  (∀ (s : State) (x : VW) (w : Nat) (a k : Nat → Nat), w = elemWidth x.ty → a = s.elA x w →
    k = (fun e => if x.fn.getLsbD 0 then x.fn.toNat / 2 % 64 else s.elB x w e % w) →
    ∀ (i : Instr) (f : Nat → Int),
      (i, f) ∈
        ([(.vshl x, fun e => (a e : Int) * 2 ^ k e), (.vshr x, fun e => (a e : Int) / 2 ^ k e),
          (.vsra x, fun e => intVal w true (a e) / 2 ^ k e)] : List (Instr × (Nat → Int))) →
      s.performs i → ∃ v lanes, exec i s = .next (s.landV (vslot x) x.vd v lanes 2 []) ∧ elemsAre w v f ∧
        lanesAre w (s.me.mkMask x.sel) lanes)

/-- R136, R137 with R71.  Floating-point arithmetic by element: value, flags of the active elements, and latency, which is longer for
binary64 division and root. -/
def Obligations.VectorFloatResults : Prop :=
  ∀ (s : State) (x : VW) (w : Nat) (F : Fmt) (a b : Nat → Nat) (A B C : Nat → Fp),
    w = elemWidth x.ty → F = fmtOf x.ty → a = s.elA x w → b = s.elB x w →
    A = (fun e => Fp.ofBits F (a e)) → B = (fun e => Fp.ofBits F (b e)) → C = (fun e => Fp.ofBits F (s.elC x w e)) →
    ∀ (i : Instr) (lat : Nat) (f : Nat → Nat × FpFlags),
      (i, lat, f) ∈
        [(Instr.vfadd x, 4, fun e => fpAdd F s.rm (A e) (B e)), (.vfsub x, 4, fun e => fpSub F s.rm (A e) (B e)),
         (.vfmin x, 4, fun e => fpMinMax F false (a e) (b e)), (.vfmax x, 4, fun e => fpMinMax F true (a e) (b e)),
         (.vfcmp x, 4, fun e =>
           (if (fpCmp (x.fn.extractLsb' 0 3) (A e) (B e)).1 then 2 ^ w - 1 else 0, (fpCmp (x.fn.extractLsb' 0 3) (A e) (B e)).2)),
         (.vfmul x, 5, fun e => fpMul F s.rm (A e) (B e)),
         (.vfma x, 5, fun e => fpFma F s.rm false false (A e) (B e) (C e)),
         (.vfms x, 5, fun e => fpFma F s.rm false true (A e) (B e) (C e)),
         (.vfnma x, 5, fun e => fpFma F s.rm true false (A e) (B e) (C e)),
         (.vfdiv x, if x.ty = 8#4 then 24 else 16, fun e => fpDiv F s.rm (A e) (B e)),
         (.vfsqrt x, if x.ty = 8#4 then 28 else 18, fun e => fpSqrt F s.rm (A e)),
         (.vmxunpack x, 6, fun e => expandMx (x.fn.toNat % 8) F
           (mxElemAt (x.fn.toNat % 8) (s.me.rv x.va) (e / 32) (e % 32)) (elem (s.me.rv x.va) 8 (64 + e / 32)))] →
      s.performs i → ∃ v lanes fl, exec i s = .next (s.landV (vslot x) x.vd v lanes lat fl) ∧
        elemsAre w v (fun e => (f e).1) ∧ lanesAre w (s.me.mkMask x.sel) lanes ∧
        flagsAre w (s.me.mkMask x.sel) fl (fun e => (f e).2)

/-- R138, R139.  `vcvt` converts the elements of part P: a widening reads part P of va, a narrowing writes part P of vd and leaves the
other parts.  The flags are those of the conversions of the active elements of the part (R136). -/
def Obligations.VectorConversionResults : Prop :=
  ∀ (s : State) (x : VW) (src : BitVec 4) (p wS wT : Nat) (conv : Nat → Nat × FpFlags),
    src = x.fn.extractLsb' 3 4 → p = (x.fn.extractLsb' 0 3).toNat → wS = elemWidth src → wT = elemWidth x.ty →
    conv = (fun e => convElem s.rm src x.ty (elem (s.me.rv x.va) wS (if wS < wT then p * (1024 / wT) + e else e - p * (1024 / wS)))) →
    s.performs (.vcvt x) → ∃ v lanes fl, exec (.vcvt x) s = .next (s.landV (vslot x) x.vd v lanes 3 fl) ∧
      (wS < wT → ∀ e < 1024 / wT, elem v wT e = (conv e).1 % 2 ^ wT) ∧
      (wT ≤ wS → ∀ e < 1024 / wS, p * (1024 / wS) + e < 1024 / wT → elem v wT (p * (1024 / wS) + e) = (conv (p * (1024 / wS) + e)).1 % 2 ^ wT) ∧
      (∀ k < 6, ∀ g < 32, ((fl[k]?).getD 0).getLsbD g = true ↔ ∃ e < 1024 / wT, e * wT / 32 = g ∧ (s.me.mkMask x.sel).getLsbD g = true ∧
        (wS < wT ∨ (p * (1024 / wS) ≤ e ∧ e < p * (1024 / wS) + 1024 / wS)) ∧ (conv e).2.getLsbD k = true) ∧
      (∀ e < 1024 / wT, ∀ b < wT, lanes.getLsbD (wT * e + b) =
        ((s.me.mkMask x.sel).getLsbD (e * wT / 32) &&
          (decide (wS < wT) || (decide (p * (1024 / wS) ≤ e) && decide (e < p * (1024 / wS) + 1024 / wS)))))

/-- R140, R141, R143 to R146 with R71.  Reductions and scans combine the active elements in ascending order, with the flags of each
step, and land after 8 and 10 cycles; where no element is active they write nothing, and start no result (the model's choice, log 87).
`v2s` lands an element, sign-extended for .i types.  `vmxpack` lands the packed blocks of R43 in the layout of R140 after 6 cycles, with the
flags of each block; `vhash.srp` lands the signs of its sixteen sums on one 32-bit lane after 12. -/
def Obligations.CrossLaneResults : Prop :=
  ∀ (s : State) (x : VW) (w : Nat) (m : Mask) (a : Nat → Nat), w = elemWidth x.ty → m = s.me.mkMask x.sel → a = s.elA x w →
    (s.performs (.vred x) → (∀ e < 1024 / w, m.getLsbD (e * w / 32) = false) → exec (.vred x) s = .next s) ∧
    (s.performs (.vscan x) → (∀ e < 1024 / w, m.getLsbD (e * w / 32) = false) → exec (.vscan x) s = .next s) ∧
    (∀ (op : Nat) (comb : Nat → Nat → Nat × FpFlags) (acc : Nat → Option Nat) (fl : Nat → FpFlags),
      (op, comb) ∈ ([(0, fun y z => ((y + z) % 2 ^ w, 0)),
        (1, fun y z => (if intVal w (elemSigned x.ty) y ≤ intVal w (elemSigned x.ty) z then y else z, 0)),
        (2, fun y z => (if intVal w (elemSigned x.ty) y ≤ intVal w (elemSigned x.ty) z then z else y, 0)),
        (3, fun y z => (y &&& z, 0)), (4, fun y z => (y ||| z, 0)), (5, fun y z => (y ^^^ z, 0)),
        (8, fun y z => fpAdd (fmtOf x.ty) s.rm (Fp.ofBits (fmtOf x.ty) y) (Fp.ofBits (fmtOf x.ty) z)),
        (9, fun y z => fpMinMax (fmtOf x.ty) false y z), (10, fun y z => fpMinMax (fmtOf x.ty) true y z)] :
          List (Nat × (Nat → Nat → Nat × FpFlags))) →
      acc 0 = none → (∀ e < 1024 / w, acc (e + 1) = if m.getLsbD (e * w / 32) = true then
        some (match acc e with | none => (firstAcc x.ty (a e)).1 | some y => (comb y (a e)).1) else acc e) →
      fl = (fun e => match acc e with | none => (firstAcc x.ty (a e)).2 | some y => (comb y (a e)).2) →
      (∃ e < 1024 / w, m.getLsbD (e * w / 32) = true) → x.fn.toNat = op →
      (s.performs (.vred x) → ∃ v lanes f, exec (.vred x) s = .next (s.landV (vslot x) x.vd v lanes 8 f) ∧ lanesAre w m lanes ∧
        flagsAre w m f fl ∧ ∀ e < 1024 / w, elem v w e = ((acc (1024 / w)).getD 0) % 2 ^ w) ∧
      (s.performs (.vscan x) → ∃ v lanes f, exec (.vscan x) s = .next (s.landV (vslot x) x.vd v lanes 10 f) ∧ lanesAre w m lanes ∧
        flagsAre w m f fl ∧ ∀ e < 1024 / w, elem v w e = ((acc (e + 1)).getD 0) % 2 ^ w)) ∧
    (s.performs (.v2s x) → ∃ y : Word, exec (.v2s x) s = .next (s.landS (vslot x) (x.vd.extractLsb' 0 6) y 3) ∧
      y = BitVec.ofInt 64 (intVal w (elemSigned x.ty) (s.elA x w (s.rotK x)))) ∧
    (∀ (t nb : Nat) (blk : Nat → MxBlock), t = x.fn.toNat % 8 → nb = (if x.ty = 11#4 then 2 else 1) →
      blk = (fun b => packBlock t ((List.range 32).map fun i => Fp.ofBits (fmtOf x.ty) (a (32 * b + i)))) →
      s.performs (.vmxpack x) → ∃ v fl, exec (.vmxpack x) s = .next (s.landV (vslot x) x.vd v (BitVec.allOnes 1024) 6 fl) ∧
        (∀ b < nb, elem v 8 (64 + b) = (blk b).scale % 2 ^ 8 ∧
          (t ≠ 4 → ∀ i < 32, elem v 8 (32 * b + i) = (((blk b).elems[i]?).getD 0) % 2 ^ 8) ∧
          (t = 4 → ∀ i < 16, elem v 8 (32 * b + 16 + i) = 0 ∧
            elem v 8 (32 * b + i) = (((blk b).elems[2 * i]?).getD 0 + 16 * ((blk b).elems[2 * i + 1]?).getD 0) % 2 ^ 8)) ∧
        (nb = 1 → elem v 8 65 = 0 ∧ ∀ i < 32, elem v 8 (32 + i) = 0) ∧ (∀ i < 62, elem v 8 (66 + i) = 0) ∧
        (∀ k < 6, ∀ g < 32, ((fl[k]?).getD 0).getLsbD g = true ↔ g < nb ∧ (blk g).flags.getLsbD k = true)) ∧
    (∀ total : Nat → Nat, total = (fun j => (List.range 32).foldl (fun y i => (fpFma fmt32 s.rm false false
        (Fp.ofBits fmt32 (elem (s.me.rv x.va) 32 i)) (Fp.ofBits fmt32 (elem (s.me.rv (BitVec.ofNat 10 (x.vb.toNat + j))) 32 i))
        (Fp.ofBits fmt32 y)).1) 0) →
      s.performs (.vhashSrp x) → ∃ v lanes, exec (.vhashSrp x) s = .next (s.landV (vslot x) x.vd v lanes 12 []) ∧
      (∀ e < 32, ∀ j < 32, (elem v 32 e).testBit j = (decide (j < 16) && abovePlusZero (total j))) ∧
      (∀ e < 32, ∀ b < 32, lanes.getLsbD (32 * e + b) = decide (e = (x.fn.extractLsb' 0 5).toNat)))

/-- R108, R109 with R71.  The mask instructions on a stack with room, or with an entry, as each asks: the new stack or mask lands one
cycle later, so the bundle's other slots use the old top. -/
def Obligations.MaskResults : Prop :=
  ∀ (s : State) (x : VW) (top : Mask) (rest : List Mask),
    (s.issue.phase = .whole → Instr.wf (.mpush x) = true → s.me.stack.length < 16 →
      exec (.mpush x) s = .next (s.landStack (vslot x)
        ((if x.fn.getLsbD 1 then (if x.fn.getLsbD 0 then s.me.mask x.va.toNat else laneMask (s.me.rv x.va))
          else (if x.fn.getLsbD 0 then s.me.mask x.va.toNat else laneMask (s.me.rv x.va)) &&& s.me.topMask) :: s.me.stack))) ∧
    (s.issue.phase = .whole → Instr.wf (.minv x) = true → s.me.stack = top :: rest →
      exec (.minv x) s = .next (s.landStack (vslot x) (((rest.head?).getD (BitVec.allOnes 32) &&& ~~~top) :: rest))) ∧
    (s.issue.phase = .whole → Instr.wf (.mpop x) = true → s.me.stack = top :: rest →
      exec (.mpop x) s = .next (s.landStack (vslot x) rest)) ∧
    (s.issue.phase = .whole → Instr.wf (.mand x) = true → (x.vd = 1 → s.me.stack ≠ []) →
      exec (.mand x) s = .next (s.landM (vslot x) x.vd.toNat (s.me.mask x.va.toNat &&& s.srcB x))) ∧
    (s.issue.phase = .whole → Instr.wf (.mor x) = true → (x.vd = 1 → s.me.stack ≠ []) →
      exec (.mor x) s = .next (s.landM (vslot x) x.vd.toNat (s.me.mask x.va.toNat ||| s.srcB x))) ∧
    (s.performs (.mcnt x) → exec (.mcnt x) s = .next (s.landS (vslot x) (x.vd.extractLsb' 0 6)
      (BitVec.ofNat 64 ((List.range 32).countP fun i => (s.me.mask x.va.toNat).getLsbD i)) 1)) ∧
    (∀ (v : VWord), ∀ i < 32, (laneMask v).getLsbD i = decide (elem v 32 i ≠ 0))

/-- R109.  A push onto sixteen entries, and `minv`, `mpop` or a write of the top on an empty stack, trap with MSTK.  R158.  A scratchpad access traps with ALIGN on a misaligned address, which comes before the bound, and with SPBOUND past the bound;
TVAL is the address, that of the first failing element of an access by elements (R158, R159). -/
def Obligations.MaskAndScratchTraps : Prop :=
  (∀ (s : State) (x : VW), s.issue.phase = .whole →
    (Instr.wf (.mpush x) = true → 16 ≤ s.me.stack.length → exec (.mpush x) s = .next (s.issueTrap (vslot x) .mstk 0)) ∧
    (∀ i ∈ [Instr.minv x, .mpop x], i.wf = true → s.me.stack = [] → exec i s = .next (s.issueTrap (vslot x) .mstk 0)) ∧
    (∀ i ∈ [Instr.mand x, .mor x], i.wf = true → x.vd = 1 → s.me.stack = [] →
      exec i s = .next (s.issueTrap (vslot x) .mstk 0))) ∧
  (∀ (s : State) (x : LW) (n : Nat), n = 2 ^ (x.fn.extractLsb' 0 2).toNat → s.issue.phase = .whole →
    (∀ p ∈ [(4, Instr.ld x), (5, .st x)], p.2.wf = true →
      ((s.ea x).toNat % n ≠ 0 → exec p.2 s = .next (s.issueTrap p.1 .align (s.ea x))) ∧
      ((s.ea x).toNat % n = 0 → s.myGroup.limit (x.fn.getLsbD 3) < (s.ea x).toNat + n →
        exec p.2 s = .next (s.issueTrap p.1 .spbound (s.ea x)))) ∧
    (∀ p ∈ [(4, Instr.vld x), (5, .vst x)], p.2.wf = true →
      ((s.ea x).toNat % 4 ≠ 0 → exec p.2 s = .next (s.issueTrap p.1 .align (s.ea x))) ∧
      ((s.ea x).toNat % 4 = 0 → s.myGroup.spLim < (s.ea x).toNat + 128 →
        exec p.2 s = .next (s.issueTrap p.1 .spbound (s.ea x)))) ∧
    (∀ (at_ : Nat → Word) (slot : Nat) (i : Instr) (e : Nat), e < 128 / n → i.wf = true →
      ((at_ = s.eaStride x ∧ (slot, i) ∈ [(4, Instr.vlds x), (5, .vsts x)]) ∨
       (at_ = (fun e => s.me.ra x.ab + (BitVec.ofNat 64 (elem (s.me.rv (x.off.extractLsb' 0 10)) (8 * n) e) <<< x.sc.toNat) +
          (x.off.extractLsb' 10 14).signExtend 64) ∧ (slot, i) ∈ [(4, Instr.vldx x), (5, .vstx x)])) →
      (∀ j < e, s.padOk false (at_ j) n n) →
      ((at_ e).toNat % n ≠ 0 → exec i s = .next (s.issueTrap slot .align (at_ e))) ∧
      ((at_ e).toNat % n = 0 → s.myGroup.spLim < (at_ e).toNat + n → exec i s = .next (s.issueTrap slot .spbound (at_ e)))))

/-! ## Control registers -/

/-- R124, R126.  `mfc` lands the view of an assigned register after two cycles; `mtc` starts a write that changes the register two
cycles later.  An index from 0x800 up traps with PRIV in a context that is not privileged, an index that nothing assigns with
ILLOP; an unprivileged write that would change a privileged field traps with PRIV, but on a depot core, which ignores a write of the registers
of the serai (R322).  R124, R7 with R31, R37, R82, R97, R125, R201 and R368.  An `mtc` that lands changes the writable fields of its context register and no other bit of any register; a field of the privileged kind
keeps its value through the trap at issue, LCHK also at the landing; TICK, CYCLE and the place registers ignore writes. -/
def Obligations.ControlRegisterMovesAndWrites : Prop :=
  (∀ (s : State) (x : SW) (idx : Nat) (v : Word), idx = (x.imm.extractLsb' 0 12).toNat → s.issue.phase = .whole →
    (Instr.wf (.mfc x) = true → (idx < 0x800 ∨ s.me.priv = true) → s.crView s.issue.cid idx = some v →
      exec (.mfc x) s = .next (s.landS 0 x.sd v 2)) ∧
    (Instr.wf (.mtc x) = true → (idx < 0x800 ∨ s.me.priv = true) → s.crView s.issue.cid idx = some v →
      (s.me.priv = true ∨ (isDepot s.issue.cid = true ∧ 0x202 ≤ idx ∧ idx ≤ 0x205) ∨ (s.me.rs x.sa ^^^ s.crContents s.issue.cid idx) &&& (crMasks idx).2 = 0) →
      (idx = 0x810 → s.pk.xlBusy = none) → (idx = 0x815 → s.preemptBusy = false) →
      (idx = 0x810 ∨ idx = 0x815 → ∀ p ∈ s.me.pend, p.dest ≠ .cr (BitVec.ofNat 12 idx)) →
      exec (.mtc x) s = .next (s.landCr 0 (BitVec.ofNat 12 idx) (s.me.rs x.sa) 2)) ∧
    (∀ i ∈ [Instr.mfc x, .mtc x], i.wf = true → 0x800 ≤ idx → s.me.priv = false →
      exec i s = .next (s.issueTrap 0 .priv 0)) ∧
    (∀ i ∈ [Instr.mfc x, .mtc x], i.wf = true → (idx < 0x800 ∨ s.me.priv = true) → s.crView s.issue.cid idx = none →
      exec i s = .next (s.issueTrap 0 .illop 0)) ∧
    (Instr.wf (.mtc x) = true → idx < 0x800 → s.me.priv = false → s.crView s.issue.cid idx = some v →
      ¬ (isDepot s.issue.cid = true ∧ 0x202 ≤ idx ∧ idx ≤ 0x205) →
      (s.me.rs x.sa ^^^ s.crContents s.issue.cid idx) &&& (crMasks idx).2 ≠ 0 →
      exec (.mtc x) s = .next (s.issueTrap 0 .priv 0))) ∧
  (∀ (c : Ctx) (x : Word) (inside : Bool) (put : Word → Word → Word), put = (fun m old => (old &&& ~~~m) ||| (x &&& m)) →
    (∀ (idx : Nat) (r : CtxRegs), (idx, r) ∈
      [(0x000, { c.regs with lchk := if c.priv then x.getLsbD 0 else c.regs.lchk, dup := x.getLsbD 1 }),
       (0x001, { c.regs with fpctl := put 0x7F3F03#64 c.regs.fpctl }), (0x002, { c.regs with fpstat := put 0x3F#64 c.regs.fpstat }),
       (0x003, { c.regs with mxstat := put 0xFD#64 c.regs.mxstat }), (0x004, { c.regs with skips := x }),
       (0x005, { c.regs with planesDone := x }), (0x006, { c.regs with planesSkipped := x }),
       (0x008, { c.regs with ssp := put 0x1FFFFFFFFFFFFF8#64 c.regs.ssp }),
       (0x010, { c.regs with tcause := put 0x80000000FFFF07FF#64 c.regs.tcause }), (0x011, { c.regs with tpc := put (~~~63#64) c.regs.tpc }),
       (0x012, { c.regs with tslot := put 7#64 c.regs.tslot }), (0x013, { c.regs with tval := x }),
       (0x014, { c.regs with tlat := put 0xFFFFFFFF#64 c.regs.tlat }), (0x015, { c.regs with tepc := put (~~~63#64) c.regs.tepc }),
       (0x016, { c.regs with thand := put (~~~63#64) c.regs.thand }), (0x017, { c.regs with rbDrop := x.getLsbD 0 }),
       (0x018, { c.regs with tscr0 := x }), (0x019, { c.regs with tscr1 := x })] → (c.crWrite idx x inside).regs = r) ∧
    (∀ k < 16, (c.crWrite (0x040 + k) x inside).regs = { c.regs with tshape := c.regs.tshape.set k x }) ∧
    (∀ idx, (c.crWrite idx x inside).s = c.s ∧ (c.crWrite idx x inside).a = c.a ∧ (c.crWrite idx x inside).v = c.v ∧
      (c.crWrite idx x inside).m = c.m ∧ (c.crWrite idx x inside).stack = c.stack ∧ (c.crWrite idx x inside).pc = c.pc) ∧
    (∀ idx ∈ [0x009, 0x200, 0x201, 0x202, 0x203, 0x300, 0x301, 0x302], c.crWrite idx x inside = c))

/-! ## Scratchpad and global memory -/

/-- R157, R158 with R2 and R71.  Scalar and contiguous vector loads of the scratchpad complete on an aligned address within the bound: with
no region open and no store of its own context in the cycle the result holds the bytes of the scratchpad or side bank, the lowest address lowest, extended by sign or zeros.  R158, R159 with R71.  Strided and indexed loads complete where every element's address is aligned and within the bound: element e of
the result holds the bytes at its own address. -/
def Obligations.ScratchLoadResults : Prop :=
  (∀ (s : State) (x : LW) (n : Nat) (side : Bool) (a : Nat), n = 2 ^ (x.fn.extractLsb' 0 2).toNat → side = x.fn.getLsbD 3 →
    a = (s.ea x).toNat → s.issue.phase = .whole →
    (Instr.wf (.ld x) = true → s.padOk side (s.ea x) n n → s.padPoisoned s.me.gid side a n = false →
      ∃ v : Word, exec (.ld x) s = .next (s.landS 4 (x.dr.extractLsb' 0 6) v 6) ∧
        (s.me.region = none → (∀ l ∈ s.late, l.cid ≠ s.issue.cid) → ∀ i < 64, v.getLsbD i =
          if i < 8 * n then ((s.myGroup.pad side).get (a + i / 8)).getLsbD (i % 8)
          else (x.fn.getLsbD 2 && ((s.myGroup.pad side).get (a + n - 1)).getLsbD 7))) ∧
    (Instr.wf (.vld x) = true → s.padOk false (s.ea x) 128 4 → s.padPoisoned s.me.gid false a 128 = false →
      ∃ v : VWord, exec (.vld x) s = .next (s.landV 4 x.dr v (BitVec.allOnes 1024) 8 []) ∧
        (s.me.region = none → (∀ l ∈ s.late, l.cid ≠ s.issue.cid) → ∀ i < 128, v.extractLsb' (8 * i) 8 = s.myGroup.sp.get (a + i)))) ∧
  (∀ (s : State) (x : LW) (n : Nat), n = 2 ^ (x.fn.extractLsb' 0 2).toNat → s.issue.phase = .whole →
    (Instr.wf (.vlds x) = true →
      (∀ e < 128 / n, s.padOk false (s.eaStride x e) n n ∧ s.padPoisoned s.me.gid false (s.eaStride x e).toNat n = false) →
      ∃ v : VWord, exec (.vlds x) s = .next (s.landV 4 x.dr v (BitVec.allOnes 1024) 12 []) ∧
        (s.me.region = none → (∀ l ∈ s.late, l.cid ≠ s.issue.cid) → ∀ e < 128 / n, elem v (8 * n) e = leNat (s.myGroup.sp.bytes (s.eaStride x e).toNat n))) ∧
    (∀ at_ : Nat → Word,
      at_ = (fun e => s.me.ra x.ab + (BitVec.ofNat 64 (elem (s.me.rv (x.off.extractLsb' 0 10)) (8 * n) e) <<< x.sc.toNat) +
        (x.off.extractLsb' 10 14).signExtend 64) →
      Instr.wf (.vldx x) = true →
      (∀ e < 128 / n, s.padOk false (at_ e) n n ∧ s.padPoisoned s.me.gid false (at_ e).toNat n = false) →
      ∃ v : VWord, exec (.vldx x) s = .next (s.landV 4 x.dr v (BitVec.allOnes 1024) 12 []) ∧
        (s.me.region = none → (∀ l ∈ s.late, l.cid ≠ s.issue.cid) → ∀ e < 128 / n, elem v (8 * n) e = leNat (s.myGroup.sp.bytes (at_ e).toNat n))))

/-- R158, R155, R246.  Scratchpad stores complete where their addresses are aligned and within the bound and the gate has room: with no
region open the bytes wait for the end of the cycle, and with one they wait in its gate; nothing else changes.  R155.  Scratchpad stores of a cycle take effect at its end: after the base cycle passes, every byte of the scratchpad that one store of
the cycle wrote holds what it stored, and every other byte of every group's scratchpad holds what it held.  Before that a load of the
context that stored, with no region open, reads what it stored, and a load of any other reads the scratchpad as it stood. -/
def Obligations.ScratchStoreResults : Prop :=
  (∀ (s : State) (x : LW) (n : Nat) (i : Instr) (side : Bool) (ws : List (Nat × List Byte)),
    n = 2 ^ (x.fn.extractLsb' 0 2).toNat → s.issue.phase = .whole → i.wf = true → s.gateRoom →
    ((i = .st x ∧ side = x.fn.getLsbD 3 ∧ s.padOk side (s.ea x) n n ∧
        ws = [((s.ea x).toNat, natLe n (s.me.rs (x.dr.extractLsb' 0 6)).toNat)]) ∨
     (i = .vst x ∧ side = false ∧ s.padOk false (s.ea x) 128 4 ∧ ws = [((s.ea x).toNat, natLe 128 (s.me.rv x.dr).toNat)]) ∨
     (i = .vsts x ∧ side = false ∧ (∀ e < 128 / n, s.padOk false (s.eaStride x e) n n) ∧
        ws = (List.range (128 / n)).map fun e => ((s.eaStride x e).toNat, natLe n (elem (s.me.rv x.dr) (8 * n) e))) ∨
     (i = .vstx x ∧ side = false ∧ (∀ a ∈ s.indexAddrs x, s.padOk false a n n) ∧
        ws = (List.range (128 / n)).map fun e =>
          (((s.indexAddrs x)[e]?.getD 0).toNat, natLe n (elem (s.me.rv x.dr) (8 * n) e)))) →
    (s.me.region = none →
      exec i s = .next { s with late := s.late ++ ws.map fun w => ⟨s.issue.cid, s.me.gid, side, w.1, w.2⟩ }) ∧
    (∀ r, s.me.region = some r →
      exec i s = .next (s.modMe fun c => { c with region := some { r with gate := r.gate ++ [.scratch side ws] } }))) ∧
  (∀ (s : State) (cid g a : Nat) (data : List Byte), s.late = [⟨cid, g, false, a, data⟩] →
    (∀ k, ((s.advance.group g).sp.get k) = if a ≤ k ∧ k < a + data.length then (data[k - a]?).getD 0 else (s.group g).sp.get k) ∧
    (∀ h, h ≠ g → ∀ k, (s.advance.group h).sp.get k = (s.group h).sp.get k) ∧
    ((s.ctx cid).gid = g → (s.ctx cid).region = none → ∀ k, s.padRead cid false k 1 =
      [if a ≤ k ∧ k < a + data.length then (data[k - a]?).getD 0 else (s.group g).sp.get k]) ∧
    (∀ c k, c ≠ cid → (s.ctx c).region = none → s.padRead c false k 1 = [(s.group (s.ctx c).gid).sp.get k]))

/-- R237, R238, R239 with R71.  A far load with a legal address and room in the queue adds one entry and starts no register result; a pop takes
the oldest entry that is not held: where it has arrived and is of the pop's kind the data lands one cycle later and the entry goes, or is held while a region is open; one of the other kind traps with ACCESS and 6, and no entry with 5; a
waiting entry blocks; one that ended with ACCESS traps with its address, a poisoned one with ECCU, and a FAULTED one parks the fault group on its number, both from
the cycle after the walk's end (R239, R248). -/
def Obligations.FarLoadAndPopResults : Prop :=
  ∀ (s : State) (x : LW) (n : Nat), n = 2 ^ (x.fn.extractLsb' 0 2).toNat → s.issue.phase = .whole →
    (Instr.wf (.ldf x) = true → (s.ea x).toNat % n = 0 → (s.ea x).toNat < 2 ^ 57 → s.farRoom 4 →
      ∃ (e : FarEntry) (t : State), exec (.ldf x) s = .next t ∧ t.me.far = s.me.far ++ [e] ∧ e.kind = .load ∧ e.ea = s.ea x ∧
        e.size = n ∧ e.held = false ∧ t.me.pend = s.me.pend ∧ t.mem = s.mem) ∧
    (Instr.wf (.vldf x) = true → (s.ea x).toNat % 4 = 0 → (s.ea x).toNat < 2 ^ 57 → s.farRoom 4 →
      ∃ (e : FarEntry) (t : State), exec (.vldf x) s = .next t ∧ t.me.far = s.me.far ++ [e] ∧ e.kind = .vector ∧ e.ea = s.ea x ∧
        e.size = 128 ∧ e.held = false ∧ t.me.pend = s.me.pend ∧ t.mem = s.mem) ∧
    (∀ (held rest : List FarEntry) (e : FarEntry), s.me.far = held ++ e :: rest → (∀ f ∈ held, f.held = true) → e.held = false →
      (∀ v, e.data = .arrived v →
        (Instr.wf (.popf x) = true → e.kind ≠ .vector →
          exec (.popf x) s = .next (((s.modMe fun c => c.noteReads e.src).modMe Ctx.popFar).landS 4 (x.dr.extractLsb' 0 6) (v.setWidth 64) 1)) ∧
        (Instr.wf (.vpopf x) = true → e.kind = .vector →
          exec (.vpopf x) s = .next (((s.modMe fun c => c.noteReads e.src).modMe Ctx.popFar).landV 4 x.dr v (BitVec.allOnes 1024) 1 []))) ∧
      ((∀ f ∈ held ++ rest, f.id ≠ e.id) → (s.me.region = none → s.me.popFar = { s.me with far := held ++ rest }) ∧
        (s.me.region.isSome = true → s.me.popFar = { s.me with far := held ++ { e with held := true } :: rest })) ∧
      (∀ (i : Instr) (vec : Bool), (i, vec) ∈ [(Instr.popf x, false), (.vpopf x, true)] → i.wf = true →
        ((e.kind == .vector) ≠ vec → exec i s = .next (s.issueTrap 4 .access 6)) ∧
        ((e.kind == .vector) = vec →
          (e.data = .walking ∨ e.data = .waiting ∨ (∃ v bad, e.data = .coming v bad) → exec i s = .next s) ∧
          (e.data = .access ∨ (∃ n, e.data = .notPresent n) → s.myCycle < e.due → exec i s = .next s) ∧
          (e.data = .access → e.due ≤ s.myCycle → exec i s = .next (s.issueTrap 4 .access e.ea)) ∧
          (∀ n, e.data = .notPresent n → e.due ≤ s.myCycle → exec i s = .next (s.parkGroup s.issue.cid n)) ∧
          (e.data = .poisoned → exec i s = .next (s.issueTrap 4 .eccu e.ea))))) ∧
    (∀ n, s.me.fgrp = 0 → ((s.parkGroup s.issue.cid n).ctx s.issue.cid).parked = some n ∧
      (s.parkGroup s.issue.cid n).eventsOut.length = s.eventsOut.length + 1 ∧ sameMemory s (s.parkGroup s.issue.cid n)) ∧
    (∀ i ∈ [Instr.popf x, .vpopf x], i.wf = true → (∀ f ∈ s.me.far, f.held = true) → exec i s = .next (s.issueTrap 4 .access 5)) ∧
    ((s.ea x).toNat < 2 ^ 57 → ¬ s.farRoom 4 → ∀ p ∈ [(n, Instr.ldf x), (4, .vldf x)], p.2.wf = true → (s.ea x).toNat % p.1 = 0 →
      exec p.2 s = .next (s.issueTrap 4 .access 4))

/-- R163, R164.  (That TVAL of a give with no held slot is the buffer's number is the model's choice, log 91: R164 names none.)  A take lands BASE + index × SLOT of the next FILLED slot in ring order after two cycles and marks the slot TAKEN by the
context; with no slot FILLED it blocks, and a `.try` lands all ones; a give of a held slot with no region open gives back the oldest one that the context holds: it
is marked as given, and from the release point on, which lies behind the slots that are being filled, every given slot is released while no slot before it in ring order is held, FILLED or
filling.  A number at or above the declaration traps with ACCESS and the number, and so does a buffer that is not initialised (its TVAL is the model's choice too, log 91). -/
def Obligations.RelayTakeAndGiveResults : Prop :=
  (∀ (s : State) (x : LW) (n : Nat), n = (x.fn.extractLsb' 0 4).toNat → s.issue.phase = .whole →
    s.myGroup.nrelays ≤ n ∨ (∀ r, s.myGroup.relays[n]? = some r → r.ready = false) →
    (Instr.wf (.rlyTake x) = true → exec (.rlyTake x) s = .next (s.issueTrap 4 .access (BitVec.ofNat 64 n))) ∧
    (Instr.wf (.rlyGive x) = true → exec (.rlyGive x) s = .next (s.issueTrap 5 .access (BitVec.ofNat 64 n)))) ∧
  (∀ (r : Relay) (cid cycle i o : Nat), r.slots[i]? = some (.taken cid o false) →
    (∀ j p, r.slots[j]? = some (.taken cid p false) → j = i ∨ o < p) →
    r.giveBack cid cycle = { r with slots := releaseSlots cycle r.count r.scanFrom r.count (r.slots.set i (.taken cid o true)) }) ∧
  (∀ (sl : List SlotState) (n first cycle k : Nat), sl.length = n → k < n →
    ((∀ j ≤ k, ∃ x, sl[(first + j) % n]? = some x ∧ (x = .free ∨ (∃ c, x = .freed c) ∨ ∃ c o, x = .taken c o true)) →
      (∃ c o, sl[(first + k) % n]? = some (.taken c o true)) → (releaseSlots cycle n first n sl)[(first + k) % n]? = some (.freed cycle)) ∧
    ((∃ j ≤ k, ∃ x, sl[(first + j) % n]? = some x ∧ x ≠ .free ∧ (∀ c, x ≠ .freed c) ∧ ∀ c o, x ≠ .taken c o true) ∨
      (∀ c o, sl[(first + k) % n]? ≠ some (.taken c o true)) →
      (releaseSlots cycle n first n sl)[(first + k) % n]? = sl[(first + k) % n]?)) ∧
  (∀ r : Relay, ∃ m ≤ r.count, r.scanFrom = r.fill + m ∧ (∀ j < m, ∃ id, r.slots[(r.fill + j) % r.count]? = some (.filling id)) ∧
    (m < r.count → ∀ id, r.slots[(r.fill + m) % r.count]? ≠ some (.filling id))) ∧
  ∀ (s : State) (x : LW) (n : Nat) (r : Relay), n = (x.fn.extractLsb' 0 4).toNat → s.issue.phase = .whole →
    n < s.myGroup.nrelays → s.myGroup.relays[n]? = some r → r.ready = true →
    (∀ i k c, Instr.wf (.rlyTake x) = true → r.running = false → i < r.count → k = (r.take + i) % r.count →
      r.slots[k]? = some (.filled c) → c < s.myCycle → (∀ j < i, ∀ d, r.slots[(r.take + j) % r.count]? ≠ some (.filled d)) →
      ∃ t, exec (.rlyTake x) s = .next t ∧
        t.me.pend = (s.landA 4 (x.dr.extractLsb' 0 5) (BitVec.ofNat 64 (r.base + k * r.slot)) 2).me.pend ∧
        ∃ r', (t.group s.me.gid).relays[n]? = some r' ∧ r'.take = (k + 1) % r.count ∧
          r'.slots = r.slots.set k (.taken s.issue.cid s.nextId false)) ∧
    (Instr.wf (.rlyTake x) = true → r.running = false → (∀ c, .filled c ∉ r.slots) → x.fn.getLsbD 4 = true →
      exec (.rlyTake x) s = .next (s.landA 4 (x.dr.extractLsb' 0 5) 0xFFFF_FFFF_FFFF_FFFF 2)) ∧
    (Instr.wf (.rlyTake x) = true → r.running = false → (∀ c, .filled c ∉ r.slots) → x.fn.getLsbD 4 = false →
      exec (.rlyTake x) s = .next s) ∧
    (Instr.wf (.rlyGive x) = true → s.me.region = none → 0 < r.heldBy s.issue.cid →
      exec (.rlyGive x) s = .next (s.modRelay s.me.gid n fun r => r.giveBack s.issue.cid s.myCycle)) ∧
    (Instr.wf (.rlyGive x) = true → s.me.region = none → r.heldBy s.issue.cid = 0 →
      exec (.rlyGive x) s = .next (s.issueTrap 5 .access (BitVec.ofNat 64 n)))

/-- R240, R246.  Global stores that translate to one page of memory complete once no walk for their address is outstanding: with no region open each element is posted, and with one the store
waits in the gate.  R240, R256, R259.  A posted store within the package map is read at once by the contexts of its own core and by no other viewer, and no
byte of any memory changes by the posting. -/
def Obligations.GlobalStoreResults : Prop :=
  (∀ (s : State) (x : LW) (n : Nat) (p : PAddr), n = 2 ^ (x.fn.extractLsb' 0 2).toNat → s.issue.phase = .whole →
    (s.ea x).toNat < 2 ^ 57 → s.gateRoom → s.noWalk (s.ea x) →
    (Instr.wf (.stg x) = true → (s.ea x).toNat % n = 0 →
      s.translate (s.portOf s.issue.cid) s.me.asid (s.ea x).toNat n .write s.me.priv = .ok [(p, n)] →
      (s.me.region = none → exec (.stg x) s =
        .next (s.post s.issue.cid ⟨p, natLe n (s.me.rs (x.dr.extractLsb' 0 6)).toNat⟩)) ∧
      (∀ r, s.me.region = some r → exec (.stg x) s = .next (s.modMe fun c =>
        { c with region := some { r with gate := r.gate ++ [.global (s.ea x) [⟨p, natLe n (s.me.rs (x.dr.extractLsb' 0 6)).toNat⟩]] } }))) ∧
    (Instr.wf (.vstg x) = true → (s.ea x).toNat % 4 = 0 →
      s.translate (s.portOf s.issue.cid) s.me.asid (s.ea x).toNat 128 .write s.me.priv = .ok [(p, 128)] →
      (s.me.region = none → exec (.vstg x) s = .next ((List.range 32).foldl
        (fun t i => t.postPiece s.issue.cid s.nextId ⟨⟨p.mt, p.addr + 4 * i⟩, natLe 4 (elem (s.me.rv x.dr) 32 i)⟩) s)) ∧
      (∀ r, s.me.region = some r → exec (.vstg x) s = .next (s.modMe fun c =>
        { c with region := some { r with gate := r.gate ++ [.global (s.ea x) ((List.range 32).map fun i =>
          ⟨⟨p.mt, p.addr + 4 * i⟩, natLe 4 (elem (s.me.rv x.dr) 32 i)⟩)] } })))) ∧
  (∀ (s : State) (cid : Nat) (p : Piece),
    ((p.at_.mt = 0 → p.at_.addr + p.data.length ≤ Config.hbmBytes) → ∀ i < p.data.length, (s.post cid p).byteSeen (coreOf cid) p.at_.mt (p.at_.addr + i) = (p.data[i]?).getD 0) ∧
    (∀ a, (a < p.at_.addr ∨ p.at_.addr + p.data.length ≤ a) →
      (s.post cid p).byteSeen (coreOf cid) p.at_.mt a = s.byteSeen (coreOf cid) p.at_.mt a) ∧
    (∀ q mt a, q ≠ coreOf cid → (s.post cid p).byteSeen q mt a = s.byteSeen q mt a) ∧
    sameMemory s (s.post cid p))

/-- R241, R242, R244.  An atomic on a naturally aligned address of package or peer memory, or of a host page where it may act on one, leaves
for its home point, as a read-modify-write numbered by its operation, and a fetching form adds a far-load entry; no byte of memory changes
yet. -/
def Obligations.AtomicsLeaveForHome : Prop :=
  ∀ (s : State) (x : LW) (n : Nat) (p : PAddr) (op : Nat) (i : Instr) (ea : Word), n = 2 ^ (x.fn.extractLsb' 0 2).toNat →
    s.issue.phase = .whole →
    (op, i) ∈ [(0, Instr.amoAdd x), (1, .amoMin x), (2, .amoMax x), (3, .amoAnd x), (4, .amoOr x), (5, .amoXor x), (6, .amoSwap x),
      (7, .amoCas x), (8, .amoFadd x)] →
    ea = (if op = 7 then s.me.ra x.ab + x.off.signExtend 64 else s.ea x) →
    i.wf = true → ea.toNat % n = 0 → ea.toNat < 2 ^ 57 → (p.mt < 2 ∨ s.hostAmoOk op n = true) → s.noWalk ea →
    s.translate (s.portOf s.issue.cid) s.me.asid ea.toNat n .write s.me.priv = .ok [(p, n)] →
    (x.fn.getLsbD 2 = true → s.farRoom 5) →
    ∃ (r : AtomicReq) (t : State), exec i s = .next t ∧ t.atomics = s.atomics ++ [r] ∧ r.op = op ∧ r.at_ = p ∧ r.size = n ∧
      r.operand = s.me.rs (x.dr.extractLsb' 0 6) ∧ r.compare = s.me.rs x.si ∧ r.fetch.isSome = x.fn.getLsbD 2 ∧
      t.me.far.length = s.me.far.length + (if x.fn.getLsbD 2 then 1 else 0) ∧ sameMemory s t

/-- R257, R258, R265, R266.  Fences complete at once.  A release half with no region open publishes, at its scope, the stores that happen-before it and that
no earlier release holds back, and holds back the context's later writes and the commands of its own bundle until at least the count to the farthest home of
the scope has passed; inside an open region it waits for the commit, and what happens-before it is marked at once.  An acquire half lets later reads arrive two cycles on; where the context has read what followed a
release, each in the other's scope, what happens-before the release happens-before what follows, and so do the stores of the completion signals that a `sem.rd`
has observed (R272, R283).  That a release also waits for the stores that an earlier one still holds back is the model's reading (log 83). -/
def Obligations.FenceResults : Prop :=
  ∀ (s : State) (x : LW) (scope : Nat), scope = (x.fn.extractLsb' 2 3).toNat →
    (∀ i ∈ [Instr.fenceAcq x, .fenceRel x, .fenceAr x], i.wf = true → s.issue.phase = .whole → ∃ t, exec i s = .next t) ∧
    (s.performs (.fenceAcq x) → exec (.fenceAcq x) s =
      .next ((s.acquireFence s.issue.cid scope).modMe fun c => { c with acquireAt := s.myCycle + 2, semReads := [] })) ∧
    (s.performs (.fenceRel x) → s.me.region = none →
      exec (.fenceRel x) s = .next ((s.releaseAt s.issue.cid scope).2.holdOwn s.issue.cid s.issue.first (s.releaseAt s.issue.cid scope).1)) ∧
    (s.performs (.fenceRel x) → ∀ r, s.me.region = some r → exec (.fenceRel x) s =
      .next ((s.gateMark s.issue.cid).modMe fun c => { c with region := some { r with gate := r.gate ++ [.release scope s.nextId] } })) ∧
    (s.performs (.fenceAr x) → s.me.region = none → exec (.fenceAr x) s =
      .next ((((s.releaseAt s.issue.cid scope).2.holdOwn s.issue.cid s.issue.first (s.releaseAt s.issue.cid scope).1).acquireFence
        s.issue.cid scope).modMe fun c =>
        { c with acquireAt := s.myCycle + 2, semReads := [] })) ∧
    (s.performs (.fenceAr x) → ∀ r, s.me.region = some r → ∃ t, exec (.fenceAr x) s = .next t ∧ t.me.acquireAt = s.myCycle + 2 ∧
      t.me.region = some { r with gate := r.gate ++ [.release scope s.nextId] }) ∧
    (∀ first done, sameMemory s (s.holdOwn s.issue.cid first done) ∧ (s.holdOwn s.issue.cid first done).posted = s.posted ∧
      (s.holdOwn s.issue.cid first done).ctxs = s.ctxs ∧ ∀ c ∈ s.cmds, ∃ d ∈ (s.holdOwn s.issue.cid first done).cmds, d.id = c.id ∧ d.op = c.op ∧
        (c.cid = s.issue.cid → first ≤ c.id → c.start = none → done ≤ d.hold) ∧ (c.cid ≠ s.issue.cid ∨ c.id < first → d = c)) ∧
    (sameMemory s (s.gateMark s.issue.cid) ∧ (s.gateMark s.issue.cid).ctxs = s.ctxs ∧ ∀ p ∈ s.posted, ∃ q ∈ (s.gateMark s.issue.cid).posted,
      q.id = p.id ∧ q.piece = p.piece ∧ q.pub = p.pub ∧ q.rel = if p.before s s.issue.cid then p.rel ++ [.gated s.nextId] else p.rel) ∧
    (s.myCycle + s.pathCount s.issue.cid (releaseCount scope) ≤ (s.releaseAt s.issue.cid scope).1 ∧
      (s.releaseAt s.issue.cid scope).2.me.release = some (max (s.me.release.getD 0) (s.releaseAt s.issue.cid scope).1)) ∧
    (∀ u, u = (s.releaseAt s.issue.cid scope).2 → sameMemory s u ∧
      (∀ p ∈ s.posted, p.before s s.issue.cid = true → p.wait ≤ s.cycleOf p.cid →
        ∃ q ∈ u.posted, q.id = p.id ∧ q.piece = p.piece ∧ (scope, coreOf s.issue.cid) ∈ q.pub) ∧
      (∀ q ∈ u.posted, ∃ p ∈ s.posted, q.id = p.id ∧ q.piece = p.piece ∧ (p.before s s.issue.cid = false → q.pub = p.pub ∧ q.rel = p.rel))) ∧
    (∀ u, u = s.acquireFence s.issue.cid scope → sameMemory s u ∧ u.ctxs = s.ctxs ∧
      ∀ p ∈ s.posted, ∀ k c sc n w, Rel.fence k c sc n ∈ p.rel → w ∈ s.me.reads → w.1 = k → n ≤ w.2.2 → sc ≠ 0 → scope ≠ 0 →
        (c = coreOf s.issue.cid ∨ scopeHas sc c (coreOf s.issue.cid) = true) →
        (coreOf s.issue.cid = w.2.1 ∨ scopeHas scope (coreOf s.issue.cid) w.2.1 = true) →
        ∃ q ∈ u.posted, q.id = p.id ∧ q.piece = p.piece ∧ ∃ h ∈ q.hb, h.1 = s.issue.cid) ∧
    (∀ p ∈ s.posted, ∀ n ∈ s.me.semReads, ∀ id, Rel.signal s.me.gid (coreOf s.issue.cid) n.1 id ∈ p.rel → id < n.2 →
      ∃ q ∈ (s.acquireFence s.issue.cid scope).posted, q.id = p.id ∧ q.piece = p.piece ∧ ∃ h ∈ q.hb, h.1 = s.issue.cid)

/-! ## Commands of the M and C slots -/

/-- R179, R180, R182.  An `mlease` that a grant awaits takes the lease with its budget and priority; one without a grant blocks (R84); one of a context that holds the lease
traps; `mfree` by the holder ends the lease, and with an increment pushes a marker; one of any other context traps with ACCESS and 3. -/
def Obligations.LeaseInstructions : Prop :=
  (∀ (s : State) (x : MW), isSerai s.issue.cid = true → s.issue.phase = .whole →
    (∀ l, (s.serai (seraiOf s.issue.cid)).lease = some l → l.holder ≠ s.issue.cid) →
    (Instr.wf (.mlease x) = true → exec (.mlease x) s = .next s) ∧
    (Instr.wf (.mfree x) = true → exec (.mfree x) s = .next (s.issueTrap 3 .access 3))) ∧
  ∀ (s : State) (x : MW) (k : Nat) (l : Lease), k = seraiOf s.issue.cid → isSerai s.issue.cid = true → s.issue.phase = .whole →
    (s.serai k).lease = some l → l.holder = s.issue.cid →
    (Instr.wf (.mlease x) = true → l.budget = 0 → exec (.mlease x) s = .next (s.modSerai k fun y =>
      { y with lease := some ⟨s.issue.cid, (x.flags.extractLsb' 0 6).toNat + 1, (x.flags.extractLsb' 6 2).toNat, s.now⟩ })) ∧
    (Instr.wf (.mlease x) = true → 0 < l.budget → exec (.mlease x) s = .next (s.issueTrap 3 .access 2)) ∧
    (Instr.wf (.mfree x) = true → 0 < l.budget → tailInc x.tail = 0 → s.tailOk x.tail →
      ∃ t, exec (.mfree x) s = .next t ∧ (t.serai k).lease = none ∧ t.cmds = s.cmds ∧ t.ctxs = s.ctxs ∧ t.mem = s.mem) ∧
    (Instr.wf (.mfree x) = true → 0 < l.budget → tailInc x.tail ≠ 0 → s.tailOk x.tail → s.hasRoom (.array k) →
      ∃ (t : State) (c : Cmd), exec (.mfree x) s = .next t ∧ (t.serai k).lease = none ∧ t.cmds = s.cmds ++ [c] ∧ c.op = .marker ∧
        c.queue = .array k ∧ c.tail = x.tail) ∧
    (Instr.wf (.mfree x) = true → 0 < l.budget → tailInc x.tail ≠ 0 → s.tailOk x.tail → ¬ s.hasRoom (.array k) →
      exec (.mfree x) s = .next s) ∧
    (Instr.wf (.mfree x) = true → l.budget = 0 → exec (.mfree x) s = .next (s.issueTrap 3 .access 3))

/-- R172, R175.  `tld` and `tst` push one tile command that carries the operands and the shape as read at issue, where the register is the
parcel's, the shape is legal, every row is aligned and within the bound, and the queue has room; a full queue blocks (R84). -/
def Obligations.TileCommandsPush : Prop :=
  ∀ (s : State) (x : MW) (sh : Word), sh = s.me.regs.tshape.get x.ta.toNat → s.issue.phase = .whole →
    isDepot s.issue.cid = false → x.ta.toNat < s.me.ntregs → shapeOk sh = true →
    (x.flags.getLsbD 0 = true → shType sh < 6) →
    (∀ q < shExt sh, (s.me.ra x.ar + BitVec.ofNat 64 q * s.me.rs x.sp).toNat % 16 = 0 ∧
      (s.me.ra x.ar + BitVec.ofNat 64 q * s.me.rs x.sp).toNat + tileLen sh ≤ s.myGroup.spLim) →
    s.tailOk x.tail → (¬ s.hasRoom (.tile (coreOf s.issue.cid)) → ∀ i ∈ [Instr.tld x, .tst x], i.wf = true → exec i s = .next s) ∧
    (s.hasRoom (.tile (coreOf s.issue.cid)) →
    (Instr.wf (.tld x) = true → exec (.tld x) s = .next (s.push (.tile (coreOf s.issue.cid)) x.tail
      (.tile false x.ta.toNat (s.me.ra x.ar) (s.me.rs x.sp) sh (x.flags.getLsbD 0)) 0)) ∧
    (Instr.wf (.tst x) = true → exec (.tst x) s = .next (s.push (.tile (coreOf s.issue.cid)) x.tail
      (.tile true x.ta.toNat (s.me.ra x.ar) (s.me.rs x.sp) sh (x.flags.getLsbD 0)) 0)))

/-- R194 to R198 with R184 to R186.  The array commands: under the lease, with the parcel's registers, legal shapes of one K, a legal precision
control word and a position within the tile store, each pushes one command and spends one of the lease's budget, the last of which ends the
lease; a full queue blocks (R84). -/
def Obligations.ArrayCommandsPush : Prop :=
  ∀ (s : State) (x : MW) (k : Nat) (l : Lease), k = seraiOf s.issue.cid → isSerai s.issue.cid = true → s.issue.phase = .whole →
    (s.serai k).lease = some l → l.holder = s.issue.cid → 0 < l.budget → s.tailOk x.tail →
    (∀ (kind : Nat) (i : Instr) (shA shB p w : Word), (kind, i) ∈ [(0, Instr.mma x), (1, .mmaBs x), (2, .mmaNm x)] → i.wf = true →
      shA = s.shape x.ta.toNat → shB = s.shape x.tb.toNat → p = s.me.ra x.ar → w = s.me.rs x.sp →
      x.ta.toNat < s.me.ntregs → x.tb.toNat < s.me.ntregs → shapeOk shA = true → shRole shA = 0 → shapeOk shB = true → shRole shB = 1 →
      shK shA = shK shB → (kind = 2 → shK shA = 32) → pcwOk kind w shA shB = true → (kind ≠ 1 → p.toNat < 2 ^ 20) →
      posRow p + shExt shA ≤ s.myGroup.tsLim → posCol p + accWords (pcwAcc w) * shExt shB ≤ 1024 →
      (pcwAcc w = 2 → posCol p % 2 = 0) → (¬ s.hasRoom (.array k) → exec i s = .next s) ∧ (s.hasRoom (.array k) →
      ∃ (t : State) (c : Cmd), exec i s = .next t ∧ t.cmds = s.cmds ++ [c] ∧
        c.op = .product kind x.ta.toNat x.tb.toNat p w shA shB ∧ c.queue = .array k ∧ c.tail = x.tail ∧
        c.number = s.me.arrayPushed ∧ c.cid = s.issue.cid ∧ t.me.arrayPushed = s.me.arrayPushed + 1 ∧ t.mem = s.mem ∧
        (l.budget = 1 → (t.serai k).lease = none) ∧
        (1 < l.budget → (t.serai k).lease = some { l with budget := l.budget - 1, idle := s.now }))) ∧
    (∀ (p e : Word), p = s.me.ra x.ar → e = s.me.rs x.sp → Instr.wf (.mzero x) = true → p.toNat < 2 ^ 20 →
      posRow p + (e.toNat % 2 ^ 8 + 1) ≤ s.myGroup.tsLim → posCol p + (e.toNat / 2 ^ 8 % 2 ^ 10 + 1) ≤ 1024 → e.toNat < 2 ^ 18 →
      (¬ s.hasRoom (.array k) → exec (.mzero x) s = .next s) ∧ (s.hasRoom (.array k) → ∃ (t : State) (c : Cmd), exec (.mzero x) s = .next t ∧ t.cmds = s.cmds ++ [c] ∧ c.op = .zero p e ∧ c.queue = .array k ∧
        c.tail = x.tail ∧ c.number = s.me.arrayPushed ∧ c.cid = s.issue.cid ∧ t.me.arrayPushed = s.me.arrayPushed + 1 ∧ t.mem = s.mem ∧
        (l.budget = 1 → (t.serai k).lease = none) ∧
        (1 < l.budget → (t.serai k).lease = some { l with budget := l.budget - 1, idle := s.now })))

/-- R178, R194.  An array command of a context that does not hold the lease traps with ACCESS and code 1, before any other check of its operands; so does one of an outrider, which has no
array (the model's reading, log 17).  R321.  On a depot core every tile, array and tile-store instruction traps with ILLOP.  R277.  The ACCESS traps of the phaser instructions, with their values of TVAL. -/
def Obligations.UnitTraps : Prop :=
  (∀ (s : State) (x : MW), s.issue.phase = .whole → isDepot s.issue.cid = false →
    (∀ l, (s.serai (seraiOf s.issue.cid)).lease = some l → l.holder ≠ s.issue.cid) →
    ∀ i ∈ [Instr.mma x, .mmaBs x, .mmaNm x, .mzero x], i.wf = true → exec i s = .next (s.issueTrap 3 .access 1)) ∧
  (∀ (s : State) (x : MW), s.issue.phase = .whole → isDepot s.issue.cid = true →
    ∀ i ∈ [Instr.mlease x, .mfree x, .tld x, .tst x, .mma x, .mmaBs x, .mmaNm x, .mzero x, .tsld x, .tsst x],
      exec i s = .next (s.issueTrap 3 .illop 0)) ∧
  (∀ (s : State) (x : YW) (n : Nat), n = (x.co.extractLsb' 0 10).toNat → s.issue.phase = .whole → s.phNamed n →
    (∀ i ∈ [Instr.phDrop x, .phArr x, .phWait x, .phArw x], i.wf = true → s.me.phReg? n = none →
      exec i s = .next (s.issueTrap 7 .access 0x8)) ∧
    (∀ r, Instr.wf (.phReg x) = true → s.me.phReg? n = some r → exec (.phReg x) s = .next (s.issueTrap 7 .access 0x7)) ∧
    (Instr.wf (.phReg x) = true → s.me.phReg? n = none → 8 ≤ s.me.phregs.length →
      exec (.phReg x) s = .next (s.issueTrap 7 .access 0xC)) ∧
    (∀ r, s.me.phReg? n = some r →
      (∀ i ∈ [Instr.phArr x, .phArw x], i.wf = true → r.mode = 2 → exec i s = .next (s.issueTrap 7 .access 0x9)) ∧
      (∀ i ∈ [Instr.phArr x, .phArw x], i.wf = true → r.mode ≠ 2 → r.ap = phaseAdd (s.phSeen s.me.gid n) 2 →
        exec i s = .next (s.issueTrap 7 .access 0xA)) ∧
      (Instr.wf (.phWait x) = true → r.mode = 1 → exec (.phWait x) s = .next (s.issueTrap 7 .access 0x9)) ∧
      (Instr.wf (.phWait x) = true → r.mode = 3 → r.wp = r.ap → exec (.phWait x) s = .next (s.issueTrap 7 .access 0xB))))

/-- R211 to R217.  A tile-store copy within the limits of its format pushes one command and counts one copy of the context: the formats that
it may take, the divisibility of its elements, its place in the tile store, and for each row the bound of its data, of its scales and of its
metadata; a full queue blocks (R84). -/
def Obligations.TileStoreCopiesPush : Prop :=
  ∀ (s : State) (x : MW) (p d : Word) (prune : Bool), p = s.me.ra x.ar → d = s.me.rs x.sp → prune = x.flags.getLsbD 0 →
    s.issue.phase = .whole → isDepot s.issue.cid = false → d.toNat < 2 ^ 44 → (cpFmt d = 8 → cpWords d % 2 = 0) →
    (cpMx d = true → prune = false → cpE d % 32 = 0) →
    (prune = true → cpE d % (if x.flags.getLsbD 1 then 8 else 4) = 0 ∧ (cpMx d = true → cpKept d true % 32 = 0)) →
    posRow p + cpRows d ≤ s.myGroup.tsLim → posCol p + cpWords d ≤ 1024 →
    (cpFmt d = 8 → posCol p % 2 = 0) → cpOff p % 16 = 0 → cpStride d % 16 = 0 →
    (∀ q < cpRows d, cpOff p + q * cpStride d + cpLen d prune ≤ s.myGroup.spLim ∧
      (cpMx d = true → ∀ b < cpKept d prune / 32, (cpOff p + q * cpStride d + cpBlock d * b) / 16 < s.myGroup.spLim / 16) ∧
      (prune = true → cpMd p + q * cpMdLen d + cpMdLen d ≤ s.myGroup.spLim)) →
    s.tailOk x.tail →
    ∀ (store : Bool) (i : Instr), (store, i) ∈ [(false, Instr.tsld x), (true, .tsst x)] → i.wf = true →
      (store = true → cpFmt d = 0 ∨ cpFmt d = 1 ∨ cpFmt d = 8) →
      (store = false → cpFmt d ≤ 8 ∧ (cpFmt d = 8 → prune = false)) →
      (¬ s.hasRoom (.copy (seraiOf s.issue.cid)) → exec i s = .next s) ∧ (s.hasRoom (.copy (seraiOf s.issue.cid)) → ∃ (t : State) (c : Cmd), exec i s = .next t ∧ t.cmds = s.cmds ++ [c] ∧ c.queue = .copy (seraiOf s.issue.cid) ∧
        c.op = .copy store p d prune (x.flags.getLsbD 1) ∧ c.number = s.me.copyPushed ∧
        t.me.copyPushed = s.me.copyPushed + 1 ∧ t.mem = s.mem)

/-- R287, R307, R355, R396 with R162 and R282.  The commands of the C slot: with a legal descriptor address and room in the unit's queue, each
pushes one command that carries its operands as read at issue. -/
def Obligations.EngineCommandsPush : Prop :=
  ∀ (s : State) (x : CW) (a d : Word), a = s.me.ra x.ca → d = s.me.rs x.cs → s.issue.phase = .whole → s.tailOk x.tail →
    (a.toNat % 128 = 0 → a.toNat + 128 ≤ s.myGroup.spLim →
      (∀ (kind : Nat) (i : Instr), (kind, i) ∈ [(0, Instr.cpLin x), (1, .cpTen x), (2, .cpGat x), (3, .cpSct x), (4, .cpFill x)] →
        i.wf = true → d.toNat < 2 ^ 32 → (isDepot s.issue.cid = true → x.ci.extractLsb' 0 2 = 0) → s.hasRoom (.drover (s.droverOf x)) →
        exec i s = .next (s.push (.drover (s.droverOf x)) x.tail (.drover kind a.toNat d.toNat) 0)) ∧
      (isDepot s.issue.cid = false → s.hasRoom (.step (seraiOf s.issue.cid)) →
        (Instr.wf (.scCommit x) = true → d.toNat < 2 ^ 32 → exec (.scCommit x) s =
          .next (s.push (.step (seraiOf s.issue.cid)) x.tail (.step 1 a.toNat d.toNat none) 0)) ∧
        (Instr.wf (.scDrop x) = true → exec (.scDrop x) s =
          .next (s.push (.step (seraiOf s.issue.cid)) x.tail (.step 2 a.toNat (d.toNat % 2 ^ 32) none) 0)) ∧
        (Instr.wf (.scProbe x) = true → d.toNat < 2 ^ 32 → x.ci.getLsbD 0 = false → exec (.scProbe x) s =
          .next (s.push (.step (seraiOf s.issue.cid)) x.tail (.step 0 a.toNat d.toNat none) 0)) ∧
        (Instr.wf (.scProbe x) = true → d.toNat < 2 ^ 32 → x.ci.getLsbD 0 = true → s.farRoom 6 →
          ∃ (t : State) (e : FarEntry) (c : Cmd), exec (.scProbe x) s = .next t ∧ t.me.far = s.me.far ++ [e] ∧ e.kind = .verdict ∧
            t.cmds = s.cmds ++ [c] ∧ c.op = .step 0 a.toNat d.toNat (some e.id))) ∧
      (∀ (mode : Nat) (i : Instr), (mode, i) ∈ [(0, Instr.colRedRoot x), (1, .colRedAll x), (2, .colRedScat x), (3, .colGat x)] →
        i.wf = true → isDepot s.issue.cid = false → s.hasRoom (.coll (dieOf s.issue.cid)) →
        exec i s = .next (s.push (.coll (dieOf s.issue.cid)) x.tail (.coll mode a.toNat) 0)) ∧
      (Instr.wf (.launch x) = true → d.toNat < 2 ^ 13 → s.hasRoom (.launch s.launchUnit) →
        exec (.launch x) s = .next (s.push (.launch s.launchUnit) x.tail (.launch a.toNat d.toNat) 0))) ∧
    (Instr.wf (.drain x) = true → x.ci.getLsbD 12 = false → s.hasRoom (.drain s.issue.cid) → exec (.drain x) s =
      .next (s.push (.drain s.issue.cid) x.tail
        (.drain (x.ci.extractLsb' 0 8).toNat (x.ci.extractLsb' 8 3).toNat (x.ci.getLsbD 11) none false) 0)) ∧
    (Instr.wf (.ltrig x) = true → s.hasRoom (.drain s.issue.cid) →
      exec (.ltrig x) s = .next (s.push (.drain s.issue.cid) x.tail (.drain 0xFF 5 true none true) 0)) ∧
    (Instr.wf (.rlyInit x) = true → d.toNat < 2 ^ 37 → rlySlot d % 128 = 0 → 128 ≤ rlySlot d → rlySlot d ≤ 2 ^ 20 → 1 ≤ rlyCount d →
      rlyCount d ≤ 4096 → (x.ci.extractLsb' 0 4).toNat < s.myGroup.nrelays → a.toNat % 128 = 0 →
      a.toNat + rlySlot d * rlyCount d ≤ s.myGroup.spLim → s.hasRoom (.relay (seraiOf s.issue.cid)) →
      ∃ (t : State) (c : Cmd), exec (.rlyInit x) s = .next t ∧ t.cmds = s.cmds ++ [c] ∧ c.queue = .relay (seraiOf s.issue.cid) ∧
        c.op = .relayInit (x.ci.extractLsb' 0 4).toNat a.toNat (rlySlot d) (rlyCount d) ∧ c.tail = x.tail)

/-- R64, R84, R257, R258.  What a push does (that it publishes at once and itself holds nothing back is the model's reading, log 69): one command at the end of its queue, with the sync tail, the operands and the cycle of the push; and the
stores that happen-before it are published at the scope in which the engine lies, where no release holds them back; a drain publishes
nothing.  It changes nothing else but the count of identities.  R84.  A full queue blocks each command of the C slot: its slot answers with the
state unchanged, and no command is pushed (the queues of the M slot stand with its instructions). -/
def Obligations.QueuesFillInOrder : Prop :=
  (∀ (s : State) (q : QueueId) (tail : BitVec 24) (op : CmdOp) (n : Nat),
    ∃ (c : Cmd) (l : List Posted),
      s.push q tail op n = { s with nextId := s.nextId + 1, posted := l, cmds := s.cmds ++ [c] } ∧ c.id = s.nextId ∧ c.queue = q ∧
      c.tail = tail ∧ c.op = op ∧ c.number = n ∧ c.cid = s.issue.cid ∧ c.gid = s.me.gid ∧ c.pc = s.issue.pc ∧ c.start = none ∧
      c.pushed = (match q with | .coll _ => s.tick | _ => s.myCycle) ∧ (∀ k, q = .drain k → l = s.posted) ∧
      ((∀ k, q ≠ .drain k) → ∀ p ∈ s.posted, p.before s s.issue.cid = true → s.waits p = false →
        ∃ p' ∈ l, p'.id = p.id ∧ p'.piece = p.piece ∧ (q.scope, coreOf s.issue.cid) ∈ p'.pub)) ∧
  (∀ (s : State) (x : CW) (a d : Word), a = s.me.ra x.ca → d = s.me.rs x.cs → s.issue.phase = .whole → s.tailOk x.tail →
    (a.toNat % 128 = 0 → a.toNat + 128 ≤ s.myGroup.spLim →
      (∀ i ∈ [Instr.cpLin x, .cpTen x, .cpGat x, .cpSct x, .cpFill x], i.wf = true → d.toNat < 2 ^ 32 →
        (isDepot s.issue.cid = true → x.ci.extractLsb' 0 2 = 0) → ¬ s.hasRoom (.drover (s.droverOf x)) → exec i s = .next s) ∧
      (∀ i ∈ [Instr.scProbe x, .scCommit x, .scDrop x], i.wf = true → isDepot s.issue.cid = false →
        (i = .scDrop x ∨ d.toNat < 2 ^ 32) → (i = .scProbe x → x.ci.getLsbD 0 = true → s.farRoom 6) →
        ¬ s.hasRoom (.step (seraiOf s.issue.cid)) → exec i s = .next s) ∧
      (∀ i ∈ [Instr.colRedRoot x, .colRedAll x, .colRedScat x, .colGat x], i.wf = true → isDepot s.issue.cid = false →
        ¬ s.hasRoom (.coll (dieOf s.issue.cid)) → exec i s = .next s) ∧
      (Instr.wf (.launch x) = true → d.toNat < 2 ^ 13 → ¬ s.hasRoom (.launch s.launchUnit) → exec (.launch x) s = .next s)) ∧
    (∀ r, Instr.wf (.drain x) = true → (x.ci.getLsbD 12 = true → s.mayArrive (drainPh x) r) → ¬ s.hasRoom (.drain s.issue.cid) →
      exec (.drain x) s = .next s) ∧
    (Instr.wf (.ltrig x) = true → ¬ s.hasRoom (.drain s.issue.cid) → exec (.ltrig x) s = .next s) ∧
    (Instr.wf (.rlyInit x) = true → d.toNat < 2 ^ 37 → rlySlot d % 128 = 0 → 128 ≤ rlySlot d → rlySlot d ≤ 2 ^ 20 → 1 ≤ rlyCount d →
      rlyCount d ≤ 4096 → (x.ci.extractLsb' 0 4).toNat < s.myGroup.nrelays → a.toNat % 128 = 0 →
      a.toNat + rlySlot d * rlyCount d ≤ s.myGroup.spLim → ¬ s.hasRoom (.relay (seraiOf s.issue.cid)) → exec (.rlyInit x) s = .next s))

/-! ## The Y slot -/

/-- R95, R96 with R49 and R70.  A branch that is taken notes its target and ends the loop levels whose body does not hold it; one that is not
taken goes on after its two delay bundles.  R98, R99, R94.  `call` links a30 to the bundle after the delay bundles, pushes the link on the shadow stack and lowers SSP by 8 in one cycle; `ret`
to the address that both a30 and the shadow stack hold pops it and raises SSP by 8; a mismatch traps with CFI and TVAL is the shadow entry; a
transfer whose delay meets the end of an active loop body traps with ILLOP, taken or not.  That a branch which is not taken counts as a transfer to
the bundle after its delay bundles is the model's reading (log 28).  R99.  A `call` while the core holds sixteen entries and a `ret`
while it holds none block where the page of the spill or fill translates or its walk is outstanding, and trap where it does not translate. -/
def Obligations.TransferResults : Prop :=
  (∀ (s : State) (x : YW) (i : Instr) (cond : Prop) (target : Word),
    ((i = .br x ∧ cond = True ∧ target = s.issue.pc + BitVec.ofInt 64 (64 * x.co.toInt)) ∨
     (i = .bz x ∧ cond = (s.me.rs x.bi = 0) ∧ target = s.issue.pc + BitVec.ofInt 64 (64 * x.co.toInt)) ∨
     (i = .bnz x ∧ cond = (s.me.rs x.bi ≠ 0) ∧ target = s.issue.pc + BitVec.ofInt 64 (64 * x.co.toInt)) ∨
     (i = .bmNone x ∧ cond = (s.me.topMask = 0) ∧ target = s.issue.pc + BitVec.ofInt 64 (64 * x.co.toInt)) ∨
     (i = .bmAny x ∧ cond = (s.me.topMask ≠ 0) ∧ target = s.issue.pc + BitVec.ofInt 64 (64 * x.co.toInt)) ∨
     (i = .jmp x ∧ cond = True ∧ target = s.me.ra (x.co.extractLsb' 0 5))) →
    s.issue.phase = .whole → i.wf = true → s.delayFree →
    (cond → target.toNat % 64 = 0 → exec i s = .next ((s.modMe fun c => { c with
      loops := c.loops.map fun l => if l.active = true ∧ ¬ (target - l.start).toNat < 64 * l.body then { l with active := false } else l }).goTo
        target)) ∧
    (cond → target.toNat % 64 ≠ 0 → exec i s = .next (s.issueTrap 7 .align target)) ∧
    (¬ cond → exec i s = .next (s.goTo (s.issue.pc + 192)))) ∧
  (∀ (s : State) (x : YW), s.issue.phase = .whole →
    (Instr.wf (.call x) = true → s.delayFree → s.me.shadow.length < 16 →
      ∃ t, exec (.call x) s = .next t ∧ t.me.shadow = (s.issue.pc + 192) :: s.me.shadow ∧
        t.issue.next = some (s.issue.pc + BitVec.ofInt 64 (64 * x.co.toInt)) ∧
        t.me.pend = ((s.landA 7 30 (s.issue.pc + 192) 1).landCr 7 0x008 (s.me.regs.ssp - 8) 1).me.pend ∧
        t.me.loops = s.me.loops ∧ t.mem = s.mem) ∧
    (∀ (e : Word) (rest : List Word), Instr.wf (.ret x) = true → s.delayFree → s.me.shadow = e :: rest →
      (e = s.me.ra 30 → e.toNat % 64 = 0 →
        ∃ t, exec (.ret x) s = .next t ∧ t.me.shadow = rest ∧ t.issue.next = some e ∧
          t.me.pend = (s.landCr 7 0x008 (s.me.regs.ssp + 8) 1).me.pend ∧ t.me.loops = s.me.loops ∧ t.mem = s.mem) ∧
      (e ≠ s.me.ra 30 → exec (.ret x) s = .next (s.issueTrap 7 .cfi e)) ∧
      (e = s.me.ra 30 → e.toNat % 64 ≠ 0 → exec (.ret x) s = .next (s.issueTrap 7 .align e))) ∧
    (∀ (i : Instr) (kind : Acc) (a : Word), i.wf = true → s.delayFree →
      ((i = .call x ∧ kind = .push ∧ 16 ≤ s.me.shadow.length ∧ a = s.spillAt s.issue.cid) ∨
       (i = .ret x ∧ kind = .pop ∧ s.me.shadow = [] ∧ a = s.sspNow s.issue.cid)) →
      (a.toNat < 2 ^ 57 → (s.shadowWalked s.issue.cid a = false ∨
        ∃ ps, s.translate (s.portOf s.issue.cid) s.me.asid a.toNat 8 kind s.me.priv = .ok ps) → exec i s = .next s) ∧
      (2 ^ 57 ≤ a.toNat ∨ (s.shadowWalked s.issue.cid a = true ∧
          s.translate (s.portOf s.issue.cid) s.me.asid a.toNat 8 kind s.me.priv = .access) →
        exec i s = .next (s.issueTrap 7 .access a))) ∧
    (∀ i ∈ [Instr.br x, .bz x, .bnz x, .bmNone x, .bmAny x, .jmp x, .call x, .ret x], i.wf = true → ¬ s.delayFree → exec i s = .next (s.issueTrap 7 .illop 0)))

/-- R102 to R104.  A loop set-up with a legal descriptor, below every active level and inside the innermost of them: a trip count of 0 skips the
body (the named level keeps its contents, the model's reading, log 35), any other makes the level active with iteration 0.  A descriptor outside its layout, and a level that is active, below an active one or not inside it, trap
with ILLOP; a `loopx` whose row pointers stand at a misaligned address traps with ALIGN, outside the allotment with SPBOUND (TVAL the address of the first, log 72). -/
def Obligations.LoopSetUpResults : Prop :=
  (∀ (s : State) (x : YW) (d start : Word) (k body : Nat) (i : Instr), d = s.bcast → k = (d.extractLsb' 0 3).toNat →
    body = (d.extractLsb' 4 16).toNat → start = s.issue.pc + 64 → s.issue.phase = .whole →
    (i = .loopImm x ∨ i = .loopReg x ∨ i = .loopx x) → i.wf = true →
    (k = 0 ∨ k = 7 ∨ body = 0 ∨ d.extractLsb' 25 7 ≠ 0 ∨ ∃ j l, j < 6 ∧ s.me.loops[j]? = some l ∧ l.active = true ∧
      (k ≤ j + 1 ∨ 64 * l.body < (start - l.start).toNat + 64 * body)) → exec i s = .next (s.issueTrap 7 .illop 0)) ∧
  (∀ (s : State) (x : YW) (d start p : Word) (k body : Nat), d = s.bcast → k = (d.extractLsb' 0 3).toNat →
    body = (d.extractLsb' 4 16).toNat → start = s.issue.pc + 64 → s.issue.phase = .whole → 1 ≤ k → k ≤ 6 → 1 ≤ body →
    d.extractLsb' 25 7 = 0 → (∀ (j : Nat) (l : LoopLevel), j < 6 → s.me.loops[j]? = some l → l.active = true →
      j + 1 < k ∧ (start - l.start).toNat + 64 * body ≤ 64 * l.body) →
    p = s.me.ra (x.co.extractLsb' 0 5) → Instr.wf (.loopx x) = true →
    (p.toNat % 4 ≠ 0 → exec (.loopx x) s = .next (s.issueTrap 7 .align p)) ∧
    (p.toNat % 4 = 0 → s.myGroup.spLim < p.toNat + 8 → exec (.loopx x) s = .next (s.issueTrap 7 .spbound p))) ∧
  ∀ (s : State) (x : YW) (d start : Word) (k body : Nat), d = s.bcast → k = (d.extractLsb' 0 3).toNat →
    body = (d.extractLsb' 4 16).toNat → start = s.issue.pc + 64 → s.issue.phase = .whole → 1 ≤ k → k ≤ 6 → 1 ≤ body →
    d.extractLsb' 25 7 = 0 →
    (∀ (j : Nat) (l : LoopLevel), j < 6 → s.me.loops[j]? = some l → l.active = true →
      j + 1 < k ∧ (start - l.start).toNat + 64 * body ≤ 64 * l.body) →
    ∀ (i : Instr) (n : Nat) (u : State),
      ((i = .loopImm x ∧ d.getLsbD 3 = false ∧ n = x.co.toNat ∧ u = s) ∨
       (i = .loopReg x ∧ d.getLsbD 3 = true ∧ n = (s.me.rs (x.co.extractLsb' 0 6)).toNat % 2 ^ 32 ∧ u = s) ∨
       (i = .loopx x ∧ ∃ (p : Word) (a b : Nat), p = s.me.ra (x.co.extractLsb' 0 5) ∧ p.toNat % 4 = 0 ∧ p.toNat + 8 ≤ s.myGroup.spLim ∧
         s.padPoisoned s.me.gid false p.toNat 8 = false ∧ a = leNat (s.padRead s.issue.cid false p.toNat 4) ∧
         b = leNat (s.padRead s.issue.cid false (p.toNat + 4) 4) ∧ n = b - a ∧ u = s.landA 7 (x.co.extractLsb' 0 5) (p + 4) 1)) →
      i.wf = true →
      (n = 0 → exec i s = .next (u.goTo (start + BitVec.ofNat 64 (64 * body)))) ∧
      (n ≠ 0 → exec i s = .next (u.modMe fun c => { c with
        loops := c.loops.set (k - 1) ⟨true, 0, n, start, body, d.extractLsb' 20 5, (d.extractLsb' 32 32).signExtend 64⟩ }))

/-- R12, R36, R85, R87, R100, R101, R245.  `yield` frees the core and moves the pending results into the replay buffer, but where one of them raises a trap
in this cycle, which comes at the cycle's end; `halt` with no pending result ends the
parcel's issue, and that of the outrider of die 0 the pace unit's messages; `xim` does nothing of its own; `mark` commits the open region and opens one, and none opens in a handler. -/
def Obligations.YieldHaltMarkResults : Prop :=
  ∀ (s : State) (x : YW) (cid : Nat), cid = s.issue.cid →
    (s.performs (.yield x) → ∃ t, exec (.yield x) s = .next t ∧
      ((∀ r ∈ s.me.pend, r.due ≤ s.myCycle → s.me.landCause r = none) → t.me.pend = [] ∧
        t.me.replay = s.me.replay ++ s.me.pend.map (fun r => { r with due := r.due - (s.myCycle + 1) })) ∧
      ((∃ r ∈ s.me.pend, r.due ≤ s.myCycle ∧ s.me.landCause r ≠ none) → t.me.pend = s.me.pend ∧ t.me.replay = s.me.replay) ∧
      (t.core (coreOf cid)).holder = none ∧ t.mem = s.mem ∧ t.issue = s.issue) ∧
    (s.issue.phase = .whole → Instr.wf (.halt x) = true → s.me.pend = [] → ∃ t, exec (.halt x) s = .next t ∧
      t.me.status = .halted ∧ t.me.far = [] ∧ t.me.stack = [] ∧ t.me.region = none ∧ t.me.deferred = none ∧
      (∀ l ∈ t.me.loops, l.active = false) ∧ (t.core (coreOf cid)).holder = none ∧ (s.me.region = none → t.mem = s.mem) ∧
      (cid = 800 → t.pace.stoppedAt = some s.tick)) ∧
    (s.issue.phase = .whole → Instr.wf (.halt x) = true → s.me.pend ≠ [] → exec (.halt x) s = .next s) ∧
    (s.performs (.xim x) → exec (.xim x) s = .next s) ∧
    (s.performs (.mark x) → s.me.regs.inh = false → ∃ t r, exec (.mark x) s = .next t ∧ t.me.region = some r ∧ r.gate = [] ∧
      r.shadowS = [] ∧ r.shadowV = [] ∧ r.saved.pc = s.me.pc ∧ r.saved.m = s.me.m ∧ r.saved.stack = s.me.stack) ∧
    (s.performs (.mark x) → s.me.regs.inh = true → ∃ t, exec (.mark x) s = .next t ∧ t.me.region = none) ∧
    (∀ (slot : BitVec 3) (code : BitVec 4) (body : BitVec 56),
      (s.performs (.nop slot body) → exec (.nop slot body) s = .next s) ∧
      (s.performs (.hint slot code body) → exec (.hint slot code body) s = .next s))

/-- R269.  A change of a semaphore is clamped to 0 to 65,535 and sets SAT where the clamp changed the value; only `sem.set` clears SAT; no other
semaphore of the core changes.  R271, R272.  `wait` on a semaphore at its threshold subtracts the threshold; below it the core stalls and nothing changes; `sem.add` and `sem.set`
change a semaphore at once where the context publishes nothing; `sem.rd` lands the value and SAT after two cycles; `wait` and `sem.rd` note which changes they have read, a `wait` acquires what the completion signals of its semaphore publish (R257, R283), and no other register changes. -/
def Obligations.SemaphoreResults : Prop :=
  (∀ (s : State) (g core n : Nat) (d : Int), n < 256 →
    (((s.semChange g core n d).semVal g core n : Nat) : Int) = max 0 (min 65535 ((s.semVal g core n : Int) + d)) ∧
    ((s.semChange g core n d).semSat g core n = true ↔ s.semSat g core n = true ∨ (s.semVal g core n : Int) + d < 0 ∨
      65535 < (s.semVal g core n : Int) + d) ∧
    (((s.semAssign g core n d).semVal g core n : Nat) : Int) = max 0 (min 65535 d) ∧
    ((s.semAssign g core n d).semSat g core n = true ↔ d < 0 ∨ 65535 < d) ∧
    (∀ m < 256, m ≠ n → (s.semChange g core n d).semVal g core m = s.semVal g core m ∧
      (s.semAssign g core n d).semVal g core m = s.semVal g core m)) ∧
  (∀ (s : State) (x : YW) (n v : Nat), s.issue.phase = .whole →
    (Instr.wf (.wait x) = true → x.yws.toNat < (s.group s.me.gid).nsems → v = s.semVal s.me.gid (coreOf s.issue.cid) x.yws.toNat →
      (x.ywt.toNat ≤ v → exec (.wait x) s =
        .next (((s.semNote s.issue.cid x.yws.toNat).acquireSignal s.issue.cid x.yws.toNat).semChange s.me.gid (coreOf s.issue.cid) x.yws.toNat (-(x.ywt.toNat : Int)))) ∧
      (v < x.ywt.toNat → exec (.wait x) s = .next s)) ∧
    (n = (x.co.extractLsb' 0 8).toNat → n < (s.group s.me.gid).nsems → v = s.semVal s.me.gid (coreOf s.issue.cid) n →
      (Instr.wf (.semAdd x) = true → s.me.release = none → ∃ ws, exec (.semAdd x) s = .next { s.semChange s.me.gid (coreOf s.issue.cid) n
        (if x.co.getLsbD 8 then s.bcast.toInt else (x.co.extractLsb' 9 15).toInt) with semWrites := ws, nextId := s.nextId + 1 }) ∧
      (Instr.wf (.semSet x) = true → s.me.release = none → ∃ ws, exec (.semSet x) s = .next { s.semAssign s.me.gid (coreOf s.issue.cid) n
        (if x.co.getLsbD 8 then s.bcast.toInt else (x.co.extractLsb' 9 15).toNat) with semWrites := ws, nextId := s.nextId + 1 }) ∧
      (∀ r i, i ∈ [Instr.semAdd x, .semSet x] → i.wf = true → s.me.release = some r → ∃ t e, exec i s = .next t ∧
        t.me.heldSem = s.me.heldSem ++ [e] ∧ e.till = r ∧ e.n = n ∧ t.groups = s.groups) ∧
      (Instr.wf (.semRd x) = true → exec (.semRd x) s = .next (((s.semNote s.issue.cid n).modMe fun c =>
        { c with semReads := c.semReads ++ [(n, s.nextId)] }).landS 7 (x.co.extractLsb' 8 6)
        (BitVec.ofNat 64 v ||| (if s.semSat s.me.gid (coreOf s.issue.cid) n then 0x10000 else 0)) 2))) ∧
    (∀ i ∈ [Instr.semAdd x, .semSet x, .semRd x], i.wf = true → (s.group s.me.gid).nsems ≤ (x.co.extractLsb' 0 8).toNat →
      exec i s = .next (s.issueTrap 7 .access (BitVec.ofNat 64 (0x200 + (x.co.extractLsb' 0 8).toNat)))))

/-- R274, R277, R281.  The phaser instructions where R277 lets them act: a registration starts with AP and WP at the phase last delivered and leaves
for the phaser; a drop removes it; an arrival raises AP by one modulo 2^32 and leaves for the phaser; a wait whose phase has ended raises WP; a
`drain.arr` raises AP at issue. -/
def Obligations.PhaserInstructionResults : Prop :=
  ∀ (s : State) (x : YW) (n : Nat), n = (x.co.extractLsb' 0 10).toNat → s.issue.phase = .whole → s.phNamed n →
    (Instr.wf (.phReg x) = true → s.me.phReg? n = none → s.me.phregs.length < 8 →
      ∃ (t : State) (o : PhOp), exec (.phReg x) s = .next t ∧
        t.me.phregs = s.me.phregs ++ [⟨n, (x.co.extractLsb' 10 2).toNat, s.phSeen s.me.gid n, s.phSeen s.me.gid n⟩] ∧
        t.phops = s.phops ++ [o] ∧ o.ph = n ∧
        o.act = .register (x.co.extractLsb' 10 2).toNat (x.co.extractLsb' 12 10).toNat (s.phSeen s.me.gid n)) ∧
    (∀ r : PhReg, s.me.phReg? n = some r →
      (Instr.wf (.phDrop x) = true → ∃ (t : State) (o : PhOp), exec (.phDrop x) s = .next t ∧
        t.me.phregs = s.me.phregs.filter (fun q => q.ph != n) ∧ t.phops = s.phops ++ [o] ∧ o.ph = n ∧ o.act = .drop) ∧
      (r.mode ≠ 2 → r.ap ≠ phaseAdd (s.phSeen s.me.gid n) 2 →
        (Instr.wf (.phArr x) = true → ∃ (t : State) (o : PhOp), exec (.phArr x) s = .next t ∧
          t.me.phReg? n = some { r with ap := phaseAdd r.ap 1 } ∧ t.phops = s.phops ++ [o] ∧ o.ph = n ∧ o.act = .arrive) ∧
        (Instr.wf (.phArw x) = true → r.mode ≠ 1 → ∃ (t : State) (o : PhOp), exec (.phArw x) s = .next t ∧
          t.me.phReg? n = some { r with ap := phaseAdd r.ap 1 } ∧ t.phops = s.phops ++ [o] ∧ o.ph = n ∧ o.act = .arrive ∧
          t.me.phWait = s.me.phWait ++ [(n, 1024 * (x.co.extractLsb' 10 14).toNat, s.me.regs.inh)])) ∧
      (Instr.wf (.phWait x) = true → r.mode ≠ 1 → (r.mode = 3 → r.wp ≠ r.ap) →
        (laterPhase (s.phSeen s.me.gid n) r.wp = true → ∃ t, exec (.phWait x) s = .next t ∧
          t.me.phReg? n = some { r with wp := phaseAdd r.wp 1 } ∧ t.phops = s.phops) ∧
        (laterPhase (s.phSeen s.me.gid n) r.wp = false → exec (.phWait x) s = .next s)) ∧
      (∀ y : CW, Instr.wf (.drain y) = true → y.ci.getLsbD 12 = true → drainPh y = n → r.mode ≠ 2 →
        r.ap ≠ phaseAdd (s.phSeen s.me.gid n) 2 → s.tailOk y.tail → s.hasRoom (.drain s.issue.cid) →
        ∃ (t : State) (o : PhOp), exec (.drain y) s = .next t ∧ t.me.phReg? n = some { r with ap := phaseAdd r.ap 1 } ∧
          t.phops = s.phops ++ [o] ∧ o.act = .arrive ∧ o.held = true ∧ t.cmds.length = s.cmds.length + 1))

/-- R118.  `dupcmp` with CTXCTL.DUP clear, or with every register of the range equal to its shadow, does nothing; at the lowest difference it traps
with SOFTERR, with TVAL naming the register and the lanes. -/
def Obligations.DupcmpResults : Prop :=
  ∀ (s : State) (x : YW) (first count : Nat), first = (x.co.extractLsb' 0 9).toNat → count = (x.co.extractLsb' 9 10).toNat →
    s.issue.phase = .whole → Instr.wf (.dupcmp x) = true →
    (s.me.regs.dup = false → exec (.dupcmp x) s = .next s) ∧
    ((∀ k, first ≤ k → k < first + count → s.me.v.get k = s.me.v.get (k + 512)) → exec (.dupcmp x) s = .next s) ∧
    (∀ k, s.me.regs.dup = true → first ≤ k → k < first + count → s.me.v.get k ≠ s.me.v.get (k + 512) →
      (∀ j, first ≤ j → j < k → s.me.v.get j = s.me.v.get (j + 512)) →
      ∃ tv : Word, exec (.dupcmp x) s = .next (s.issueTrap 7 .softerr tv) ∧ (tv.extractLsb' 0 10).toNat = k ∧
        tv.extractLsb' 10 22 = 0 ∧
        ∀ i < 32, tv.getLsbD (32 + i) = decide (elem (s.me.v.get k) 32 i ≠ elem (s.me.v.get (k + 512)) 32 i))

/-- R370 with R366 and R368.  `trap` takes BREAK with TVAL 0, `sys` takes SYS with TVAL from the broadcast register or 0; IMM is the code and the
return point is the bundle after.  R370.  `eret` in a handler, to an aligned return point and with no result pending: the pc is TEPC, the loop levels and the transfer set aside come
back, INH clears, and the next bundle may issue three cycles later; outside a handler it traps with ILLOP. -/
def Obligations.TrapSysAndEretResults : Prop :=
  (∀ (s : State) (x : YW),
    (s.performs (.trap x) → exec (.trap x) s = .next (s.takeTrap s.issue.cid
      ⟨.brk, 0, 7, s.issue.pc, s.issue.next.getD (s.issue.pc + 64), 0, x.co.extractLsb' 0 16, false, false, none⟩)) ∧
    (s.performs (.sys x) → exec (.sys x) s = .next (s.takeTrap s.issue.cid
      ⟨.sys, if x.bv = 1 then s.me.rs x.bi else 0, 7, s.issue.pc, s.issue.next.getD (s.issue.pc + 64), 0, x.co.extractLsb' 0 16, false, false, none⟩))) ∧
  (∀ (s : State) (x : YW), s.issue.phase = .whole → Instr.wf (.eret x) = true →
    (s.me.regs.inh = true → s.me.regs.tepc.toNat % 64 = 0 → s.me.pend = [] → ∀ loops xfer, s.me.aside = some (loops, xfer) →
      ∃ t, exec (.eret x) s = .next t ∧ t.me.pc = s.me.regs.tepc ∧ t.me.loops = loops ∧ t.me.xfer = xfer ∧ t.me.aside = none ∧
        t.me.regs.inh = false ∧ t.me.notBefore = s.myCycle + 3 ∧ t.me.returning = some (s.myCycle + 3) ∧
        t.me.s = s.me.s ∧ t.me.a = s.me.a ∧ t.me.v = s.me.v ∧ t.mem = s.mem) ∧
    (s.me.regs.inh = false → exec (.eret x) s = .next (s.issueTrap 7 .illop 0)) ∧
    (s.me.regs.inh = true → s.me.regs.tepc.toNat % 64 = 0 → s.me.pend ≠ [] → exec (.eret x) s = .next s))

/-- R381, R383, R385, R386, R388, R390, R391 with R12.  The pace instructions of the outrider of die 0: an announced limit becomes pending for its boundary and, in a convoy, goes in
a flit to every other package of its table, an emergency
limit also caps at once and lowers the clocks of the seraiates, a join and a leave set the state and the boundary.  The outrider of die 1 traps with
ACCESS and 0x13, any other context with PRIV. -/
def Obligations.PaceInstructionResults : Prop :=
  ∀ (s : State) (x : YW) (e lim : Nat), e = 100000 * ((s.tick + 103999) / 100000) → s.issue.phase = .whole →
    (s.issue.cid = 800 → lim = (if x.co.getLsbD 9 then s.bcast.toNat else (x.co.extractLsb' 0 8).toNat) →
      16 ≤ lim → lim ≤ 160 →
      (Instr.wf (.paceAnn x) = true → ∃ t, exec (.paceAnn x) s = .next t ∧
        t.pace.pending = s.pace.pending.filter (fun p => p.1 != e) ++ [(e, lim)] ∧ t.pace.ecap = s.pace.ecap ∧ t.serais = s.serais ∧
        (s.pace.mstate ≠ 0 → t.outbox = s.outbox ++ s.cvOthers.map fun k => .pace k (paceFlit (s.paceMsg 1 false lim e)))) ∧
      (Instr.wf (.paceAnnE x) = true → ∃ t, exec (.paceAnnE x) s = .next t ∧
        t.pace.pending = s.pace.pending.filter (fun p => p.1 != e) ++ [(e, lim)] ∧ t.pace.emerg = min 65535 (s.pace.emerg + 1) ∧
        (lim < s.pace.ceil → t.pace.emergencies = s.pace.emergencies ++ [(e, lim)] ∧
          t.pace.ecap = if s.pace.ecap = 0 then lim else min s.pace.ecap lim) ∧
        (s.pace.ceil ≤ lim → t.pace.emergencies = s.pace.emergencies) ∧ (∀ k < 48, (t.serai k).clk = min (s.serai k).clk (t.wantClk k)) ∧
        (s.pace.mstate ≠ 0 → t.outbox = s.outbox ++ s.cvOthers.map fun k => .pace k (paceFlit (s.paceMsg 1 true lim e))))) ∧
    (s.issue.cid = 800 → Instr.wf (.paceJoin x) = true → s.pace.mstate = 0 → s.pk.cvtab ≠ 0 → s.pace.cvn ≠ 0 →
      s.pace.pkg ∈ s.cvTable →
      ∃ t, exec (.paceJoin x) s = .next t ∧ t.pace.mstate = 1 ∧ t.pace.boundary = e ∧
        (∀ p ∈ t.pace.peers, p.view = .absent ∧ p.pkg ∈ s.cvTable ∧ p.pkg ≠ s.pace.pkg) ∧ t.mem = s.mem) ∧
    (s.issue.cid = 800 → Instr.wf (.paceLeave x) = true → s.pace.mstate = 2 →
      ∃ t, exec (.paceLeave x) s = .next t ∧ t.pace.mstate = 3 ∧ t.pace.boundary = e ∧ t.pace.peers = s.pace.peers ∧ t.mem = s.mem) ∧
    (∀ i ∈ [Instr.paceAnn x, .paceAnnE x, .paceJoin x, .paceLeave x], i.wf = true →
      (isOutrider s.issue.cid = false → exec i s = .next (s.issueTrap 7 .priv 0)) ∧
      (isOutrider s.issue.cid = true → locOf s.issue.cid ≠ 800 → exec i s = .next (s.issueTrap 7 .access 0x13)))

/-! ## Issue, traps and the step -/

/-- R50, R53.  Every slot instruction is handled in three ways: while the bundle is checked it only records its verdict, ILLOP where its fields are
illegal; where every slot has passed it answers a next state; issued by itself with illegal fields it traps with ILLOP. -/
def Obligations.SlotInstructionsCheckThenAct : Prop :=
  ∀ (s : State) (i : Instr) (k : Nat) (w : BitVec 64), encode i = some (k, w) →
    (s.issue.phase = .check → ∃ v : Verdict,
      exec i s = .next { s with issue := { s.issue with verdicts := s.issue.verdicts ++ [(k, v)] } } ∧
      (i.wf = false → v = .trap .illop 0)) ∧
    (s.issue.phase = .act → ∃ t, exec i s = .next t) ∧
    (s.issue.phase = .whole → i.wf = false → exec i s = .next (s.issueTrap k .illop 0))

/-- R50, R90.  What an instruction of the S and V slots other than `mtc` leaves unchanged: it only starts results of its own context, so no register,
mask, flag or loop level of any context changes in the cycle of its issue, and nothing else in the package does. -/
def Obligations.ComputationOnlyStartsResults : Prop :=
  ∀ (s t : State) (i : Instr) (k : Nat) (w : BitVec 64), encode i = some (k, w) → k ≤ 2 → (∀ x, i ≠ .mtc x) →
    s.issue.phase = .act → exec i s = .next t →
    (∃ rs : List Result, t.me = { s.me with pend := s.me.pend ++ rs, order := s.me.order + rs.length }) ∧
    (∀ c, c ≠ s.issue.cid → t.ctx c = s.ctx c) ∧ sameMemory s t ∧ t.posted = s.posted ∧ t.late = s.late ∧ t.atomics = s.atomics ∧
    t.groups = s.groups ∧ t.cores = s.cores ∧ t.serais = s.serais ∧ t.cmds = s.cmds ∧ t.cons = s.cons ∧ t.queues = s.queues ∧
    t.pk = s.pk ∧ t.pace = s.pace ∧ t.issue = s.issue

/-- R50, R90, R254, R257, R258.  The frame of the slot instructions in the cycle of their issue.  But for `trap`, `sys`, `eret` and `halt`, no
register, mask, mask stack or special register of any context changes at once: every write is a result that lands later.  Every byte of every
memory, and of every scratchpad, side bank and tile store, stays as it is: a store is posted or waits for the end of the cycle, an atomic is on
its way, a command is queued, a release publishes. -/
def Obligations.SlotInstructionsFrame : Prop :=
  ∀ (s t : State) (i : Instr) (k : Nat) (w : BitVec 64), encode i = some (k, w) → s.issue.phase = .act → exec i s = .next t →
    ((∀ x : YW, i ≠ .trap x ∧ i ≠ .sys x ∧ i ≠ .eret x ∧ i ≠ .halt x) → ∀ c,
      (t.ctx c).s = (s.ctx c).s ∧ (t.ctx c).a = (s.ctx c).a ∧ (t.ctx c).v = (s.ctx c).v ∧ (t.ctx c).m = (s.ctx c).m ∧
      (t.ctx c).stack = (s.ctx c).stack ∧ (t.ctx c).regs = (s.ctx c).regs) ∧
    sameMemory s t ∧
    ∀ g, (t.group g).sp = (s.group g).sp ∧ (t.group g).side = (s.group g).side ∧ (t.group g).ts = (s.group g).ts

/-- R363, R364.  The code, the target and the rank of every cause. -/
def Obligations.CauseCodesTargetsAndRanks : Prop :=
  ([.illop, .priv, .lwin, .latconf, .align, .spbound, .tsbound, .access, .fpx, .snan, .mxx, .nmv, .pcwbad, .cfi, .mstk, .softerr,
    .markov, .eccu, .timeout, .sys, .brk] : List Cause).map Cause.code = (List.range 21).map (· + 1) ∧
  (∀ c : Cause, c.target = .resolver ↔ c = .priv ∨ c = .cfi ∨ c = .eccu ∨ c = .sys) ∧
  (∀ c : Cause, c.target = .abort ↔ c = .markov) ∧
  ([.eccu, .mxx, .illop, .priv, .lwin, .latconf, .mstk, .pcwbad, .cfi, .tsbound, .align, .spbound, .access, .markov, .softerr] :
    List Cause).Pairwise (fun a b => a.rank < b.rank) ∧
  Cause.rank .mxx = Cause.rank .nmv ∧
  (∀ (vs : List (Nat × Verdict)) (k : Nat) (c : Cause) (tv : Word), bundleVerdict vs = (k, .trap c tv) →
    (k, Verdict.trap c tv) ∈ vs ∧
    ∀ (j : Nat) (d : Cause) (tw : Word), (j, Verdict.trap d tw) ∈ vs → c.rank < d.rank ∨ (c.rank = d.rank ∧ k ≤ j))

/-- R366, R368.  A trap for the handler, with a handler and outside one: the trap registers are written, the pending results wait in the replay buffer,
the loop levels and the transfer are set aside, INH is set, and the handler's first bundle may issue three cycles later.  A landing trap keeps its result.  TVAL of the causes for which the manual names no value at
issue, and TLAT of TIMEOUT, are free values (log 18); that a result held for an `eret` still under way goes back to the replay buffer is the
model's reading (log 85). -/
def Obligations.TrapEntersHandler : Prop :=
  ∀ (s : State) (cid : Nat) (t : TrapInfo) (c u : Ctx), c = s.ctx cid → u = (s.takeTrap cid t).ctx cid → c.regs.inh = false →
    (isOutrider cid = true ∨ t.cause.target = .handler) → c.regs.thand &&& ~~~63#64 ≠ 0 →
    u.pc = c.regs.thand &&& ~~~63#64 ∧ u.notBefore = s.cycleOf cid + 3 ∧ u.regs.inh = true ∧
    u.regs.tcause.extractLsb' 0 8 = BitVec.ofNat 8 t.cause.code ∧ u.regs.tcause.getLsbD 8 = t.land ∧
    u.regs.tcause.getLsbD 9 = t.defer ∧ u.regs.tcause.getLsbD 10 = c.xfer.isSome ∧ u.regs.tcause.extractLsb' 11 5 = 0 ∧
    u.regs.tcause.extractLsb' 16 16 = t.imm ∧ u.regs.tcause.extractLsb' 32 31 = 0 ∧
    u.regs.tpc = t.pc &&& ~~~63#64 ∧ u.regs.tepc = t.tepc &&& ~~~63#64 ∧ u.regs.tslot = BitVec.ofNat 64 t.slot ∧
    (t.cause.openTval = false ∨ t.land = true → u.regs.tval = t.tval) ∧
    (t.cause ≠ .timeout → u.regs.tlat = BitVec.ofNat 64 (min t.tlat (2 ^ 32 - 1))) ∧
    u.region = none ∧ u.pend = [] ∧ u.returning = none ∧ (t.result.isSome = true → u.held = t.result) ∧
    (t.result = none → c.returning = none → u.held = c.held) ∧ (c.returning = none → u.regs.rbDrop = c.regs.rbDrop) ∧
    u.replay = c.heldBack ++ c.replay ++ c.pend.map (fun x => { x with due := x.due - (if t.land then s.cycleOf cid else s.cycleOf cid + 1) }) ∧
    u.aside = some (c.loops, c.xfer) ∧ (∀ l ∈ u.loops, l.active = false) ∧ u.xfer = none ∧
    u.status = c.status ∧ u.s = c.s ∧ u.a = c.a ∧ u.v = c.v ∧ u.m = c.m ∧ u.stack = c.stack ∧
    u.regs.fpctl = c.regs.fpctl ∧ u.regs.thand = c.regs.thand ∧ u.regs.tscr0 = c.regs.tscr0 ∧ u.regs.tscr1 = c.regs.tscr1

/-- R366, R367, R369.  A trap for the resolver stops the context, whose lease ends, and posts a trap event; a trap that finds no handler, or arises in
one, and MARKOV end the consignment with REASON the code; an outrider without a handler stops. -/
def Obligations.TrapStopsOrAborts : Prop :=
  ∀ (s : State) (cid : Nat) (t : TrapInfo) (c : Ctx) (u : State), c = s.ctx cid → u = s.takeTrap cid t →
    (isOutrider cid = false → t.cause.target = .resolver →
      (u.ctx cid).status = .stopped ∧ (u.ctx cid).regs.inh = c.regs.inh ∧ (u.ctx cid).regs.tpc = t.pc &&& ~~~63#64 ∧
      (u.ctx cid).pend = [] ∧ (∀ l, (u.serai (seraiOf cid)).lease = some l → isSerai cid = true → l.holder ≠ cid) ∧
      (∃ e, u.eventsOut = s.eventsOut ++ [e] ∧ e.asid = c.asid ∧ e.kind = 2 ∧ e.bytes.length = 32 ∧ e.bytes.head? = some 2#8 ∧
        e.bytes[1]? = some (BitVec.ofNat 8 t.cause.code))) ∧
    (isOutrider cid = false → (t.cause.target = .abort ∨
        (t.cause.target = .handler ∧ (c.regs.inh = true ∨ c.regs.thand &&& ~~~63#64 = 0))) →
      ∀ (k : Nat) (x : Cons), c.cons = some k → s.con? k = some x → x.state = .running →
        ∃ y, u.con? k = some y ∧ y.state = .killing ∧ y.status = 4 ∧ y.reason = t.cause.code) ∧
    (isOutrider cid = true → (c.regs.inh = true ∨ c.regs.thand &&& ~~~63#64 = 0) →
      (u.ctx cid).status = .outriderStopped ∧ u.eventsOut = s.eventsOut)

/-- R4, R13, R50, R182, R254.  A step runs the oldest input (the oldest first is the model's choice, log 1); else, with nothing due, the holder of
the first core that may issue (the first of them is the model's choice, log 7): the bytes of the line at its PC, read by the decoder, issue as one
bundle where no wait and no check of theirs fails, and each slot of the bundle then runs by `exec`.  A lease that one of the cores first asks for
in this cycle is granted before (log 22).  A peer's request and then a host's access run after all else of the cycle, and with nothing left to do a
base cycle passes. -/
def Obligations.StepRunsTheDecodedBundle : Prop :=
  (∀ (s : State) (i : Instr) (rest : List Instr), s.inputs = i :: rest → hostLast i = false → step s = exec i { s with inputs := rest }) ∧
  (∀ (s f g h : State) (core cid k : Nat) (pc : Word) (bytes : List Byte) (is : List (Nat × Instr)), s.inputs = [] → s.eventBefore = none →
    s.usedCores.find? s.mayTry = some core → g = s.modCore core (fun x => { x with tried := s.coreCycle core + 1 }) →
    isSerai (firstCtxOf core) = false ∨ ((s.firstRequests (core / 4)).serai (core / 4)).grantDue = false →
    (g.core core).holder = some cid → (g.ctx cid).live = true → (g.ctx cid).hasLine = true → (g.ctx cid).notBefore ≤ s.coreCycle core →
    f = ((g.reinject cid).frameFor cid).endHold cid → f.me.line = some (pc, .bytes bytes) → is = f.me.slotInstrs →
    f.me.suppressed f.issue.common = false → f.held cid = false → f.waitFails = false → h = f.seekStore is →
    leasedVerdict is ((h.startMark is).allChecks f.me.slots is) = (k, .ok) →
    step s = .next (h.issueBundle is).endFrame) ∧
  (∀ (s : State) (core : Nat), s.inputs = [] → s.eventBefore = none → s.usedCores.find? s.mayTry = some core →
    isSerai (firstCtxOf core) = true → ((s.firstRequests (core / 4)).serai (core / 4)).grantDue = true →
    step s = exec (.leaseGrant (core / 4)) (s.firstRequests (core / 4))) ∧
  (∀ (s : State) (i : Instr) (rest : List Instr), (∀ j ∈ s.inputs, hostLast j = true) → s.eventBefore = none →
    s.usedCores.find? s.mayTry = none → s.eventAfter = none →
    (s.inputs = i :: rest → fromPeer i = true ∨ (∀ j ∈ rest, fromPeer j = false) → step s = exec i { s with inputs := rest }) ∧
    (s.inputs = [] → s.acts = [] → step s = .next s.advance)) ∧
  (∀ (c : Ctx) (bytes : List Byte) (k : Nat) (i : Instr), c.line = some (c.pc, .bytes bytes) →
    ((k, i) ∈ c.slotInstrs ↔ (decodeBytes (c.csrc c.lineY) bytes)[k]? = some (.ok i))) ∧
  (∀ (s : State) (i : Instr) (w : Nat × BitVec 64), encode i = some w →
    exec i { s with issue := { s.issue with phase := .act } } = .next (s.runSlot i))

/-! ## Encodings -/

/-- R48 to R71.  Slot words written out bit by bit from the formats, and the instruction that each is. -/
def Obligations.SampleWordsDecode : Prop :=
  decodeSlot false 0 0x0F1C_0000_01F3_F400#64 = .ok (.li ⟨7, 0, 0, 0, 0x01F3F400⟩) ∧
  decodeSlot false 0 0x1010_4000_0123_4567#64 = .ok (.lih ⟨4, 4, 0, 0, 0x01234567⟩) ∧
  decodeSlot false 0 0x2900_7000_0000_0041#64 = .ok (.mtc ⟨0, 7, 0, 0, 0x41⟩) ∧
  decodeSlot false 0 0x300C_1080_0000_0000#64 = .ok (.faddD ⟨3, 1, 2, 0, 0⟩) ∧
  decodeSlot false 3 0x0310_20C0_0100_0009#64 = .ok (.tld ⟨1, 0, 4, 6, 1, 9⟩) ∧
  decodeSlot false 4 0x0100_C400_0000_0018#64 = .ok (.ld ⟨3, 2, 0, 0, 3, 0⟩) ∧
  decodeSlot false 5 0x2000_0000_0000_00B0#64 = .ok (.fenceRel ⟨0, 0, 0, 0, 22, 0⟩) ∧
  decodeSlot true 7 0x0900_002A_0000_0003#64 = .ok (.loopReg ⟨0, 0, 1, 20, 0, 0, 0, 0, 0, 3⟩) ∧
  decodeSlot false 7 0x0D00_0000_0023_4567#64 = .ok (.xim ⟨0, 0, 0, 0, 0, 0, 0, 0, 0, 0x234567⟩)

/-- R48 to R71.  The encoding of every legal slot instruction, with every operand at every value it admits, decodes to that instruction.  R48 to R71.  Every slot word that the decoder accepts is the encoding of what it reads there: no bit is dropped, and no two words read alike. -/
def Obligations.EncodingRoundTrip : Prop :=
  (∀ (i : Instr) (k : Nat) (w : BitVec 64), encode i = some (k, w) → i.wf = true → decodeSlot (csrcOf i) k w = .ok i) ∧
  (∀ (csrc : Bool) (k : Nat) (w : BitVec 64) (i : Instr), decodeSlot csrc k w = .ok i → encode i = some (k, w))

/-! ## Reset and the invariant -/

/-- R13, R80, R328, R333, R374, R379, R381, R406, R407, R412.  After reset no parcel is placed, every queue is closed, every clock stands at 4,000 MHz and each
package register at its value; the stores are in their canonical form.  That unlisted memory reads zero is the model's choice (log 2), and so is that the registers of a context hold
zero, FPCTL and THAND among them, before a parcel is placed on it (log 63). -/
def Obligations.ResetLeaves : Prop :=
  State.reset.memWf = true ∧ (∀ a, State.reset.mem.get a = 0) ∧ (∀ q, (State.reset.queue q).st = .closed) ∧
  (∀ c, (State.reset.ctx c).live = false) ∧ (∀ k, (State.reset.serai k).clk = 160 ∧ (State.reset.serai k).level = 0 ∧
    (State.reset.serai k).lease = none) ∧
  State.reset.cmds = [] ∧ State.reset.cons = [] ∧ State.reset.pk.target = 160 ∧ State.reset.pk.errcnt = 0 ∧ State.reset.pk.errcnt2 = 0 ∧
  State.reset.pk.merr = 0 ∧ State.reset.pk.split = 64 ∧ State.reset.pk.pwin = 0x0200_0000_0200_0000#64 ∧ State.reset.pk.bootState = 0 ∧
  State.reset.pk.poweredOn = false ∧ State.reset.pace.mstate = 0 ∧ State.reset.pace.ceil = 160 ∧ State.reset.pace.lim = 160 ∧
  (∀ j r, (State.reset.ctx j).rs r = 0) ∧ (∀ j, (State.reset.ctx j).regs.fpctl = 0 ∧ (State.reset.ctx j).regs.thand = 0)

/-- The canonical form of the memories and of the staging window is kept by every step (log 2). -/
def Obligations.StepKeepsMemoryCanonical : Prop :=
  ∀ s t : State, s.memWf = true → step s = .next t → t.memWf = true

/-! ## Events: registers, ports, errors -/

/-- R228, R232, R332, R374, R378 to R380, R392, R394, R406, R407, R415, R416.  Writes of the package registers always complete: each replaces the fields
that its register has and no other register.  What hardware has counted in ERRCNT, ERRCNT2 and MERR in the base cycle of the write is added to what is written (R126 item 3). -/
def Obligations.RegisterWritesComplete : Prop :=
  ∀ (s : State) (v : Word),
    (∃ t, exec (.fllsetWrite v) s = .next t ∧ t.pk = { s.pk with target := max 16 (min 160 (v.toNat % 256)) } ∧ sameMemory s t ∧
      ∀ k < 48, (t.serai k).clk = min (s.serai k).clk (t.wantClk k)) ∧
    (∃ t, exec (.throttleWrite v) s = .next t ∧ (∀ k < 48, (t.serai k).level = v.toNat % 8 ∧ (t.serai k).clk = (s.serai k).clk) ∧
      t.pk = s.pk ∧ sameMemory s t) ∧
    (∀ now : Nat → List (Nat × Nat), now = (fun reg => (s.pk.bumps.filter fun b => b.1 == reg).map (·.2)) →
      exec (.errcntWrite v) s = .next { s with pk := { s.pk with errcnt := (now 0x817).foldl (fun y b => addCount y b.1 b.2) v } } ∧
      (∃ x : Word, exec (.errcnt2Write v) s =
          .next { s with pk := { s.pk with errcnt2 := (now 0x818).foldl (fun y b => addCount y b.1 b.2) x } } ∧
        ∀ i < 64, x.getLsbD i = (decide (i < 48) && v.getLsbD i)) ∧
      (∃ x y : Word, exec (.merrClear v) s = .next { s with pk := { s.pk with merr := y } } ∧
        (∀ i < 64, x.getLsbD i = (s.pk.merr.getLsbD i && !(decide (i < 2) && v.getLsbD i))) ∧
        (now 0x833 = [] → y = x) ∧ ∀ b ∈ now 0x833, b.1 < 2 → y.getLsbD b.1 = true)) ∧
    ((∀ q ∈ s.queues, q.2.st = .closed) →
      exec (.qpartWrite v) s = .next { s with pk := { s.pk with split := max 1 (v.toNat % 128) } }) ∧
    (∀ q ∈ s.queues, q.2.st ≠ .closed → ∃ x : Word, exec (.qpartWrite v) s = .next { s with pk := { s.pk with errcnt2 := x, bumps := s.pk.bumps ++ [(0x818, 32, 1)] } } ∧
      (x.extractLsb' 32 16).toNat = min 65535 ((s.pk.errcnt2.extractLsb' 32 16).toNat + 1)) ∧
    exec (.pwinWrite v) s = .next { s with pk := { s.pk with pwin := v } } ∧
    exec (.xlinv v) s = .next { s with pk := { s.pk with xlBusy := some s.tick } } ∧
    (∀ (i lo : Nat) (f : Word → PkgRegs), (i, lo, f) ∈ ([(0x812, 7, fun x => { s.pk with astab := x }), (0x813, 16, fun x => { s.pk with tollbase := x }),
        (0x814, 6, fun x => { s.pk with qtab := x }), (0x819, 14, fun x => { s.pk with coltab := x }),
        (0x81A, 6, fun x => { s.pk with cvtab := x })] : List (Nat × Nat × (Word → PkgRegs))) →
      exec (.controlRegisterWrite i v) s = .next { s with pk := f (BitVec.ofNat 64 (v.toNat % 2 ^ 52 / 2 ^ lo * 2 ^ lo)) }) ∧
    (∀ m < 10, ∃ t, exec (.controlRegisterWrite (0x820 + m) v) s = .next t ∧ (t.tmon m).thr = v.toNat / 2 ^ 9 % 512 ∧
      (t.tmon m).hyst = v.toNat / 2 ^ 18 % 32 ∧ (t.tmon m).aen = v.getLsbD 24 ∧ (t.tmon m).sem = v.toNat / 2 ^ 25 % 64 ∧
      (t.tmon m).temp = (s.tmon m).temp ∧ (t.tmon m).alert = (s.tmon m).alert ∧ t.pk = s.pk ∧ sameMemory s t)

/-- R372 to R376, R392, R393, R412 to R414, R416.  Errors are counted, samples are stored, and the package boots: the counters saturate at 65,535; ALERT rises
where the sample reaches the threshold; the boot ROM's finding decides between RUN, in which the outrider has BODY at a base of the model's own (log 4), and RECOVERY.  What a reboot keeps, memory, the flash, TICK,
the package id, the training and the enables of the ports, is the model's choice (log 4). -/
def Obligations.ErrorsSamplesAndBoot : Prop :=
  (∀ (s : State) (hbm : Bool) (n : Nat), ∃ x : Word, exec (.correctableError hbm n) s =
      .next { s with pk := { s.pk with errcnt := x, bumps := s.pk.bumps ++ [(0x817, if hbm then 16 else 0, n)] } } ∧
    (x.extractLsb' (if hbm then 16 else 0) 16).toNat =
      min 65535 ((s.pk.errcnt.extractLsb' (if hbm then 16 else 0) 16).toNat + n) ∧
    x.extractLsb' (if hbm then 0 else 16) 16 = s.pk.errcnt.extractLsb' (if hbm then 0 else 16) 16 ∧
    x.extractLsb' 32 32 = s.pk.errcnt.extractLsb' 32 32) ∧
  (∀ (s : State) (p : Place), ∃ t, exec (.uncorrectableError p) s = .next t ∧ sameMemory s t ∧
    (t.pk.errcnt.extractLsb' 32 16).toNat = min 65535 ((s.pk.errcnt.extractLsb' 32 16).toNat + 1) ∧
    (∀ a, p = .memory a → p ∈ t.poison)) ∧
  (∀ (s : State) (port : Nat), ∃ x : Word, exec (.pcieCorrectableError port) s =
      .next { s with pk := { s.pk with errcnt2 := x, bumps := s.pk.bumps ++ [(0x818, 16, 1)] } } ∧
    (x.extractLsb' 16 16).toNat = min 65535 ((s.pk.errcnt2.extractLsb' 16 16).toNat + 1)) ∧
  (∀ (s : State) (die temp : Nat), die < 2 → ∃ t, exec (.tempSample die temp) s = .next t ∧ (t.tmon die).temp = temp % 512 ∧
    ((s.tmon die).alert = false → (t.tmon die).alert = decide ((s.tmon die).thr ≤ temp % 512)) ∧ sameMemory s t) ∧
  (∀ (s : State) (stack temp : Nat), stack < 8 → ∃ t, exec (.hbmTempSample stack temp) s = .next t ∧
    (t.tmon (2 + stack)).temp = temp % 512 ∧
    ((s.tmon (2 + stack)).href = 0 → (t.tmon (2 + stack)).href = if 190 ≤ temp % 512 then 2 else if 170 ≤ temp % 512 then 1 else 0) ∧
    ((s.tmon (2 + stack)).hcap = 0 → (t.tmon (2 + stack)).hcap = if 210 ≤ temp % 512 then 2 else if 190 ≤ temp % 512 then 1 else 0)) ∧
  (∀ (s : State) (pkg tick : Nat), (s.pk.trained = true → exec (.linkTraining pkg tick) s = .next s) ∧
    (s.pk.trained = false → ∃ t, exec (.linkTraining pkg tick) s = .next t ∧ t.tick = tick ∧ t.pace.pkg = pkg % 4096 ∧
      t.pk = { s.pk with trained := true } ∧ sameMemory s t)) ∧
  (∀ s : State, s.pk.poweredOn = false → ∃ t, exec .powerOn s = .next t ∧ t.pk.poweredOn = true ∧ t.pk.bootCause = bootCause s.flashBad s.flash ∧
    t.pk.bootState = (if bootCause s.flashBad s.flash = 0 then 1 else 2) ∧
    (if bootCause s.flashBad s.flash = 0 then (t.ctx 800).status = .ready ∧ (t.ctx 800).priv = true ∧
      (s.posted = [] → ∀ i < bodyLen s.flash, t.mem.get (Config.firmwareBase + i) = (s.flash[512 + i]?).getD 0)
     else t.ctxs = s.ctxs ∧ sameMemory s t)) ∧
  (∀ img : List Byte, bootCause true img = 1) ∧
  (∀ s : State, ∃ t, exec .bootReboot s = .next t ∧ t.pk = { PkgRegs.fresh with
      trained := s.pk.trained
      msixDue := s.pk.msixDue
      msixLast := s.pk.msixLast
      memEn := s.pk.memEn
      busEn := s.pk.busEn
      msixEn := s.pk.msixEn
      atomicEn := s.pk.atomicEn } ∧
    t.ctxs = [] ∧ t.cons = [] ∧ t.queues = [] ∧ t.cmds = [] ∧ t.flash = s.flash ∧ t.tick = s.tick ∧ t.pace.pkg = s.pace.pkg ∧
    (s.posted = [] → sameMemory s t)) ∧
  (∀ s : State, (s.pk.bootState ≠ 2 → exec .bootFlash s = .next s) ∧
    (s.pk.bootState = 2 → ∃ t, exec .bootFlash s = .next t ∧
      if bootCause false s.staged = 0 then t.flash = s.staged ∧ t.pk.poweredOn = false
      else t = { s with pk := { s.pk with bootCause := bootCause false s.staged, svn := dnum s.staged 8 4 } }))

/-- R404, R405, R408, R413, R417, R418, R235, R242, R375, R377.  What comes in at the ports: with memory accesses enabled a read of BAR0 answers the
register, a write becomes the register's event before any later access; BAR2 reaches the port's window, which PWIN gives from the next cycle on (R406); mailbox requests are answered in RUN
and Busy otherwise; peers read and write at home; a request that a peer has not answered in 200,000 ticks becomes ACCESS.  The enables of the
configuration space and the messages of the mailbox are those of their standards (logs 6 and 12). -/
def Obligations.PortRequestsComplete : Prop :=
  (∀ (s : State) (a : HostAccess), a.atomic = false → a.size = 8 → a.offset % 8 = 0 → a.offset < 2048 → s.pk.bootState ≠ 2 →
    s.barOn a.port = true →
    (a.write = false → exec (.hostBar0Access a) s = .next { s with outbox := s.outbox ++
      [.completion a.port (natLe 8 ((s.pkgReg (0x800 + a.offset / 8)).getD 0).toNat)] }) ∧
    (a.write = true → (s.pkgReg (0x800 + a.offset / 8)).isSome = true → exec (.hostBar0Access a) s = .next { s with
      inputs := regEvents (0x800 + a.offset / 8) (BitVec.ofNat 64 (leNat (a.data.take 8))) ++ s.inputs })) ∧
  (∀ (s : State) (a : HostAccess) (base : Nat), a.atomic = false → s.pk.bootState ≠ 2 → s.barOn a.port = true →
    base = (s.window a.port).1 → a.offset + a.size ≤ (s.window a.port).2 → base + a.offset + a.size ≤ Config.hbmBytes →
    (a.write = false → exec (.hostBar2Access a) s = .next { s with outbox := s.outbox ++
      [.completion a.port (s.bytesSeen viewHost 0 (base + a.offset) a.size)] }) ∧
    (a.write = true → a.data.length = a.size → s.posted = [] → ∃ t, exec (.hostBar2Access a) s = .next t ∧
      (∀ i < a.size, t.mem.get (base + a.offset + i) = (a.data[i]?).getD 0) ∧
      ∀ x, (x < base + a.offset ∨ base + a.offset + a.size ≤ x) → t.mem.get x = s.mem.get x)) ∧
  (∀ (s : State) (a : HostAccess),
    (a.atomic = true → exec (.hostBar2Access a) s = .next { s with outbox := s.outbox ++ [.unsupported a.port] }) ∧
    (a.atomic = false → s.barOn a.port = false → ∀ i ∈ [Instr.hostBar0Access a, .hostBar2Access a],
      exec i s = .next (if a.write then s else { s with outbox := s.outbox ++ [.unsupported a.port] }))) ∧
  (∀ (s : State) (port v : Nat), port < s.pk.memEn.length → (s.outside (.configWrite port .command v)).barOn port = v.testBit 1 ∧
    s.outside (.configRead port .deviceCapabilities2) = { s with outbox := s.outbox ++ [.completion port (natLe 4 0)] }) ∧
  (∀ (s : State) (port : Nat) (i : Instr), (i ∈ [Instr.getVersion port, .getDigests port] ∨
      (∃ req, req.port = port ∧ i ∈ [Instr.getCapabilities req, .negotiateAlgorithms req]) ∨
      (∃ k o l, i = .getCertificate port k o l) ∨ (∃ k ask, i = .challenge port k ask) ∨
      (∃ k sg ask, i = .getMeasurements port k sg ask) ∨ (∃ c, i = .spdmUnsupportedRequest port c)) →
    ∃ (code : Nat) (bytes : List Byte) (m : List SpdmLog) (n : Nat),
      exec i s = .next { s with outbox := s.outbox ++ [.doe port code bytes], pk := { s.pk with mailbox := m }, free := n } ∧
      (s.pk.bootState ≠ 1 → code = 0x7F ∧ bytes = [0x13#8, 0x7F#8, 0x03#8, 0#8]) ∧
      (s.pk.bootState = 1 → (i = .getVersion port → code = 0x04) ∧ (i = .getDigests port → code = 0x01) ∧
        (∀ o l, i = .getCertificate port 0 o l → code = 0x02) ∧ (∀ ask, i = .challenge port 0 ask → code = 0x03) ∧
        (∀ sg ask, i = .getMeasurements port 0xFF sg ask → (sg = true → ask.param = 0) → code = 0x60) ∧
        (∀ req, i = .getCapabilities req → code = 0x61) ∧ (∀ req, i = .negotiateAlgorithms req → code = 0x63) ∧
        (∀ c, i = .spdmUnsupportedRequest port c → code = 0x7F))) ∧
  (∀ (s : State) (port : Nat), port < 2 →
    s.window port = (2 ^ 30 * (s.pk.windows.extractLsb' (32 * port) 16).toNat, 2 ^ 30 * min 512 (s.pk.windows.extractLsb' (32 * port + 16) 16).toNat) ∧
    s.advance.pk.windows = s.pk.pwin) ∧
  (∀ (s : State) (r : PeerReq), s.tollBase = 0 → r.addr + r.size ≤ Config.hbmBytes → r.atomic = none → s.posted = [] →
    (r.write = false → exec (.peerMemoryRequest r) s = .next { s with outbox := s.outbox ++
      [.peerData r.pkg (s.bytesSeen (if s.convoyHas r.pkg then viewPeer else viewOutside) 0 r.addr r.size)] }) ∧
    (r.write = true → r.data.length = r.size → ∃ t, exec (.peerMemoryRequest r) s = .next t ∧
      (∀ i < r.size, t.mem.get (r.addr + i) = (r.data[i]?).getD 0) ∧
      ∀ x, (x < r.addr ∨ r.addr + r.size ≤ x) → t.mem.get x = s.mem.get x)) ∧
  (∀ (s : State) (id : Nat),
    ((∃ p ∈ s.posted, p.id = id ∧ p.performed = false ∧ unanswered id p.piece.at_ = true ∧ p.left + 200000 ≤ s.tick) ∨
     (∃ a ∈ s.atomics, a.id = id ∧ unanswered id a.at_ = true ∧ a.left + 200000 ≤ s.tick) ∨
     (∃ c ∈ s.ctxs, ∃ e ∈ (s.ctx c.1).far, e.id = id ∧ e.data = .waiting ∧ (e.kind = .load ∨ e.kind = .vector) ∧
       s.farUnanswered c.1 e = true ∧ e.left + 200000 ≤ s.tick)) →
    ∃ t, exec (.peerRequestTimeout id) s = .next t ∧ sameMemory s t ∧
      (t.pk.errcnt2 = if (∃ p ∈ s.posted, p.id = id) ∨ (∃ a ∈ s.atomics, a.id = id ∧ a.fetch = none)
        then addCount s.pk.errcnt2 0 1 else s.pk.errcnt2) ∧
      (∀ p ∈ t.posted, p ∈ s.posted ∧ p.id ≠ id) ∧ (∀ a ∈ t.atomics, a ∈ s.atomics ∧ a.id ≠ id) ∧
      (∀ x ∈ t.ctxs, ∀ e ∈ x.2.far, e.data = .waiting → e.id ≠ id ∧ ∀ a ∈ s.atomics, a.id = id → a.fetch ≠ some e.id))

/-! ## Events: queues and pre-emption, resumption, the convoy, power -/

/-- R332, R333, R356 to R362, R408, R412.  Host commands on queues: opening reads the descriptor, of a queue that is not CLOSED its DEV alone; closing and killing a queue, the doorbell, and PREEMPT with
its three actions on the consignments that it names, of which a suspend and a kill raise BUSY.  The enables of a port's configuration space that a
function-level reset clears are those of its standard (log 6). -/
def Obligations.QueueCommandsComplete : Prop :=
  (∀ (s : State) (q : Nat), q < 8192 →
    (s.pk.bootState ≠ 1 → exec (.queueOpen q) s = .next s) ∧
    ((s.queue q).st ≠ .closed → s.pk.bootState = 1 → ∃ t, exec (.queueOpen q) s = .next t ∧
      t.queue q = { s.queue q with dev := (s.qdNum q 15 1).testBit 2 } ∧ sameMemory s t) ∧
    ((s.queue q).st = .closed → s.pk.bootState = 1 →
      (s.descriptorOk q = true → ∃ t, exec (.queueOpen q) s = .next t ∧ t.queue q = s.describedQueue q ∧ (t.queue q).st = .open_) ∧
      (s.descriptorOk q = false → ∃ t, exec (.queueOpen q) s = .next t ∧ (t.queue q).st = .error)) ∧
    (((s.queue q).st = .open_ ∨ (s.queue q).st = .error) → ∃ t, exec (.queueClose q) s = .next t ∧ (t.queue q).st = .closing ∧
      (t.queue q).packet = none ∧ t.cons = s.cons) ∧
    (((s.queue q).st = .closed ∨ (s.queue q).st = .closing) → exec (.queueClose q) s = .next s) ∧
    (∃ t, exec (.queueKill q) s = .next t ∧ (t.queue q).st ≠ .open_ ∧
      ∀ k x, s.con? k = some x → x.queue = q → x.state = .running → t.conEnding k 3 0) ∧
    (∀ prod, ((s.queue q).st ≠ .closed → (s.queue q).dev = false → exec (.queueDoorbell q prod) s =
        .next (s.modQueue q fun x => { x with prod := prod % 2 ^ 32 })) ∧
      ((s.queue q).st = .closed ∨ (s.queue q).dev = true → exec (.queueDoorbell q prod) s = .next s))) ∧
  (∀ (s : State) (port : Nat), ∃ t, exec (.functionLevelReset port) s = .next t ∧ t.pk.atomicEn = s.pk.atomicEn.set port false ∧
    t.pk.memEn = s.pk.memEn.set port false ∧ t.pk.busEn = s.pk.busEn.set port false ∧ t.pk.msixEn = s.pk.msixEn.set port false ∧
    ∀ q x, (q, x) ∈ s.queues → q < 8192 → s.dieOfQueue q = port → (t.queue q).st ≠ .open_) ∧
  (∀ (s : State) (q seq : Nat),
    (∃ t, exec (.preemptSuspend q seq) s = .next t ∧ sameMemory s t ∧ ∀ k x, s.con? k = some x → x.queue = q → x.seq = seq → x.status ≠ 2 →
      (x.pk.g ≠ 0 → x.state = .running → t.preemptBusy = true ∧ ∃ y, t.con? k = some y ∧ y.state = .suspending) ∧
      (x.state = .suspending → t.preemptBusy = true ∧ ∃ y, t.con? k = some y ∧ y.state = .suspending ∧ y.releaseAfter = false)) ∧
    (∃ t, exec (.preemptKill q seq) s = .next t ∧ ∀ k x, s.con? k = some x → x.queue = q → x.seq = seq → x.status ≠ 2 →
      x.state = .running → t.preemptBusy = true ∧ t.conEnding k 3 0) ∧
    (∃ t, exec (.preemptRelease q seq) s = .next t ∧ sameMemory s t ∧ ∀ k x, s.con? k = some x → (∀ y, (k, y) ∈ s.cons → y = x) →
      x.queue = q → x.seq = seq → x.status ≠ 2 → (x.state = .suspended → ∃ y, t.con? k = some y ∧ (y.state = .accepted ∨ y.state = .running ∨ y.state = .draining)) ∧
      (x.state = .suspending → ∃ y, t.con? k = some y ∧ y.state = .suspending ∧ y.releaseAfter = true)))

/-- R250, R357 to R359, R371.  RESUME and TRESUME, the rejoins that they order, and the freezing and saving of a suspended consignment.  RESUME sends again the far-load
entries of the address space that are FAULTED on its number, and where a group is parked on the number for which no rejoin is noted, one is: not before this tick, not
before an earlier one and, where none stands, within 64 ticks.  A rejoin frees its context.  TRESUME does nothing where it names no stopped context; else it notes a
rejoin, or kills the context's consignment.  A suspend freezes a context with its results in the replay buffer; with the save the consignment is suspended. -/
def Obligations.ResumptionEventsComplete : Prop :=
  (∀ (s : State) (seq asid : Nat), (s.ctxs.map (·.1)).Nodup → ∃ t, exec (.resume seq asid) s = .next t ∧ sameMemory s t ∧
    (∀ c ∈ s.ctxs, c.2.asid = asid → (∀ e ∈ (t.ctx c.1).far, e.data ≠ .notPresent seq) ∧ ∀ e ∈ c.2.far, e.data = .notPresent seq →
      ∃ x ∈ (t.ctx c.1).far, x.id = e.id ∧ (x.data = .walking ∨ x.data = .waiting)) ∧
    ((∀ c ∈ s.ctxs, c.2.parked = some seq → c.2.asid = asid → ∃ r ∈ s.rejoins, r.trap = false ∧ (s.ctx r.cid).gid = c.2.gid ∧
        (s.ctx r.cid).parked = some seq ∧ (s.ctx r.cid).asid = asid) → t.rejoins = s.rejoins) ∧
    ((∃ c ∈ s.ctxs, c.2.parked = some seq ∧ c.2.asid = asid ∧ ∀ r ∈ s.rejoins, r.trap = false → (s.ctx r.cid).parked = some seq →
        (s.ctx r.cid).asid = asid → (s.ctx r.cid).gid ≠ c.2.gid) →
      ∃ r, t.rejoins = s.rejoins ++ [r] ∧ r.trap = false ∧ s.tick ≤ r.at_ ∧ (s.rejoins = [] → r.at_ ≤ s.tick + 64) ∧
        (∀ q ∈ s.rejoins, q.at_ ≤ r.at_) ∧ ∃ x, (r.cid, x) ∈ s.ctxs ∧ x.parked = some seq ∧ x.asid = asid)) ∧
  (∀ (s : State) (cid : Nat), s.rejoinDue cid false = true → (s.ctx cid).parked.isSome = true →
    ∃ t, exec (.groupRejoin cid) s = .next t ∧ (t.ctx cid).parked = none ∧ (t.ctx cid).pc = (s.ctx cid).pc ∧ sameMemory s t ∧
      ∀ r ∈ t.rejoins, ¬ (r.cid = cid ∧ r.trap = false)) ∧
  (∀ (s : State) (unit who asid : Nat), s.stoppedAt unit who asid = none →
    exec (.tresumeResume unit who asid) s = .next s ∧ exec (.tresumeAbort unit who asid) s = .next s) ∧
  (∀ (s : State) (unit who asid cid : Nat), s.stoppedAt unit who asid = some cid →
    ((∃ r ∈ s.rejoins, r.cid = cid ∧ r.trap = true) → exec (.tresumeResume unit who asid) s = .next s) ∧
    ((∀ r ∈ s.rejoins, r.cid = cid → r.trap = false) → ∃ t r, exec (.tresumeResume unit who asid) s = .next t ∧ t.tresumeBusy = true ∧
      t.rejoins = s.rejoins ++ [r] ∧ r.cid = cid ∧ r.trap = true ∧ s.tick ≤ r.at_ ∧ (s.rejoins = [] → r.at_ ≤ s.tick + 64) ∧
      (∀ q ∈ s.rejoins, q.at_ ≤ r.at_) ∧ t.ctxs = s.ctxs ∧ sameMemory s t) ∧
    ((s.ctx cid).cons = none → exec (.tresumeAbort unit who asid) s = .next s)) ∧
  (∀ (s : State) (unit who asid cid k : Nat) (x : Cons), s.stoppedAt unit who asid = some cid → (s.ctx cid).cons = some k →
    s.con? k = some x → x.state = .running ∨ x.state = .draining ∨ x.state = .suspending → ∃ t, exec (.tresumeAbort unit who asid) s = .next t ∧
      t.tresumeBusy = true ∧ t.conEnding k 4 ((s.ctx cid).regs.tcause.toNat % 256)) ∧
  (∀ (s : State) (cid : Nat), s.rejoinDue cid true = true → (s.ctx cid).status = .stopped →
    ∃ t, exec (.contextRejoin cid) s = .next t ∧ (t.ctx cid).status = .ready ∧ (t.ctx cid).pc = (s.ctx cid).regs.tepc ∧
      (t.ctx cid).regs.inh = (s.ctx cid).regs.inh ∧ ((s.ctx cid).regs.inh = false → (t.ctx cid).notBefore = s.cycleOf cid + 3) ∧
      sameMemory s t) ∧
  (∀ (s : State) (cid : Nat), s.freezeDue cid = true → ∃ t, exec (.contextFreeze cid) s = .next t ∧ (t.ctx cid).frozen = true ∧
    (t.ctx cid).pend = [] ∧ (t.ctx cid).replay = (s.ctx cid).replay ++
      (s.ctx cid).pend.map (fun x => { x with due := x.due - s.cycleOf cid }) ∧
    (t.core (coreOf cid)).holder ≠ some cid ∧ (t.ctx cid).s = (s.ctx cid).s ∧ (t.ctx cid).a = (s.ctx cid).a ∧
    (t.ctx cid).v = (s.ctx cid).v ∧ (t.ctx cid).pc = (s.ctx cid).pc ∧ sameMemory s t) ∧
  (∀ (s : State) (k : Nat) (x : Cons), s.saveDue k = true → s.con? k = some x → ∃ t y, exec (.suspendSaveComplete k) s = .next t ∧
    t.con? k = some y ∧ y.bound = [] ∧ (k, 1) ∉ t.pk.prBusy ∧ (x.releaseAfter = false → y.state = .suspended) ∧ (x.releaseAfter = true → y.state ≠ .suspended))

/-- R383 to R390.  The pace unit: what counts of a message from a peer of the convoy, the flit in which a message travels, and what happens at a
boundary, on silence and on a lapse.  At a boundary CEIL becomes the greatest number that no limit of R382 lies below: LIM, the limits of LIVE peers, the frozen
limits of SILENT ones, F while FROZEN, and at the end of JOINING also C′, where no peer can be SILENT yet.  The manual does not say what a late announcement does to the limit that counts, nor what it does for a sender that is
SILENT: that it changes at once the limit of its sender alone, and takes the lower of the two for a SILENT sender, is the model's reading (log 61), and so is that a LEAVE which comes late counts at once, and one that comes in JOINING or
LEAVING as in MEMBER. -/
def Obligations.ConvoyEventsComplete : Prop :=
  (∀ m : PaceMsg, m.type < 256 → m.src < 4096 → m.cvn < 65536 → m.limit < 256 → m.ceil < 256 → m.eff < 2 ^ 64 → m.round < 2 ^ 32 →
    m.sent < 2 ^ 64 → (paceFlit m).length = 64 ∧ paceOfFlit (paceFlit m) = m) ∧
  (∀ (s : State) (m : PaceMsg) (e : Nat), e = s.roundTick →
    (∀ i ∈ [Instr.annReceive m, .hbReceive m, .welcomeReceive m, .leaveReceive m], s.hears m false = false → exec i s = .next s) ∧
    (s.hears m true = false → exec (.joinReceive m) s = .next s) ∧
    (s.hears m false = true →
      (e < m.eff → ∃ t, exec (.annReceive m) s = .next t ∧ ∀ p ∈ t.pace.peers, p.pkg = m.src → (m.eff, m.limit) ∈ p.announced ∧ p.last = s.tick) ∧
      (m.eff ≤ e → s.pace.mstate = 2 → ∃ t, exec (.annReceive m) s = .next t ∧ t.pace.late = min (2 ^ 32 - 1) (s.pace.late + 1) ∧
        t.pace.counts = s.pace.counts.map (fun x => if x.1 = m.src then (m.src, if s.wasSilent m.src then min x.2 m.limit else m.limit) else x) ∧
        ∀ p ∈ t.pace.peers, p.pkg = m.src → p.limit = m.limit) ∧
      (s.pace.mstate = 2 → (∀ x ∈ s.pace.peers, x.pkg = m.src → x.view ≠ .silent) → ∃ t, exec (.hbReceive m) s = .next t ∧ ∀ p ∈ t.pace.peers, p.pkg = m.src → p.view = .live ∧ p.last = s.tick) ∧
      (s.pace.mstate = 1 → ∃ t, exec (.welcomeReceive m) s = .next t ∧ t.pace.welcomes = s.pace.welcomes + 1 ∧
        t.pace.cprime = min s.pace.cprime m.ceil ∧ ∀ p ∈ t.pace.peers, p.pkg = m.src → p.view = .live ∧ p.limit = m.limit) ∧
      (s.pace.mstate ≠ 0 → m.eff ≤ e → ∃ t, exec (.leaveReceive m) s = .next t ∧ ∀ p ∈ t.pace.peers, p.pkg = m.src → p.view = .departed) ∧
      (s.pace.mstate ≠ 0 → e < m.eff → ∃ t, exec (.leaveReceive m) s = .next t ∧
        ∀ p ∈ t.pace.peers, p.pkg = m.src → p.leaveAt = some m.eff ∧ p.view ≠ .silent)) ∧
    (s.hears m true = true → (s.pace.mstate = 1 ∨ s.pace.mstate = 2) → ∃ t, exec (.joinReceive m) s = .next t ∧
      t.pace.owe = s.pace.owe ++ [(m.src, s.tick)])) ∧
  (∀ (s : State) (k : Nat), s.owes k = true → ∃ t msg, exec (.welcomeSend k) s = .next t ∧
    t.outbox = s.outbox ++ s.cvOthers.map (fun j => Out.pace j (paceFlit msg)) ∧ msg.type = 4 ∧
    msg.limit = s.pace.lim ∧ (∀ o ∈ t.pace.owe, o.1 ≠ k) ∧ sameMemory s t) ∧
  (∀ s : State, s.beats = true → ∃ t msg, exec .heartbeatSend s = .next t ∧ msg.type = 2 ∧ msg.limit = s.pace.lim ∧
    t.outbox = s.outbox ++ s.cvOthers.map (fun k => Out.pace k (paceFlit msg)) ∧ t.pace = s.pace ∧ sameMemory s t) ∧
  (∀ (s : State) (e : Nat), s.roundDue = true → e = 100000 * (s.tick / 100000) → ∃ t, exec .roundBoundary s = .next t ∧
    t.lastRound = s.tick / 100000 ∧ sameMemory s t ∧ (s.pace.halted = true → t.pace = s.pace) ∧
    (s.pace.halted = false → t.pace.lim = (applyLimits s.pace.lim s.pace.pending e).1 ∧
      (s.pace.mstate = 0 → t.pace.ceil = t.pace.lim ∧ t.pace.mstate = 0) ∧
      (s.pace.mstate = 1 → t.pace.mstate = if s.pace.boundary ≤ e then 2 else 1) ∧
      (s.pace.mstate = 3 → s.pace.boundary ≤ e → t.pace.mstate = 0 ∧ t.pace.ceil = t.pace.lim) ∧
      (s.pace.mstate = 1 → s.pace.boundary ≤ e → s.pace.welcomes = 0 → t.pace.ceil = t.pace.lim) ∧
      (s.pace.mstate = 2 ∨ (s.pace.mstate = 3 ∧ e < s.pace.boundary) ∨ (s.pace.mstate = 1 ∧ s.pace.boundary ≤ e ∧ s.pace.welcomes ≠ 0) →
        ∀ c, c ≤ t.pace.ceil ↔ c ≤ t.pace.lim ∧ (∀ p ∈ t.pace.peers, p.view = .live → c ≤ p.limit) ∧
          (∀ p ∈ t.pace.peers, p.view = .silent → c ≤ p.frozen) ∧ (t.pace.frozen = true → c ≤ t.pace.freeze) ∧
          (s.pace.mstate = 1 → c ≤ s.pace.cprime)) ∧
      t.pace.emergencies = s.pace.emergencies.filter (fun p => e < p.1) ∧
      ((∀ p ∈ s.pace.emergencies, p.1 ≤ e) → t.pace.ecap = 0) ∧ ∀ k < 48, (t.serai k).clk = min (s.serai k).clk (t.wantClk k))) ∧
  (∀ (s : State) (x : Peer), x ∈ s.pace.peers → s.silentNow x = true → ∃ t, exec (.peerSilent x.pkg) s = .next t ∧ t.pace.frozen = true ∧
    t.pace.freeze = s.pace.ceil ∧ (∀ p ∈ t.pace.peers, p.pkg = x.pkg → p.view = .silent) ∧ t.pace.ceil = s.pace.ceil ∧ sameMemory s t) ∧
  (∀ (s : State) (x : Peer), x ∈ s.pace.peers → s.departedNow x = true → ∃ t, exec (.peerDeparted x.pkg) s = .next t ∧
    (∀ p ∈ t.pace.peers, p.pkg = x.pkg → p.view = .departed) ∧ t.pace.ceil = s.pace.ceil ∧ sameMemory s t) ∧
  (∀ s : State, s.lapses = true → ∃ t, exec .membershipLapse s = .next t ∧ t.pace.mstate = 0 ∧ t.pace.ceil = s.pace.lim ∧ t.pace.ecap = 0 ∧
    t.pace.pending = [] ∧ (∀ p ∈ t.pace.peers, p.view = .absent) ∧ sameMemory s t)

/-- R232, R347, R349, R350, R378, R410.  Power, clocks and interrupts: an overdraw of a serai, and for an active one an overdraw of the package, lowers its cap by 25 MHz and not
below 400 MHz; a cap rises after 25,000
ticks; a held increase takes effect; a message of a vector leaves.  At an interval's beginning each serai's energy of the past one is charged to its groups in
proportion to their declared energies.  The energies metered are free values (log 11).  That a serai's own overdraw and the package's both lower the cap, by
one step each, and that a serai without a group is metered too, is the model's choice (log 59). -/
def Obligations.PowerAndClockEventsComplete : Prop :=
  (∀ s : State, s.intervalBegins = true → ∃ t, exec .powerInterval s = .next t ∧ t.lastPower = s.tick ∧ t.serais = s.serais ∧ t.pk = s.pk ∧ sameMemory s t ∧
    ∀ k x, s.con? k = some x → t.con? k = some { x with energy := x.energy + ((List.range 48).map fun j =>
      ((s.groupsOn j).map fun g => if g.2.cons = some k then
        intervalEnergy j (s.tick / 1000 - 1) * (x.pk.energy * x.pk.p * x.pk.c) / s.sumOn j Packet.groupEnergy else 0).sum).sum }) ∧
  (∀ (s u : State) (w : Nat), s.windowEnds = true → w = s.tick / 100 - 1 → u = { s with lastWindow := s.tick } →
    ∃ t, exec .overdrawWindow s = .next t ∧ t.lastWindow = s.tick ∧ t.pk = s.pk ∧ sameMemory s t ∧
      (∀ k < 48, ∃ cap, cap = (if u.overdraws k w = true then max 16 (capOf (s.serai k).ocap - 1) else (s.serai k).ocap) ∧
        (t.serai k).ocap = if u.active k = true ∧ 2000000 < Config.packageEnergy w then max 16 (capOf cap - 1) else cap) ∧
      ∀ k < 48, (t.serai k).clk = min (s.serai k).clk (t.wantClk k)) ∧
  (∀ (s : State) (k : Nat), s.capRises k = true → ∃ t, exec (.overdrawCapRise k) s = .next t ∧
    (t.serai k).ocap = (if 159 ≤ (s.serai k).ocap then 0 else (s.serai k).ocap + 1) ∧ (s.serai k).clk ≤ (t.serai k).clk ∧
    (∀ j, j ≠ k → t.serai j = s.serai j) ∧ sameMemory s t) ∧
  (∀ (s : State) (k : Nat), s.clockRises k = true → ∃ t, exec (.clockRaise k) s = .next t ∧ (t.serai k).clk = s.wantClk k ∧
    (s.serai k).clk < (t.serai k).clk ∧ (t.serai k).changed = some s.tick ∧ (∀ j, j ≠ k → t.serai j = s.serai j) ∧ sameMemory s t) ∧
  (∀ (s : State) (port vector : Nat), s.msixReady port vector = true → ∃ t, exec (.msixMessage port vector) s = .next t ∧
    t.outbox = s.outbox ++ [.interrupt port vector] ∧ (port, vector) ∉ t.pk.msixDue ∧ sameMemory s t) ∧
  (∀ s : State, s.xlinvOver = true → exec .xlinvDone s = .next { s with pk := { s.pk with xlBusy := none } })

/-! ## Events: packets and consignments, the memory path, contexts and phasers -/

/-- R333, R334, R337 to R339, R341, R342, R351, R352.  Packets and completion: a fetched packet waits; a consumed one advances the queue by one; a
LAUNCH packet becomes a consignment, accepted or REFUSED with its reason; a completed consignment leaves its record and returns its resources;
where the record cannot be written its queue enters ERROR.  An EVSIG packet adds its increment to the event object.  The record of a replay whose
graph object is illegal, and the number of the queue in which a replay runs, are the model's choices (logs 52 and 48). -/
def Obligations.QueueEventsComplete : Prop :=
  (∀ (s : State) (q : Nat), s.closedNow q = true → ∃ t, exec (.queueClosed q) s = .next t ∧ (t.queue q).st = .closed) ∧
  (∀ (s : State) (q : Nat) (b : List Byte), (s.queue q).fetchDue = true →
    s.asidRead (s.dieOfQueue q) (s.queue q).asid (wrap64 ((s.queue q).ring.toNat + 128 * ((s.queue q).k % (s.queue q).rsize))) 128 = .ok b →
    (dnum b 0 4 = (s.queue q).expect → 1 ≤ dnum b 4 1 → dnum b 4 1 ≤ 5 → ∃ t, exec (.packetFetch q) s = .next t ∧
      (t.queue q).packet = some b ∧ (t.queue q).k = (s.queue q).k ∧ sameMemory s t) ∧
    (dnum b 0 4 ≠ (s.queue q).expect ∨ dnum b 4 1 = 0 ∨ 5 < dnum b 4 1 → ∃ t, exec (.packetFetch q) s = .next t ∧ (t.queue q).st = .error)) ∧
  (∀ (s : State) (q r : Nat) (b : List Byte), s.launchReady? q = some b → r = refusal b (decide (replayBase ≤ q)) →
    ∃ t x, exec (.launchPacket q) s = .next t ∧ t.con? s.nextId = some x ∧ x.pk = Packet.ofBytes b ∧ x.asid = (s.queue q).asid ∧
      (r = 0 → x.state = .accepted ∧ x.status = 1) ∧ (r ≠ 0 → x.state = .completing ∧ x.status = 2 ∧ x.reason = r) ∧
      (t.queue q).k = (s.queue q).k + 1 ∧ (t.queue q).packet = none ∧ (t.queue q).lastLaunch = some s.nextId) ∧
  (∀ (s : State) (q : Nat) (b : List Byte) (i : Instr),
    ((i = .waitseqPacket q ∧ s.headPacket q 2 = some b ∧ s.waitseqHolds q b = true) ∨
     (i = .evwaitPacket q ∧ s.headPacket q 3 = some b ∧ s.evwaitHolds q b = true) ∨ (i = .evsigPacket q ∧ s.headPacket q 4 = some b)) →
    ∃ t, exec i s = .next t ∧ (t.queue q).k = (s.queue q).k + 1 ∧ (t.queue q).packet = none ∧ (t.queue q).consumed = (s.queue q).expect ∧
      (t.queue q).expect = ((s.queue q).expect + 1) % 2 ^ 32) ∧
  (∀ (s u v : State) (q : Nat) (b : List Byte), s.headPacket q 4 = some b →
    u = s.eventAdd (s.dieOfQueue q) (s.queue q).asid (dnum b 8 8) (dnum b 16 8) →
    v = { u with queues := u.queues.map fun (x : Nat × Queue) => (x.1, { x.2 with pollTick := 0 }) } →
    exec (.evsigPacket q) s = .next ((v.consume q).packetDone q (s.queue q).expect)) ∧
  (∀ (s : State) (die asid va inc n : Nat) (p : PAddr), s.posted = [] → s.asidNum? die asid va = some n →
    s.asidRange die asid true va 8 = .ok [(p, 8)] →
    ∀ x, ((s.eventAdd die asid va inc).backing p.mt).get x =
      if p.addr ≤ x ∧ x < p.addr + 8 then ((natLe 8 (n + inc))[x - p.addr]?).getD 0 else (s.backing p.mt).get x) ∧
  (∀ (s : State) (q : Nat), s.pollDue q = true → ∃ t, exec (.eventObjectPoll q) s = .next t ∧ (t.queue q).pollTick = s.tick + 1 ∧
    (t.queue q).k = (s.queue q).k ∧ sameMemory s t) ∧
  (∀ (s : State) (q : Nat) (b o : List Byte), s.headPacket q 5 = some b → s.asidRead (s.dieOfQueue q) (s.queue q).asid (dnum b 8 8) 64 = .ok o →
    dnum b 8 8 < 2 ^ 64 →
    (graphLegal o = false → ∃ t x, exec (.graphPacket q) s = .next t ∧ t.con? s.nextId = some x ∧ x.status = 2 ∧ x.reason = 1) ∧
    (∀ (i : Nat) (u : State), graphLegal o = true → dnum b 24 4 ≤ 4096 →
      s.graphBlock (s.queue q).asid (BitVec.ofNat 64 (dnum b 8 8)) (dnum o 24 1 == 1) = some i →
      s.fillBlock (s.dieOfQueue q) (s.queue q).asid (dnum o 16 8) (wrap64 (dnum o 16 8 + (i + 1) * dnum o 12 4)) (dnum o 12 4) (dnum b 16 8) (dnum b 24 4) = .ok u →
      ∃ t x, exec (.graphPacket q) s = .next t ∧ t.con? u.nextId = some x ∧ x.state = .running ∧
        (t.queue (8192 + u.nextId)).st = .open_ ∧ (t.queue (8192 + u.nextId)).prod = dnum o 8 4)) ∧
  (∀ (s : State) (k : Nat), s.conDone k = true → ∃ t x, exec (.consignmentComplete k) s = .next t ∧ t.con? k = some x ∧ x.state = .completing ∧
    x.watch = s.tick) ∧
  (∀ (s : State) (k : Nat) (x : Cons), s.con? k = some x → s.recordReady k = true →
    (∀ a, x.graph = some a → ∃ t, exec (.completionRecordWrite k) s = .next t ∧ t.con? k = none) ∧
    (∀ e, x.graph = none → x.queue < 8192 → s.asidWrite (s.dieOfQueue x.queue) (s.queue x.queue).asid
        (wrap64 ((s.queue x.queue).cpl.toNat + 32 * ((s.queue x.queue).nrec % (s.queue x.queue).csize))) x.record = .error e →
      ∃ t, exec (.completionRecordWrite k) s = .next t ∧ t.con? k = none ∧ (t.queue x.queue).st = .error) ∧
    (∀ u, x.graph = none → x.queue < 8192 → s.asidWrite (s.dieOfQueue x.queue) (s.queue x.queue).asid
        (wrap64 ((s.queue x.queue).cpl.toNat + 32 * ((s.queue x.queue).nrec % (s.queue x.queue).csize))) x.record = .ok u →
      ∃ t, exec (.completionRecordWrite k) s = .next t ∧ t.con? k = none ∧ (t.queue x.queue).nrec = (s.queue x.queue).nrec + 1 ∧
        (∀ c ∈ t.ctxs, c.2.cons ≠ some k) ∧ (∀ g ∈ t.groups, g.2.cons ≠ some k))) ∧
  (∀ (s u : State) (die asid va : Nat) (x : Cons) (p : PAddr), s.posted = [] → s.asidRange die asid true va 32 = .ok [(p, 32)] →
    s.asidWrite die asid va x.record = .ok u → (∀ i < 32, (u.backing p.mt).get (p.addr + i) = (x.record[i]?).getD 0) ∧
      ∀ a, (a < p.addr ∨ p.addr + 32 ≤ a) → (u.backing p.mt).get a = (s.backing p.mt).get a) ∧
  (∀ x : Cons, x.record.length = 32 ∧ dnum x.record 0 4 = x.seq % 2 ^ 32 ∧ dnum x.record 4 1 = x.status % 256 ∧
    dnum x.record 5 1 = x.reason % 256 ∧ dnum x.record 6 2 = 0 ∧ dnum x.record 8 8 = x.skips % 2 ^ 64 ∧
    dnum x.record 16 8 = x.energy % 2 ^ 64 ∧ dnum x.record 24 4 = x.overdraw % 2 ^ 32 ∧
    dnum x.record 28 4 = (x.watch - x.accepted) % 2 ^ 32) ∧
  (∀ (s : State) (k : Nat), s.watchdogOver k = true → ∃ t, exec (.watchdogExpiry k) s = .next t ∧ t.conEnding k 5 0)

/-- R80, R81, R148, R325, R327, R343 to R346.  The scheduler: a selection is made once a tick; of the candidates that fit, that of the highest effective class is placed, at
equal class that of the queue next in the round robin, within a queue that of the earliest accepted consignment; the queues that offered another fitting one are passed over, and the queue
served loses its raises.  A group goes to the lowest serai of the lowest quarter that fits, on the lowest cores, contexts, granules and relay buffers that fit; its parcels start with their
entry point, their handler and zeros, and so do those of the depot cores bound with it
(whether it fits rests on the free value of the uncore energy, log 11); the scratch image fills the
scratchpad from offset 0; a group starts its parcels. -/
def Obligations.SchedulerEventsComplete : Prop :=
  (∀ (s u : State) (die : Nat), s.selectionDue die = true → u = { s with lastSelect := Table.put s.lastSelect die (s.tick + 1) } →
    (∃ t, exec (.schedulerSelection die) s = .next t) ∧
    ((∀ k ∈ u.candidates die, u.tryPlace k = none) → exec (.schedulerSelection die) s = .next u) ∧
    (∀ (k : Nat) (x : Cons), u.candidates die = [k] → u.con? k = some x →
      ∃ t, exec (.schedulerSelection die) s = .next t ∧ match u.tryPlace k with
        | some p => t.ctxs = p.ctxs ∧ t.groups = p.groups ∧ t.cons = p.cons ∧ Table.find? t.lastServed die = some x.queue
        | none => t = u) ∧
    (∀ (k : Nat) (x : Cons) (p : State) (cls turn : Nat → Nat), k ∈ u.candidates die → u.con? k = some x → u.tryPlace k = some p →
      cls = (fun q => min 7 ((u.queue q).cls + (u.queue q).raises)) → turn = queueTurn (Table.find? u.lastServed die) →
      (∀ j y, j ∈ u.candidates die → u.con? j = some y → (u.tryPlace j).isSome = true → j ≠ k → cls y.queue < cls x.queue ∨
        (cls y.queue = cls x.queue ∧ (turn x.queue < turn y.queue ∨ (turn x.queue = turn y.queue ∧ k < j)))) →
      ∃ t, exec (.schedulerSelection die) s = .next t ∧ t.ctxs = p.ctxs ∧ t.groups = p.groups ∧ t.cons = p.cons ∧
        Table.find? t.lastServed die = some x.queue ∧ (t.queue x.queue).raises = 0 ∧
        (∀ j y, j ∈ u.candidates die → u.con? j = some y → (u.tryPlace j).isSome = true → y.queue ≠ x.queue →
          ((p.queue y.queue).passed < 63 → (t.queue y.queue).passed = (p.queue y.queue).passed + 1 ∧ (t.queue y.queue).raises = (p.queue y.queue).raises) ∧
          (63 ≤ (p.queue y.queue).passed → (t.queue y.queue).passed = 0 ∧ (t.queue y.queue).raises = (p.queue y.queue).raises + 1)) ∧
        ∀ q, q ≠ x.queue → (∀ j y, j ∈ u.candidates die → u.con? j = some y → (u.tryPlace j).isSome = true → y.queue ≠ q) →
          t.queue q = p.queue q)) ∧
  (∀ (s : State) (k : Nat) (x : Cons), s.con? k = some x → s.offers x = true → x.saved = [] → x.pk.phn = 0 →
    s.tryPlace k = (s.spotFor x x.nextGroup).map fun p => s.placeNew k x x.nextGroup p) ∧
  (∀ (s : State) (x : Cons) (sg qg : Nat) (p : Spot), qg = sg / x.pk.s → s.spotFor x sg = some p →
    s.spotOn x.pk p.depots p.serai = some p ∧ (∀ j, j / 6 = p.serai / 6 → j < p.serai → s.spotOn x.pk p.depots j = none) ∧
    (∀ quarter, x.quarterOf qg = some quarter → p.serai / 6 = quarter ∧ p.depots = []) ∧
    (x.quarterOf qg = none → p.serai / 24 = x.dieOf qg ∧ p.depots.length = x.pk.depots ∧
      (∀ d ∈ p.depots, d / 4 = p.serai / 6 ∧ s.depotFree d = true ∧ ∀ c < d, c / 4 = d / 4 → s.depotFree c = true → c ∈ p.depots) ∧
      ∀ quarter < p.serai / 6, quarter / 4 = p.serai / 24 → ∀ ds, ds = (((List.range 4).map fun j => 4 * quarter + j).filter s.depotFree) →
        ds.length < x.pk.depots ∨ ∀ j, j / 6 = quarter → s.spotOn x.pk (ds.take x.pk.depots) j = none)) ∧
  (∀ (s : State) (k : Packet) (ds : List Nat) (j : Nat) (p : Spot) (room : Nat → Prop) (buffer : Nat → Prop) (sps tss : List (Nat × Nat)),
    s.spotOn k ds j = some p →
    room = (fun d => k.p ≤ ((List.range 4).filter fun c => s.ctxFree (4 * d + c)).length ∧ s.tregsUsed d + k.p * k.tregs ≤ 16 ∧
      s.semsUsed d + k.sems ≤ 256) →
    buffer = (fun b => b < 16 ∧ ∀ g ∈ s.groupsOn j, ∀ r ∈ g.2.relays, r.phys ≠ b) →
    sps = (s.groupsOn j).map (fun g => (g.2.spBase / 65536, g.2.spLim / 65536)) → tss = (s.groupsOn j).map (fun g => (g.2.tsBase / 32, g.2.tsLim / 32)) →
    p.serai = j ∧ p.depots = ds ∧ s.admits j k = true ∧ p.cores.length = k.c ∧ p.relays.length = k.relays ∧
    (∀ c ∈ p.cores, c.1 / 4 = j ∧ room c.1 ∧ c.2.length = k.p ∧
      (∀ a ∈ c.2, a / 4 = c.1 ∧ s.ctxFree a = true ∧ ∀ b < a, b / 4 = c.1 → s.ctxFree b = true → b ∈ c.2) ∧
      ∀ d < c.1, d / 4 = j → room d → ∃ y ∈ p.cores, y.1 = d) ∧
    (∀ b ∈ p.relays, buffer b ∧ ∀ c < b, buffer c → c ∈ p.relays) ∧
    ∀ (total n at_ : Nat) (used : List (Nat × Nat)), (total, n, at_, used) ∈ [(192, k.spg, p.sp, sps), (32, k.tsg, p.ts, tss)] →
      (n = 0 → at_ = 0) ∧ (n ≠ 0 → at_ + n ≤ total ∧ (∀ r ∈ used, r.2 ≠ 0 → at_ + n ≤ r.1 ∨ r.1 + r.2 ≤ at_) ∧
        ∀ u < at_, ∃ r ∈ used, r.2 ≠ 0 ∧ u < r.1 + r.2 ∧ r.1 < u + n)) ∧
  (∀ (s u : State) (k sg : Nat) (x : Cons) (p : Spot), s.con? k = some x → u = s.placeNew k x sg p → p.depots = [] → p.relays = [] →
    (p.cores.flatMap (·.2)).Nodup → (∀ a ∈ p.cores.flatMap (·.2), a < 768) → ∃ gid g y, u.group gid = g ∧ g.cons = some k ∧ g.index = sg ∧
      g.unit = p.serai ∧ g.cores = p.cores.map (·.1) ∧ g.resident = true ∧ g.started = false ∧ g.spBase = 65536 * p.sp ∧ g.spLim = 65536 * x.pk.spg ∧
      g.tsBase = 32 * p.ts ∧ g.tsLim = 32 * x.pk.tsg ∧ g.nsems = x.pk.sems ∧ g.nrelays = x.pk.relays ∧ (∀ a, g.sp.get a = 0 ∧ g.side.get a = 0) ∧
      u.con? k = some y ∧ y.nextGroup = x.nextGroup + 1 ∧ (x.state = .accepted → y.state = .running) ∧
      ∀ i a, (p.cores.flatMap (·.2))[i]? = some a → (u.ctx a).status = .starting ∧ (u.ctx a).cons = some k ∧ (u.ctx a).gid = gid ∧
        (u.ctx a).parcel = sg * x.pk.c * x.pk.p + i ∧ (u.ctx a).asid = x.asid ∧ (u.ctx a).fgrp = x.pk.fg ∧ (u.ctx a).ntregs = x.pk.tregs ∧
        (u.ctx a).pc = x.pk.entry ∧ (u.ctx a).regs.thand = x.pk.handler ∧ (u.ctx a).regs.fpctl = 0 ∧ (u.ctx a).regs.fpstat = 0 ∧
        (∀ r, (u.ctx a).rs r = 0) ∧ (∀ r, (u.ctx a).ra r = 0) ∧ (u.ctx a).stack = [] ∧ (u.ctx a).far = [] ∧
        ∀ l ∈ (u.ctx a).loops, l.active = false) ∧
  (∀ (s u : State) (k qg : Nat) (x : Cons) (d : Nat × Nat), u = s.bindDepot k x qg d → d.2 < 32 → ∃ gid g, u.group gid = g ∧ g.cons = some k ∧
    g.unit = 64 + d.2 ∧ g.cores = [768 + d.2] ∧ g.resident = true ∧ g.spLim = 0x200000 ∧ g.nsems = 64 ∧ (u.ctx (768 + d.2)).status = .starting ∧
    (u.ctx (768 + d.2)).gid = gid ∧ (u.ctx (768 + d.2)).pc = x.pk.depot ∧ (u.ctx (768 + d.2)).cons = some k ∧
    (u.ctx (768 + d.2)).parcel = x.pk.parcels + qg * x.pk.depots + d.1) ∧
  (∀ (s : State) (g k n : Nat) (x : Cons) (b : List Byte), s.imageDue g = true → (s.group g).cons = some k → s.con? k = some x →
    n = (s.group g).copyNext →
    (x.imageBytes ≤ 4096 * n → ∃ t, exec (.scratchImageCopyDone g) s = .next t ∧ (t.group g).imageDone = true ∧
      (t.group g).sp = (s.group g).sp ∧ (t.group g).side = (s.group g).side ∧ sameMemory s t) ∧
    (4096 * n < x.imageBytes → s.asidRead x.die x.asid (x.imageChunk n) (min 4096 (x.imageBytes - 4096 * n)) = .ok b →
      ∃ t, exec (.scratchImageCopyDone g) s = .next t ∧ (t.group g).copyNext = n + 1 ∧
        (t.group g).sp = (s.group g).sp.setBytes (4096 * n) (b.take (x.pk.slen - 4096 * n)) ∧
        (t.group g).side = (s.group g).side.setBytes (4096 * n - x.pk.slen) (b.drop (x.pk.slen - 4096 * n)) ∧ sameMemory s t)) ∧
  (∀ (s : State) (g k : Nat) (x : Cons) (l : List (Nat × Ctx)), s.startDue g = true → (s.group g).cons = some k → s.con? k = some x →
    s.argsAll x (s.seated g) = .ok l → ∃ t, exec (.groupStart g) s = .next t ∧ (t.group g).started = true ∧ sameMemory s t ∧
      ∀ c, s.seated g = [c] → (s.ctx c).gid = g → (s.ctx c).status = .starting → (t.ctx c).status = .ready ∧ (t.ctx c).frozen = false)

/-- R99, R231, R235 to R238, R242, R249, R251, R254, R264, R266, R367.  The memory path: a walk that succeeds sends the read, which is performed halfway on its path and whose
data then stands in the entry; a publication ends; a store performs; an atomic writes its element and leaves the old value; fault-queue entries and
events are written, the oldest first; the shadow stack spills its oldest entry and fills from SSP; a line is fetched, or the walk that precedes it begins. -/
def Obligations.MemoryEventsComplete : Prop :=
  (∀ (s : State) (cid id : Nat) (e : FarEntry), s.far? cid id = some e → s.walkDue cid e = true →
    (∀ ps, s.farTrans cid e = .ok ps → ∃ t, exec (.pageWalkComplete cid id) s = .next t ∧ sameMemory s t ∧
      ∀ x ∈ (t.ctx cid).far, x.id = id → x.data = .waiting ∧ x.due = s.cycleOf cid + s.longestPath cid id ps / 2 ∧
        x.arrive = s.cycleOf cid + s.longestPath cid id ps) ∧
    (s.farTrans cid e = .access → ∃ t, exec (.pageWalkComplete cid id) s = .next t ∧ sameMemory s t ∧
      ∀ x ∈ (t.ctx cid).far, x.id = id → x.data = .access) ∧
    (∀ va l, s.farTrans cid e = .absent va l → ∃ t, exec (.pageWalkComplete cid id) s = .next t ∧
      t.faultsOut.length = s.faultsOut.length + 1 ∧
      ∀ x ∈ (t.ctx cid).far, x.id = id → x.data = .notPresent (s.takeSeq (s.ctx cid).asid).1)) ∧
  (∀ (s : State) (cid id : Nat) (e : FarEntry), s.far? cid id = some e → s.arrivalDue cid e = true →
    (∀ ps, e.data = .waiting → e.kind ≠ .atomic → s.farTrans cid e = .ok ps → ∃ t, exec (.farLoadArrival cid id) s = .next t ∧ sameMemory s t ∧
      ∀ x ∈ (t.ctx cid).far, x.id = id → x.data = .coming (farData e (s.farBytes cid e ps 0)) (s.partsPoisoned ps) ∧ x.due = x.arrive) ∧
    (∀ v bad, e.data = .coming v bad → ∃ t, exec (.farLoadArrival cid id) s = .next t ∧ sameMemory s t ∧
      ∀ x ∈ (t.ctx cid).far, x.id = id → x.data = if bad then .poisoned else .arrived v) ∧
    (e.data = .waiting → e.kind = .atomic → ∃ t, exec (.farLoadArrival cid id) s = .next t ∧ sameMemory s t ∧
      ∀ x ∈ (t.ctx cid).far, x.id = id → x.data = .arrived (x.value.getD 0))) ∧
  (∀ (s : State) (cid : Nat), s.publicationDue cid = true → ∃ t, exec (.storePublicationDone cid) s = .next t ∧ sameMemory s t ∧
    (t.ctx cid).release = (s.ctx cid).release.filter (fun r => decide (s.cycleOf cid < r)) ∧
    (t.ctx cid).heldSem = (s.ctx cid).heldSem.filter (fun h => decide (s.cycleOf cid < h.till)) ∧
    (∀ x ∈ t.posted, x.cid = cid → (x.wait = 0 → x.ask = []) ∧ (x.wait = 0 ∨ s.cycleOf cid < x.wait)) ∧
    ∀ a ∈ t.atomics, a.cid = cid → a.wait = 0 ∨ s.cycleOf cid < a.wait) ∧
  (∀ (s : State) (p : Posted), p ∈ s.posted → s.storeDue p = true → ∃ t, exec (.globalStorePerform p.id) s = .next t ∧ sameMemory s t ∧
    (∀ x ∈ t.posted, x.id = p.id → x.performed = true) ∧ ∀ q mt a, t.byteSeen q mt a = s.byteSeen q mt a) ∧
  (∀ (s : State) (p : Posted) (w : Nat), s.posted = [p] → (7, w) ∈ p.pub → p.piece.at_.mt = 0 →
    p.piece.at_.addr + p.piece.data.length ≤ Config.hbmBytes →
    (∀ i < p.piece.data.length, s.byteSeen viewHome 0 (p.piece.at_.addr + i) = (p.piece.data[i]?).getD 0) ∧
    (p.performed = true → p.born ≠ s.now → s.readStands p = false → s.settleAll.posted = [] ∧
      entryWritten s s.settleAll p.piece.at_.addr p.piece.data 0 [])) ∧
  (∀ (s u : State) (id : Nat) (a : AtomicReq), s.atomics.find? (fun a => a.id == id && s.atomicDue a) = some a →
    u = ({ s with atomics := s.atomics.filter fun x => x.id != id } : State).publishElement (coreOf a.cid) a.at_ a.size →
    ∃ t, exec (.atomicPerform id) s = .next t ∧ (∀ x ∈ t.atomics, x.id ≠ id) ∧
      (∃ w ∈ t.posted, w.kind = .atomic ∧ w.pub = [(7, coreOf a.cid)] ∧ w.piece = ⟨a.at_, natLe a.size (amoNew a.op (8 * a.size) a.signed
        (leNat (u.homeBefore (.atHome .atomic id a.cid a.at_.mt a.at_.addr []) a.at_.mt a.at_.addr a.size)) (a.operand.toNat % 2 ^ (8 * a.size)) (a.compare.toNat % 2 ^ (8 * a.size)))⟩) ∧
      (∀ e, a.fetch = some e → s.partsPoisoned [(a.at_, a.size)] = false → ∀ x ∈ (t.ctx a.cid).far, x.id = e →
        x.value = some ((BitVec.ofInt 64 (intVal (8 * a.size) (a.signed && a.size == 4)
          (leNat (u.homeBefore (.atHome .atomic id a.cid a.at_.mt a.at_.addr []) a.at_.mt a.at_.addr a.size)))).setWidth 1024))) ∧
  (∀ (s : State) (asid : Nat) (f : FaultRec), s.faultsOut.find? (fun f => f.asid == asid) = some f → s.asidFull asid 36 40 32 = false →
    ∃ t, exec (.faultQueueWrite asid) s = .next t ∧ t.faultsOut = s.faultsOut.erase f ∧
      (0, 1) ∈ t.pk.msixDue ∧ (1, 1) ∈ t.pk.msixDue ∧
      (s.posted = [] → entryWritten s t (s.descNum asid 24 8 + 64 * (s.descNum asid 36 4 % s.descNum asid 32 4)) f.bytes
        (s.descAddr asid + 36) (natLe 4 (s.descNum asid 36 4 + 1)))) ∧
  (∀ (s : State) (asid kind : Nat) (e : EventRec) (i : Instr), ((kind = 3 ∧ i = .parkEventPost asid) ∨ (kind = 2 ∧ i = .trapEventPost asid)) →
    s.eventOf asid kind = some e → s.eventReady asid kind = true →
    ∃ t, exec i s = .next t ∧ t.eventsOut = s.eventsOut.erase e ∧ (0, 1) ∈ t.pk.msixDue ∧ (1, 1) ∈ t.pk.msixDue ∧
      (s.posted = [] → entryWritten s t (s.descNum asid 48 8 + 32 * (s.descNum asid 60 4 % s.descNum asid 56 4)) e.bytes
        (s.descAddr asid + 60) (natLe 4 (s.descNum asid 60 4 + 1)))) ∧
  (∀ (s : State) (cid : Nat) (p : PAddr),
    (s.shadowMove cid = some (true, some p) → ∃ t x, exec (.shadowStackSpillFill cid) s = .next t ∧ (t.ctx cid).shadow = (s.ctx cid).shadow.dropLast ∧
      t.posted = s.posted ++ [x] ∧ x.cid = cid ∧ x.piece = ⟨p, natLe 8 (((s.ctx cid).shadow.getLast?).getD 0).toNat⟩) ∧
    (s.shadowMove cid = some (false, some p) → ∃ t, exec (.shadowStackSpillFill cid) s = .next t ∧
      (t.ctx cid).shadow = [BitVec.ofNat 64 (leNat (s.ctxBytes cid p.mt p.addr 8))] ∧ sameMemory s t ∧
      t.posted.map (fun x => (x.id, x.piece, x.pub)) = s.posted.map fun x => (x.id, x.piece, x.pub)) ∧
    (∀ spill a kind, s.shadowMove cid = some (spill, none) → s.shadowNeed cid = some (spill, a, kind) →
      ∃ t, exec (.shadowStackSpillFill cid) s = .next t ∧ (t.ctx cid).shadow = (s.ctx cid).shadow ∧ sameMemory s t ∧
        (t.ctx cid).fillWalk = some (a, s.cycleOf cid + s.walkTime cid s.nextId (s.ctx cid).asid a.toNat 8))) ∧
  (∀ (s : State) (frame slot n rec_ : Nat), rec_ = s.tollBase + 64 + 64 * frame →
    (s.tollBase = 0 → exec (.tollCount frame slot n) s = .next s) ∧
    (s.tollBase ≠ 0 → s.devNum (rec_ + 2) 1 % 2 = 0 → exec (.tollCount frame slot n) s = .next s) ∧
    (∀ u, s.tollBase ≠ 0 → s.devNum (rec_ + 2) 1 % 2 = 1 → slot = 0 →
      u = s.writeHome 0 (rec_ + 32) (natLe 2 (min 65535 (s.devNum (rec_ + 32) 2 + n))) →
      u.descNum (s.devNum rec_ 2) 18 2 = 0 → exec (.tollCount frame slot n) s = .next u)) ∧
  (∀ (s : State) (cid : Nat) (l : Line), s.fetchDue cid = true → l = s.fetchLine cid →
    (s.fetchTime cid l = 0 → ∃ t, exec (.bundleFetch cid) s = .next t ∧ (t.ctx cid).line = some ((s.ctx cid).pc, l) ∧
      (t.ctx cid).pc = (s.ctx cid).pc ∧ sameMemory s t) ∧
    (s.fetchTime cid l ≠ 0 → ∃ t, exec (.bundleFetch cid) s = .next t ∧ (t.ctx cid).line = (s.ctx cid).line ∧ sameMemory s t ∧
      (t.ctx cid).fetchWalk = some ((s.ctx cid).pc, s.cycleOf cid + s.fetchTime cid l)))

/-- R32, R36, R54, R90, R109, R131.  A result that is due and raises no trap, the only one pending of its context, lands: its destination takes its value, on the
enabled bits of a vector; FPSTAT takes its flags; nothing else of the context's registers changes.  A write of a control register (R124, R126) lands in the fields that its register takes; that of a register of wider
scope becomes the register's event.  One that raises an enabled flag writes nothing: FPSTAT takes its flags in the cycle of the landing, and the enables of that cycle are those that its trap goes by (R126 items 1 and 4). -/
def Obligations.ResultLandsInItsDestination : Prop :=
  (∀ (s : State) (cid : Nat) (c : Ctx) (x : Result), c = s.ctx cid → c.pend = [x] → x.due ≤ s.cycleOf cid → c.landCause x = none →
    c.returning = none → (∀ i, x.dest ≠ .cr i) →
    ∃ t u, exec (.resultLanding cid) s = .next t ∧ u = t.ctx cid ∧ u.pend = [] ∧ sameMemory s t ∧
      u.regs.fpstat = c.regs.fpstat ||| x.fpFlags ∧ u.regs.fpctl = c.regs.fpctl ∧ u.pc = c.pc ∧ u.loops = c.loops ∧
      (∀ r, x.dest = .s r → r ≠ 0 → u.rs r = x.value.setWidth 64) ∧ (∀ q, x.dest ≠ .s q → u.rs q = c.rs q) ∧
      (∀ r, x.dest = .a r → r ≠ 0 → u.ra r = x.value.setWidth 64) ∧ (∀ q, x.dest ≠ .a q → u.ra q = c.ra q) ∧
      (∀ r, x.dest = .v r → ∀ i < 1024, (u.rv r).getLsbD i = if x.lanes.getLsbD i then x.value.getLsbD i else (c.rv r).getLsbD i) ∧
      (∀ q, x.dest ≠ .v q → u.rv q = c.rv q) ∧
      (∀ r : BitVec 3, x.dest = .m r → u.m.get r.toNat = x.value.setWidth 32) ∧ (∀ q : BitVec 3, x.dest ≠ .m q → u.m.get q.toNat = c.m.get q.toNat) ∧
      (x.dest = .stack → u.stack = x.stack) ∧ (x.dest ≠ .stack → u.stack = c.stack)) ∧
  (∀ (s : State) (cid : Nat) (c : Ctx) (x : Result) (i : BitVec 12), c = s.ctx cid → c.pend = [x] → x.due ≤ s.cycleOf cid → c.landCause x = none →
    c.returning = none → x.dest = .cr i → x.flags = [] → (∀ f, c.finished = some f → f.cycle ≠ s.cycleOf cid) →
    ∃ t u, exec (.resultLanding cid) s = .next t ∧ u = t.ctx cid ∧ u.pend = [] ∧ sameMemory s t ∧ u.pc = c.pc ∧ u.loops = c.loops ∧ u.s = c.s ∧
      u.a = c.a ∧ u.v = c.v ∧ u.m = c.m ∧ u.stack = c.stack ∧
      (i.toNat < 0x200 → u.regs = (c.crWrite i.toNat (x.value.setWidth 64) (c.insideRegion x)).regs ∧ t.inputs = s.inputs) ∧
      (0x200 ≤ i.toNat → u.regs = c.regs ∧ t.inputs = if c.priv = true ∧ ¬ (isDepot cid = true ∧ 0x202 ≤ i.toNat ∧ i.toNat ≤ 0x205)
        then s.inputs ++ regEvents i.toNat (x.value.setWidth 64) else s.inputs)) ∧
  (∀ (s : State) (cid : Nat) (c : Ctx) (x : Result), c = s.ctx cid → c.pend = [x] → x.due ≤ s.cycleOf cid → x.struck = none →
    (c.landCause x = some .fpx ∨ c.landCause x = some .snan) → c.returning = none →
    ∃ t, exec (.resultLanding cid) s = .next t ∧ (t.ctx cid).pend = [{ x with struck := some c.regs.fpctl }] ∧
      (t.ctx cid).regs = { c.regs with fpstat := c.regs.fpstat ||| x.fpFlags } ∧ (t.ctx cid).s = c.s ∧ (t.ctx cid).a = c.a ∧
      (t.ctx cid).v = c.v ∧ (t.ctx cid).pc = c.pc ∧ sameMemory s t)

/-- R36, R85, R87, R272, R275 to R279, R366.  A landing that raises a trap takes it; a quantum ends; a wait that runs out traps with TIMEOUT; the phasers count
registrations, drops and arrivals, advance and deliver. -/
def Obligations.ContextAndPhaserEventsComplete : Prop :=
  (∀ (s : State) (cid : Nat) (c : Ctx) (x : Result) (k : Cause), c = s.ctx cid → c.pend = [x] → s.landReady cid = false → s.landTrapReady cid = true →
    c.landCause x = some k → (k = .fpx ∨ k = .snan) → c.regs.inh = false → c.regs.thand &&& ~~~63#64 ≠ 0 → isOutrider cid = false →
    ∃ t u, exec (.resultLanding cid) s = .next t ∧ u = t.ctx cid ∧ u.pend = [] ∧ u.held = some x ∧ u.regs.inh = true ∧
      u.regs.tcause.extractLsb' 0 8 = BitVec.ofNat 8 k.code ∧ u.regs.tcause.getLsbD 8 = true ∧ u.regs.tval = c.landTval x ∧
      u.regs.fpstat.extractLsb' 8 6 = x.fpFlags.extractLsb' 0 6 ∧ u.s = c.s ∧ u.v = c.v) ∧
  (∀ (s : State) (core h : Nat), (s.core core).holder = some h → s.quantumOver core = true → ∃ t, exec (.quantumEnd core) s = .next t ∧
    (t.core core).holder = none ∧ (t.ctx h).pend = [] ∧
    (t.ctx h).replay = (s.ctx h).replay ++ (s.ctx h).pend.map (fun x => { x with due := x.due - s.coreCycle core }) ∧ sameMemory s t) ∧
  (∀ (s : State) (cid v : Nat),
    (s.ranOut cid (s.waitLimit cid) (s.ctx cid).waitSince = some v → exec (.waitTimeout cid) s = .next (s.takeTrap cid
      ⟨.timeout, BitVec.ofNat 64 v, 7, (s.ctx cid).pc, (s.ctx cid).pc, 0, 0, false, false, none⟩)) ∧
    (s.ranOut cid (s.phLimit cid) (s.phSince cid) = some v → exec (.phTimeout cid) s = .next (s.takeTrap cid
      ⟨.timeout, BitVec.ofNat 64 v, 7, (s.ctx cid).pc, (s.ctx cid).pc, 0, 0, false, false, none⟩))) ∧
  (∀ (s : State) (id : Nat) (o : PhOp) (p : Phaser), s.readyOp id = some o → p = s.phaserOf o →
    (64 ≤ o.ph → ∃ k x, o.cons = some k ∧ s.con? k = some x) →
    (∀ mode q ap, o.act = .register mode q ap → ∃ t, exec (.phaserRegistrationApply id) s = .next t ∧
      (t.phaserOf o).nsig = (if mode = 2 then p.nsig else p.nsig + 1) ∧ (t.phaserOf o).quorum = max p.quorum q ∧
      (t.phaserOf o).phase = p.phase ∧ (t.phaserOf o).arr0 = p.arr0 ∧ (t.phaserOf o).arr1 = p.arr1 ∧ sameMemory s t) ∧
    (o.act = .drop → (p.withdraw o.cid).full = false → ∃ t, exec (.phaserDropApply id) s = .next t ∧ t.phaserOf o = p.withdraw o.cid ∧ sameMemory s t) ∧
    (o.act = .arrive → ∀ mode ap wp, p.reg? o.cid = some (o.cid, mode, ap, wp) →
      ((p.count o.cid).full = false → ∃ t, exec (.phaserArrivalCount id) s = .next t ∧ sameMemory s t ∧
        (t.phaserOf o).arr0 = (if ap = p.phase then p.arr0 + 1 else p.arr0) ∧ (t.phaserOf o).arr1 = (if ap = p.phase then p.arr1 else p.arr1 + 1) ∧
        (t.phaserOf o).phase = p.phase ∧ (t.phaserOf o).nsig = p.nsig) ∧
      ((p.count o.cid).full = true → s.phops = [o] → ∃ t, exec (.phaserArrivalCount id) s = .next t ∧
        (t.phaserOf o).phase = phaseAdd p.phase 1 ∧ (t.phaserOf o).arr0 = (p.count o.cid).arr1 ∧ (t.phaserOf o).arr1 = 0)) ∧
    (o.act = .carried → p.full = false → ∃ t, exec (.phaserArrivalCount id) s = .next t ∧ t.phaserOf o = p) ∧
    (∀ n, o.act = .deliver n → ∃ t, exec (.phaseDelivery id) s = .next t ∧ Table.find? (t.group o.gid).seen o.ph = some n ∧ sameMemory s t))

/-! ## Events: the lease, the array, tiles and the tile store, relays, the other engines -/

/-- R65, R162, R174, R177, R180, R182, R183, R198 to R200, R211, R218 to R221.  The lease and the engines of a core and of a serai: a grant leaves no request of its
holder; a command starts with its tail taken and its times noted; its completion does its work, takes it out of its queue and signals.  The manual leaves open
in which cycles the work of a tile command, an array command and a copy reaches the registers and the stores: that it is done whole at the completion, of a copy
at the last beat of each row, is the model's choice (log 41). -/
def Obligations.ArrayAndTileEventsComplete : Prop :=
  (∀ (s : State) (k : Nat) (q : LeaseReq), (s.serai k).winner = some q → (s.serai k).grantDue = true → ∃ t l, exec (.leaseGrant k) s = .next t ∧
    (t.serai k).lease = some l ∧ l.holder = q.cid ∧ l.prio = q.prio ∧ (t.serai k).lastHolder = some q.cid ∧
    (∀ r ∈ (t.serai k).reqs, r.cid ≠ q.cid) ∧ sameMemory s t) ∧
  (∀ (s : State) (k : Nat), s.leaseIdle k = true → ∃ t, exec (.leaseIdleExpiry k) s = .next t ∧ (t.serai k).lease = none ∧
    (t.serai k).grantFrom = (s.serai k).cyc + 2 ∧ (t.serai k).reqs = (s.serai k).reqs) ∧
  (∀ (s : State) (k : Nat) (c : Cmd), s.arrayStart? k = some c → ∃ t f, exec (.arrayCommandStart k) s = .next t ∧ cmdChanged s t c.id f ∧
    (∀ x, (f x).start = some (s.unitCycle c.queue)) ∧ t.groups = (s.tailTake c).groups ∧ sameMemory s t) ∧
  (∀ (s : State) (k : Nat) (c : Cmd), s.updateBegin? k = some c → ∃ t f, exec (.arrayUpdateBegin k) s = .next t ∧ cmdChanged s t c.id f ∧
    (∀ x, (f x).updating = true ∧ (f x).due = s.unitCycle c.queue + 12) ∧ t.groups = s.groups) ∧
  (∀ (s : State) (k : Nat) (c : Cmd), s.arrayDone? k = some c →
    (∀ pos e, c.op = .zero pos e → ∃ u : State, exec (.arrayCommandComplete k) s = .next (u.endCmd c) ∧ u.cmds = s.cmds ∧ sameMemory s u ∧
      ∀ a, (u.group c.gid).ts.get a =
        if posRow pos ≤ a / 1024 ∧ a / 1024 < posRow pos + extRows e ∧ posCol pos ≤ a % 1024 ∧ a % 1024 < posCol pos + extWords e then 0
        else (s.group c.gid).ts.get a) ∧
    (∀ kind ta tb pos w shA shB, c.op = .product kind ta tb pos w shA shB → ∃ u : State, exec (.arrayCommandComplete k) s = .next (u.endCmd c) ∧
      u.cmds = s.cmds ∧ sameMemory s u ∧
      (u.group c.gid).ts = ((⟨kind, pos, w, shA, shB⟩ : Prod).update c.latA c.latB c.present (s.group c.gid).ts).1)) ∧
  (∀ (s : State) (k : Nat) (c : Cmd), s.markerDue? k = some c → exec (.mfreeMarkerSignal k) s = .next (s.endCmd c)) ∧
  (∀ (s : State) (c : Cmd), (s.endCmd c).cmds = s.cmds.filter (fun x => x.id != c.id) ∧ (tailInc c.tail = 0 → (s.endCmd c).groups = s.groups) ∧
    (tailInc c.tail ≠ 0 → (s.endCmd c).groups = (s.semChange c.gid (coreOf c.cid) (tailSS c.tail) (tailInc c.tail)).groups)) ∧
  (∀ (s : State) (k : Nat) (c : Cmd) (tc : TileCmd), c.op.tile? = some tc →
    (s.tileStart? k = some c → ∃ t f, exec (.tileCommandStart k) s = .next t ∧ cmdChanged s t c.id f ∧ t.groups = (s.tailTake c).groups ∧
      ∀ x, (f x).start = some (s.unitCycle c.queue) ∧ (f x).due = s.unitCycle c.queue + 8 + (tileCount tc.shape * tc.len + 255) / 256) ∧
    (s.dueIn (.tile k) = some c → exec (.tileCommandComplete k) s = .next ((s.tileWork c tc).endCmd c))) ∧
  (∀ (s : State) (k : Nat) (c : Cmd), s.copyStart? k = some c → ∃ t f, exec (.tsCopyStart k) s = .next t ∧ cmdChanged s t c.id f ∧
    (∀ x, (f x).start = some (s.unitCycle c.queue) ∧ (f x).occ = s.unitCycle c.queue + 2) ∧ t.groups = (s.tailTake c).groups) ∧
  (∀ (s : State) (k : Nat) (c : Cmd) (cc : CopyCmd), s.beat? k = some (c, cc) → ∃ t f, exec (.tsCopyBeat k) s = .next t ∧ cmdChanged s t c.id f ∧
    ∀ x, (f x).work = x.work + 1 ∧ (f x).occ = s.unitCycle c.queue + 1 ∧ (f x).due = s.unitCycle c.queue + 9) ∧
  (∀ (s : State) (k : Nat) (c : Cmd) (cc : CopyCmd), s.yield? k = some (c, cc) → ∃ u : State, exec (.tsCopyYield k) s = .next (u.makeBeat c cc) ∧
    sameMemory s u ∧ u.groups = s.groups ∧
    u.cmds = s.cmds.map fun a => if ((s.claimers k c cc).map (·.id)).contains a.id then { a with due := a.due + 1 } else a) ∧
  (∀ (s : State) (k : Nat) (c : Cmd), s.copyDone? k = some c → ∃ u : State, exec (.tsCopyComplete k) s = .next (u.endCmd c) ∧ u.cmds = s.cmds ∧
    u.groups = s.groups ∧ u.ctx c.cid = (s.ctx c.cid).completed true c.number c.flags (tailSignal c.tail) (s.unitCycle c.queue)) ∧
  (∀ (s : State) (k : Nat) (c : Cmd) (rb a b n : Nat), c.op = .relayInit rb a b n →
    (s.relayStart? k = some c → ∃ t, exec (.rlyInitStart k) s = .next t ∧ t.groups = (s.tailTake c).groups ∧ sameMemory s t ∧
      ∀ x ∈ t.cmds, x.id = c.id → x.start = some (s.unitCycle c.queue) ∧ x.due = s.unitCycle c.queue + 3) ∧
    (s.dueIn (.relay k) = some c → ∃ u : State, exec (.rlyInitComplete k) s = .next (u.endCmd c) ∧ u.cmds = s.cmds ∧
      ∀ r, (u.group c.gid).relays[rb]? = some r → (r.running = true ↔ ∃ x ∈ s.cmds, x.id ≠ c.id ∧ x.gid = c.gid ∧ ∃ a b n, x.op = .relayInit rb a b n)))

/-- R282, R285 to R291, R298, R306 to R314, R355, R395 to R399.  The drovers, drains, step caches, collective engines and launch units: a command starts with its copy of
the descriptor, does its work piece by piece or at its point, ends early with its fault kind, and completes with its status record; a drain and a
`launch` have none: the one signals, the other leaves SEQ and LSTAT in its image.  A flit that a running collective command takes adds to its sums or its
results and goes on to the next rank.  The model's choices here: the descriptor is copied at the start (log 42), FULL is found at the directory
point (log 43), the target of a `launch` is checked at its completion (log 54), and early flits wait, late ones are dropped, in the model's order of
checks (log 60). -/
def Obligations.EngineEventsComplete : Prop :=
  (∀ (s : State) (k t0 : Nat) (c : Cmd) (v : Drv), s.droverStart? k = some c → c.copyOf = [] → t0 = s.unitCycle c.queue →
    ({ c with copyOf := (s.group c.gid).sp.bytes c.op.descAt 96 } : Cmd).drv? = some v → ∃ t f, exec (.droverCommandStart k) s = .next t ∧
      cmdChanged s t c.id f ∧ t.groups = (s.tailTake c).groups ∧ sameMemory s t ∧
      (∀ x, (f x).start = some t0 ∧ (f x).work = c.op.first ∧ (f x).copyOf = (s.group c.gid).sp.bytes c.op.descAt 96) ∧
      (s.droverIllegal c v = true → ∀ x, (f x).fault = some (5, 0, 0) ∧ (f x).due = t0 + 8) ∧
      (s.droverIllegal c v = false → v.chunks ≤ c.op.first → ∀ x, (f x).fault = x.fault ∧ (f x).due = t0 + 8) ∧
      (s.droverIllegal c v = false → c.op.first < v.chunks → ∀ x, (f x).fault = x.fault ∧
        (f x).due = t0 + 4 + (s.chunkPaths c v c.op.first).1 + c.relayPath v)) ∧
  (∀ (s : State) (k : Nat) (c : Cmd) (v : Drv),
    (∀ p r, s.chunkNow? k = some (c, v, .ready p r) →
      (c.updating = false → ∃ t f, exec (.droverChunkCommit k) s = .next t ∧ cmdChanged s t c.id f ∧ (∀ x, (f x).updating = true) ∧ sameMemory s t) ∧
      (c.updating = true → ∃ t f, exec (.droverChunkCommit k) s = .next t ∧ cmdChanged s t c.id f ∧
        (∀ x, (f x).updating = false ∧ (f x).work = x.work + 1) ∧
        ∀ q bs, (Aim.mem q, bs) ∈ p.writes → ∃ w ∈ t.posted, w.kind = .engine ∧ w.cid = c.cid ∧ w.piece = ⟨q, bs.map (·.1)⟩)) ∧
    (s.chunkNow? k = some (c, v, .wait) → ∃ t f, exec (.droverChunkCommit k) s = .next t ∧ cmdChanged s t c.id f ∧ sameMemory s t ∧
      ∀ x, (f x).reached = s.nextId + 1 ∧ (f x).updating = x.updating ∧ (f x).work = x.work) ∧
    (∀ a, s.chunkNow? k = some (c, v, .fail (.access a)) → ∃ t f, exec (.droverChunkCommit k) s = .next t ∧ cmdChanged s t c.id f ∧ sameMemory s t ∧
      ∀ x, (f x).fault = some (2, a, 0) ∧ (f x).due = s.unitCycle c.queue + 4 + x.refused) ∧
    (s.tagDue? k = some (c, v) → ∃ t f, exec (.chunkTagWrite k) s = .next t ∧ cmdChanged s t c.id f ∧ ∀ x, (f x).number = x.number + 1) ∧
    (s.droverDone? k = some (c, v) → ∃ u : State, exec (.droverCommandComplete k) s = .next (u.endCmd c) ∧ u.cmds = s.cmds ∧ sameMemory s u ∧
      (u.group c.gid).sp = (s.group c.gid).sp.setBytes (c.op.descAt + 96) (c.droverStatus v))) ∧
  (∀ (s : State) (cid : Nat) (c : Cmd),
    (s.drainStart? cid = some c → ∃ t f, exec (.drainStart cid) s = .next t ∧ cmdChanged s t c.id f ∧
      (∀ x, (f x).start = some (s.unitCycle c.queue)) ∧ t.groups = (s.tailTake c).groups) ∧
    (s.drainDone? cid = some c → ∀ cls scope a b, c.op = .drain cls scope false a b → ∃ u : State,
      exec (.drainComplete cid) s = .next (u.endCmd c) ∧ u.cmds = s.cmds ∧ sameMemory s u ∧ u.groups = s.groups) ∧
    (s.drainDone? cid = some c → ∀ cls scope a b, c.op = .drain cls scope true a b →
      (c.updating = true → ∃ u : State, exec (.drainComplete cid) s = .next (u.endCmd c) ∧ u.cmds = s.cmds ∧ sameMemory s u ∧ u.groups = s.groups) ∧
      (c.updating = false → ∃ t f, exec (.drainComplete cid) s = .next t ∧ cmdChanged s t c.id f ∧
        ∀ x, (f x).updating = true ∧ (f x).due = (s.releaseAt cid scope).1))) ∧
  (∀ (s : State) (k t0 : Nat) (c : Cmd) (d : List Byte), s.scStart? k = some c → c.copyOf = [] → t0 = s.unitCycle c.queue →
    d = (s.group c.gid).sp.bytes c.op.descAt 64 → ∃ t f, exec (.scCommandStart k) s = .next t ∧ cmdChanged s t c.id f ∧
      t.groups = (s.tailTake c).groups ∧ (∀ x, (f x).start = some t0 ∧ (f x).copyOf = d) ∧
      (scLegal c.op.stepKind d = true → ∀ x, (f x).due = t0 + 8 + s.dirCount c (scTag d)) ∧
      (scLegal c.op.stepKind d = false → ∀ x, (f x).fault = some (5, 0, 0) ∧ (f x).due = t0 + 8)) ∧
  (∀ (s : State) (k : Nat) (c : Cmd),
    (s.scPoint? k = some (c, false) → ∃ t f, exec (.scDirectoryPoint k) s = .next t ∧ cmdChanged s t c.id f ∧ ∀ x, (f x).aux = s.now + 1) ∧
    (s.scPoint? k = some (c, true) → c.op.stepKind = 0 → s.scEntry? c = none → ∃ t f, exec (.scDirectoryPoint k) s = .next t ∧
      cmdChanged s t c.id f ∧ ∀ x, (f x).verdict = 2 ∧ (f x).fault = none ∧ (f x).updating = true) ∧
    (s.scPoint? k = some (c, true) → c.op.stepKind = 2 → ∃ t f, exec (.scDirectoryPoint k) s = .next t ∧ cmdChanged s t c.id f ∧
      ∀ x, (f x).updating = true ∧ (f x).verdict = if (s.scEntry? c).isSome then 0 else 2) ∧
    (s.scPoint? k = some (c, true) → c.op.stepKind = 1 → 8192 ≤ (s.dir (scHome (scTag c.copyOf))).length →
      ∃ t f, exec (.scDirectoryPoint k) s = .next t ∧ cmdChanged s t c.id f ∧ ∀ x, (f x).updating = true ∧ (f x).fault = some (7, 0, 0)) ∧
    (∀ w y, s.scDone? k = some c → y = (if s.scSpoilt c then c.spoilt else c) → w = (s.scEffect y).unlock y →
      ∃ u : State, exec (.scCommandComplete k) s = .next (State.endCmd u y) ∧ u.cmds = w.cmds ∧ sameMemory w u ∧ (u.group y.gid).sp =
        (w.group y.gid).sp.setBytes (y.op.descAt + 96) (y.scStatus (w.scAfter y).1 (w.scAfter y).2))) ∧
  (∀ (s : State) (die t0 : Nat) (c : Cmd) (d : List Byte), s.colStart? die = some c → d = (s.group c.gid).sp.bytes c.op.descAt 96 → t0 = colTopo d →
    (64 ≤ t0 → ∃ t f, exec (.colCommandStart die) s = .next t ∧ cmdChanged s t c.id f ∧ sameMemory s t ∧
      ∀ x, (f x).start = some (s.unitCycle c.queue) ∧ (f x).fault = some (5, 0, 0) ∧ (f x).due = s.tick + 10) ∧
    (∀ me, t0 < 64 → s.topoRank? t0 die (s.topoRanks t0) = some me → colLegal c.op.collMode d = true →
      colFits c.op.collMode (s.devNum (s.topoAddr t0) 2) d = true →
      s.rangesFail c (colRanges c.op.collMode (s.devNum (s.topoAddr t0) 2) me d) = none → ∃ t, exec (.colCommandStart die) s = .next t ∧
        sameMemory s t ∧ (t.pk.colCount.get (colKey die t0)).toNat = ((s.pk.colCount.get (colKey die t0)).toNat + 1) % 2 ^ 32 ∧
        ∀ x ∈ t.cmds, x.id = c.id → x.start = some (s.unitCycle c.queue) ∧ x.number = (s.pk.colCount.get (colKey die t0)).toNat)) ∧
  (∀ (s : State) (die culprit : Nat) (c : Cmd),
    (s.colDone? die = some c → c.fault.isSome = true ∨ s.rangesFail c ((colRanges c.op.collMode c.aux c.occ c.copyOf).drop 1) = none →
      ∃ t, exec (.colCommandComplete die) s = .next t ∧ ∀ x ∈ t.cmds, x.id ≠ c.id) ∧
    (s.colDone? die = some c → s.cmd? c.id = some c → c.fault.isSome = true → ∃ u : State, exec (.colCommandComplete die) s = .next (u.endCmd c) ∧
      u.cmds = s.cmds ∧ sameMemory s u ∧ (u.group c.gid).sp = (s.group c.gid).sp.setBytes (c.op.descAt + 96) (c.colStatus 2 0xFFFF)) ∧
    (∀ w, s.colDone? die = some c → c.fault = none → w = s.colWrite c → s.rangesFail c ((colRanges c.op.collMode c.aux c.occ c.copyOf).drop 1) = none →
      ∃ u y, exec (.colCommandComplete die) s = .next (State.endCmd u y) ∧ u.cmds = w.cmds ∧ sameMemory w u ∧
        (u.group y.gid).sp = (w.group y.gid).sp.setBytes (y.op.descAt + 96) (y.colStatus 1 0xFFFF) ∧ (w.cmd? c.id).getD c = y) ∧
    (s.colLate? die = some (c, culprit) → ∃ u : State, exec (.colTimeout die) s = .next (u.endCmd c) ∧ u.cmds = s.cmds ∧
      (u.group c.gid).sp = (s.group c.gid).sp.setBytes (c.op.descAt + 96) (c.colStatus 3 culprit))) ∧
  (∀ (s : State) (die : Nat) (fl : Flit),
    (s.colFor? die fl = none → fl.table < 64 → (s.pk.colCount.get (colKey die fl.table)).toNat ≤ fl.cseq →
      exec (.colFlitReceive die fl) s = .next { s with flits := s.flits ++ [(die, fl)] }) ∧
    (s.colFor? die fl = none → fl.cseq < (s.pk.colCount.get (colKey die fl.table)).toNat → exec (.colFlitReceive die fl) s = .next s) ∧
    (∀ c, s.colFor? die fl = some c → c.fault = none → c.agrees fl = false → ∃ t f, exec (.colFlitReceive die fl) s = .next t ∧
      cmdChanged s t c.id f ∧ ∀ x, (f x).fault = some (9, 0, 0)) ∧
    (∀ c, s.colFor? die fl = some c → c.fault.isSome = true → exec (.colFlitReceive die fl) s = .next s) ∧
    (∀ c, s.colFor? die fl = some c → c.fault = none → c.agrees fl = true → fl.final = true → ∃ t, exec (.colFlitReceive die fl) s = .next t ∧
      cmdChanged s t c.id (fun x => { x with finals := x.finals ++ [fl] }) ∧ sameMemory s t ∧
      (fl.hop < c.aux - 1 → flitSent s t c { fl with hop := fl.hop + 1 }) ∧
      (c.aux - 1 ≤ fl.hop → t.inputs = s.inputs ∧ t.outbox = s.outbox)) ∧
    (∀ c sum bad w, s.colFor? die fl = some c → c.fault = none → c.agrees fl = true → fl.final = false →
      sum = (colSum (colX (colWire c.copyOf) (fl.data.map (·.toNat))) (c.colLocal fl.segment).1).1 →
      bad = (fl.bad ++ (c.colLocal fl.segment).2.1).eraseDups → w = colWire c.copyOf →
      ∃ t f, exec (.colFlitReceive die fl) s = .next t ∧ cmdChanged s t c.id f ∧ sameMemory s t ∧ (∀ x, (f x).work = x.work + 1) ∧
        (c.occ ≠ fl.segment → flitSent s t c (c.flit fl.segment (fl.hop + 1) false (colQ w sum).1 (wireBad w bad)) ∧
          ∀ x, (f x).finals = x.finals) ∧
        (c.occ = fl.segment → c.op.collMode = 1 → flitSent s t c (c.flit fl.segment 1 true (colQ w sum).1 (wireBad w bad)) ∧
          ∀ x, (f x).finals = x.finals ++ [c.flit fl.segment 1 true (colQ w sum).1 (wireBad w bad)]) ∧
        (c.occ = fl.segment → c.op.collMode ≠ 1 → t.inputs = s.inputs ∧ t.outbox = s.outbox ∧
          ∀ x, (f x).finals = x.finals ++ [{ c.flit fl.segment 1 true sum bad with wire := 0 }]))) ∧
  (∀ (s : State) (u : Nat) (c : Cmd),
    (s.launchStart? u = some c → ∃ t f, exec (.launchCommandStart u) s = .next t ∧ cmdChanged s t c.id f ∧ t.groups = (s.tailTake c).groups ∧
      ∀ x, (f x).start = some (s.unitCycle c.queue) ∧ (f x).copyOf = (s.group c.gid).sp.bytes c.op.descAt 128) ∧
    (s.launchDone? u = some c → s.launchable c = false → exec (.launchComplete u) s = .next (s.launchEnds c 0 2)) ∧
    (∀ q e, s.launchDone? u = some c → s.launchable c = true → q = c.op.launchQueue →
      s.asidRange (s.portOf c.cid) (s.queue q).asid true (s.queue q).prodSlot 128 = .error e → exec (.launchComplete u) s = .next (s.launchEnds c 0 3)) ∧
    (∀ q ps, s.launchDone? u = some c → s.launchable c = true → q = c.op.launchQueue →
      s.asidRange (s.portOf c.cid) (s.queue q).asid true (s.queue q).prodSlot 128 = .ok ps →
      ∃ v : State, exec (.launchComplete u) s = .next (v.launchEnds c (((s.queue q).expect + (s.queue q).waiting) % 2 ^ 32) 1) ∧
        v.cmds = s.cmds ∧ v.groups = s.groups ∧ (v.queue q).prod = ((s.queue q).prod + 1) % 2 ^ 32 ∧
        ∀ p ∈ cutParts ps (natLe 4 (((s.queue q).expect + (s.queue q).waiting) % 2 ^ 32) ++ c.copyOf.drop 4),
          ∃ w ∈ v.posted, w.kind = .engine ∧ w.cid = c.cid ∧ w.piece = p) ∧
    (∀ seq lstat, ∃ v : State, s.launchEnds c seq lstat = v.endCmd c ∧ v.cmds = s.cmds ∧ sameMemory s v ∧
      (v.group c.gid).sp = ((s.group c.gid).sp.setBytes c.op.descAt (natLe 4 (if lstat = 1 then seq else 0xFFFFFFFF))).setBytes
        (c.op.descAt + 6) [BitVec.ofNat 8 lstat]))
end

