-- ==== Sys2Proof/Laws/Encoding.lean ====
section
/-! SUPPORT. The encoding formats, one at a time: the opcode and the fields of a word are those it was made of. -/

namespace Sys2Proof

/-- A field of a concatenation that lies in its low part. -/
theorem extract_append_low {m n : Nat} (x : BitVec m) (y : BitVec n) (lo len : Nat) (h : lo + len ≤ n) :
    (x ++ y).extractLsb' lo len = y.extractLsb' lo len := by
  apply BitVec.eq_of_getLsbD_eq
  intro i hi
  rw [BitVec.getLsbD_extractLsb', BitVec.getLsbD_extractLsb', BitVec.getLsbD_append]
  simp [hi, show lo + i < n by omega]

/-- A field of a concatenation that lies in its high part. -/
theorem extract_append_high {m n : Nat} (x : BitVec m) (y : BitVec n) (lo len : Nat) (h : n ≤ lo) :
    (x ++ y).extractLsb' lo len = x.extractLsb' (lo - n) len := by
  apply BitVec.eq_of_getLsbD_eq
  intro i hi
  rw [BitVec.getLsbD_extractLsb', BitVec.getLsbD_extractLsb', BitVec.getLsbD_append]
  simp [hi, show ¬ lo + i < n by omega, show lo + i - n = lo - n + i by omega]

/-- All of a word. -/
theorem extract_all {n : Nat} (x : BitVec n) : x.extractLsb' 0 n = x := by
  apply BitVec.eq_of_getLsbD_eq
  intro i hi
  simp [hi]

/-- Two neighbouring fields of a word make up one field. -/
theorem extract_join {w : Nat} (x : BitVec w) (hi lo m n : Nat) (h : hi = lo + n) :
    x.extractLsb' hi m ++ x.extractLsb' lo n = x.extractLsb' lo (m + n) := by
  subst h
  apply BitVec.eq_of_getLsbD_eq
  intro i hi
  rw [BitVec.getLsbD_append, BitVec.getLsbD_extractLsb', BitVec.getLsbD_extractLsb', BitVec.getLsbD_extractLsb']
  by_cases c : i < n
  · simp [c, hi]
  · simp [c, hi, show i - n < m by omega, show lo + n + (i - n) = lo + i by omega]

theorem SW.opcode_word (op : BitVec 8) (x : SW) : opcodeOf (x.word op) = op := by
  unfold opcodeOf SW.word
  repeat rw [extract_append_high _ _ _ _ (by decide)]
  exact extract_all op

/-- The fields of a word of this format are those it was made of. -/
theorem SW.ofWord_word (op : BitVec 8) (x : SW) : SW.ofWord (x.word op) = x := by
  unfold SW.ofWord SW.word
  congr 1 <;> (repeat' first | rw [extract_append_low _ _ _ _ (by decide)] | rw [extract_append_high _ _ _ _ (by decide)]) <;>
    exact extract_all _

/-- A word of this format is that of its opcode and its fields: the format has no bit beside them. -/
theorem SW.word_ofWord (w : BitVec 64) : (SW.ofWord w).word (opcodeOf w) = w := by
  unfold SW.ofWord SW.word opcodeOf
  repeat rw [extract_join _ _ _ _ _ (by decide)]
  exact extract_all w

theorem VW.opcode_word (op : BitVec 8) (x : VW) : opcodeOf (x.word op) = op := by
  unfold opcodeOf VW.word
  repeat rw [extract_append_high _ _ _ _ (by decide)]
  exact extract_all op

/-- The fields of a word of this format are those it was made of. -/
theorem VW.ofWord_word (op : BitVec 8) (x : VW) : VW.ofWord x.slotB (x.word op) = x := by
  unfold VW.ofWord VW.word
  congr 1 <;> (repeat' first | rw [extract_append_low _ _ _ _ (by decide)] | rw [extract_append_high _ _ _ _ (by decide)]) <;>
    exact extract_all _

/-- A word of this format is that of its opcode and its fields: the format has no bit beside them. -/
theorem VW.word_ofWord (b : Bool) (w : BitVec 64) : (VW.ofWord b w).word (opcodeOf w) = w := by
  unfold VW.ofWord VW.word opcodeOf
  repeat rw [extract_join _ _ _ _ _ (by decide)]
  exact extract_all w

theorem MW.opcode_word (op : BitVec 8) (x : MW) : opcodeOf (x.word op) = op := by
  unfold opcodeOf MW.word
  repeat rw [extract_append_high _ _ _ _ (by decide)]
  exact extract_all op

/-- The fields of a word of this format are those it was made of. -/
theorem MW.ofWord_word (op : BitVec 8) (x : MW) : MW.ofWord (x.word op) = x := by
  unfold MW.ofWord MW.word
  congr 1 <;> (repeat' first | rw [extract_append_low _ _ _ _ (by decide)] | rw [extract_append_high _ _ _ _ (by decide)]) <;>
    exact extract_all _

/-- A word of this format is that of its opcode and its fields: the format has no bit beside them. -/
theorem MW.word_ofWord (w : BitVec 64) : (MW.ofWord w).word (opcodeOf w) = w := by
  unfold MW.ofWord MW.word opcodeOf
  repeat rw [extract_join _ _ _ _ _ (by decide)]
  exact extract_all w

theorem LW.opcode_word (op : BitVec 8) (x : LW) : opcodeOf (x.word op) = op := by
  unfold opcodeOf LW.word
  repeat rw [extract_append_high _ _ _ _ (by decide)]
  exact extract_all op

/-- The fields of a word of this format are those it was made of. -/
theorem LW.ofWord_word (op : BitVec 8) (x : LW) : LW.ofWord (x.word op) = x := by
  unfold LW.ofWord LW.word
  congr 1 <;> (repeat' first | rw [extract_append_low _ _ _ _ (by decide)] | rw [extract_append_high _ _ _ _ (by decide)]) <;>
    exact extract_all _

/-- A word of this format is that of its opcode and its fields: the format has no bit beside them. -/
theorem LW.word_ofWord (w : BitVec 64) : (LW.ofWord w).word (opcodeOf w) = w := by
  unfold LW.ofWord LW.word opcodeOf
  repeat rw [extract_join _ _ _ _ _ (by decide)]
  exact extract_all w

theorem CW.opcode_word (op : BitVec 8) (x : CW) : opcodeOf (x.word op) = op := by
  unfold opcodeOf CW.word
  repeat rw [extract_append_high _ _ _ _ (by decide)]
  exact extract_all op

/-- The fields of a word of this format are those it was made of. -/
theorem CW.ofWord_word (op : BitVec 8) (x : CW) : CW.ofWord (x.word op) = x := by
  unfold CW.ofWord CW.word
  congr 1 <;> (repeat' first | rw [extract_append_low _ _ _ _ (by decide)] | rw [extract_append_high _ _ _ _ (by decide)]) <;>
    exact extract_all _

/-- A word of this format is that of its opcode and its fields: the format has no bit beside them. -/
theorem CW.word_ofWord (w : BitVec 64) : (CW.ofWord w).word (opcodeOf w) = w := by
  unfold CW.ofWord CW.word opcodeOf
  repeat rw [extract_join _ _ _ _ _ (by decide)]
  exact extract_all w

theorem YW.opcode_word (op : BitVec 8) (x : YW) : opcodeOf (x.word op) = op := by
  unfold opcodeOf YW.word
  repeat rw [extract_append_high _ _ _ _ (by decide)]
  exact extract_all op

/-- The fields of a word of this format are those it was made of. -/
theorem YW.ofWord_word (op : BitVec 8) (x : YW) : YW.ofWord (x.word op) = x := by
  unfold YW.ofWord YW.word
  congr 1 <;> (repeat' first | rw [extract_append_low _ _ _ _ (by decide)] | rw [extract_append_high _ _ _ _ (by decide)]) <;>
    exact extract_all _

/-- A word of this format is that of its opcode and its fields: the format has no bit beside them. -/
theorem YW.word_ofWord (w : BitVec 64) : (YW.ofWord w).word (opcodeOf w) = w := by
  unfold YW.ofWord YW.word opcodeOf
  repeat rw [extract_join _ _ _ _ _ (by decide)]
  exact extract_all w

end Sys2Proof
end

