-- ==== Sys2Proof/Laws/Store.lean ====
section
/-! SUPPORT. Laws of sparse storage and of tables: what a read gives after a write, and that writes keep the canonical
form. -/

namespace Sys2Proof

/-! ## Storage -/

namespace Store

variable {w : Nat}

@[simp] theorem get_nil (k : Nat) : get ([] : Store w) k = 0 := rfl

/-- A read after a write: the entry written, or what stood there before. -/
@[simp] theorem get_set (m : Store w) (k : Nat) (v : BitVec w) (q : Nat) :
    (m.set k v).get q = if q = k then v else m.get q := by
  induction m with
  | nil =>
    by_cases h : v = 0#w
    · simp [set, h]
    · simp [set, h, get]
  | cons e m ih =>
    obtain ⟨k', v'⟩ := e
    rcases Nat.lt_trichotomy k k' with c | c | c
    · by_cases h : v = 0#w
      · have hs : set ((k', v') :: m) k v = (k', v') :: set m k v := by simp [set, c, h]
        rw [hs]
        by_cases h2 : q = k'
        · have h3 : ¬ q = k := by omega
          rw [if_neg h3]; simp [get, h2]
        · simp only [get, h2, if_false]; exact ih
      · simp [set, c, h, get]
    · subst c
      by_cases h : v = 0#w
      · have hs : set ((k, v') :: m) k v = set m k v := by simp [set, h]
        rw [hs, ih]
        by_cases h2 : q = k <;> simp [get, h2]
      · have hs : set ((k, v') :: m) k v = (k, v) :: m := by simp [set, h]
        rw [hs]
        by_cases h2 : q = k <;> simp [get, h2]
    · have hs : set ((k', v') :: m) k v = (k', v') :: set m k v := by
        simp [set, show ¬ k < k' by omega, show ¬ k = k' by omega]
      rw [hs]
      by_cases h2 : q = k'
      · have h3 : ¬ q = k := by omega
        rw [if_neg h3]; simp [get, h2]
      · simp only [get, h2, if_false]; exact ih

theorem get_set_self (m : Store w) (k : Nat) (v : BitVec w) : (m.set k v).get k = v := by simp

theorem get_set_ne (m : Store w) {k q : Nat} (v : BitVec w) (h : q ≠ k) : (m.set k v).get q = m.get q := by simp [h]

theorem wfAbove_mono {m : Store w} {a b : Nat} (h : m.wfAbove a = true) (ab : b ≤ a) : m.wfAbove b = true := by
  cases m with
  | nil => rfl
  | cons e m =>
    obtain ⟨k, v⟩ := e
    simp only [wfAbove, Bool.and_eq_true, decide_eq_true_eq] at h ⊢
    exact ⟨⟨by omega, h.1.2⟩, h.2⟩

/-- Writing zero below every listed number changes nothing. -/
theorem set_zero_below {m : Store w} {lo k : Nat} (h : m.wfAbove lo = true) (hk : k < lo) : m.set k 0#w = m := by
  induction m generalizing lo with
  | nil => simp [set]
  | cons e m ih =>
    obtain ⟨k', v'⟩ := e
    simp only [wfAbove, Bool.and_eq_true, decide_eq_true_eq] at h
    have c : k < k' := by omega
    have : set ((k', v') :: m) k 0#w = (k', v') :: set m k 0#w := by simp [set, c]
    rw [this, ih h.2 (by omega)]

theorem wfAbove_set {m : Store w} {lo k : Nat} (v : BitVec w) (h : m.wfAbove lo = true) (hk : lo ≤ k) :
    (m.set k v).wfAbove lo = true := by
  induction m generalizing lo with
  | nil => by_cases hv : v = 0#w <;> simp [set, wfAbove, hv, hk]
  | cons e m ih =>
    have h0 := h
    obtain ⟨k', v'⟩ := e
    simp only [wfAbove, Bool.and_eq_true, decide_eq_true_eq] at h
    obtain ⟨⟨h1, h2⟩, h3⟩ := h
    rcases Nat.lt_trichotomy k k' with c | c | c
    · by_cases hv : v = 0#w
      · subst hv
        have hs : set ((k', v') :: m) k 0#w = (k', v') :: set m k 0#w := by simp [set, c]
        rw [hs, set_zero_below h3 (by omega)]
        exact h0
      · have hs : set ((k', v') :: m) k v = (k, v) :: (k', v') :: m := by simp [set, c, hv]
        rw [hs]
        simp only [wfAbove, Bool.and_eq_true, decide_eq_true_eq]
        exact ⟨⟨hk, hv⟩, ⟨by omega, h2⟩, h3⟩
    · subst c
      by_cases hv : v = 0#w
      · subst hv
        have hs : set ((k, v') :: m) k 0#w = set m k 0#w := by simp [set]
        rw [hs, set_zero_below h3 (by omega)]
        exact wfAbove_mono h3 (by omega)
      · have hs : set ((k, v') :: m) k v = (k, v) :: m := by simp [set, hv]
        rw [hs]
        simp only [wfAbove, Bool.and_eq_true, decide_eq_true_eq]
        exact ⟨⟨hk, hv⟩, h3⟩
    · have hs : set ((k', v') :: m) k v = (k', v') :: set m k v := by
        simp [set, show ¬ k < k' by omega, show ¬ k = k' by omega]
      rw [hs]
      simp only [wfAbove, Bool.and_eq_true, decide_eq_true_eq]
      exact ⟨⟨h1, h2⟩, ih h3 (by omega)⟩

/-- A write keeps the canonical form. -/
theorem wf_set {m : Store w} (h : m.wf = true) (k : Nat) (v : BitVec w) : (m.set k v).wf = true :=
  wfAbove_set v h (Nat.zero_le k)

theorem wf_setAll {m : Store w} (h : m.wf = true) (k : Nat) (l : List (BitVec w)) : (m.setAll k l).wf = true := by
  induction l generalizing m k with
  | nil => exact h
  | cons b l ih => exact ih (wf_set h k b) (k + 1)

theorem wf_setBytes {m : Store 8} (h : m.wf = true) (a : Nat) (l : List Byte) : (m.setBytes a l).wf = true := by
  induction l generalizing m a with
  | nil => exact h
  | cons b l ih => exact ih (wf_set h a b) (a + 1)

theorem wf_clear {m : Store w} (h : m.wf = true) (p : Nat → Bool) : (m.clear p).wf = true := by
  have : ∀ (n : Store w) (lo : Nat), n.wfAbove lo = true → (n.clear p).wfAbove lo = true := by
    intro n
    induction n with
    | nil => intro lo _; rfl
    | cons e n ih =>
      obtain ⟨k, v⟩ := e
      intro lo hn
      simp only [wfAbove, Bool.and_eq_true, decide_eq_true_eq] at hn
      have := ih (k + 1) hn.2
      by_cases c : p k
      · simp only [clear, List.filter_cons, c, Bool.not_true] at this ⊢
        exact wfAbove_mono this (by omega)
      · simp only [clear, List.filter_cons, c, Bool.not_false, if_true, wfAbove, Bool.and_eq_true, decide_eq_true_eq] at this ⊢
        exact ⟨hn.1, this⟩
  exact this m 0 h

@[simp] theorem wf_nil : wf ([] : Store w) = true := rfl

/-- A read after a write of bytes: the byte of the data, or what stood there before. -/
theorem get_setBytes (m : Store 8) (a : Nat) (l : List Byte) (q : Nat) :
    (m.setBytes a l).get q = if a ≤ q ∧ q < a + l.length then (l[q - a]?).getD 0 else m.get q := by
  induction l generalizing m a with
  | nil => simp [setBytes] <;> omega
  | cons b l ih =>
    rw [setBytes, ih]
    by_cases h : q = a
    · subst h; simp <;> omega
    · by_cases h1 : a + 1 ≤ q ∧ q < a + 1 + l.length
      · have h2 : a ≤ q ∧ q < a + (b :: l).length := by simp; omega
        have h3 : q - a = (q - (a + 1)) + 1 := by omega
        rw [if_pos h1, if_pos h2, h3, List.getElem?_cons_succ]
      · have h2 : ¬ (a ≤ q ∧ q < a + (b :: l).length) := by simp; omega
        rw [if_neg h1, if_neg h2, get_set_ne _ _ h]

theorem get_setBytes_outside (m : Store 8) {a q : Nat} (l : List Byte) (h : q < a ∨ a + l.length ≤ q) :
    (m.setBytes a l).get q = m.get q := by
  rw [get_setBytes, if_neg (by omega)]

theorem get_setAll (m : Store w) (a : Nat) (l : List (BitVec w)) (q : Nat) :
    (m.setAll a l).get q = if a ≤ q ∧ q < a + l.length then (l[q - a]?).getD 0 else m.get q := by
  induction l generalizing m a with
  | nil => simp [setAll] <;> omega
  | cons b l ih =>
    rw [setAll, ih]
    by_cases h : q = a
    · subst h; simp <;> omega
    · by_cases h1 : a + 1 ≤ q ∧ q < a + 1 + l.length
      · have h2 : a ≤ q ∧ q < a + (b :: l).length := by simp; omega
        have h3 : q - a = (q - (a + 1)) + 1 := by omega
        rw [if_pos h1, if_pos h2, h3, List.getElem?_cons_succ]
      · have h2 : ¬ (a ≤ q ∧ q < a + (b :: l).length) := by simp; omega
        rw [if_neg h1, if_neg h2, get_set_ne _ _ h]

@[simp] theorem bytes_length (m : Store 8) (a n : Nat) : (m.bytes a n).length = n := by
  induction n generalizing a with
  | zero => rfl
  | succ n ih => simp [bytes, ih]

theorem bytes_get (m : Store 8) {a n i : Nat} (h : i < n) : (m.bytes a n)[i]? = some (m.get (a + i)) := by
  induction n generalizing a i with
  | zero => omega
  | succ n ih =>
    cases i with
    | zero => simp [bytes]
    | succ i => rw [bytes, List.getElem?_cons_succ, ih (by omega)]; congr 2; omega

end Store

/-! ## Tables -/

namespace Table

variable {α : Type}

@[simp] theorem find?_nil (k : Nat) : find? ([] : Table α) k = none := rfl

/-- A look-up after a put. -/
@[simp] theorem find?_put (t : Table α) (k : Nat) (v : α) (q : Nat) :
    find? (put t k v) q = if q = k then some v else find? t q := by
  induction t with
  | nil => simp [put, find?]
  | cons e t ih =>
    obtain ⟨k', v'⟩ := e
    by_cases h1 : k < k'
    · simp [put, h1, find?]
    · by_cases h2 : k = k'
      · subst h2
        simp only [put, Nat.lt_irrefl, if_false, if_true, find?]
        split <;> simp [*]
      · by_cases h3 : q = k'
        · have : ¬ q = k := by omega
          simp [put, h1, h2, find?, h3]; omega
        · simp [put, h1, h2, find?, h3, ih]

theorem find?_drop (t : Table α) (k q : Nat) : find? (drop t k) q = if q = k then none else find? t q := by
  induction t with
  | nil => simp [drop]
  | cons e t ih =>
    obtain ⟨k', v'⟩ := e
    by_cases h : k' = k
    · subst h
      simp only [drop, List.filter_cons, beq_self_eq_true, Bool.not_true] at ih ⊢
      rw [if_neg (by simp), ih]
      by_cases h2 : q = k' <;> simp [find?, h2]
    · have hb : (!(k' == k)) = true := by simp [h]
      simp only [drop, List.filter_cons, hb, if_true, find?] at ih ⊢
      rw [ih]
      by_cases h2 : q = k'
      · subst h2; simp [h]
      · simp [h2]

end Table

/-! ## Little-endian numbers -/

@[simp] theorem natLe_length (n x : Nat) : (natLe n x).length = n := by
  induction n generalizing x with
  | zero => rfl
  | succ n ih => simp [natLe, ih]

/-- The bytes of a number give it back, reduced to their width (R2). -/
theorem leNat_natLe (n x : Nat) : leNat (natLe n x) = x % 2 ^ (8 * n) := by
  induction n generalizing x with
  | zero => simp [natLe, leNat, Nat.mod_one]
  | succ n ih =>
    have e : 2 ^ (8 * (n + 1)) = 256 * 2 ^ (8 * n) := by rw [Nat.mul_add, Nat.pow_add]; simp [Nat.mul_comm]
    rw [natLe, leNat, ih, e, Nat.mod_mul]
    simp

theorem leNat_lt (l : List Byte) : leNat l < 256 ^ l.length := by
  induction l with
  | nil => simp [leNat]
  | cons b l ih =>
    have := b.isLt
    simp only [leNat, List.length_cons, Nat.pow_succ]
    omega

end Sys2Proof
end

