-- ==== Sys2Proof/Laws/State.lean ====
section
/-! SUPPORT. The small laws of the updates of the state: what each leaves as it is, field by field, and what a look-up gives
after it. -/

namespace Sys2Proof.Machine

open Sys2Proof

/-! ## What each update leaves as it is -/

@[simp] theorem State.setCtx_now (s : State) (cid : Nat) (c : Ctx) : (s.setCtx cid c).now = s.now := rfl
@[simp] theorem State.setCtx_tick (s : State) (cid : Nat) (c : Ctx) : (s.setCtx cid c).tick = s.tick := rfl
@[simp] theorem State.setCtx_issue (s : State) (cid : Nat) (c : Ctx) : (s.setCtx cid c).issue = s.issue := rfl
@[simp] theorem State.setCtx_inputs (s : State) (cid : Nat) (c : Ctx) : (s.setCtx cid c).inputs = s.inputs := rfl
@[simp] theorem State.setCtx_outbox (s : State) (cid : Nat) (c : Ctx) : (s.setCtx cid c).outbox = s.outbox := rfl
@[simp] theorem State.setCtx_free (s : State) (cid : Nat) (c : Ctx) : (s.setCtx cid c).free = s.free := rfl
@[simp] theorem State.setCtx_nextId (s : State) (cid : Nat) (c : Ctx) : (s.setCtx cid c).nextId = s.nextId := rfl
@[simp] theorem State.setCtx_cores (s : State) (cid : Nat) (c : Ctx) : (s.setCtx cid c).cores = s.cores := rfl
@[simp] theorem State.setCtx_groups (s : State) (cid : Nat) (c : Ctx) : (s.setCtx cid c).groups = s.groups := rfl
@[simp] theorem State.setCtx_serais (s : State) (cid : Nat) (c : Ctx) : (s.setCtx cid c).serais = s.serais := rfl
@[simp] theorem State.setCtx_cmds (s : State) (cid : Nat) (c : Ctx) : (s.setCtx cid c).cmds = s.cmds := rfl
@[simp] theorem State.setCtx_mem (s : State) (cid : Nat) (c : Ctx) : (s.setCtx cid c).mem = s.mem := rfl
@[simp] theorem State.setCtx_hostMem (s : State) (cid : Nat) (c : Ctx) : (s.setCtx cid c).hostMem = s.hostMem := rfl
@[simp] theorem State.setCtx_hostMem1 (s : State) (cid : Nat) (c : Ctx) : (s.setCtx cid c).hostMem1 = s.hostMem1 := rfl
@[simp] theorem State.setCtx_acts (s : State) (cid : Nat) (c : Ctx) : (s.setCtx cid c).acts = s.acts := rfl
@[simp] theorem State.setCtx_semWrites (s : State) (cid : Nat) (c : Ctx) : (s.setCtx cid c).semWrites = s.semWrites := rfl
@[simp] theorem State.setCtx_flashBad (s : State) (cid : Nat) (c : Ctx) : (s.setCtx cid c).flashBad = s.flashBad := rfl
@[simp] theorem State.setCtx_peerMem (s : State) (cid : Nat) (c : Ctx) : (s.setCtx cid c).peerMem = s.peerMem := rfl
@[simp] theorem State.setCtx_posted (s : State) (cid : Nat) (c : Ctx) : (s.setCtx cid c).posted = s.posted := rfl
@[simp] theorem State.setCtx_late (s : State) (cid : Nat) (c : Ctx) : (s.setCtx cid c).late = s.late := rfl
@[simp] theorem State.setCtx_atomics (s : State) (cid : Nat) (c : Ctx) : (s.setCtx cid c).atomics = s.atomics := rfl
@[simp] theorem State.setCtx_phops (s : State) (cid : Nat) (c : Ctx) : (s.setCtx cid c).phops = s.phops := rfl
@[simp] theorem State.setCtx_cons (s : State) (cid : Nat) (c : Ctx) : (s.setCtx cid c).cons = s.cons := rfl
@[simp] theorem State.setCtx_queues (s : State) (cid : Nat) (c : Ctx) : (s.setCtx cid c).queues = s.queues := rfl
@[simp] theorem State.setCtx_replays (s : State) (cid : Nat) (c : Ctx) : (s.setCtx cid c).replays = s.replays := rfl
@[simp] theorem State.setCtx_steps (s : State) (cid : Nat) (c : Ctx) : (s.setCtx cid c).steps = s.steps := rfl
@[simp] theorem State.setCtx_faultsOut (s : State) (cid : Nat) (c : Ctx) : (s.setCtx cid c).faultsOut = s.faultsOut := rfl
@[simp] theorem State.setCtx_eventsOut (s : State) (cid : Nat) (c : Ctx) : (s.setCtx cid c).eventsOut = s.eventsOut := rfl
@[simp] theorem State.setCtx_flits (s : State) (cid : Nat) (c : Ctx) : (s.setCtx cid c).flits = s.flits := rfl
@[simp] theorem State.setCtx_lastServed (s : State) (cid : Nat) (c : Ctx) : (s.setCtx cid c).lastServed = s.lastServed := rfl
@[simp] theorem State.setCtx_lastSelect (s : State) (cid : Nat) (c : Ctx) : (s.setCtx cid c).lastSelect = s.lastSelect := rfl
@[simp] theorem State.setCtx_lastPower (s : State) (cid : Nat) (c : Ctx) : (s.setCtx cid c).lastPower = s.lastPower := rfl
@[simp] theorem State.setCtx_lastWindow (s : State) (cid : Nat) (c : Ctx) : (s.setCtx cid c).lastWindow = s.lastWindow := rfl
@[simp] theorem State.setCtx_lastRound (s : State) (cid : Nat) (c : Ctx) : (s.setCtx cid c).lastRound = s.lastRound := rfl
@[simp] theorem State.setCtx_lastBeat (s : State) (cid : Nat) (c : Ctx) : (s.setCtx cid c).lastBeat = s.lastBeat := rfl
@[simp] theorem State.setCtx_pk (s : State) (cid : Nat) (c : Ctx) : (s.setCtx cid c).pk = s.pk := rfl
@[simp] theorem State.setCtx_pace (s : State) (cid : Nat) (c : Ctx) : (s.setCtx cid c).pace = s.pace := rfl
@[simp] theorem State.setCtx_tmons (s : State) (cid : Nat) (c : Ctx) : (s.setCtx cid c).tmons = s.tmons := rfl
@[simp] theorem State.setCtx_poison (s : State) (cid : Nat) (c : Ctx) : (s.setCtx cid c).poison = s.poison := rfl
@[simp] theorem State.setCtx_flash (s : State) (cid : Nat) (c : Ctx) : (s.setCtx cid c).flash = s.flash := rfl
@[simp] theorem State.setCtx_staging (s : State) (cid : Nat) (c : Ctx) : (s.setCtx cid c).staging = s.staging := rfl
@[simp] theorem State.setCtx_rejoins (s : State) (cid : Nat) (c : Ctx) : (s.setCtx cid c).rejoins = s.rejoins := rfl
@[simp] theorem State.setCtx_freeRelayGen (s : State) (cid : Nat) (c : Ctx) : (s.setCtx cid c).freeRelayGen = s.freeRelayGen := rfl

@[simp] theorem State.modCtx_now (s : State) (cid : Nat) (f : Ctx → Ctx) : (s.modCtx cid f).now = s.now := rfl
@[simp] theorem State.modCtx_tick (s : State) (cid : Nat) (f : Ctx → Ctx) : (s.modCtx cid f).tick = s.tick := rfl
@[simp] theorem State.modCtx_issue (s : State) (cid : Nat) (f : Ctx → Ctx) : (s.modCtx cid f).issue = s.issue := rfl
@[simp] theorem State.modCtx_inputs (s : State) (cid : Nat) (f : Ctx → Ctx) : (s.modCtx cid f).inputs = s.inputs := rfl
@[simp] theorem State.modCtx_outbox (s : State) (cid : Nat) (f : Ctx → Ctx) : (s.modCtx cid f).outbox = s.outbox := rfl
@[simp] theorem State.modCtx_free (s : State) (cid : Nat) (f : Ctx → Ctx) : (s.modCtx cid f).free = s.free := rfl
@[simp] theorem State.modCtx_nextId (s : State) (cid : Nat) (f : Ctx → Ctx) : (s.modCtx cid f).nextId = s.nextId := rfl
@[simp] theorem State.modCtx_cores (s : State) (cid : Nat) (f : Ctx → Ctx) : (s.modCtx cid f).cores = s.cores := rfl
@[simp] theorem State.modCtx_groups (s : State) (cid : Nat) (f : Ctx → Ctx) : (s.modCtx cid f).groups = s.groups := rfl
@[simp] theorem State.modCtx_serais (s : State) (cid : Nat) (f : Ctx → Ctx) : (s.modCtx cid f).serais = s.serais := rfl
@[simp] theorem State.modCtx_cmds (s : State) (cid : Nat) (f : Ctx → Ctx) : (s.modCtx cid f).cmds = s.cmds := rfl
@[simp] theorem State.modCtx_mem (s : State) (cid : Nat) (f : Ctx → Ctx) : (s.modCtx cid f).mem = s.mem := rfl
@[simp] theorem State.modCtx_hostMem (s : State) (cid : Nat) (f : Ctx → Ctx) : (s.modCtx cid f).hostMem = s.hostMem := rfl
@[simp] theorem State.modCtx_hostMem1 (s : State) (cid : Nat) (f : Ctx → Ctx) : (s.modCtx cid f).hostMem1 = s.hostMem1 := rfl
@[simp] theorem State.modCtx_acts (s : State) (cid : Nat) (f : Ctx → Ctx) : (s.modCtx cid f).acts = s.acts := rfl
@[simp] theorem State.modCtx_semWrites (s : State) (cid : Nat) (f : Ctx → Ctx) : (s.modCtx cid f).semWrites = s.semWrites := rfl
@[simp] theorem State.modCtx_flashBad (s : State) (cid : Nat) (f : Ctx → Ctx) : (s.modCtx cid f).flashBad = s.flashBad := rfl
@[simp] theorem State.modCtx_peerMem (s : State) (cid : Nat) (f : Ctx → Ctx) : (s.modCtx cid f).peerMem = s.peerMem := rfl
@[simp] theorem State.modCtx_posted (s : State) (cid : Nat) (f : Ctx → Ctx) : (s.modCtx cid f).posted = s.posted := rfl
@[simp] theorem State.modCtx_late (s : State) (cid : Nat) (f : Ctx → Ctx) : (s.modCtx cid f).late = s.late := rfl
@[simp] theorem State.modCtx_atomics (s : State) (cid : Nat) (f : Ctx → Ctx) : (s.modCtx cid f).atomics = s.atomics := rfl
@[simp] theorem State.modCtx_phops (s : State) (cid : Nat) (f : Ctx → Ctx) : (s.modCtx cid f).phops = s.phops := rfl
@[simp] theorem State.modCtx_cons (s : State) (cid : Nat) (f : Ctx → Ctx) : (s.modCtx cid f).cons = s.cons := rfl
@[simp] theorem State.modCtx_queues (s : State) (cid : Nat) (f : Ctx → Ctx) : (s.modCtx cid f).queues = s.queues := rfl
@[simp] theorem State.modCtx_replays (s : State) (cid : Nat) (f : Ctx → Ctx) : (s.modCtx cid f).replays = s.replays := rfl
@[simp] theorem State.modCtx_steps (s : State) (cid : Nat) (f : Ctx → Ctx) : (s.modCtx cid f).steps = s.steps := rfl
@[simp] theorem State.modCtx_faultsOut (s : State) (cid : Nat) (f : Ctx → Ctx) : (s.modCtx cid f).faultsOut = s.faultsOut := rfl
@[simp] theorem State.modCtx_eventsOut (s : State) (cid : Nat) (f : Ctx → Ctx) : (s.modCtx cid f).eventsOut = s.eventsOut := rfl
@[simp] theorem State.modCtx_flits (s : State) (cid : Nat) (f : Ctx → Ctx) : (s.modCtx cid f).flits = s.flits := rfl
@[simp] theorem State.modCtx_lastServed (s : State) (cid : Nat) (f : Ctx → Ctx) : (s.modCtx cid f).lastServed = s.lastServed := rfl
@[simp] theorem State.modCtx_lastSelect (s : State) (cid : Nat) (f : Ctx → Ctx) : (s.modCtx cid f).lastSelect = s.lastSelect := rfl
@[simp] theorem State.modCtx_lastPower (s : State) (cid : Nat) (f : Ctx → Ctx) : (s.modCtx cid f).lastPower = s.lastPower := rfl
@[simp] theorem State.modCtx_lastWindow (s : State) (cid : Nat) (f : Ctx → Ctx) : (s.modCtx cid f).lastWindow = s.lastWindow := rfl
@[simp] theorem State.modCtx_lastRound (s : State) (cid : Nat) (f : Ctx → Ctx) : (s.modCtx cid f).lastRound = s.lastRound := rfl
@[simp] theorem State.modCtx_lastBeat (s : State) (cid : Nat) (f : Ctx → Ctx) : (s.modCtx cid f).lastBeat = s.lastBeat := rfl
@[simp] theorem State.modCtx_pk (s : State) (cid : Nat) (f : Ctx → Ctx) : (s.modCtx cid f).pk = s.pk := rfl
@[simp] theorem State.modCtx_pace (s : State) (cid : Nat) (f : Ctx → Ctx) : (s.modCtx cid f).pace = s.pace := rfl
@[simp] theorem State.modCtx_tmons (s : State) (cid : Nat) (f : Ctx → Ctx) : (s.modCtx cid f).tmons = s.tmons := rfl
@[simp] theorem State.modCtx_poison (s : State) (cid : Nat) (f : Ctx → Ctx) : (s.modCtx cid f).poison = s.poison := rfl
@[simp] theorem State.modCtx_flash (s : State) (cid : Nat) (f : Ctx → Ctx) : (s.modCtx cid f).flash = s.flash := rfl
@[simp] theorem State.modCtx_staging (s : State) (cid : Nat) (f : Ctx → Ctx) : (s.modCtx cid f).staging = s.staging := rfl
@[simp] theorem State.modCtx_rejoins (s : State) (cid : Nat) (f : Ctx → Ctx) : (s.modCtx cid f).rejoins = s.rejoins := rfl
@[simp] theorem State.modCtx_freeRelayGen (s : State) (cid : Nat) (f : Ctx → Ctx) : (s.modCtx cid f).freeRelayGen = s.freeRelayGen := rfl

@[simp] theorem State.modMe_now (s : State) (f : Ctx → Ctx) : (s.modMe f).now = s.now := rfl
@[simp] theorem State.modMe_tick (s : State) (f : Ctx → Ctx) : (s.modMe f).tick = s.tick := rfl
@[simp] theorem State.modMe_issue (s : State) (f : Ctx → Ctx) : (s.modMe f).issue = s.issue := rfl
@[simp] theorem State.modMe_inputs (s : State) (f : Ctx → Ctx) : (s.modMe f).inputs = s.inputs := rfl
@[simp] theorem State.modMe_outbox (s : State) (f : Ctx → Ctx) : (s.modMe f).outbox = s.outbox := rfl
@[simp] theorem State.modMe_free (s : State) (f : Ctx → Ctx) : (s.modMe f).free = s.free := rfl
@[simp] theorem State.modMe_nextId (s : State) (f : Ctx → Ctx) : (s.modMe f).nextId = s.nextId := rfl
@[simp] theorem State.modMe_cores (s : State) (f : Ctx → Ctx) : (s.modMe f).cores = s.cores := rfl
@[simp] theorem State.modMe_groups (s : State) (f : Ctx → Ctx) : (s.modMe f).groups = s.groups := rfl
@[simp] theorem State.modMe_serais (s : State) (f : Ctx → Ctx) : (s.modMe f).serais = s.serais := rfl
@[simp] theorem State.modMe_cmds (s : State) (f : Ctx → Ctx) : (s.modMe f).cmds = s.cmds := rfl
@[simp] theorem State.modMe_mem (s : State) (f : Ctx → Ctx) : (s.modMe f).mem = s.mem := rfl
@[simp] theorem State.modMe_hostMem (s : State) (f : Ctx → Ctx) : (s.modMe f).hostMem = s.hostMem := rfl
@[simp] theorem State.modMe_hostMem1 (s : State) (f : Ctx → Ctx) : (s.modMe f).hostMem1 = s.hostMem1 := rfl
@[simp] theorem State.modMe_acts (s : State) (f : Ctx → Ctx) : (s.modMe f).acts = s.acts := rfl
@[simp] theorem State.modMe_semWrites (s : State) (f : Ctx → Ctx) : (s.modMe f).semWrites = s.semWrites := rfl
@[simp] theorem State.modMe_flashBad (s : State) (f : Ctx → Ctx) : (s.modMe f).flashBad = s.flashBad := rfl
@[simp] theorem State.modMe_peerMem (s : State) (f : Ctx → Ctx) : (s.modMe f).peerMem = s.peerMem := rfl
@[simp] theorem State.modMe_posted (s : State) (f : Ctx → Ctx) : (s.modMe f).posted = s.posted := rfl
@[simp] theorem State.modMe_late (s : State) (f : Ctx → Ctx) : (s.modMe f).late = s.late := rfl
@[simp] theorem State.modMe_atomics (s : State) (f : Ctx → Ctx) : (s.modMe f).atomics = s.atomics := rfl
@[simp] theorem State.modMe_phops (s : State) (f : Ctx → Ctx) : (s.modMe f).phops = s.phops := rfl
@[simp] theorem State.modMe_cons (s : State) (f : Ctx → Ctx) : (s.modMe f).cons = s.cons := rfl
@[simp] theorem State.modMe_queues (s : State) (f : Ctx → Ctx) : (s.modMe f).queues = s.queues := rfl
@[simp] theorem State.modMe_replays (s : State) (f : Ctx → Ctx) : (s.modMe f).replays = s.replays := rfl
@[simp] theorem State.modMe_steps (s : State) (f : Ctx → Ctx) : (s.modMe f).steps = s.steps := rfl
@[simp] theorem State.modMe_faultsOut (s : State) (f : Ctx → Ctx) : (s.modMe f).faultsOut = s.faultsOut := rfl
@[simp] theorem State.modMe_eventsOut (s : State) (f : Ctx → Ctx) : (s.modMe f).eventsOut = s.eventsOut := rfl
@[simp] theorem State.modMe_flits (s : State) (f : Ctx → Ctx) : (s.modMe f).flits = s.flits := rfl
@[simp] theorem State.modMe_lastServed (s : State) (f : Ctx → Ctx) : (s.modMe f).lastServed = s.lastServed := rfl
@[simp] theorem State.modMe_lastSelect (s : State) (f : Ctx → Ctx) : (s.modMe f).lastSelect = s.lastSelect := rfl
@[simp] theorem State.modMe_lastPower (s : State) (f : Ctx → Ctx) : (s.modMe f).lastPower = s.lastPower := rfl
@[simp] theorem State.modMe_lastWindow (s : State) (f : Ctx → Ctx) : (s.modMe f).lastWindow = s.lastWindow := rfl
@[simp] theorem State.modMe_lastRound (s : State) (f : Ctx → Ctx) : (s.modMe f).lastRound = s.lastRound := rfl
@[simp] theorem State.modMe_lastBeat (s : State) (f : Ctx → Ctx) : (s.modMe f).lastBeat = s.lastBeat := rfl
@[simp] theorem State.modMe_pk (s : State) (f : Ctx → Ctx) : (s.modMe f).pk = s.pk := rfl
@[simp] theorem State.modMe_pace (s : State) (f : Ctx → Ctx) : (s.modMe f).pace = s.pace := rfl
@[simp] theorem State.modMe_tmons (s : State) (f : Ctx → Ctx) : (s.modMe f).tmons = s.tmons := rfl
@[simp] theorem State.modMe_poison (s : State) (f : Ctx → Ctx) : (s.modMe f).poison = s.poison := rfl
@[simp] theorem State.modMe_flash (s : State) (f : Ctx → Ctx) : (s.modMe f).flash = s.flash := rfl
@[simp] theorem State.modMe_staging (s : State) (f : Ctx → Ctx) : (s.modMe f).staging = s.staging := rfl
@[simp] theorem State.modMe_rejoins (s : State) (f : Ctx → Ctx) : (s.modMe f).rejoins = s.rejoins := rfl
@[simp] theorem State.modMe_freeRelayGen (s : State) (f : Ctx → Ctx) : (s.modMe f).freeRelayGen = s.freeRelayGen := rfl

@[simp] theorem State.modCore_now (s : State) (k : Nat) (f : Core → Core) : (s.modCore k f).now = s.now := rfl
@[simp] theorem State.modCore_tick (s : State) (k : Nat) (f : Core → Core) : (s.modCore k f).tick = s.tick := rfl
@[simp] theorem State.modCore_issue (s : State) (k : Nat) (f : Core → Core) : (s.modCore k f).issue = s.issue := rfl
@[simp] theorem State.modCore_inputs (s : State) (k : Nat) (f : Core → Core) : (s.modCore k f).inputs = s.inputs := rfl
@[simp] theorem State.modCore_outbox (s : State) (k : Nat) (f : Core → Core) : (s.modCore k f).outbox = s.outbox := rfl
@[simp] theorem State.modCore_free (s : State) (k : Nat) (f : Core → Core) : (s.modCore k f).free = s.free := rfl
@[simp] theorem State.modCore_nextId (s : State) (k : Nat) (f : Core → Core) : (s.modCore k f).nextId = s.nextId := rfl
@[simp] theorem State.modCore_ctxs (s : State) (k : Nat) (f : Core → Core) : (s.modCore k f).ctxs = s.ctxs := rfl
@[simp] theorem State.modCore_groups (s : State) (k : Nat) (f : Core → Core) : (s.modCore k f).groups = s.groups := rfl
@[simp] theorem State.modCore_serais (s : State) (k : Nat) (f : Core → Core) : (s.modCore k f).serais = s.serais := rfl
@[simp] theorem State.modCore_cmds (s : State) (k : Nat) (f : Core → Core) : (s.modCore k f).cmds = s.cmds := rfl
@[simp] theorem State.modCore_mem (s : State) (k : Nat) (f : Core → Core) : (s.modCore k f).mem = s.mem := rfl
@[simp] theorem State.modCore_hostMem (s : State) (k : Nat) (f : Core → Core) : (s.modCore k f).hostMem = s.hostMem := rfl
@[simp] theorem State.modCore_hostMem1 (s : State) (k : Nat) (f : Core → Core) : (s.modCore k f).hostMem1 = s.hostMem1 := rfl
@[simp] theorem State.modCore_acts (s : State) (k : Nat) (f : Core → Core) : (s.modCore k f).acts = s.acts := rfl
@[simp] theorem State.modCore_semWrites (s : State) (k : Nat) (f : Core → Core) : (s.modCore k f).semWrites = s.semWrites := rfl
@[simp] theorem State.modCore_flashBad (s : State) (k : Nat) (f : Core → Core) : (s.modCore k f).flashBad = s.flashBad := rfl
@[simp] theorem State.modCore_peerMem (s : State) (k : Nat) (f : Core → Core) : (s.modCore k f).peerMem = s.peerMem := rfl
@[simp] theorem State.modCore_posted (s : State) (k : Nat) (f : Core → Core) : (s.modCore k f).posted = s.posted := rfl
@[simp] theorem State.modCore_late (s : State) (k : Nat) (f : Core → Core) : (s.modCore k f).late = s.late := rfl
@[simp] theorem State.modCore_atomics (s : State) (k : Nat) (f : Core → Core) : (s.modCore k f).atomics = s.atomics := rfl
@[simp] theorem State.modCore_phops (s : State) (k : Nat) (f : Core → Core) : (s.modCore k f).phops = s.phops := rfl
@[simp] theorem State.modCore_cons (s : State) (k : Nat) (f : Core → Core) : (s.modCore k f).cons = s.cons := rfl
@[simp] theorem State.modCore_queues (s : State) (k : Nat) (f : Core → Core) : (s.modCore k f).queues = s.queues := rfl
@[simp] theorem State.modCore_replays (s : State) (k : Nat) (f : Core → Core) : (s.modCore k f).replays = s.replays := rfl
@[simp] theorem State.modCore_steps (s : State) (k : Nat) (f : Core → Core) : (s.modCore k f).steps = s.steps := rfl
@[simp] theorem State.modCore_faultsOut (s : State) (k : Nat) (f : Core → Core) : (s.modCore k f).faultsOut = s.faultsOut := rfl
@[simp] theorem State.modCore_eventsOut (s : State) (k : Nat) (f : Core → Core) : (s.modCore k f).eventsOut = s.eventsOut := rfl
@[simp] theorem State.modCore_flits (s : State) (k : Nat) (f : Core → Core) : (s.modCore k f).flits = s.flits := rfl
@[simp] theorem State.modCore_lastServed (s : State) (k : Nat) (f : Core → Core) : (s.modCore k f).lastServed = s.lastServed := rfl
@[simp] theorem State.modCore_lastSelect (s : State) (k : Nat) (f : Core → Core) : (s.modCore k f).lastSelect = s.lastSelect := rfl
@[simp] theorem State.modCore_lastPower (s : State) (k : Nat) (f : Core → Core) : (s.modCore k f).lastPower = s.lastPower := rfl
@[simp] theorem State.modCore_lastWindow (s : State) (k : Nat) (f : Core → Core) : (s.modCore k f).lastWindow = s.lastWindow := rfl
@[simp] theorem State.modCore_lastRound (s : State) (k : Nat) (f : Core → Core) : (s.modCore k f).lastRound = s.lastRound := rfl
@[simp] theorem State.modCore_lastBeat (s : State) (k : Nat) (f : Core → Core) : (s.modCore k f).lastBeat = s.lastBeat := rfl
@[simp] theorem State.modCore_pk (s : State) (k : Nat) (f : Core → Core) : (s.modCore k f).pk = s.pk := rfl
@[simp] theorem State.modCore_pace (s : State) (k : Nat) (f : Core → Core) : (s.modCore k f).pace = s.pace := rfl
@[simp] theorem State.modCore_tmons (s : State) (k : Nat) (f : Core → Core) : (s.modCore k f).tmons = s.tmons := rfl
@[simp] theorem State.modCore_poison (s : State) (k : Nat) (f : Core → Core) : (s.modCore k f).poison = s.poison := rfl
@[simp] theorem State.modCore_flash (s : State) (k : Nat) (f : Core → Core) : (s.modCore k f).flash = s.flash := rfl
@[simp] theorem State.modCore_staging (s : State) (k : Nat) (f : Core → Core) : (s.modCore k f).staging = s.staging := rfl
@[simp] theorem State.modCore_rejoins (s : State) (k : Nat) (f : Core → Core) : (s.modCore k f).rejoins = s.rejoins := rfl
@[simp] theorem State.modCore_freeRelayGen (s : State) (k : Nat) (f : Core → Core) : (s.modCore k f).freeRelayGen = s.freeRelayGen := rfl

@[simp] theorem State.modGroup_now (s : State) (g : Nat) (f : Group → Group) : (s.modGroup g f).now = s.now := rfl
@[simp] theorem State.modGroup_tick (s : State) (g : Nat) (f : Group → Group) : (s.modGroup g f).tick = s.tick := rfl
@[simp] theorem State.modGroup_issue (s : State) (g : Nat) (f : Group → Group) : (s.modGroup g f).issue = s.issue := rfl
@[simp] theorem State.modGroup_inputs (s : State) (g : Nat) (f : Group → Group) : (s.modGroup g f).inputs = s.inputs := rfl
@[simp] theorem State.modGroup_outbox (s : State) (g : Nat) (f : Group → Group) : (s.modGroup g f).outbox = s.outbox := rfl
@[simp] theorem State.modGroup_free (s : State) (g : Nat) (f : Group → Group) : (s.modGroup g f).free = s.free := rfl
@[simp] theorem State.modGroup_nextId (s : State) (g : Nat) (f : Group → Group) : (s.modGroup g f).nextId = s.nextId := rfl
@[simp] theorem State.modGroup_ctxs (s : State) (g : Nat) (f : Group → Group) : (s.modGroup g f).ctxs = s.ctxs := rfl
@[simp] theorem State.modGroup_cores (s : State) (g : Nat) (f : Group → Group) : (s.modGroup g f).cores = s.cores := rfl
@[simp] theorem State.modGroup_serais (s : State) (g : Nat) (f : Group → Group) : (s.modGroup g f).serais = s.serais := rfl
@[simp] theorem State.modGroup_cmds (s : State) (g : Nat) (f : Group → Group) : (s.modGroup g f).cmds = s.cmds := rfl
@[simp] theorem State.modGroup_mem (s : State) (g : Nat) (f : Group → Group) : (s.modGroup g f).mem = s.mem := rfl
@[simp] theorem State.modGroup_hostMem (s : State) (g : Nat) (f : Group → Group) : (s.modGroup g f).hostMem = s.hostMem := rfl
@[simp] theorem State.modGroup_hostMem1 (s : State) (g : Nat) (f : Group → Group) : (s.modGroup g f).hostMem1 = s.hostMem1 := rfl
@[simp] theorem State.modGroup_acts (s : State) (g : Nat) (f : Group → Group) : (s.modGroup g f).acts = s.acts := rfl
@[simp] theorem State.modGroup_semWrites (s : State) (g : Nat) (f : Group → Group) : (s.modGroup g f).semWrites = s.semWrites := rfl
@[simp] theorem State.modGroup_flashBad (s : State) (g : Nat) (f : Group → Group) : (s.modGroup g f).flashBad = s.flashBad := rfl
@[simp] theorem State.modGroup_peerMem (s : State) (g : Nat) (f : Group → Group) : (s.modGroup g f).peerMem = s.peerMem := rfl
@[simp] theorem State.modGroup_posted (s : State) (g : Nat) (f : Group → Group) : (s.modGroup g f).posted = s.posted := rfl
@[simp] theorem State.modGroup_late (s : State) (g : Nat) (f : Group → Group) : (s.modGroup g f).late = s.late := rfl
@[simp] theorem State.modGroup_atomics (s : State) (g : Nat) (f : Group → Group) : (s.modGroup g f).atomics = s.atomics := rfl
@[simp] theorem State.modGroup_phops (s : State) (g : Nat) (f : Group → Group) : (s.modGroup g f).phops = s.phops := rfl
@[simp] theorem State.modGroup_cons (s : State) (g : Nat) (f : Group → Group) : (s.modGroup g f).cons = s.cons := rfl
@[simp] theorem State.modGroup_queues (s : State) (g : Nat) (f : Group → Group) : (s.modGroup g f).queues = s.queues := rfl
@[simp] theorem State.modGroup_replays (s : State) (g : Nat) (f : Group → Group) : (s.modGroup g f).replays = s.replays := rfl
@[simp] theorem State.modGroup_steps (s : State) (g : Nat) (f : Group → Group) : (s.modGroup g f).steps = s.steps := rfl
@[simp] theorem State.modGroup_faultsOut (s : State) (g : Nat) (f : Group → Group) : (s.modGroup g f).faultsOut = s.faultsOut := rfl
@[simp] theorem State.modGroup_eventsOut (s : State) (g : Nat) (f : Group → Group) : (s.modGroup g f).eventsOut = s.eventsOut := rfl
@[simp] theorem State.modGroup_flits (s : State) (g : Nat) (f : Group → Group) : (s.modGroup g f).flits = s.flits := rfl
@[simp] theorem State.modGroup_lastServed (s : State) (g : Nat) (f : Group → Group) : (s.modGroup g f).lastServed = s.lastServed := rfl
@[simp] theorem State.modGroup_lastSelect (s : State) (g : Nat) (f : Group → Group) : (s.modGroup g f).lastSelect = s.lastSelect := rfl
@[simp] theorem State.modGroup_lastPower (s : State) (g : Nat) (f : Group → Group) : (s.modGroup g f).lastPower = s.lastPower := rfl
@[simp] theorem State.modGroup_lastWindow (s : State) (g : Nat) (f : Group → Group) : (s.modGroup g f).lastWindow = s.lastWindow := rfl
@[simp] theorem State.modGroup_lastRound (s : State) (g : Nat) (f : Group → Group) : (s.modGroup g f).lastRound = s.lastRound := rfl
@[simp] theorem State.modGroup_lastBeat (s : State) (g : Nat) (f : Group → Group) : (s.modGroup g f).lastBeat = s.lastBeat := rfl
@[simp] theorem State.modGroup_pk (s : State) (g : Nat) (f : Group → Group) : (s.modGroup g f).pk = s.pk := rfl
@[simp] theorem State.modGroup_pace (s : State) (g : Nat) (f : Group → Group) : (s.modGroup g f).pace = s.pace := rfl
@[simp] theorem State.modGroup_tmons (s : State) (g : Nat) (f : Group → Group) : (s.modGroup g f).tmons = s.tmons := rfl
@[simp] theorem State.modGroup_poison (s : State) (g : Nat) (f : Group → Group) : (s.modGroup g f).poison = s.poison := rfl
@[simp] theorem State.modGroup_flash (s : State) (g : Nat) (f : Group → Group) : (s.modGroup g f).flash = s.flash := rfl
@[simp] theorem State.modGroup_staging (s : State) (g : Nat) (f : Group → Group) : (s.modGroup g f).staging = s.staging := rfl
@[simp] theorem State.modGroup_rejoins (s : State) (g : Nat) (f : Group → Group) : (s.modGroup g f).rejoins = s.rejoins := rfl
@[simp] theorem State.modGroup_freeRelayGen (s : State) (g : Nat) (f : Group → Group) : (s.modGroup g f).freeRelayGen = s.freeRelayGen := rfl

@[simp] theorem State.modRelay_now (s : State) (g rb : Nat) (f : Relay → Relay) : (s.modRelay g rb f).now = s.now := rfl
@[simp] theorem State.modRelay_tick (s : State) (g rb : Nat) (f : Relay → Relay) : (s.modRelay g rb f).tick = s.tick := rfl
@[simp] theorem State.modRelay_issue (s : State) (g rb : Nat) (f : Relay → Relay) : (s.modRelay g rb f).issue = s.issue := rfl
@[simp] theorem State.modRelay_inputs (s : State) (g rb : Nat) (f : Relay → Relay) : (s.modRelay g rb f).inputs = s.inputs := rfl
@[simp] theorem State.modRelay_outbox (s : State) (g rb : Nat) (f : Relay → Relay) : (s.modRelay g rb f).outbox = s.outbox := rfl
@[simp] theorem State.modRelay_free (s : State) (g rb : Nat) (f : Relay → Relay) : (s.modRelay g rb f).free = s.free := rfl
@[simp] theorem State.modRelay_nextId (s : State) (g rb : Nat) (f : Relay → Relay) : (s.modRelay g rb f).nextId = s.nextId := rfl
@[simp] theorem State.modRelay_ctxs (s : State) (g rb : Nat) (f : Relay → Relay) : (s.modRelay g rb f).ctxs = s.ctxs := rfl
@[simp] theorem State.modRelay_cores (s : State) (g rb : Nat) (f : Relay → Relay) : (s.modRelay g rb f).cores = s.cores := rfl
@[simp] theorem State.modRelay_serais (s : State) (g rb : Nat) (f : Relay → Relay) : (s.modRelay g rb f).serais = s.serais := rfl
@[simp] theorem State.modRelay_cmds (s : State) (g rb : Nat) (f : Relay → Relay) : (s.modRelay g rb f).cmds = s.cmds := rfl
@[simp] theorem State.modRelay_mem (s : State) (g rb : Nat) (f : Relay → Relay) : (s.modRelay g rb f).mem = s.mem := rfl
@[simp] theorem State.modRelay_hostMem (s : State) (g rb : Nat) (f : Relay → Relay) : (s.modRelay g rb f).hostMem = s.hostMem := rfl
@[simp] theorem State.modRelay_hostMem1 (s : State) (g rb : Nat) (f : Relay → Relay) : (s.modRelay g rb f).hostMem1 = s.hostMem1 := rfl
@[simp] theorem State.modRelay_acts (s : State) (g rb : Nat) (f : Relay → Relay) : (s.modRelay g rb f).acts = s.acts := rfl
@[simp] theorem State.modRelay_semWrites (s : State) (g rb : Nat) (f : Relay → Relay) : (s.modRelay g rb f).semWrites = s.semWrites := rfl
@[simp] theorem State.modRelay_flashBad (s : State) (g rb : Nat) (f : Relay → Relay) : (s.modRelay g rb f).flashBad = s.flashBad := rfl
@[simp] theorem State.modRelay_peerMem (s : State) (g rb : Nat) (f : Relay → Relay) : (s.modRelay g rb f).peerMem = s.peerMem := rfl
@[simp] theorem State.modRelay_posted (s : State) (g rb : Nat) (f : Relay → Relay) : (s.modRelay g rb f).posted = s.posted := rfl
@[simp] theorem State.modRelay_late (s : State) (g rb : Nat) (f : Relay → Relay) : (s.modRelay g rb f).late = s.late := rfl
@[simp] theorem State.modRelay_atomics (s : State) (g rb : Nat) (f : Relay → Relay) : (s.modRelay g rb f).atomics = s.atomics := rfl
@[simp] theorem State.modRelay_phops (s : State) (g rb : Nat) (f : Relay → Relay) : (s.modRelay g rb f).phops = s.phops := rfl
@[simp] theorem State.modRelay_cons (s : State) (g rb : Nat) (f : Relay → Relay) : (s.modRelay g rb f).cons = s.cons := rfl
@[simp] theorem State.modRelay_queues (s : State) (g rb : Nat) (f : Relay → Relay) : (s.modRelay g rb f).queues = s.queues := rfl
@[simp] theorem State.modRelay_replays (s : State) (g rb : Nat) (f : Relay → Relay) : (s.modRelay g rb f).replays = s.replays := rfl
@[simp] theorem State.modRelay_steps (s : State) (g rb : Nat) (f : Relay → Relay) : (s.modRelay g rb f).steps = s.steps := rfl
@[simp] theorem State.modRelay_faultsOut (s : State) (g rb : Nat) (f : Relay → Relay) : (s.modRelay g rb f).faultsOut = s.faultsOut := rfl
@[simp] theorem State.modRelay_eventsOut (s : State) (g rb : Nat) (f : Relay → Relay) : (s.modRelay g rb f).eventsOut = s.eventsOut := rfl
@[simp] theorem State.modRelay_flits (s : State) (g rb : Nat) (f : Relay → Relay) : (s.modRelay g rb f).flits = s.flits := rfl
@[simp] theorem State.modRelay_lastServed (s : State) (g rb : Nat) (f : Relay → Relay) : (s.modRelay g rb f).lastServed = s.lastServed := rfl
@[simp] theorem State.modRelay_lastSelect (s : State) (g rb : Nat) (f : Relay → Relay) : (s.modRelay g rb f).lastSelect = s.lastSelect := rfl
@[simp] theorem State.modRelay_lastPower (s : State) (g rb : Nat) (f : Relay → Relay) : (s.modRelay g rb f).lastPower = s.lastPower := rfl
@[simp] theorem State.modRelay_lastWindow (s : State) (g rb : Nat) (f : Relay → Relay) : (s.modRelay g rb f).lastWindow = s.lastWindow := rfl
@[simp] theorem State.modRelay_lastRound (s : State) (g rb : Nat) (f : Relay → Relay) : (s.modRelay g rb f).lastRound = s.lastRound := rfl
@[simp] theorem State.modRelay_lastBeat (s : State) (g rb : Nat) (f : Relay → Relay) : (s.modRelay g rb f).lastBeat = s.lastBeat := rfl
@[simp] theorem State.modRelay_pk (s : State) (g rb : Nat) (f : Relay → Relay) : (s.modRelay g rb f).pk = s.pk := rfl
@[simp] theorem State.modRelay_pace (s : State) (g rb : Nat) (f : Relay → Relay) : (s.modRelay g rb f).pace = s.pace := rfl
@[simp] theorem State.modRelay_tmons (s : State) (g rb : Nat) (f : Relay → Relay) : (s.modRelay g rb f).tmons = s.tmons := rfl
@[simp] theorem State.modRelay_poison (s : State) (g rb : Nat) (f : Relay → Relay) : (s.modRelay g rb f).poison = s.poison := rfl
@[simp] theorem State.modRelay_flash (s : State) (g rb : Nat) (f : Relay → Relay) : (s.modRelay g rb f).flash = s.flash := rfl
@[simp] theorem State.modRelay_staging (s : State) (g rb : Nat) (f : Relay → Relay) : (s.modRelay g rb f).staging = s.staging := rfl
@[simp] theorem State.modRelay_rejoins (s : State) (g rb : Nat) (f : Relay → Relay) : (s.modRelay g rb f).rejoins = s.rejoins := rfl
@[simp] theorem State.modRelay_freeRelayGen (s : State) (g rb : Nat) (f : Relay → Relay) : (s.modRelay g rb f).freeRelayGen = s.freeRelayGen := rfl

@[simp] theorem State.semPut_now (s : State) (g core n v : Nat) (sat : Bool) : (s.semPut g core n v sat).now = s.now := rfl
@[simp] theorem State.semPut_tick (s : State) (g core n v : Nat) (sat : Bool) : (s.semPut g core n v sat).tick = s.tick := rfl
@[simp] theorem State.semPut_issue (s : State) (g core n v : Nat) (sat : Bool) : (s.semPut g core n v sat).issue = s.issue := rfl
@[simp] theorem State.semPut_inputs (s : State) (g core n v : Nat) (sat : Bool) : (s.semPut g core n v sat).inputs = s.inputs := rfl
@[simp] theorem State.semPut_outbox (s : State) (g core n v : Nat) (sat : Bool) : (s.semPut g core n v sat).outbox = s.outbox := rfl
@[simp] theorem State.semPut_free (s : State) (g core n v : Nat) (sat : Bool) : (s.semPut g core n v sat).free = s.free := rfl
@[simp] theorem State.semPut_nextId (s : State) (g core n v : Nat) (sat : Bool) : (s.semPut g core n v sat).nextId = s.nextId := rfl
@[simp] theorem State.semPut_ctxs (s : State) (g core n v : Nat) (sat : Bool) : (s.semPut g core n v sat).ctxs = s.ctxs := rfl
@[simp] theorem State.semPut_cores (s : State) (g core n v : Nat) (sat : Bool) : (s.semPut g core n v sat).cores = s.cores := rfl
@[simp] theorem State.semPut_serais (s : State) (g core n v : Nat) (sat : Bool) : (s.semPut g core n v sat).serais = s.serais := rfl
@[simp] theorem State.semPut_cmds (s : State) (g core n v : Nat) (sat : Bool) : (s.semPut g core n v sat).cmds = s.cmds := rfl
@[simp] theorem State.semPut_mem (s : State) (g core n v : Nat) (sat : Bool) : (s.semPut g core n v sat).mem = s.mem := rfl
@[simp] theorem State.semPut_hostMem (s : State) (g core n v : Nat) (sat : Bool) : (s.semPut g core n v sat).hostMem = s.hostMem := rfl
@[simp] theorem State.semPut_hostMem1 (s : State) (g core n v : Nat) (sat : Bool) : (s.semPut g core n v sat).hostMem1 = s.hostMem1 := rfl
@[simp] theorem State.semPut_acts (s : State) (g core n v : Nat) (sat : Bool) : (s.semPut g core n v sat).acts = s.acts := rfl
@[simp] theorem State.semPut_semWrites (s : State) (g core n v : Nat) (sat : Bool) : (s.semPut g core n v sat).semWrites = s.semWrites := rfl
@[simp] theorem State.semPut_flashBad (s : State) (g core n v : Nat) (sat : Bool) : (s.semPut g core n v sat).flashBad = s.flashBad := rfl
@[simp] theorem State.semPut_peerMem (s : State) (g core n v : Nat) (sat : Bool) : (s.semPut g core n v sat).peerMem = s.peerMem := rfl
@[simp] theorem State.semPut_posted (s : State) (g core n v : Nat) (sat : Bool) : (s.semPut g core n v sat).posted = s.posted := rfl
@[simp] theorem State.semPut_late (s : State) (g core n v : Nat) (sat : Bool) : (s.semPut g core n v sat).late = s.late := rfl
@[simp] theorem State.semPut_atomics (s : State) (g core n v : Nat) (sat : Bool) : (s.semPut g core n v sat).atomics = s.atomics := rfl
@[simp] theorem State.semPut_phops (s : State) (g core n v : Nat) (sat : Bool) : (s.semPut g core n v sat).phops = s.phops := rfl
@[simp] theorem State.semPut_cons (s : State) (g core n v : Nat) (sat : Bool) : (s.semPut g core n v sat).cons = s.cons := rfl
@[simp] theorem State.semPut_queues (s : State) (g core n v : Nat) (sat : Bool) : (s.semPut g core n v sat).queues = s.queues := rfl
@[simp] theorem State.semPut_replays (s : State) (g core n v : Nat) (sat : Bool) : (s.semPut g core n v sat).replays = s.replays := rfl
@[simp] theorem State.semPut_steps (s : State) (g core n v : Nat) (sat : Bool) : (s.semPut g core n v sat).steps = s.steps := rfl
@[simp] theorem State.semPut_faultsOut (s : State) (g core n v : Nat) (sat : Bool) : (s.semPut g core n v sat).faultsOut = s.faultsOut := rfl
@[simp] theorem State.semPut_eventsOut (s : State) (g core n v : Nat) (sat : Bool) : (s.semPut g core n v sat).eventsOut = s.eventsOut := rfl
@[simp] theorem State.semPut_flits (s : State) (g core n v : Nat) (sat : Bool) : (s.semPut g core n v sat).flits = s.flits := rfl
@[simp] theorem State.semPut_lastServed (s : State) (g core n v : Nat) (sat : Bool) : (s.semPut g core n v sat).lastServed = s.lastServed := rfl
@[simp] theorem State.semPut_lastSelect (s : State) (g core n v : Nat) (sat : Bool) : (s.semPut g core n v sat).lastSelect = s.lastSelect := rfl
@[simp] theorem State.semPut_lastPower (s : State) (g core n v : Nat) (sat : Bool) : (s.semPut g core n v sat).lastPower = s.lastPower := rfl
@[simp] theorem State.semPut_lastWindow (s : State) (g core n v : Nat) (sat : Bool) : (s.semPut g core n v sat).lastWindow = s.lastWindow := rfl
@[simp] theorem State.semPut_lastRound (s : State) (g core n v : Nat) (sat : Bool) : (s.semPut g core n v sat).lastRound = s.lastRound := rfl
@[simp] theorem State.semPut_lastBeat (s : State) (g core n v : Nat) (sat : Bool) : (s.semPut g core n v sat).lastBeat = s.lastBeat := rfl
@[simp] theorem State.semPut_pk (s : State) (g core n v : Nat) (sat : Bool) : (s.semPut g core n v sat).pk = s.pk := rfl
@[simp] theorem State.semPut_pace (s : State) (g core n v : Nat) (sat : Bool) : (s.semPut g core n v sat).pace = s.pace := rfl
@[simp] theorem State.semPut_tmons (s : State) (g core n v : Nat) (sat : Bool) : (s.semPut g core n v sat).tmons = s.tmons := rfl
@[simp] theorem State.semPut_poison (s : State) (g core n v : Nat) (sat : Bool) : (s.semPut g core n v sat).poison = s.poison := rfl
@[simp] theorem State.semPut_flash (s : State) (g core n v : Nat) (sat : Bool) : (s.semPut g core n v sat).flash = s.flash := rfl
@[simp] theorem State.semPut_staging (s : State) (g core n v : Nat) (sat : Bool) : (s.semPut g core n v sat).staging = s.staging := rfl
@[simp] theorem State.semPut_rejoins (s : State) (g core n v : Nat) (sat : Bool) : (s.semPut g core n v sat).rejoins = s.rejoins := rfl
@[simp] theorem State.semPut_freeRelayGen (s : State) (g core n v : Nat) (sat : Bool) : (s.semPut g core n v sat).freeRelayGen = s.freeRelayGen := rfl

@[simp] theorem State.semAssign_now (s : State) (g core n : Nat) (x : Int) : (s.semAssign g core n x).now = s.now := rfl
@[simp] theorem State.semAssign_tick (s : State) (g core n : Nat) (x : Int) : (s.semAssign g core n x).tick = s.tick := rfl
@[simp] theorem State.semAssign_issue (s : State) (g core n : Nat) (x : Int) : (s.semAssign g core n x).issue = s.issue := rfl
@[simp] theorem State.semAssign_inputs (s : State) (g core n : Nat) (x : Int) : (s.semAssign g core n x).inputs = s.inputs := rfl
@[simp] theorem State.semAssign_outbox (s : State) (g core n : Nat) (x : Int) : (s.semAssign g core n x).outbox = s.outbox := rfl
@[simp] theorem State.semAssign_free (s : State) (g core n : Nat) (x : Int) : (s.semAssign g core n x).free = s.free := rfl
@[simp] theorem State.semAssign_nextId (s : State) (g core n : Nat) (x : Int) : (s.semAssign g core n x).nextId = s.nextId := rfl
@[simp] theorem State.semAssign_ctxs (s : State) (g core n : Nat) (x : Int) : (s.semAssign g core n x).ctxs = s.ctxs := rfl
@[simp] theorem State.semAssign_cores (s : State) (g core n : Nat) (x : Int) : (s.semAssign g core n x).cores = s.cores := rfl
@[simp] theorem State.semAssign_serais (s : State) (g core n : Nat) (x : Int) : (s.semAssign g core n x).serais = s.serais := rfl
@[simp] theorem State.semAssign_cmds (s : State) (g core n : Nat) (x : Int) : (s.semAssign g core n x).cmds = s.cmds := rfl
@[simp] theorem State.semAssign_mem (s : State) (g core n : Nat) (x : Int) : (s.semAssign g core n x).mem = s.mem := rfl
@[simp] theorem State.semAssign_hostMem (s : State) (g core n : Nat) (x : Int) : (s.semAssign g core n x).hostMem = s.hostMem := rfl
@[simp] theorem State.semAssign_hostMem1 (s : State) (g core n : Nat) (x : Int) : (s.semAssign g core n x).hostMem1 = s.hostMem1 := rfl
@[simp] theorem State.semAssign_acts (s : State) (g core n : Nat) (x : Int) : (s.semAssign g core n x).acts = s.acts := rfl
@[simp] theorem State.semAssign_semWrites (s : State) (g core n : Nat) (x : Int) : (s.semAssign g core n x).semWrites = s.semWrites := rfl
@[simp] theorem State.semAssign_flashBad (s : State) (g core n : Nat) (x : Int) : (s.semAssign g core n x).flashBad = s.flashBad := rfl
@[simp] theorem State.semAssign_peerMem (s : State) (g core n : Nat) (x : Int) : (s.semAssign g core n x).peerMem = s.peerMem := rfl
@[simp] theorem State.semAssign_posted (s : State) (g core n : Nat) (x : Int) : (s.semAssign g core n x).posted = s.posted := rfl
@[simp] theorem State.semAssign_late (s : State) (g core n : Nat) (x : Int) : (s.semAssign g core n x).late = s.late := rfl
@[simp] theorem State.semAssign_atomics (s : State) (g core n : Nat) (x : Int) : (s.semAssign g core n x).atomics = s.atomics := rfl
@[simp] theorem State.semAssign_phops (s : State) (g core n : Nat) (x : Int) : (s.semAssign g core n x).phops = s.phops := rfl
@[simp] theorem State.semAssign_cons (s : State) (g core n : Nat) (x : Int) : (s.semAssign g core n x).cons = s.cons := rfl
@[simp] theorem State.semAssign_queues (s : State) (g core n : Nat) (x : Int) : (s.semAssign g core n x).queues = s.queues := rfl
@[simp] theorem State.semAssign_replays (s : State) (g core n : Nat) (x : Int) : (s.semAssign g core n x).replays = s.replays := rfl
@[simp] theorem State.semAssign_steps (s : State) (g core n : Nat) (x : Int) : (s.semAssign g core n x).steps = s.steps := rfl
@[simp] theorem State.semAssign_faultsOut (s : State) (g core n : Nat) (x : Int) : (s.semAssign g core n x).faultsOut = s.faultsOut := rfl
@[simp] theorem State.semAssign_eventsOut (s : State) (g core n : Nat) (x : Int) : (s.semAssign g core n x).eventsOut = s.eventsOut := rfl
@[simp] theorem State.semAssign_flits (s : State) (g core n : Nat) (x : Int) : (s.semAssign g core n x).flits = s.flits := rfl
@[simp] theorem State.semAssign_lastServed (s : State) (g core n : Nat) (x : Int) : (s.semAssign g core n x).lastServed = s.lastServed := rfl
@[simp] theorem State.semAssign_lastSelect (s : State) (g core n : Nat) (x : Int) : (s.semAssign g core n x).lastSelect = s.lastSelect := rfl
@[simp] theorem State.semAssign_lastPower (s : State) (g core n : Nat) (x : Int) : (s.semAssign g core n x).lastPower = s.lastPower := rfl
@[simp] theorem State.semAssign_lastWindow (s : State) (g core n : Nat) (x : Int) : (s.semAssign g core n x).lastWindow = s.lastWindow := rfl
@[simp] theorem State.semAssign_lastRound (s : State) (g core n : Nat) (x : Int) : (s.semAssign g core n x).lastRound = s.lastRound := rfl
@[simp] theorem State.semAssign_lastBeat (s : State) (g core n : Nat) (x : Int) : (s.semAssign g core n x).lastBeat = s.lastBeat := rfl
@[simp] theorem State.semAssign_pk (s : State) (g core n : Nat) (x : Int) : (s.semAssign g core n x).pk = s.pk := rfl
@[simp] theorem State.semAssign_pace (s : State) (g core n : Nat) (x : Int) : (s.semAssign g core n x).pace = s.pace := rfl
@[simp] theorem State.semAssign_tmons (s : State) (g core n : Nat) (x : Int) : (s.semAssign g core n x).tmons = s.tmons := rfl
@[simp] theorem State.semAssign_poison (s : State) (g core n : Nat) (x : Int) : (s.semAssign g core n x).poison = s.poison := rfl
@[simp] theorem State.semAssign_flash (s : State) (g core n : Nat) (x : Int) : (s.semAssign g core n x).flash = s.flash := rfl
@[simp] theorem State.semAssign_staging (s : State) (g core n : Nat) (x : Int) : (s.semAssign g core n x).staging = s.staging := rfl
@[simp] theorem State.semAssign_rejoins (s : State) (g core n : Nat) (x : Int) : (s.semAssign g core n x).rejoins = s.rejoins := rfl
@[simp] theorem State.semAssign_freeRelayGen (s : State) (g core n : Nat) (x : Int) : (s.semAssign g core n x).freeRelayGen = s.freeRelayGen := rfl

@[simp] theorem State.semChange_now (s : State) (g core n : Nat) (d : Int) : (s.semChange g core n d).now = s.now := rfl
@[simp] theorem State.semChange_tick (s : State) (g core n : Nat) (d : Int) : (s.semChange g core n d).tick = s.tick := rfl
@[simp] theorem State.semChange_issue (s : State) (g core n : Nat) (d : Int) : (s.semChange g core n d).issue = s.issue := rfl
@[simp] theorem State.semChange_inputs (s : State) (g core n : Nat) (d : Int) : (s.semChange g core n d).inputs = s.inputs := rfl
@[simp] theorem State.semChange_outbox (s : State) (g core n : Nat) (d : Int) : (s.semChange g core n d).outbox = s.outbox := rfl
@[simp] theorem State.semChange_free (s : State) (g core n : Nat) (d : Int) : (s.semChange g core n d).free = s.free := rfl
@[simp] theorem State.semChange_nextId (s : State) (g core n : Nat) (d : Int) : (s.semChange g core n d).nextId = s.nextId := rfl
@[simp] theorem State.semChange_ctxs (s : State) (g core n : Nat) (d : Int) : (s.semChange g core n d).ctxs = s.ctxs := rfl
@[simp] theorem State.semChange_cores (s : State) (g core n : Nat) (d : Int) : (s.semChange g core n d).cores = s.cores := rfl
@[simp] theorem State.semChange_serais (s : State) (g core n : Nat) (d : Int) : (s.semChange g core n d).serais = s.serais := rfl
@[simp] theorem State.semChange_cmds (s : State) (g core n : Nat) (d : Int) : (s.semChange g core n d).cmds = s.cmds := rfl
@[simp] theorem State.semChange_mem (s : State) (g core n : Nat) (d : Int) : (s.semChange g core n d).mem = s.mem := rfl
@[simp] theorem State.semChange_hostMem (s : State) (g core n : Nat) (d : Int) : (s.semChange g core n d).hostMem = s.hostMem := rfl
@[simp] theorem State.semChange_hostMem1 (s : State) (g core n : Nat) (d : Int) : (s.semChange g core n d).hostMem1 = s.hostMem1 := rfl
@[simp] theorem State.semChange_acts (s : State) (g core n : Nat) (d : Int) : (s.semChange g core n d).acts = s.acts := rfl
@[simp] theorem State.semChange_semWrites (s : State) (g core n : Nat) (d : Int) : (s.semChange g core n d).semWrites = s.semWrites := rfl
@[simp] theorem State.semChange_flashBad (s : State) (g core n : Nat) (d : Int) : (s.semChange g core n d).flashBad = s.flashBad := rfl
@[simp] theorem State.semChange_peerMem (s : State) (g core n : Nat) (d : Int) : (s.semChange g core n d).peerMem = s.peerMem := rfl
@[simp] theorem State.semChange_posted (s : State) (g core n : Nat) (d : Int) : (s.semChange g core n d).posted = s.posted := rfl
@[simp] theorem State.semChange_late (s : State) (g core n : Nat) (d : Int) : (s.semChange g core n d).late = s.late := rfl
@[simp] theorem State.semChange_atomics (s : State) (g core n : Nat) (d : Int) : (s.semChange g core n d).atomics = s.atomics := rfl
@[simp] theorem State.semChange_phops (s : State) (g core n : Nat) (d : Int) : (s.semChange g core n d).phops = s.phops := rfl
@[simp] theorem State.semChange_cons (s : State) (g core n : Nat) (d : Int) : (s.semChange g core n d).cons = s.cons := rfl
@[simp] theorem State.semChange_queues (s : State) (g core n : Nat) (d : Int) : (s.semChange g core n d).queues = s.queues := rfl
@[simp] theorem State.semChange_replays (s : State) (g core n : Nat) (d : Int) : (s.semChange g core n d).replays = s.replays := rfl
@[simp] theorem State.semChange_steps (s : State) (g core n : Nat) (d : Int) : (s.semChange g core n d).steps = s.steps := rfl
@[simp] theorem State.semChange_faultsOut (s : State) (g core n : Nat) (d : Int) : (s.semChange g core n d).faultsOut = s.faultsOut := rfl
@[simp] theorem State.semChange_eventsOut (s : State) (g core n : Nat) (d : Int) : (s.semChange g core n d).eventsOut = s.eventsOut := rfl
@[simp] theorem State.semChange_flits (s : State) (g core n : Nat) (d : Int) : (s.semChange g core n d).flits = s.flits := rfl
@[simp] theorem State.semChange_lastServed (s : State) (g core n : Nat) (d : Int) : (s.semChange g core n d).lastServed = s.lastServed := rfl
@[simp] theorem State.semChange_lastSelect (s : State) (g core n : Nat) (d : Int) : (s.semChange g core n d).lastSelect = s.lastSelect := rfl
@[simp] theorem State.semChange_lastPower (s : State) (g core n : Nat) (d : Int) : (s.semChange g core n d).lastPower = s.lastPower := rfl
@[simp] theorem State.semChange_lastWindow (s : State) (g core n : Nat) (d : Int) : (s.semChange g core n d).lastWindow = s.lastWindow := rfl
@[simp] theorem State.semChange_lastRound (s : State) (g core n : Nat) (d : Int) : (s.semChange g core n d).lastRound = s.lastRound := rfl
@[simp] theorem State.semChange_lastBeat (s : State) (g core n : Nat) (d : Int) : (s.semChange g core n d).lastBeat = s.lastBeat := rfl
@[simp] theorem State.semChange_pk (s : State) (g core n : Nat) (d : Int) : (s.semChange g core n d).pk = s.pk := rfl
@[simp] theorem State.semChange_pace (s : State) (g core n : Nat) (d : Int) : (s.semChange g core n d).pace = s.pace := rfl
@[simp] theorem State.semChange_tmons (s : State) (g core n : Nat) (d : Int) : (s.semChange g core n d).tmons = s.tmons := rfl
@[simp] theorem State.semChange_poison (s : State) (g core n : Nat) (d : Int) : (s.semChange g core n d).poison = s.poison := rfl
@[simp] theorem State.semChange_flash (s : State) (g core n : Nat) (d : Int) : (s.semChange g core n d).flash = s.flash := rfl
@[simp] theorem State.semChange_staging (s : State) (g core n : Nat) (d : Int) : (s.semChange g core n d).staging = s.staging := rfl
@[simp] theorem State.semChange_rejoins (s : State) (g core n : Nat) (d : Int) : (s.semChange g core n d).rejoins = s.rejoins := rfl
@[simp] theorem State.semChange_freeRelayGen (s : State) (g core n : Nat) (d : Int) : (s.semChange g core n d).freeRelayGen = s.freeRelayGen := rfl

@[simp] theorem State.modSerai_now (s : State) (k : Nat) (f : Serai → Serai) : (s.modSerai k f).now = s.now := rfl
@[simp] theorem State.modSerai_tick (s : State) (k : Nat) (f : Serai → Serai) : (s.modSerai k f).tick = s.tick := rfl
@[simp] theorem State.modSerai_issue (s : State) (k : Nat) (f : Serai → Serai) : (s.modSerai k f).issue = s.issue := rfl
@[simp] theorem State.modSerai_inputs (s : State) (k : Nat) (f : Serai → Serai) : (s.modSerai k f).inputs = s.inputs := rfl
@[simp] theorem State.modSerai_outbox (s : State) (k : Nat) (f : Serai → Serai) : (s.modSerai k f).outbox = s.outbox := rfl
@[simp] theorem State.modSerai_free (s : State) (k : Nat) (f : Serai → Serai) : (s.modSerai k f).free = s.free := rfl
@[simp] theorem State.modSerai_nextId (s : State) (k : Nat) (f : Serai → Serai) : (s.modSerai k f).nextId = s.nextId := rfl
@[simp] theorem State.modSerai_ctxs (s : State) (k : Nat) (f : Serai → Serai) : (s.modSerai k f).ctxs = s.ctxs := rfl
@[simp] theorem State.modSerai_cores (s : State) (k : Nat) (f : Serai → Serai) : (s.modSerai k f).cores = s.cores := rfl
@[simp] theorem State.modSerai_groups (s : State) (k : Nat) (f : Serai → Serai) : (s.modSerai k f).groups = s.groups := rfl
@[simp] theorem State.modSerai_cmds (s : State) (k : Nat) (f : Serai → Serai) : (s.modSerai k f).cmds = s.cmds := rfl
@[simp] theorem State.modSerai_mem (s : State) (k : Nat) (f : Serai → Serai) : (s.modSerai k f).mem = s.mem := rfl
@[simp] theorem State.modSerai_hostMem (s : State) (k : Nat) (f : Serai → Serai) : (s.modSerai k f).hostMem = s.hostMem := rfl
@[simp] theorem State.modSerai_hostMem1 (s : State) (k : Nat) (f : Serai → Serai) : (s.modSerai k f).hostMem1 = s.hostMem1 := rfl
@[simp] theorem State.modSerai_acts (s : State) (k : Nat) (f : Serai → Serai) : (s.modSerai k f).acts = s.acts := rfl
@[simp] theorem State.modSerai_semWrites (s : State) (k : Nat) (f : Serai → Serai) : (s.modSerai k f).semWrites = s.semWrites := rfl
@[simp] theorem State.modSerai_flashBad (s : State) (k : Nat) (f : Serai → Serai) : (s.modSerai k f).flashBad = s.flashBad := rfl
@[simp] theorem State.modSerai_peerMem (s : State) (k : Nat) (f : Serai → Serai) : (s.modSerai k f).peerMem = s.peerMem := rfl
@[simp] theorem State.modSerai_posted (s : State) (k : Nat) (f : Serai → Serai) : (s.modSerai k f).posted = s.posted := rfl
@[simp] theorem State.modSerai_late (s : State) (k : Nat) (f : Serai → Serai) : (s.modSerai k f).late = s.late := rfl
@[simp] theorem State.modSerai_atomics (s : State) (k : Nat) (f : Serai → Serai) : (s.modSerai k f).atomics = s.atomics := rfl
@[simp] theorem State.modSerai_phops (s : State) (k : Nat) (f : Serai → Serai) : (s.modSerai k f).phops = s.phops := rfl
@[simp] theorem State.modSerai_cons (s : State) (k : Nat) (f : Serai → Serai) : (s.modSerai k f).cons = s.cons := rfl
@[simp] theorem State.modSerai_queues (s : State) (k : Nat) (f : Serai → Serai) : (s.modSerai k f).queues = s.queues := rfl
@[simp] theorem State.modSerai_replays (s : State) (k : Nat) (f : Serai → Serai) : (s.modSerai k f).replays = s.replays := rfl
@[simp] theorem State.modSerai_steps (s : State) (k : Nat) (f : Serai → Serai) : (s.modSerai k f).steps = s.steps := rfl
@[simp] theorem State.modSerai_faultsOut (s : State) (k : Nat) (f : Serai → Serai) : (s.modSerai k f).faultsOut = s.faultsOut := rfl
@[simp] theorem State.modSerai_eventsOut (s : State) (k : Nat) (f : Serai → Serai) : (s.modSerai k f).eventsOut = s.eventsOut := rfl
@[simp] theorem State.modSerai_flits (s : State) (k : Nat) (f : Serai → Serai) : (s.modSerai k f).flits = s.flits := rfl
@[simp] theorem State.modSerai_lastServed (s : State) (k : Nat) (f : Serai → Serai) : (s.modSerai k f).lastServed = s.lastServed := rfl
@[simp] theorem State.modSerai_lastSelect (s : State) (k : Nat) (f : Serai → Serai) : (s.modSerai k f).lastSelect = s.lastSelect := rfl
@[simp] theorem State.modSerai_lastPower (s : State) (k : Nat) (f : Serai → Serai) : (s.modSerai k f).lastPower = s.lastPower := rfl
@[simp] theorem State.modSerai_lastWindow (s : State) (k : Nat) (f : Serai → Serai) : (s.modSerai k f).lastWindow = s.lastWindow := rfl
@[simp] theorem State.modSerai_lastRound (s : State) (k : Nat) (f : Serai → Serai) : (s.modSerai k f).lastRound = s.lastRound := rfl
@[simp] theorem State.modSerai_lastBeat (s : State) (k : Nat) (f : Serai → Serai) : (s.modSerai k f).lastBeat = s.lastBeat := rfl
@[simp] theorem State.modSerai_pk (s : State) (k : Nat) (f : Serai → Serai) : (s.modSerai k f).pk = s.pk := rfl
@[simp] theorem State.modSerai_pace (s : State) (k : Nat) (f : Serai → Serai) : (s.modSerai k f).pace = s.pace := rfl
@[simp] theorem State.modSerai_tmons (s : State) (k : Nat) (f : Serai → Serai) : (s.modSerai k f).tmons = s.tmons := rfl
@[simp] theorem State.modSerai_poison (s : State) (k : Nat) (f : Serai → Serai) : (s.modSerai k f).poison = s.poison := rfl
@[simp] theorem State.modSerai_flash (s : State) (k : Nat) (f : Serai → Serai) : (s.modSerai k f).flash = s.flash := rfl
@[simp] theorem State.modSerai_staging (s : State) (k : Nat) (f : Serai → Serai) : (s.modSerai k f).staging = s.staging := rfl
@[simp] theorem State.modSerai_rejoins (s : State) (k : Nat) (f : Serai → Serai) : (s.modSerai k f).rejoins = s.rejoins := rfl
@[simp] theorem State.modSerai_freeRelayGen (s : State) (k : Nat) (f : Serai → Serai) : (s.modSerai k f).freeRelayGen = s.freeRelayGen := rfl

@[simp] theorem State.modQueue_now (s : State) (q : Nat) (f : Queue → Queue) : (s.modQueue q f).now = s.now := rfl
@[simp] theorem State.modQueue_tick (s : State) (q : Nat) (f : Queue → Queue) : (s.modQueue q f).tick = s.tick := rfl
@[simp] theorem State.modQueue_issue (s : State) (q : Nat) (f : Queue → Queue) : (s.modQueue q f).issue = s.issue := rfl
@[simp] theorem State.modQueue_inputs (s : State) (q : Nat) (f : Queue → Queue) : (s.modQueue q f).inputs = s.inputs := rfl
@[simp] theorem State.modQueue_outbox (s : State) (q : Nat) (f : Queue → Queue) : (s.modQueue q f).outbox = s.outbox := rfl
@[simp] theorem State.modQueue_free (s : State) (q : Nat) (f : Queue → Queue) : (s.modQueue q f).free = s.free := rfl
@[simp] theorem State.modQueue_nextId (s : State) (q : Nat) (f : Queue → Queue) : (s.modQueue q f).nextId = s.nextId := rfl
@[simp] theorem State.modQueue_ctxs (s : State) (q : Nat) (f : Queue → Queue) : (s.modQueue q f).ctxs = s.ctxs := rfl
@[simp] theorem State.modQueue_cores (s : State) (q : Nat) (f : Queue → Queue) : (s.modQueue q f).cores = s.cores := rfl
@[simp] theorem State.modQueue_groups (s : State) (q : Nat) (f : Queue → Queue) : (s.modQueue q f).groups = s.groups := rfl
@[simp] theorem State.modQueue_serais (s : State) (q : Nat) (f : Queue → Queue) : (s.modQueue q f).serais = s.serais := rfl
@[simp] theorem State.modQueue_cmds (s : State) (q : Nat) (f : Queue → Queue) : (s.modQueue q f).cmds = s.cmds := rfl
@[simp] theorem State.modQueue_mem (s : State) (q : Nat) (f : Queue → Queue) : (s.modQueue q f).mem = s.mem := rfl
@[simp] theorem State.modQueue_hostMem (s : State) (q : Nat) (f : Queue → Queue) : (s.modQueue q f).hostMem = s.hostMem := rfl
@[simp] theorem State.modQueue_hostMem1 (s : State) (q : Nat) (f : Queue → Queue) : (s.modQueue q f).hostMem1 = s.hostMem1 := rfl
@[simp] theorem State.modQueue_acts (s : State) (q : Nat) (f : Queue → Queue) : (s.modQueue q f).acts = s.acts := rfl
@[simp] theorem State.modQueue_semWrites (s : State) (q : Nat) (f : Queue → Queue) : (s.modQueue q f).semWrites = s.semWrites := rfl
@[simp] theorem State.modQueue_flashBad (s : State) (q : Nat) (f : Queue → Queue) : (s.modQueue q f).flashBad = s.flashBad := rfl
@[simp] theorem State.modQueue_peerMem (s : State) (q : Nat) (f : Queue → Queue) : (s.modQueue q f).peerMem = s.peerMem := rfl
@[simp] theorem State.modQueue_posted (s : State) (q : Nat) (f : Queue → Queue) : (s.modQueue q f).posted = s.posted := rfl
@[simp] theorem State.modQueue_late (s : State) (q : Nat) (f : Queue → Queue) : (s.modQueue q f).late = s.late := rfl
@[simp] theorem State.modQueue_atomics (s : State) (q : Nat) (f : Queue → Queue) : (s.modQueue q f).atomics = s.atomics := rfl
@[simp] theorem State.modQueue_phops (s : State) (q : Nat) (f : Queue → Queue) : (s.modQueue q f).phops = s.phops := rfl
@[simp] theorem State.modQueue_cons (s : State) (q : Nat) (f : Queue → Queue) : (s.modQueue q f).cons = s.cons := rfl
@[simp] theorem State.modQueue_replays (s : State) (q : Nat) (f : Queue → Queue) : (s.modQueue q f).replays = s.replays := rfl
@[simp] theorem State.modQueue_steps (s : State) (q : Nat) (f : Queue → Queue) : (s.modQueue q f).steps = s.steps := rfl
@[simp] theorem State.modQueue_faultsOut (s : State) (q : Nat) (f : Queue → Queue) : (s.modQueue q f).faultsOut = s.faultsOut := rfl
@[simp] theorem State.modQueue_eventsOut (s : State) (q : Nat) (f : Queue → Queue) : (s.modQueue q f).eventsOut = s.eventsOut := rfl
@[simp] theorem State.modQueue_flits (s : State) (q : Nat) (f : Queue → Queue) : (s.modQueue q f).flits = s.flits := rfl
@[simp] theorem State.modQueue_lastServed (s : State) (q : Nat) (f : Queue → Queue) : (s.modQueue q f).lastServed = s.lastServed := rfl
@[simp] theorem State.modQueue_lastSelect (s : State) (q : Nat) (f : Queue → Queue) : (s.modQueue q f).lastSelect = s.lastSelect := rfl
@[simp] theorem State.modQueue_lastPower (s : State) (q : Nat) (f : Queue → Queue) : (s.modQueue q f).lastPower = s.lastPower := rfl
@[simp] theorem State.modQueue_lastWindow (s : State) (q : Nat) (f : Queue → Queue) : (s.modQueue q f).lastWindow = s.lastWindow := rfl
@[simp] theorem State.modQueue_lastRound (s : State) (q : Nat) (f : Queue → Queue) : (s.modQueue q f).lastRound = s.lastRound := rfl
@[simp] theorem State.modQueue_lastBeat (s : State) (q : Nat) (f : Queue → Queue) : (s.modQueue q f).lastBeat = s.lastBeat := rfl
@[simp] theorem State.modQueue_pk (s : State) (q : Nat) (f : Queue → Queue) : (s.modQueue q f).pk = s.pk := rfl
@[simp] theorem State.modQueue_pace (s : State) (q : Nat) (f : Queue → Queue) : (s.modQueue q f).pace = s.pace := rfl
@[simp] theorem State.modQueue_tmons (s : State) (q : Nat) (f : Queue → Queue) : (s.modQueue q f).tmons = s.tmons := rfl
@[simp] theorem State.modQueue_poison (s : State) (q : Nat) (f : Queue → Queue) : (s.modQueue q f).poison = s.poison := rfl
@[simp] theorem State.modQueue_flash (s : State) (q : Nat) (f : Queue → Queue) : (s.modQueue q f).flash = s.flash := rfl
@[simp] theorem State.modQueue_staging (s : State) (q : Nat) (f : Queue → Queue) : (s.modQueue q f).staging = s.staging := rfl
@[simp] theorem State.modQueue_rejoins (s : State) (q : Nat) (f : Queue → Queue) : (s.modQueue q f).rejoins = s.rejoins := rfl
@[simp] theorem State.modQueue_freeRelayGen (s : State) (q : Nat) (f : Queue → Queue) : (s.modQueue q f).freeRelayGen = s.freeRelayGen := rfl

@[simp] theorem State.modTmon_now (s : State) (i : Nat) (f : Tmon → Tmon) : (s.modTmon i f).now = s.now := rfl
@[simp] theorem State.modTmon_tick (s : State) (i : Nat) (f : Tmon → Tmon) : (s.modTmon i f).tick = s.tick := rfl
@[simp] theorem State.modTmon_issue (s : State) (i : Nat) (f : Tmon → Tmon) : (s.modTmon i f).issue = s.issue := rfl
@[simp] theorem State.modTmon_inputs (s : State) (i : Nat) (f : Tmon → Tmon) : (s.modTmon i f).inputs = s.inputs := rfl
@[simp] theorem State.modTmon_outbox (s : State) (i : Nat) (f : Tmon → Tmon) : (s.modTmon i f).outbox = s.outbox := rfl
@[simp] theorem State.modTmon_free (s : State) (i : Nat) (f : Tmon → Tmon) : (s.modTmon i f).free = s.free := rfl
@[simp] theorem State.modTmon_nextId (s : State) (i : Nat) (f : Tmon → Tmon) : (s.modTmon i f).nextId = s.nextId := rfl
@[simp] theorem State.modTmon_ctxs (s : State) (i : Nat) (f : Tmon → Tmon) : (s.modTmon i f).ctxs = s.ctxs := rfl
@[simp] theorem State.modTmon_cores (s : State) (i : Nat) (f : Tmon → Tmon) : (s.modTmon i f).cores = s.cores := rfl
@[simp] theorem State.modTmon_groups (s : State) (i : Nat) (f : Tmon → Tmon) : (s.modTmon i f).groups = s.groups := rfl
@[simp] theorem State.modTmon_serais (s : State) (i : Nat) (f : Tmon → Tmon) : (s.modTmon i f).serais = s.serais := rfl
@[simp] theorem State.modTmon_cmds (s : State) (i : Nat) (f : Tmon → Tmon) : (s.modTmon i f).cmds = s.cmds := rfl
@[simp] theorem State.modTmon_mem (s : State) (i : Nat) (f : Tmon → Tmon) : (s.modTmon i f).mem = s.mem := rfl
@[simp] theorem State.modTmon_hostMem (s : State) (i : Nat) (f : Tmon → Tmon) : (s.modTmon i f).hostMem = s.hostMem := rfl
@[simp] theorem State.modTmon_hostMem1 (s : State) (i : Nat) (f : Tmon → Tmon) : (s.modTmon i f).hostMem1 = s.hostMem1 := rfl
@[simp] theorem State.modTmon_acts (s : State) (i : Nat) (f : Tmon → Tmon) : (s.modTmon i f).acts = s.acts := rfl
@[simp] theorem State.modTmon_semWrites (s : State) (i : Nat) (f : Tmon → Tmon) : (s.modTmon i f).semWrites = s.semWrites := rfl
@[simp] theorem State.modTmon_flashBad (s : State) (i : Nat) (f : Tmon → Tmon) : (s.modTmon i f).flashBad = s.flashBad := rfl
@[simp] theorem State.modTmon_peerMem (s : State) (i : Nat) (f : Tmon → Tmon) : (s.modTmon i f).peerMem = s.peerMem := rfl
@[simp] theorem State.modTmon_posted (s : State) (i : Nat) (f : Tmon → Tmon) : (s.modTmon i f).posted = s.posted := rfl
@[simp] theorem State.modTmon_late (s : State) (i : Nat) (f : Tmon → Tmon) : (s.modTmon i f).late = s.late := rfl
@[simp] theorem State.modTmon_atomics (s : State) (i : Nat) (f : Tmon → Tmon) : (s.modTmon i f).atomics = s.atomics := rfl
@[simp] theorem State.modTmon_phops (s : State) (i : Nat) (f : Tmon → Tmon) : (s.modTmon i f).phops = s.phops := rfl
@[simp] theorem State.modTmon_cons (s : State) (i : Nat) (f : Tmon → Tmon) : (s.modTmon i f).cons = s.cons := rfl
@[simp] theorem State.modTmon_queues (s : State) (i : Nat) (f : Tmon → Tmon) : (s.modTmon i f).queues = s.queues := rfl
@[simp] theorem State.modTmon_replays (s : State) (i : Nat) (f : Tmon → Tmon) : (s.modTmon i f).replays = s.replays := rfl
@[simp] theorem State.modTmon_steps (s : State) (i : Nat) (f : Tmon → Tmon) : (s.modTmon i f).steps = s.steps := rfl
@[simp] theorem State.modTmon_faultsOut (s : State) (i : Nat) (f : Tmon → Tmon) : (s.modTmon i f).faultsOut = s.faultsOut := rfl
@[simp] theorem State.modTmon_eventsOut (s : State) (i : Nat) (f : Tmon → Tmon) : (s.modTmon i f).eventsOut = s.eventsOut := rfl
@[simp] theorem State.modTmon_flits (s : State) (i : Nat) (f : Tmon → Tmon) : (s.modTmon i f).flits = s.flits := rfl
@[simp] theorem State.modTmon_lastServed (s : State) (i : Nat) (f : Tmon → Tmon) : (s.modTmon i f).lastServed = s.lastServed := rfl
@[simp] theorem State.modTmon_lastSelect (s : State) (i : Nat) (f : Tmon → Tmon) : (s.modTmon i f).lastSelect = s.lastSelect := rfl
@[simp] theorem State.modTmon_lastPower (s : State) (i : Nat) (f : Tmon → Tmon) : (s.modTmon i f).lastPower = s.lastPower := rfl
@[simp] theorem State.modTmon_lastWindow (s : State) (i : Nat) (f : Tmon → Tmon) : (s.modTmon i f).lastWindow = s.lastWindow := rfl
@[simp] theorem State.modTmon_lastRound (s : State) (i : Nat) (f : Tmon → Tmon) : (s.modTmon i f).lastRound = s.lastRound := rfl
@[simp] theorem State.modTmon_lastBeat (s : State) (i : Nat) (f : Tmon → Tmon) : (s.modTmon i f).lastBeat = s.lastBeat := rfl
@[simp] theorem State.modTmon_pk (s : State) (i : Nat) (f : Tmon → Tmon) : (s.modTmon i f).pk = s.pk := rfl
@[simp] theorem State.modTmon_pace (s : State) (i : Nat) (f : Tmon → Tmon) : (s.modTmon i f).pace = s.pace := rfl
@[simp] theorem State.modTmon_poison (s : State) (i : Nat) (f : Tmon → Tmon) : (s.modTmon i f).poison = s.poison := rfl
@[simp] theorem State.modTmon_flash (s : State) (i : Nat) (f : Tmon → Tmon) : (s.modTmon i f).flash = s.flash := rfl
@[simp] theorem State.modTmon_staging (s : State) (i : Nat) (f : Tmon → Tmon) : (s.modTmon i f).staging = s.staging := rfl
@[simp] theorem State.modTmon_rejoins (s : State) (i : Nat) (f : Tmon → Tmon) : (s.modTmon i f).rejoins = s.rejoins := rfl
@[simp] theorem State.modTmon_freeRelayGen (s : State) (i : Nat) (f : Tmon → Tmon) : (s.modTmon i f).freeRelayGen = s.freeRelayGen := rfl

@[simp] theorem State.modPk_now (s : State) (f : PkgRegs → PkgRegs) : (s.modPk f).now = s.now := rfl
@[simp] theorem State.modPk_tick (s : State) (f : PkgRegs → PkgRegs) : (s.modPk f).tick = s.tick := rfl
@[simp] theorem State.modPk_issue (s : State) (f : PkgRegs → PkgRegs) : (s.modPk f).issue = s.issue := rfl
@[simp] theorem State.modPk_inputs (s : State) (f : PkgRegs → PkgRegs) : (s.modPk f).inputs = s.inputs := rfl
@[simp] theorem State.modPk_outbox (s : State) (f : PkgRegs → PkgRegs) : (s.modPk f).outbox = s.outbox := rfl
@[simp] theorem State.modPk_free (s : State) (f : PkgRegs → PkgRegs) : (s.modPk f).free = s.free := rfl
@[simp] theorem State.modPk_nextId (s : State) (f : PkgRegs → PkgRegs) : (s.modPk f).nextId = s.nextId := rfl
@[simp] theorem State.modPk_ctxs (s : State) (f : PkgRegs → PkgRegs) : (s.modPk f).ctxs = s.ctxs := rfl
@[simp] theorem State.modPk_cores (s : State) (f : PkgRegs → PkgRegs) : (s.modPk f).cores = s.cores := rfl
@[simp] theorem State.modPk_groups (s : State) (f : PkgRegs → PkgRegs) : (s.modPk f).groups = s.groups := rfl
@[simp] theorem State.modPk_serais (s : State) (f : PkgRegs → PkgRegs) : (s.modPk f).serais = s.serais := rfl
@[simp] theorem State.modPk_cmds (s : State) (f : PkgRegs → PkgRegs) : (s.modPk f).cmds = s.cmds := rfl
@[simp] theorem State.modPk_mem (s : State) (f : PkgRegs → PkgRegs) : (s.modPk f).mem = s.mem := rfl
@[simp] theorem State.modPk_hostMem (s : State) (f : PkgRegs → PkgRegs) : (s.modPk f).hostMem = s.hostMem := rfl
@[simp] theorem State.modPk_hostMem1 (s : State) (f : PkgRegs → PkgRegs) : (s.modPk f).hostMem1 = s.hostMem1 := rfl
@[simp] theorem State.modPk_acts (s : State) (f : PkgRegs → PkgRegs) : (s.modPk f).acts = s.acts := rfl
@[simp] theorem State.modPk_semWrites (s : State) (f : PkgRegs → PkgRegs) : (s.modPk f).semWrites = s.semWrites := rfl
@[simp] theorem State.modPk_flashBad (s : State) (f : PkgRegs → PkgRegs) : (s.modPk f).flashBad = s.flashBad := rfl
@[simp] theorem State.modPk_peerMem (s : State) (f : PkgRegs → PkgRegs) : (s.modPk f).peerMem = s.peerMem := rfl
@[simp] theorem State.modPk_posted (s : State) (f : PkgRegs → PkgRegs) : (s.modPk f).posted = s.posted := rfl
@[simp] theorem State.modPk_late (s : State) (f : PkgRegs → PkgRegs) : (s.modPk f).late = s.late := rfl
@[simp] theorem State.modPk_atomics (s : State) (f : PkgRegs → PkgRegs) : (s.modPk f).atomics = s.atomics := rfl
@[simp] theorem State.modPk_phops (s : State) (f : PkgRegs → PkgRegs) : (s.modPk f).phops = s.phops := rfl
@[simp] theorem State.modPk_cons (s : State) (f : PkgRegs → PkgRegs) : (s.modPk f).cons = s.cons := rfl
@[simp] theorem State.modPk_queues (s : State) (f : PkgRegs → PkgRegs) : (s.modPk f).queues = s.queues := rfl
@[simp] theorem State.modPk_replays (s : State) (f : PkgRegs → PkgRegs) : (s.modPk f).replays = s.replays := rfl
@[simp] theorem State.modPk_steps (s : State) (f : PkgRegs → PkgRegs) : (s.modPk f).steps = s.steps := rfl
@[simp] theorem State.modPk_faultsOut (s : State) (f : PkgRegs → PkgRegs) : (s.modPk f).faultsOut = s.faultsOut := rfl
@[simp] theorem State.modPk_eventsOut (s : State) (f : PkgRegs → PkgRegs) : (s.modPk f).eventsOut = s.eventsOut := rfl
@[simp] theorem State.modPk_flits (s : State) (f : PkgRegs → PkgRegs) : (s.modPk f).flits = s.flits := rfl
@[simp] theorem State.modPk_lastServed (s : State) (f : PkgRegs → PkgRegs) : (s.modPk f).lastServed = s.lastServed := rfl
@[simp] theorem State.modPk_lastSelect (s : State) (f : PkgRegs → PkgRegs) : (s.modPk f).lastSelect = s.lastSelect := rfl
@[simp] theorem State.modPk_lastPower (s : State) (f : PkgRegs → PkgRegs) : (s.modPk f).lastPower = s.lastPower := rfl
@[simp] theorem State.modPk_lastWindow (s : State) (f : PkgRegs → PkgRegs) : (s.modPk f).lastWindow = s.lastWindow := rfl
@[simp] theorem State.modPk_lastRound (s : State) (f : PkgRegs → PkgRegs) : (s.modPk f).lastRound = s.lastRound := rfl
@[simp] theorem State.modPk_lastBeat (s : State) (f : PkgRegs → PkgRegs) : (s.modPk f).lastBeat = s.lastBeat := rfl
@[simp] theorem State.modPk_pace (s : State) (f : PkgRegs → PkgRegs) : (s.modPk f).pace = s.pace := rfl
@[simp] theorem State.modPk_tmons (s : State) (f : PkgRegs → PkgRegs) : (s.modPk f).tmons = s.tmons := rfl
@[simp] theorem State.modPk_poison (s : State) (f : PkgRegs → PkgRegs) : (s.modPk f).poison = s.poison := rfl
@[simp] theorem State.modPk_flash (s : State) (f : PkgRegs → PkgRegs) : (s.modPk f).flash = s.flash := rfl
@[simp] theorem State.modPk_staging (s : State) (f : PkgRegs → PkgRegs) : (s.modPk f).staging = s.staging := rfl
@[simp] theorem State.modPk_rejoins (s : State) (f : PkgRegs → PkgRegs) : (s.modPk f).rejoins = s.rejoins := rfl
@[simp] theorem State.modPk_freeRelayGen (s : State) (f : PkgRegs → PkgRegs) : (s.modPk f).freeRelayGen = s.freeRelayGen := rfl

@[simp] theorem State.msi_now (s : State) (v : Nat) (ports : List Nat) : (s.msi v ports).now = s.now := rfl
@[simp] theorem State.msi_tick (s : State) (v : Nat) (ports : List Nat) : (s.msi v ports).tick = s.tick := rfl
@[simp] theorem State.msi_issue (s : State) (v : Nat) (ports : List Nat) : (s.msi v ports).issue = s.issue := rfl
@[simp] theorem State.msi_inputs (s : State) (v : Nat) (ports : List Nat) : (s.msi v ports).inputs = s.inputs := rfl
@[simp] theorem State.msi_outbox (s : State) (v : Nat) (ports : List Nat) : (s.msi v ports).outbox = s.outbox := rfl
@[simp] theorem State.msi_free (s : State) (v : Nat) (ports : List Nat) : (s.msi v ports).free = s.free := rfl
@[simp] theorem State.msi_nextId (s : State) (v : Nat) (ports : List Nat) : (s.msi v ports).nextId = s.nextId := rfl
@[simp] theorem State.msi_ctxs (s : State) (v : Nat) (ports : List Nat) : (s.msi v ports).ctxs = s.ctxs := rfl
@[simp] theorem State.msi_cores (s : State) (v : Nat) (ports : List Nat) : (s.msi v ports).cores = s.cores := rfl
@[simp] theorem State.msi_groups (s : State) (v : Nat) (ports : List Nat) : (s.msi v ports).groups = s.groups := rfl
@[simp] theorem State.msi_serais (s : State) (v : Nat) (ports : List Nat) : (s.msi v ports).serais = s.serais := rfl
@[simp] theorem State.msi_cmds (s : State) (v : Nat) (ports : List Nat) : (s.msi v ports).cmds = s.cmds := rfl
@[simp] theorem State.msi_mem (s : State) (v : Nat) (ports : List Nat) : (s.msi v ports).mem = s.mem := rfl
@[simp] theorem State.msi_hostMem (s : State) (v : Nat) (ports : List Nat) : (s.msi v ports).hostMem = s.hostMem := rfl
@[simp] theorem State.msi_hostMem1 (s : State) (v : Nat) (ports : List Nat) : (s.msi v ports).hostMem1 = s.hostMem1 := rfl
@[simp] theorem State.msi_acts (s : State) (v : Nat) (ports : List Nat) : (s.msi v ports).acts = s.acts := rfl
@[simp] theorem State.msi_semWrites (s : State) (v : Nat) (ports : List Nat) : (s.msi v ports).semWrites = s.semWrites := rfl
@[simp] theorem State.msi_flashBad (s : State) (v : Nat) (ports : List Nat) : (s.msi v ports).flashBad = s.flashBad := rfl
@[simp] theorem State.msi_peerMem (s : State) (v : Nat) (ports : List Nat) : (s.msi v ports).peerMem = s.peerMem := rfl
@[simp] theorem State.msi_posted (s : State) (v : Nat) (ports : List Nat) : (s.msi v ports).posted = s.posted := rfl
@[simp] theorem State.msi_late (s : State) (v : Nat) (ports : List Nat) : (s.msi v ports).late = s.late := rfl
@[simp] theorem State.msi_atomics (s : State) (v : Nat) (ports : List Nat) : (s.msi v ports).atomics = s.atomics := rfl
@[simp] theorem State.msi_phops (s : State) (v : Nat) (ports : List Nat) : (s.msi v ports).phops = s.phops := rfl
@[simp] theorem State.msi_cons (s : State) (v : Nat) (ports : List Nat) : (s.msi v ports).cons = s.cons := rfl
@[simp] theorem State.msi_queues (s : State) (v : Nat) (ports : List Nat) : (s.msi v ports).queues = s.queues := rfl
@[simp] theorem State.msi_replays (s : State) (v : Nat) (ports : List Nat) : (s.msi v ports).replays = s.replays := rfl
@[simp] theorem State.msi_steps (s : State) (v : Nat) (ports : List Nat) : (s.msi v ports).steps = s.steps := rfl
@[simp] theorem State.msi_faultsOut (s : State) (v : Nat) (ports : List Nat) : (s.msi v ports).faultsOut = s.faultsOut := rfl
@[simp] theorem State.msi_eventsOut (s : State) (v : Nat) (ports : List Nat) : (s.msi v ports).eventsOut = s.eventsOut := rfl
@[simp] theorem State.msi_flits (s : State) (v : Nat) (ports : List Nat) : (s.msi v ports).flits = s.flits := rfl
@[simp] theorem State.msi_lastServed (s : State) (v : Nat) (ports : List Nat) : (s.msi v ports).lastServed = s.lastServed := rfl
@[simp] theorem State.msi_lastSelect (s : State) (v : Nat) (ports : List Nat) : (s.msi v ports).lastSelect = s.lastSelect := rfl
@[simp] theorem State.msi_lastPower (s : State) (v : Nat) (ports : List Nat) : (s.msi v ports).lastPower = s.lastPower := rfl
@[simp] theorem State.msi_lastWindow (s : State) (v : Nat) (ports : List Nat) : (s.msi v ports).lastWindow = s.lastWindow := rfl
@[simp] theorem State.msi_lastRound (s : State) (v : Nat) (ports : List Nat) : (s.msi v ports).lastRound = s.lastRound := rfl
@[simp] theorem State.msi_lastBeat (s : State) (v : Nat) (ports : List Nat) : (s.msi v ports).lastBeat = s.lastBeat := rfl
@[simp] theorem State.msi_pace (s : State) (v : Nat) (ports : List Nat) : (s.msi v ports).pace = s.pace := rfl
@[simp] theorem State.msi_tmons (s : State) (v : Nat) (ports : List Nat) : (s.msi v ports).tmons = s.tmons := rfl
@[simp] theorem State.msi_poison (s : State) (v : Nat) (ports : List Nat) : (s.msi v ports).poison = s.poison := rfl
@[simp] theorem State.msi_flash (s : State) (v : Nat) (ports : List Nat) : (s.msi v ports).flash = s.flash := rfl
@[simp] theorem State.msi_staging (s : State) (v : Nat) (ports : List Nat) : (s.msi v ports).staging = s.staging := rfl
@[simp] theorem State.msi_rejoins (s : State) (v : Nat) (ports : List Nat) : (s.msi v ports).rejoins = s.rejoins := rfl
@[simp] theorem State.msi_freeRelayGen (s : State) (v : Nat) (ports : List Nat) : (s.msi v ports).freeRelayGen = s.freeRelayGen := rfl

@[simp] theorem State.modPace_now (s : State) (f : Pace → Pace) : (s.modPace f).now = s.now := rfl
@[simp] theorem State.modPace_tick (s : State) (f : Pace → Pace) : (s.modPace f).tick = s.tick := rfl
@[simp] theorem State.modPace_issue (s : State) (f : Pace → Pace) : (s.modPace f).issue = s.issue := rfl
@[simp] theorem State.modPace_inputs (s : State) (f : Pace → Pace) : (s.modPace f).inputs = s.inputs := rfl
@[simp] theorem State.modPace_outbox (s : State) (f : Pace → Pace) : (s.modPace f).outbox = s.outbox := rfl
@[simp] theorem State.modPace_free (s : State) (f : Pace → Pace) : (s.modPace f).free = s.free := rfl
@[simp] theorem State.modPace_nextId (s : State) (f : Pace → Pace) : (s.modPace f).nextId = s.nextId := rfl
@[simp] theorem State.modPace_ctxs (s : State) (f : Pace → Pace) : (s.modPace f).ctxs = s.ctxs := rfl
@[simp] theorem State.modPace_cores (s : State) (f : Pace → Pace) : (s.modPace f).cores = s.cores := rfl
@[simp] theorem State.modPace_groups (s : State) (f : Pace → Pace) : (s.modPace f).groups = s.groups := rfl
@[simp] theorem State.modPace_serais (s : State) (f : Pace → Pace) : (s.modPace f).serais = s.serais := rfl
@[simp] theorem State.modPace_cmds (s : State) (f : Pace → Pace) : (s.modPace f).cmds = s.cmds := rfl
@[simp] theorem State.modPace_mem (s : State) (f : Pace → Pace) : (s.modPace f).mem = s.mem := rfl
@[simp] theorem State.modPace_hostMem (s : State) (f : Pace → Pace) : (s.modPace f).hostMem = s.hostMem := rfl
@[simp] theorem State.modPace_hostMem1 (s : State) (f : Pace → Pace) : (s.modPace f).hostMem1 = s.hostMem1 := rfl
@[simp] theorem State.modPace_acts (s : State) (f : Pace → Pace) : (s.modPace f).acts = s.acts := rfl
@[simp] theorem State.modPace_semWrites (s : State) (f : Pace → Pace) : (s.modPace f).semWrites = s.semWrites := rfl
@[simp] theorem State.modPace_flashBad (s : State) (f : Pace → Pace) : (s.modPace f).flashBad = s.flashBad := rfl
@[simp] theorem State.modPace_peerMem (s : State) (f : Pace → Pace) : (s.modPace f).peerMem = s.peerMem := rfl
@[simp] theorem State.modPace_posted (s : State) (f : Pace → Pace) : (s.modPace f).posted = s.posted := rfl
@[simp] theorem State.modPace_late (s : State) (f : Pace → Pace) : (s.modPace f).late = s.late := rfl
@[simp] theorem State.modPace_atomics (s : State) (f : Pace → Pace) : (s.modPace f).atomics = s.atomics := rfl
@[simp] theorem State.modPace_phops (s : State) (f : Pace → Pace) : (s.modPace f).phops = s.phops := rfl
@[simp] theorem State.modPace_cons (s : State) (f : Pace → Pace) : (s.modPace f).cons = s.cons := rfl
@[simp] theorem State.modPace_queues (s : State) (f : Pace → Pace) : (s.modPace f).queues = s.queues := rfl
@[simp] theorem State.modPace_replays (s : State) (f : Pace → Pace) : (s.modPace f).replays = s.replays := rfl
@[simp] theorem State.modPace_steps (s : State) (f : Pace → Pace) : (s.modPace f).steps = s.steps := rfl
@[simp] theorem State.modPace_faultsOut (s : State) (f : Pace → Pace) : (s.modPace f).faultsOut = s.faultsOut := rfl
@[simp] theorem State.modPace_eventsOut (s : State) (f : Pace → Pace) : (s.modPace f).eventsOut = s.eventsOut := rfl
@[simp] theorem State.modPace_flits (s : State) (f : Pace → Pace) : (s.modPace f).flits = s.flits := rfl
@[simp] theorem State.modPace_lastServed (s : State) (f : Pace → Pace) : (s.modPace f).lastServed = s.lastServed := rfl
@[simp] theorem State.modPace_lastSelect (s : State) (f : Pace → Pace) : (s.modPace f).lastSelect = s.lastSelect := rfl
@[simp] theorem State.modPace_lastPower (s : State) (f : Pace → Pace) : (s.modPace f).lastPower = s.lastPower := rfl
@[simp] theorem State.modPace_lastWindow (s : State) (f : Pace → Pace) : (s.modPace f).lastWindow = s.lastWindow := rfl
@[simp] theorem State.modPace_lastRound (s : State) (f : Pace → Pace) : (s.modPace f).lastRound = s.lastRound := rfl
@[simp] theorem State.modPace_lastBeat (s : State) (f : Pace → Pace) : (s.modPace f).lastBeat = s.lastBeat := rfl
@[simp] theorem State.modPace_pk (s : State) (f : Pace → Pace) : (s.modPace f).pk = s.pk := rfl
@[simp] theorem State.modPace_tmons (s : State) (f : Pace → Pace) : (s.modPace f).tmons = s.tmons := rfl
@[simp] theorem State.modPace_poison (s : State) (f : Pace → Pace) : (s.modPace f).poison = s.poison := rfl
@[simp] theorem State.modPace_flash (s : State) (f : Pace → Pace) : (s.modPace f).flash = s.flash := rfl
@[simp] theorem State.modPace_staging (s : State) (f : Pace → Pace) : (s.modPace f).staging = s.staging := rfl
@[simp] theorem State.modPace_rejoins (s : State) (f : Pace → Pace) : (s.modPace f).rejoins = s.rejoins := rfl
@[simp] theorem State.modPace_freeRelayGen (s : State) (f : Pace → Pace) : (s.modPace f).freeRelayGen = s.freeRelayGen := rfl

@[simp] theorem State.modCmd_now (s : State) (id : Nat) (f : Cmd → Cmd) : (s.modCmd id f).now = s.now := rfl
@[simp] theorem State.modCmd_tick (s : State) (id : Nat) (f : Cmd → Cmd) : (s.modCmd id f).tick = s.tick := rfl
@[simp] theorem State.modCmd_issue (s : State) (id : Nat) (f : Cmd → Cmd) : (s.modCmd id f).issue = s.issue := rfl
@[simp] theorem State.modCmd_inputs (s : State) (id : Nat) (f : Cmd → Cmd) : (s.modCmd id f).inputs = s.inputs := rfl
@[simp] theorem State.modCmd_outbox (s : State) (id : Nat) (f : Cmd → Cmd) : (s.modCmd id f).outbox = s.outbox := rfl
@[simp] theorem State.modCmd_free (s : State) (id : Nat) (f : Cmd → Cmd) : (s.modCmd id f).free = s.free := rfl
@[simp] theorem State.modCmd_nextId (s : State) (id : Nat) (f : Cmd → Cmd) : (s.modCmd id f).nextId = s.nextId := rfl
@[simp] theorem State.modCmd_ctxs (s : State) (id : Nat) (f : Cmd → Cmd) : (s.modCmd id f).ctxs = s.ctxs := rfl
@[simp] theorem State.modCmd_cores (s : State) (id : Nat) (f : Cmd → Cmd) : (s.modCmd id f).cores = s.cores := rfl
@[simp] theorem State.modCmd_groups (s : State) (id : Nat) (f : Cmd → Cmd) : (s.modCmd id f).groups = s.groups := rfl
@[simp] theorem State.modCmd_serais (s : State) (id : Nat) (f : Cmd → Cmd) : (s.modCmd id f).serais = s.serais := rfl
@[simp] theorem State.modCmd_mem (s : State) (id : Nat) (f : Cmd → Cmd) : (s.modCmd id f).mem = s.mem := rfl
@[simp] theorem State.modCmd_hostMem (s : State) (id : Nat) (f : Cmd → Cmd) : (s.modCmd id f).hostMem = s.hostMem := rfl
@[simp] theorem State.modCmd_hostMem1 (s : State) (id : Nat) (f : Cmd → Cmd) : (s.modCmd id f).hostMem1 = s.hostMem1 := rfl
@[simp] theorem State.modCmd_acts (s : State) (id : Nat) (f : Cmd → Cmd) : (s.modCmd id f).acts = s.acts := rfl
@[simp] theorem State.modCmd_semWrites (s : State) (id : Nat) (f : Cmd → Cmd) : (s.modCmd id f).semWrites = s.semWrites := rfl
@[simp] theorem State.modCmd_flashBad (s : State) (id : Nat) (f : Cmd → Cmd) : (s.modCmd id f).flashBad = s.flashBad := rfl
@[simp] theorem State.modCmd_peerMem (s : State) (id : Nat) (f : Cmd → Cmd) : (s.modCmd id f).peerMem = s.peerMem := rfl
@[simp] theorem State.modCmd_posted (s : State) (id : Nat) (f : Cmd → Cmd) : (s.modCmd id f).posted = s.posted := rfl
@[simp] theorem State.modCmd_late (s : State) (id : Nat) (f : Cmd → Cmd) : (s.modCmd id f).late = s.late := rfl
@[simp] theorem State.modCmd_atomics (s : State) (id : Nat) (f : Cmd → Cmd) : (s.modCmd id f).atomics = s.atomics := rfl
@[simp] theorem State.modCmd_phops (s : State) (id : Nat) (f : Cmd → Cmd) : (s.modCmd id f).phops = s.phops := rfl
@[simp] theorem State.modCmd_cons (s : State) (id : Nat) (f : Cmd → Cmd) : (s.modCmd id f).cons = s.cons := rfl
@[simp] theorem State.modCmd_queues (s : State) (id : Nat) (f : Cmd → Cmd) : (s.modCmd id f).queues = s.queues := rfl
@[simp] theorem State.modCmd_replays (s : State) (id : Nat) (f : Cmd → Cmd) : (s.modCmd id f).replays = s.replays := rfl
@[simp] theorem State.modCmd_steps (s : State) (id : Nat) (f : Cmd → Cmd) : (s.modCmd id f).steps = s.steps := rfl
@[simp] theorem State.modCmd_faultsOut (s : State) (id : Nat) (f : Cmd → Cmd) : (s.modCmd id f).faultsOut = s.faultsOut := rfl
@[simp] theorem State.modCmd_eventsOut (s : State) (id : Nat) (f : Cmd → Cmd) : (s.modCmd id f).eventsOut = s.eventsOut := rfl
@[simp] theorem State.modCmd_flits (s : State) (id : Nat) (f : Cmd → Cmd) : (s.modCmd id f).flits = s.flits := rfl
@[simp] theorem State.modCmd_lastServed (s : State) (id : Nat) (f : Cmd → Cmd) : (s.modCmd id f).lastServed = s.lastServed := rfl
@[simp] theorem State.modCmd_lastSelect (s : State) (id : Nat) (f : Cmd → Cmd) : (s.modCmd id f).lastSelect = s.lastSelect := rfl
@[simp] theorem State.modCmd_lastPower (s : State) (id : Nat) (f : Cmd → Cmd) : (s.modCmd id f).lastPower = s.lastPower := rfl
@[simp] theorem State.modCmd_lastWindow (s : State) (id : Nat) (f : Cmd → Cmd) : (s.modCmd id f).lastWindow = s.lastWindow := rfl
@[simp] theorem State.modCmd_lastRound (s : State) (id : Nat) (f : Cmd → Cmd) : (s.modCmd id f).lastRound = s.lastRound := rfl
@[simp] theorem State.modCmd_lastBeat (s : State) (id : Nat) (f : Cmd → Cmd) : (s.modCmd id f).lastBeat = s.lastBeat := rfl
@[simp] theorem State.modCmd_pk (s : State) (id : Nat) (f : Cmd → Cmd) : (s.modCmd id f).pk = s.pk := rfl
@[simp] theorem State.modCmd_pace (s : State) (id : Nat) (f : Cmd → Cmd) : (s.modCmd id f).pace = s.pace := rfl
@[simp] theorem State.modCmd_tmons (s : State) (id : Nat) (f : Cmd → Cmd) : (s.modCmd id f).tmons = s.tmons := rfl
@[simp] theorem State.modCmd_poison (s : State) (id : Nat) (f : Cmd → Cmd) : (s.modCmd id f).poison = s.poison := rfl
@[simp] theorem State.modCmd_flash (s : State) (id : Nat) (f : Cmd → Cmd) : (s.modCmd id f).flash = s.flash := rfl
@[simp] theorem State.modCmd_staging (s : State) (id : Nat) (f : Cmd → Cmd) : (s.modCmd id f).staging = s.staging := rfl
@[simp] theorem State.modCmd_rejoins (s : State) (id : Nat) (f : Cmd → Cmd) : (s.modCmd id f).rejoins = s.rejoins := rfl
@[simp] theorem State.modCmd_freeRelayGen (s : State) (id : Nat) (f : Cmd → Cmd) : (s.modCmd id f).freeRelayGen = s.freeRelayGen := rfl

@[simp] theorem State.dropCmd_now (s : State) (id : Nat) : (s.dropCmd id).now = s.now := rfl
@[simp] theorem State.dropCmd_tick (s : State) (id : Nat) : (s.dropCmd id).tick = s.tick := rfl
@[simp] theorem State.dropCmd_issue (s : State) (id : Nat) : (s.dropCmd id).issue = s.issue := rfl
@[simp] theorem State.dropCmd_inputs (s : State) (id : Nat) : (s.dropCmd id).inputs = s.inputs := rfl
@[simp] theorem State.dropCmd_outbox (s : State) (id : Nat) : (s.dropCmd id).outbox = s.outbox := rfl
@[simp] theorem State.dropCmd_free (s : State) (id : Nat) : (s.dropCmd id).free = s.free := rfl
@[simp] theorem State.dropCmd_nextId (s : State) (id : Nat) : (s.dropCmd id).nextId = s.nextId := rfl
@[simp] theorem State.dropCmd_ctxs (s : State) (id : Nat) : (s.dropCmd id).ctxs = s.ctxs := rfl
@[simp] theorem State.dropCmd_cores (s : State) (id : Nat) : (s.dropCmd id).cores = s.cores := rfl
@[simp] theorem State.dropCmd_groups (s : State) (id : Nat) : (s.dropCmd id).groups = s.groups := rfl
@[simp] theorem State.dropCmd_serais (s : State) (id : Nat) : (s.dropCmd id).serais = s.serais := rfl
@[simp] theorem State.dropCmd_mem (s : State) (id : Nat) : (s.dropCmd id).mem = s.mem := rfl
@[simp] theorem State.dropCmd_hostMem (s : State) (id : Nat) : (s.dropCmd id).hostMem = s.hostMem := rfl
@[simp] theorem State.dropCmd_hostMem1 (s : State) (id : Nat) : (s.dropCmd id).hostMem1 = s.hostMem1 := rfl
@[simp] theorem State.dropCmd_acts (s : State) (id : Nat) : (s.dropCmd id).acts = s.acts := rfl
@[simp] theorem State.dropCmd_semWrites (s : State) (id : Nat) : (s.dropCmd id).semWrites = s.semWrites := rfl
@[simp] theorem State.dropCmd_flashBad (s : State) (id : Nat) : (s.dropCmd id).flashBad = s.flashBad := rfl
@[simp] theorem State.dropCmd_peerMem (s : State) (id : Nat) : (s.dropCmd id).peerMem = s.peerMem := rfl
@[simp] theorem State.dropCmd_posted (s : State) (id : Nat) : (s.dropCmd id).posted = s.posted := rfl
@[simp] theorem State.dropCmd_late (s : State) (id : Nat) : (s.dropCmd id).late = s.late := rfl
@[simp] theorem State.dropCmd_atomics (s : State) (id : Nat) : (s.dropCmd id).atomics = s.atomics := rfl
@[simp] theorem State.dropCmd_phops (s : State) (id : Nat) : (s.dropCmd id).phops = s.phops := rfl
@[simp] theorem State.dropCmd_cons (s : State) (id : Nat) : (s.dropCmd id).cons = s.cons := rfl
@[simp] theorem State.dropCmd_queues (s : State) (id : Nat) : (s.dropCmd id).queues = s.queues := rfl
@[simp] theorem State.dropCmd_replays (s : State) (id : Nat) : (s.dropCmd id).replays = s.replays := rfl
@[simp] theorem State.dropCmd_steps (s : State) (id : Nat) : (s.dropCmd id).steps = s.steps := rfl
@[simp] theorem State.dropCmd_faultsOut (s : State) (id : Nat) : (s.dropCmd id).faultsOut = s.faultsOut := rfl
@[simp] theorem State.dropCmd_eventsOut (s : State) (id : Nat) : (s.dropCmd id).eventsOut = s.eventsOut := rfl
@[simp] theorem State.dropCmd_flits (s : State) (id : Nat) : (s.dropCmd id).flits = s.flits := rfl
@[simp] theorem State.dropCmd_lastServed (s : State) (id : Nat) : (s.dropCmd id).lastServed = s.lastServed := rfl
@[simp] theorem State.dropCmd_lastSelect (s : State) (id : Nat) : (s.dropCmd id).lastSelect = s.lastSelect := rfl
@[simp] theorem State.dropCmd_lastPower (s : State) (id : Nat) : (s.dropCmd id).lastPower = s.lastPower := rfl
@[simp] theorem State.dropCmd_lastWindow (s : State) (id : Nat) : (s.dropCmd id).lastWindow = s.lastWindow := rfl
@[simp] theorem State.dropCmd_lastRound (s : State) (id : Nat) : (s.dropCmd id).lastRound = s.lastRound := rfl
@[simp] theorem State.dropCmd_lastBeat (s : State) (id : Nat) : (s.dropCmd id).lastBeat = s.lastBeat := rfl
@[simp] theorem State.dropCmd_pk (s : State) (id : Nat) : (s.dropCmd id).pk = s.pk := rfl
@[simp] theorem State.dropCmd_pace (s : State) (id : Nat) : (s.dropCmd id).pace = s.pace := rfl
@[simp] theorem State.dropCmd_tmons (s : State) (id : Nat) : (s.dropCmd id).tmons = s.tmons := rfl
@[simp] theorem State.dropCmd_poison (s : State) (id : Nat) : (s.dropCmd id).poison = s.poison := rfl
@[simp] theorem State.dropCmd_flash (s : State) (id : Nat) : (s.dropCmd id).flash = s.flash := rfl
@[simp] theorem State.dropCmd_staging (s : State) (id : Nat) : (s.dropCmd id).staging = s.staging := rfl
@[simp] theorem State.dropCmd_rejoins (s : State) (id : Nat) : (s.dropCmd id).rejoins = s.rejoins := rfl
@[simp] theorem State.dropCmd_freeRelayGen (s : State) (id : Nat) : (s.dropCmd id).freeRelayGen = s.freeRelayGen := rfl

@[simp] theorem State.fresh_now (s : State) : (s.fresh).now = s.now := rfl
@[simp] theorem State.fresh_tick (s : State) : (s.fresh).tick = s.tick := rfl
@[simp] theorem State.fresh_issue (s : State) : (s.fresh).issue = s.issue := rfl
@[simp] theorem State.fresh_inputs (s : State) : (s.fresh).inputs = s.inputs := rfl
@[simp] theorem State.fresh_outbox (s : State) : (s.fresh).outbox = s.outbox := rfl
@[simp] theorem State.fresh_free (s : State) : (s.fresh).free = s.free := rfl
@[simp] theorem State.fresh_ctxs (s : State) : (s.fresh).ctxs = s.ctxs := rfl
@[simp] theorem State.fresh_cores (s : State) : (s.fresh).cores = s.cores := rfl
@[simp] theorem State.fresh_groups (s : State) : (s.fresh).groups = s.groups := rfl
@[simp] theorem State.fresh_serais (s : State) : (s.fresh).serais = s.serais := rfl
@[simp] theorem State.fresh_cmds (s : State) : (s.fresh).cmds = s.cmds := rfl
@[simp] theorem State.fresh_mem (s : State) : (s.fresh).mem = s.mem := rfl
@[simp] theorem State.fresh_hostMem (s : State) : (s.fresh).hostMem = s.hostMem := rfl
@[simp] theorem State.fresh_hostMem1 (s : State) : (s.fresh).hostMem1 = s.hostMem1 := rfl
@[simp] theorem State.fresh_acts (s : State) : (s.fresh).acts = s.acts := rfl
@[simp] theorem State.fresh_semWrites (s : State) : (s.fresh).semWrites = s.semWrites := rfl
@[simp] theorem State.fresh_flashBad (s : State) : (s.fresh).flashBad = s.flashBad := rfl
@[simp] theorem State.fresh_peerMem (s : State) : (s.fresh).peerMem = s.peerMem := rfl
@[simp] theorem State.fresh_posted (s : State) : (s.fresh).posted = s.posted := rfl
@[simp] theorem State.fresh_late (s : State) : (s.fresh).late = s.late := rfl
@[simp] theorem State.fresh_atomics (s : State) : (s.fresh).atomics = s.atomics := rfl
@[simp] theorem State.fresh_phops (s : State) : (s.fresh).phops = s.phops := rfl
@[simp] theorem State.fresh_cons (s : State) : (s.fresh).cons = s.cons := rfl
@[simp] theorem State.fresh_queues (s : State) : (s.fresh).queues = s.queues := rfl
@[simp] theorem State.fresh_replays (s : State) : (s.fresh).replays = s.replays := rfl
@[simp] theorem State.fresh_steps (s : State) : (s.fresh).steps = s.steps := rfl
@[simp] theorem State.fresh_faultsOut (s : State) : (s.fresh).faultsOut = s.faultsOut := rfl
@[simp] theorem State.fresh_eventsOut (s : State) : (s.fresh).eventsOut = s.eventsOut := rfl
@[simp] theorem State.fresh_flits (s : State) : (s.fresh).flits = s.flits := rfl
@[simp] theorem State.fresh_lastServed (s : State) : (s.fresh).lastServed = s.lastServed := rfl
@[simp] theorem State.fresh_lastSelect (s : State) : (s.fresh).lastSelect = s.lastSelect := rfl
@[simp] theorem State.fresh_lastPower (s : State) : (s.fresh).lastPower = s.lastPower := rfl
@[simp] theorem State.fresh_lastWindow (s : State) : (s.fresh).lastWindow = s.lastWindow := rfl
@[simp] theorem State.fresh_lastRound (s : State) : (s.fresh).lastRound = s.lastRound := rfl
@[simp] theorem State.fresh_lastBeat (s : State) : (s.fresh).lastBeat = s.lastBeat := rfl
@[simp] theorem State.fresh_pk (s : State) : (s.fresh).pk = s.pk := rfl
@[simp] theorem State.fresh_pace (s : State) : (s.fresh).pace = s.pace := rfl
@[simp] theorem State.fresh_tmons (s : State) : (s.fresh).tmons = s.tmons := rfl
@[simp] theorem State.fresh_poison (s : State) : (s.fresh).poison = s.poison := rfl
@[simp] theorem State.fresh_flash (s : State) : (s.fresh).flash = s.flash := rfl
@[simp] theorem State.fresh_staging (s : State) : (s.fresh).staging = s.staging := rfl
@[simp] theorem State.fresh_rejoins (s : State) : (s.fresh).rejoins = s.rejoins := rfl
@[simp] theorem State.fresh_freeRelayGen (s : State) : (s.fresh).freeRelayGen = s.freeRelayGen := rfl

@[simp] theorem State.send_now (s : State) (o : Out) : (s.send o).now = s.now := rfl
@[simp] theorem State.send_tick (s : State) (o : Out) : (s.send o).tick = s.tick := rfl
@[simp] theorem State.send_issue (s : State) (o : Out) : (s.send o).issue = s.issue := rfl
@[simp] theorem State.send_inputs (s : State) (o : Out) : (s.send o).inputs = s.inputs := rfl
@[simp] theorem State.send_free (s : State) (o : Out) : (s.send o).free = s.free := rfl
@[simp] theorem State.send_nextId (s : State) (o : Out) : (s.send o).nextId = s.nextId := rfl
@[simp] theorem State.send_ctxs (s : State) (o : Out) : (s.send o).ctxs = s.ctxs := rfl
@[simp] theorem State.send_cores (s : State) (o : Out) : (s.send o).cores = s.cores := rfl
@[simp] theorem State.send_groups (s : State) (o : Out) : (s.send o).groups = s.groups := rfl
@[simp] theorem State.send_serais (s : State) (o : Out) : (s.send o).serais = s.serais := rfl
@[simp] theorem State.send_cmds (s : State) (o : Out) : (s.send o).cmds = s.cmds := rfl
@[simp] theorem State.send_mem (s : State) (o : Out) : (s.send o).mem = s.mem := rfl
@[simp] theorem State.send_hostMem (s : State) (o : Out) : (s.send o).hostMem = s.hostMem := rfl
@[simp] theorem State.send_hostMem1 (s : State) (o : Out) : (s.send o).hostMem1 = s.hostMem1 := rfl
@[simp] theorem State.send_acts (s : State) (o : Out) : (s.send o).acts = s.acts := rfl
@[simp] theorem State.send_semWrites (s : State) (o : Out) : (s.send o).semWrites = s.semWrites := rfl
@[simp] theorem State.send_flashBad (s : State) (o : Out) : (s.send o).flashBad = s.flashBad := rfl
@[simp] theorem State.send_peerMem (s : State) (o : Out) : (s.send o).peerMem = s.peerMem := rfl
@[simp] theorem State.send_posted (s : State) (o : Out) : (s.send o).posted = s.posted := rfl
@[simp] theorem State.send_late (s : State) (o : Out) : (s.send o).late = s.late := rfl
@[simp] theorem State.send_atomics (s : State) (o : Out) : (s.send o).atomics = s.atomics := rfl
@[simp] theorem State.send_phops (s : State) (o : Out) : (s.send o).phops = s.phops := rfl
@[simp] theorem State.send_cons (s : State) (o : Out) : (s.send o).cons = s.cons := rfl
@[simp] theorem State.send_queues (s : State) (o : Out) : (s.send o).queues = s.queues := rfl
@[simp] theorem State.send_replays (s : State) (o : Out) : (s.send o).replays = s.replays := rfl
@[simp] theorem State.send_steps (s : State) (o : Out) : (s.send o).steps = s.steps := rfl
@[simp] theorem State.send_faultsOut (s : State) (o : Out) : (s.send o).faultsOut = s.faultsOut := rfl
@[simp] theorem State.send_eventsOut (s : State) (o : Out) : (s.send o).eventsOut = s.eventsOut := rfl
@[simp] theorem State.send_flits (s : State) (o : Out) : (s.send o).flits = s.flits := rfl
@[simp] theorem State.send_lastServed (s : State) (o : Out) : (s.send o).lastServed = s.lastServed := rfl
@[simp] theorem State.send_lastSelect (s : State) (o : Out) : (s.send o).lastSelect = s.lastSelect := rfl
@[simp] theorem State.send_lastPower (s : State) (o : Out) : (s.send o).lastPower = s.lastPower := rfl
@[simp] theorem State.send_lastWindow (s : State) (o : Out) : (s.send o).lastWindow = s.lastWindow := rfl
@[simp] theorem State.send_lastRound (s : State) (o : Out) : (s.send o).lastRound = s.lastRound := rfl
@[simp] theorem State.send_lastBeat (s : State) (o : Out) : (s.send o).lastBeat = s.lastBeat := rfl
@[simp] theorem State.send_pk (s : State) (o : Out) : (s.send o).pk = s.pk := rfl
@[simp] theorem State.send_pace (s : State) (o : Out) : (s.send o).pace = s.pace := rfl
@[simp] theorem State.send_tmons (s : State) (o : Out) : (s.send o).tmons = s.tmons := rfl
@[simp] theorem State.send_poison (s : State) (o : Out) : (s.send o).poison = s.poison := rfl
@[simp] theorem State.send_flash (s : State) (o : Out) : (s.send o).flash = s.flash := rfl
@[simp] theorem State.send_staging (s : State) (o : Out) : (s.send o).staging = s.staging := rfl
@[simp] theorem State.send_rejoins (s : State) (o : Out) : (s.send o).rejoins = s.rejoins := rfl
@[simp] theorem State.send_freeRelayGen (s : State) (o : Out) : (s.send o).freeRelayGen = s.freeRelayGen := rfl

@[simp] theorem State.modCon_now (s : State) (k : Nat) (f : Cons → Cons) : (s.modCon k f).now = s.now := by
  unfold State.modCon; split <;> rfl
@[simp] theorem State.modCon_tick (s : State) (k : Nat) (f : Cons → Cons) : (s.modCon k f).tick = s.tick := by
  unfold State.modCon; split <;> rfl
@[simp] theorem State.modCon_issue (s : State) (k : Nat) (f : Cons → Cons) : (s.modCon k f).issue = s.issue := by
  unfold State.modCon; split <;> rfl
@[simp] theorem State.modCon_inputs (s : State) (k : Nat) (f : Cons → Cons) : (s.modCon k f).inputs = s.inputs := by
  unfold State.modCon; split <;> rfl
@[simp] theorem State.modCon_outbox (s : State) (k : Nat) (f : Cons → Cons) : (s.modCon k f).outbox = s.outbox := by
  unfold State.modCon; split <;> rfl
@[simp] theorem State.modCon_free (s : State) (k : Nat) (f : Cons → Cons) : (s.modCon k f).free = s.free := by
  unfold State.modCon; split <;> rfl
@[simp] theorem State.modCon_nextId (s : State) (k : Nat) (f : Cons → Cons) : (s.modCon k f).nextId = s.nextId := by
  unfold State.modCon; split <;> rfl
@[simp] theorem State.modCon_ctxs (s : State) (k : Nat) (f : Cons → Cons) : (s.modCon k f).ctxs = s.ctxs := by
  unfold State.modCon; split <;> rfl
@[simp] theorem State.modCon_cores (s : State) (k : Nat) (f : Cons → Cons) : (s.modCon k f).cores = s.cores := by
  unfold State.modCon; split <;> rfl
@[simp] theorem State.modCon_groups (s : State) (k : Nat) (f : Cons → Cons) : (s.modCon k f).groups = s.groups := by
  unfold State.modCon; split <;> rfl
@[simp] theorem State.modCon_serais (s : State) (k : Nat) (f : Cons → Cons) : (s.modCon k f).serais = s.serais := by
  unfold State.modCon; split <;> rfl
@[simp] theorem State.modCon_cmds (s : State) (k : Nat) (f : Cons → Cons) : (s.modCon k f).cmds = s.cmds := by
  unfold State.modCon; split <;> rfl
@[simp] theorem State.modCon_mem (s : State) (k : Nat) (f : Cons → Cons) : (s.modCon k f).mem = s.mem := by
  unfold State.modCon; split <;> rfl
@[simp] theorem State.modCon_hostMem (s : State) (k : Nat) (f : Cons → Cons) : (s.modCon k f).hostMem = s.hostMem := by
  unfold State.modCon; split <;> rfl
@[simp] theorem State.modCon_hostMem1 (s : State) (k : Nat) (f : Cons → Cons) : (s.modCon k f).hostMem1 = s.hostMem1 := by
  unfold State.modCon; split <;> rfl
@[simp] theorem State.modCon_acts (s : State) (k : Nat) (f : Cons → Cons) : (s.modCon k f).acts = s.acts := by
  unfold State.modCon; split <;> rfl
@[simp] theorem State.modCon_semWrites (s : State) (k : Nat) (f : Cons → Cons) : (s.modCon k f).semWrites = s.semWrites := by
  unfold State.modCon; split <;> rfl
@[simp] theorem State.modCon_flashBad (s : State) (k : Nat) (f : Cons → Cons) : (s.modCon k f).flashBad = s.flashBad := by
  unfold State.modCon; split <;> rfl
@[simp] theorem State.modCon_peerMem (s : State) (k : Nat) (f : Cons → Cons) : (s.modCon k f).peerMem = s.peerMem := by
  unfold State.modCon; split <;> rfl
@[simp] theorem State.modCon_posted (s : State) (k : Nat) (f : Cons → Cons) : (s.modCon k f).posted = s.posted := by
  unfold State.modCon; split <;> rfl
@[simp] theorem State.modCon_late (s : State) (k : Nat) (f : Cons → Cons) : (s.modCon k f).late = s.late := by
  unfold State.modCon; split <;> rfl
@[simp] theorem State.modCon_atomics (s : State) (k : Nat) (f : Cons → Cons) : (s.modCon k f).atomics = s.atomics := by
  unfold State.modCon; split <;> rfl
@[simp] theorem State.modCon_phops (s : State) (k : Nat) (f : Cons → Cons) : (s.modCon k f).phops = s.phops := by
  unfold State.modCon; split <;> rfl
@[simp] theorem State.modCon_queues (s : State) (k : Nat) (f : Cons → Cons) : (s.modCon k f).queues = s.queues := by
  unfold State.modCon; split <;> rfl
@[simp] theorem State.modCon_replays (s : State) (k : Nat) (f : Cons → Cons) : (s.modCon k f).replays = s.replays := by
  unfold State.modCon; split <;> rfl
@[simp] theorem State.modCon_steps (s : State) (k : Nat) (f : Cons → Cons) : (s.modCon k f).steps = s.steps := by
  unfold State.modCon; split <;> rfl
@[simp] theorem State.modCon_faultsOut (s : State) (k : Nat) (f : Cons → Cons) : (s.modCon k f).faultsOut = s.faultsOut := by
  unfold State.modCon; split <;> rfl
@[simp] theorem State.modCon_eventsOut (s : State) (k : Nat) (f : Cons → Cons) : (s.modCon k f).eventsOut = s.eventsOut := by
  unfold State.modCon; split <;> rfl
@[simp] theorem State.modCon_flits (s : State) (k : Nat) (f : Cons → Cons) : (s.modCon k f).flits = s.flits := by
  unfold State.modCon; split <;> rfl
@[simp] theorem State.modCon_lastServed (s : State) (k : Nat) (f : Cons → Cons) : (s.modCon k f).lastServed = s.lastServed := by
  unfold State.modCon; split <;> rfl
@[simp] theorem State.modCon_lastSelect (s : State) (k : Nat) (f : Cons → Cons) : (s.modCon k f).lastSelect = s.lastSelect := by
  unfold State.modCon; split <;> rfl
@[simp] theorem State.modCon_lastPower (s : State) (k : Nat) (f : Cons → Cons) : (s.modCon k f).lastPower = s.lastPower := by
  unfold State.modCon; split <;> rfl
@[simp] theorem State.modCon_lastWindow (s : State) (k : Nat) (f : Cons → Cons) : (s.modCon k f).lastWindow = s.lastWindow := by
  unfold State.modCon; split <;> rfl
@[simp] theorem State.modCon_lastRound (s : State) (k : Nat) (f : Cons → Cons) : (s.modCon k f).lastRound = s.lastRound := by
  unfold State.modCon; split <;> rfl
@[simp] theorem State.modCon_lastBeat (s : State) (k : Nat) (f : Cons → Cons) : (s.modCon k f).lastBeat = s.lastBeat := by
  unfold State.modCon; split <;> rfl
@[simp] theorem State.modCon_pk (s : State) (k : Nat) (f : Cons → Cons) : (s.modCon k f).pk = s.pk := by
  unfold State.modCon; split <;> rfl
@[simp] theorem State.modCon_pace (s : State) (k : Nat) (f : Cons → Cons) : (s.modCon k f).pace = s.pace := by
  unfold State.modCon; split <;> rfl
@[simp] theorem State.modCon_tmons (s : State) (k : Nat) (f : Cons → Cons) : (s.modCon k f).tmons = s.tmons := by
  unfold State.modCon; split <;> rfl
@[simp] theorem State.modCon_poison (s : State) (k : Nat) (f : Cons → Cons) : (s.modCon k f).poison = s.poison := by
  unfold State.modCon; split <;> rfl
@[simp] theorem State.modCon_flash (s : State) (k : Nat) (f : Cons → Cons) : (s.modCon k f).flash = s.flash := by
  unfold State.modCon; split <;> rfl
@[simp] theorem State.modCon_staging (s : State) (k : Nat) (f : Cons → Cons) : (s.modCon k f).staging = s.staging := by
  unfold State.modCon; split <;> rfl
@[simp] theorem State.modCon_rejoins (s : State) (k : Nat) (f : Cons → Cons) : (s.modCon k f).rejoins = s.rejoins := by
  unfold State.modCon; split <;> rfl
@[simp] theorem State.modCon_freeRelayGen (s : State) (k : Nat) (f : Cons → Cons) : (s.modCon k f).freeRelayGen = s.freeRelayGen := by
  unfold State.modCon; split <;> rfl

@[simp] theorem State.startResult_now (s : State) (slot : Nat) (d : Dest) (v l : VWord) (st : List Mask) (lat : Nat) (fl : List Mask) :
    (s.startResult slot d v l st lat fl).now = s.now := rfl
@[simp] theorem State.startResult_tick (s : State) (slot : Nat) (d : Dest) (v l : VWord) (st : List Mask) (lat : Nat) (fl : List Mask) :
    (s.startResult slot d v l st lat fl).tick = s.tick := rfl
@[simp] theorem State.startResult_issue (s : State) (slot : Nat) (d : Dest) (v l : VWord) (st : List Mask) (lat : Nat) (fl : List Mask) :
    (s.startResult slot d v l st lat fl).issue = s.issue := rfl
@[simp] theorem State.startResult_inputs (s : State) (slot : Nat) (d : Dest) (v l : VWord) (st : List Mask) (lat : Nat) (fl : List Mask) :
    (s.startResult slot d v l st lat fl).inputs = s.inputs := rfl
@[simp] theorem State.startResult_outbox (s : State) (slot : Nat) (d : Dest) (v l : VWord) (st : List Mask) (lat : Nat) (fl : List Mask) :
    (s.startResult slot d v l st lat fl).outbox = s.outbox := rfl
@[simp] theorem State.startResult_free (s : State) (slot : Nat) (d : Dest) (v l : VWord) (st : List Mask) (lat : Nat) (fl : List Mask) :
    (s.startResult slot d v l st lat fl).free = s.free := rfl
@[simp] theorem State.startResult_nextId (s : State) (slot : Nat) (d : Dest) (v l : VWord) (st : List Mask) (lat : Nat) (fl : List Mask) :
    (s.startResult slot d v l st lat fl).nextId = s.nextId := rfl
@[simp] theorem State.startResult_cores (s : State) (slot : Nat) (d : Dest) (v l : VWord) (st : List Mask) (lat : Nat) (fl : List Mask) :
    (s.startResult slot d v l st lat fl).cores = s.cores := rfl
@[simp] theorem State.startResult_groups (s : State) (slot : Nat) (d : Dest) (v l : VWord) (st : List Mask) (lat : Nat) (fl : List Mask) :
    (s.startResult slot d v l st lat fl).groups = s.groups := rfl
@[simp] theorem State.startResult_serais (s : State) (slot : Nat) (d : Dest) (v l : VWord) (st : List Mask) (lat : Nat) (fl : List Mask) :
    (s.startResult slot d v l st lat fl).serais = s.serais := rfl
@[simp] theorem State.startResult_cmds (s : State) (slot : Nat) (d : Dest) (v l : VWord) (st : List Mask) (lat : Nat) (fl : List Mask) :
    (s.startResult slot d v l st lat fl).cmds = s.cmds := rfl
@[simp] theorem State.startResult_mem (s : State) (slot : Nat) (d : Dest) (v l : VWord) (st : List Mask) (lat : Nat) (fl : List Mask) :
    (s.startResult slot d v l st lat fl).mem = s.mem := rfl
@[simp] theorem State.startResult_hostMem (s : State) (slot : Nat) (d : Dest) (v l : VWord) (st : List Mask) (lat : Nat) (fl : List Mask) :
    (s.startResult slot d v l st lat fl).hostMem = s.hostMem := rfl
@[simp] theorem State.startResult_hostMem1 (s : State) (slot : Nat) (d : Dest) (v l : VWord) (st : List Mask) (lat : Nat) (fl : List Mask) :
    (s.startResult slot d v l st lat fl).hostMem1 = s.hostMem1 := rfl
@[simp] theorem State.startResult_acts (s : State) (slot : Nat) (d : Dest) (v l : VWord) (st : List Mask) (lat : Nat) (fl : List Mask) :
    (s.startResult slot d v l st lat fl).acts = s.acts := rfl
@[simp] theorem State.startResult_semWrites (s : State) (slot : Nat) (d : Dest) (v l : VWord) (st : List Mask) (lat : Nat) (fl : List Mask) :
    (s.startResult slot d v l st lat fl).semWrites = s.semWrites := rfl
@[simp] theorem State.startResult_flashBad (s : State) (slot : Nat) (d : Dest) (v l : VWord) (st : List Mask) (lat : Nat) (fl : List Mask) :
    (s.startResult slot d v l st lat fl).flashBad = s.flashBad := rfl
@[simp] theorem State.startResult_peerMem (s : State) (slot : Nat) (d : Dest) (v l : VWord) (st : List Mask) (lat : Nat) (fl : List Mask) :
    (s.startResult slot d v l st lat fl).peerMem = s.peerMem := rfl
@[simp] theorem State.startResult_posted (s : State) (slot : Nat) (d : Dest) (v l : VWord) (st : List Mask) (lat : Nat) (fl : List Mask) :
    (s.startResult slot d v l st lat fl).posted = s.posted := rfl
@[simp] theorem State.startResult_late (s : State) (slot : Nat) (d : Dest) (v l : VWord) (st : List Mask) (lat : Nat) (fl : List Mask) :
    (s.startResult slot d v l st lat fl).late = s.late := rfl
@[simp] theorem State.startResult_atomics (s : State) (slot : Nat) (d : Dest) (v l : VWord) (st : List Mask) (lat : Nat) (fl : List Mask) :
    (s.startResult slot d v l st lat fl).atomics = s.atomics := rfl
@[simp] theorem State.startResult_phops (s : State) (slot : Nat) (d : Dest) (v l : VWord) (st : List Mask) (lat : Nat) (fl : List Mask) :
    (s.startResult slot d v l st lat fl).phops = s.phops := rfl
@[simp] theorem State.startResult_cons (s : State) (slot : Nat) (d : Dest) (v l : VWord) (st : List Mask) (lat : Nat) (fl : List Mask) :
    (s.startResult slot d v l st lat fl).cons = s.cons := rfl
@[simp] theorem State.startResult_queues (s : State) (slot : Nat) (d : Dest) (v l : VWord) (st : List Mask) (lat : Nat) (fl : List Mask) :
    (s.startResult slot d v l st lat fl).queues = s.queues := rfl
@[simp] theorem State.startResult_replays (s : State) (slot : Nat) (d : Dest) (v l : VWord) (st : List Mask) (lat : Nat) (fl : List Mask) :
    (s.startResult slot d v l st lat fl).replays = s.replays := rfl
@[simp] theorem State.startResult_steps (s : State) (slot : Nat) (d : Dest) (v l : VWord) (st : List Mask) (lat : Nat) (fl : List Mask) :
    (s.startResult slot d v l st lat fl).steps = s.steps := rfl
@[simp] theorem State.startResult_faultsOut (s : State) (slot : Nat) (d : Dest) (v l : VWord) (st : List Mask) (lat : Nat) (fl : List Mask) :
    (s.startResult slot d v l st lat fl).faultsOut = s.faultsOut := rfl
@[simp] theorem State.startResult_eventsOut (s : State) (slot : Nat) (d : Dest) (v l : VWord) (st : List Mask) (lat : Nat) (fl : List Mask) :
    (s.startResult slot d v l st lat fl).eventsOut = s.eventsOut := rfl
@[simp] theorem State.startResult_flits (s : State) (slot : Nat) (d : Dest) (v l : VWord) (st : List Mask) (lat : Nat) (fl : List Mask) :
    (s.startResult slot d v l st lat fl).flits = s.flits := rfl
@[simp] theorem State.startResult_lastServed (s : State) (slot : Nat) (d : Dest) (v l : VWord) (st : List Mask) (lat : Nat) (fl : List Mask) :
    (s.startResult slot d v l st lat fl).lastServed = s.lastServed := rfl
@[simp] theorem State.startResult_lastSelect (s : State) (slot : Nat) (d : Dest) (v l : VWord) (st : List Mask) (lat : Nat) (fl : List Mask) :
    (s.startResult slot d v l st lat fl).lastSelect = s.lastSelect := rfl
@[simp] theorem State.startResult_lastPower (s : State) (slot : Nat) (d : Dest) (v l : VWord) (st : List Mask) (lat : Nat) (fl : List Mask) :
    (s.startResult slot d v l st lat fl).lastPower = s.lastPower := rfl
@[simp] theorem State.startResult_lastWindow (s : State) (slot : Nat) (d : Dest) (v l : VWord) (st : List Mask) (lat : Nat) (fl : List Mask) :
    (s.startResult slot d v l st lat fl).lastWindow = s.lastWindow := rfl
@[simp] theorem State.startResult_lastRound (s : State) (slot : Nat) (d : Dest) (v l : VWord) (st : List Mask) (lat : Nat) (fl : List Mask) :
    (s.startResult slot d v l st lat fl).lastRound = s.lastRound := rfl
@[simp] theorem State.startResult_lastBeat (s : State) (slot : Nat) (d : Dest) (v l : VWord) (st : List Mask) (lat : Nat) (fl : List Mask) :
    (s.startResult slot d v l st lat fl).lastBeat = s.lastBeat := rfl
@[simp] theorem State.startResult_pk (s : State) (slot : Nat) (d : Dest) (v l : VWord) (st : List Mask) (lat : Nat) (fl : List Mask) :
    (s.startResult slot d v l st lat fl).pk = s.pk := rfl
@[simp] theorem State.startResult_pace (s : State) (slot : Nat) (d : Dest) (v l : VWord) (st : List Mask) (lat : Nat) (fl : List Mask) :
    (s.startResult slot d v l st lat fl).pace = s.pace := rfl
@[simp] theorem State.startResult_tmons (s : State) (slot : Nat) (d : Dest) (v l : VWord) (st : List Mask) (lat : Nat) (fl : List Mask) :
    (s.startResult slot d v l st lat fl).tmons = s.tmons := rfl
@[simp] theorem State.startResult_poison (s : State) (slot : Nat) (d : Dest) (v l : VWord) (st : List Mask) (lat : Nat) (fl : List Mask) :
    (s.startResult slot d v l st lat fl).poison = s.poison := rfl
@[simp] theorem State.startResult_flash (s : State) (slot : Nat) (d : Dest) (v l : VWord) (st : List Mask) (lat : Nat) (fl : List Mask) :
    (s.startResult slot d v l st lat fl).flash = s.flash := rfl
@[simp] theorem State.startResult_staging (s : State) (slot : Nat) (d : Dest) (v l : VWord) (st : List Mask) (lat : Nat) (fl : List Mask) :
    (s.startResult slot d v l st lat fl).staging = s.staging := rfl
@[simp] theorem State.startResult_rejoins (s : State) (slot : Nat) (d : Dest) (v l : VWord) (st : List Mask) (lat : Nat) (fl : List Mask) :
    (s.startResult slot d v l st lat fl).rejoins = s.rejoins := rfl
@[simp] theorem State.startResult_freeRelayGen (s : State) (slot : Nat) (d : Dest) (v l : VWord) (st : List Mask) (lat : Nat) (fl : List Mask) :
    (s.startResult slot d v l st lat fl).freeRelayGen = s.freeRelayGen := rfl
/-! ## What a look-up gives after an update -/

@[simp] theorem State.ctx_setCtx (s : State) (k : Nat) (c : Ctx) (q : Nat) : (s.setCtx k c).ctx q = if q = k then c else s.ctx q := by
  simp only [State.ctx, State.setCtx, Table.find?_put]; split <;> rfl

@[simp] theorem State.ctx_modCtx (s : State) (k : Nat) (f : Ctx → Ctx) (q : Nat) :
    (s.modCtx k f).ctx q = if q = k then f (s.ctx k) else s.ctx q := State.ctx_setCtx ..

@[simp] theorem State.core_modCore (s : State) (k : Nat) (f : Core → Core) (q : Nat) :
    (s.modCore k f).core q = if q = k then f (s.core k) else s.core q := by
  simp only [State.core, State.modCore, Table.find?_put]; split <;> rfl

@[simp] theorem State.group_modGroup (s : State) (k : Nat) (f : Group → Group) (q : Nat) :
    (s.modGroup k f).group q = if q = k then f (s.group k) else s.group q := by
  simp only [State.group, State.modGroup, Table.find?_put]; split <;> rfl

@[simp] theorem State.serai_modSerai (s : State) (k : Nat) (f : Serai → Serai) (q : Nat) :
    (s.modSerai k f).serai q = if q = k then f (s.serai k) else s.serai q := by
  simp only [State.serai, State.modSerai, Table.find?_put]; split <;> rfl

@[simp] theorem State.queue_modQueue (s : State) (k : Nat) (f : Queue → Queue) (q : Nat) :
    (s.modQueue k f).queue q = if q = k then f (s.queue k) else s.queue q := by
  simp only [State.queue, State.modQueue, Table.find?_put]; split <;> rfl

@[simp] theorem State.tmon_modTmon (s : State) (k : Nat) (f : Tmon → Tmon) (q : Nat) :
    (s.modTmon k f).tmon q = if q = k then f (s.tmon k) else s.tmon q := by
  simp only [State.tmon, State.modTmon, Table.find?_put]; split <;> rfl

@[simp] theorem State.con?_modCon (s : State) (k : Nat) (f : Cons → Cons) (q : Nat) :
    (s.modCon k f).con? q = if q = k then (s.con? k).map f else s.con? q := by
  cases h : s.con? k with
  | none =>
    have e : s.modCon k f = s := by simp [State.modCon, h]
    rw [e]
    by_cases hq : q = k
    · subst hq; simpa using h
    · simp [hq]
  | some c =>
    have e : s.modCon k f = { s with cons := Table.put s.cons k (f c) } := by simp [State.modCon, h]
    rw [e]
    simp only [State.con?, Table.find?_put]
    rfl

@[simp] theorem State.pk_modPk (s : State) (f : PkgRegs → PkgRegs) : (s.modPk f).pk = f s.pk := rfl
@[simp] theorem State.pace_modPace (s : State) (f : Pace → Pace) : (s.modPace f).pace = f s.pace := rfl
@[simp] theorem State.cmds_modCmd (s : State) (id : Nat) (f : Cmd → Cmd) :
    (s.modCmd id f).cmds = s.cmds.map fun c => if c.id = id then f c else c := rfl
@[simp] theorem State.cmds_dropCmd (s : State) (id : Nat) : (s.dropCmd id).cmds = s.cmds.filter fun c => c.id != id := rfl
@[simp] theorem State.nextId_fresh (s : State) : s.fresh.nextId = s.nextId + 1 := rfl
@[simp] theorem State.outbox_send (s : State) (o : Out) : (s.send o).outbox = s.outbox ++ [o] := rfl

/-! ## Look-ups that an update does not touch -/

@[simp] theorem State.serai_modCtx (s : State) (k : Nat) (f : Ctx → Ctx) (q : Nat) : (s.modCtx k f).serai q = s.serai q := rfl
@[simp] theorem State.group_modCtx (s : State) (k : Nat) (f : Ctx → Ctx) (q : Nat) : (s.modCtx k f).group q = s.group q := rfl
@[simp] theorem State.core_modCtx (s : State) (k : Nat) (f : Ctx → Ctx) (q : Nat) : (s.modCtx k f).core q = s.core q := rfl
@[simp] theorem State.con?_modCtx (s : State) (k : Nat) (f : Ctx → Ctx) (q : Nat) : (s.modCtx k f).con? q = s.con? q := rfl
@[simp] theorem State.queue_modCtx (s : State) (k : Nat) (f : Ctx → Ctx) (q : Nat) : (s.modCtx k f).queue q = s.queue q := rfl
@[simp] theorem State.cycleOf_modCtx (s : State) (k : Nat) (f : Ctx → Ctx) (q : Nat) : (s.modCtx k f).cycleOf q = s.cycleOf q := rfl
@[simp] theorem State.ctx_modGroup (s : State) (k : Nat) (f : Group → Group) (q : Nat) : (s.modGroup k f).ctx q = s.ctx q := rfl
@[simp] theorem State.serai_modGroup (s : State) (k : Nat) (f : Group → Group) (q : Nat) : (s.modGroup k f).serai q = s.serai q := rfl
@[simp] theorem State.cycleOf_modGroup (s : State) (k : Nat) (f : Group → Group) (q : Nat) : (s.modGroup k f).cycleOf q = s.cycleOf q := rfl
@[simp] theorem State.ctx_modCore (s : State) (k : Nat) (f : Core → Core) (q : Nat) : (s.modCore k f).ctx q = s.ctx q := rfl
@[simp] theorem State.group_modCore (s : State) (k : Nat) (f : Core → Core) (q : Nat) : (s.modCore k f).group q = s.group q := rfl
@[simp] theorem State.serai_modCore (s : State) (k : Nat) (f : Core → Core) (q : Nat) : (s.modCore k f).serai q = s.serai q := rfl
@[simp] theorem State.ctx_modSerai (s : State) (k : Nat) (f : Serai → Serai) (q : Nat) : (s.modSerai k f).ctx q = s.ctx q := rfl
@[simp] theorem State.group_modSerai (s : State) (k : Nat) (f : Serai → Serai) (q : Nat) : (s.modSerai k f).group q = s.group q := rfl
@[simp] theorem State.ctx_modCmd (s : State) (id : Nat) (f : Cmd → Cmd) (q : Nat) : (s.modCmd id f).ctx q = s.ctx q := rfl
@[simp] theorem State.group_modCmd (s : State) (id : Nat) (f : Cmd → Cmd) (q : Nat) : (s.modCmd id f).group q = s.group q := rfl
@[simp] theorem State.serai_modCmd (s : State) (id : Nat) (f : Cmd → Cmd) (q : Nat) : (s.modCmd id f).serai q = s.serai q := rfl
@[simp] theorem State.ctx_modPk (s : State) (f : PkgRegs → PkgRegs) (q : Nat) : (s.modPk f).ctx q = s.ctx q := rfl
@[simp] theorem State.serai_modPk (s : State) (f : PkgRegs → PkgRegs) (q : Nat) : (s.modPk f).serai q = s.serai q := rfl
@[simp] theorem State.ctx_modPace (s : State) (f : Pace → Pace) (q : Nat) : (s.modPace f).ctx q = s.ctx q := rfl
@[simp] theorem State.serai_modPace (s : State) (f : Pace → Pace) (q : Nat) : (s.modPace f).serai q = s.serai q := rfl

/-! ## The bundle under issue and its results -/

@[simp] theorem State.me_modMe (s : State) (f : Ctx → Ctx) : (s.modMe f).me = f s.me := by
  simp [State.me, State.modMe]

@[simp] theorem State.ctx_modMe (s : State) (f : Ctx → Ctx) (q : Nat) :
    (s.modMe f).ctx q = if q = s.issue.cid then f s.me else s.ctx q := by simp [State.me, State.modMe]

/-- What starting a result does: the context under issue has one more pending result, and nothing else changes. -/
theorem State.startResult_eq (s : State) (slot : Nat) (d : Dest) (v l : VWord) (st : List Mask) (lat : Nat) (fl : List Mask) :
    ∃ r : Result, s.startResult slot d v l st lat fl = s.modMe (fun c => { c with order := c.order + 1, pend := c.pend ++ [r] }) ∧
      r.dest = d ∧ r.value = v ∧ r.lanes = l ∧ r.stack = st ∧ r.due = s.myCycle + lat ∧ r.slot = slot ∧ r.flags = fl ∧
      r.order = s.me.order ∧ r.handler = s.me.regs.inh ∧ r.poisoned = false :=
  ⟨⟨d, v, l, st, s.myCycle + lat, slot, s.me.order, s.myCycle, s.issue.pc, fl, false, s.me.regs.inh, false, none⟩,
    rfl, rfl, rfl, rfl, rfl, rfl, rfl, rfl, rfl, rfl, rfl⟩

/-- The results of a bundle only extend what its context has pending (R90). -/
theorem State.startResult_me (s : State) (slot : Nat) (d : Dest) (v l : VWord) (st : List Mask) (lat : Nat) (fl : List Mask) :
    ∃ r : Result, (s.startResult slot d v l st lat fl).me = { s.me with order := s.me.order + 1, pend := s.me.pend ++ [r] } := by
  obtain ⟨r, h, -⟩ := s.startResult_eq slot d v l st lat fl
  exact ⟨r, by rw [h]; simp⟩

@[simp] theorem State.landS_zero (s : State) (slot lat : Nat) (x : Word) : s.landS slot 0#6 x lat = s := rfl
@[simp] theorem State.landA_zero (s : State) (slot lat : Nat) (x : Word) : s.landA slot 0#5 x lat = s := rfl

/-- Starting a scalar result either does nothing, for s0, or starts one result. -/
theorem State.landS_cases (s : State) (slot : Nat) (r : BitVec 6) (x : Word) (lat : Nat) :
    (r = 0 ∧ s.landS slot r x lat = s) ∨ (r ≠ 0 ∧ s.landS slot r x lat = s.startResult slot (.s r) (x.setWidth 1024) 0 [] lat []) := by
  by_cases h : r = 0
  · exact .inl ⟨h, if_pos h⟩
  · exact .inr ⟨h, if_neg h⟩

theorem State.landA_cases (s : State) (slot : Nat) (r : BitVec 5) (x : Word) (lat : Nat) :
    (r = 0 ∧ s.landA slot r x lat = s) ∨ (r ≠ 0 ∧ s.landA slot r x lat = s.startResult slot (.a r) (x.setWidth 1024) 0 [] lat []) := by
  by_cases h : r = 0
  · exact .inl ⟨h, if_pos h⟩
  · exact .inr ⟨h, if_neg h⟩

end Sys2Proof.Machine
end

