-- ==== Sys2Proof/Laws/Memory.lean ====
section
/-! SUPPORT. The memories: which shared operations leave them as they are, and that every operation that writes them keeps
their canonical form. -/

namespace Sys2Proof.Machine

open Sys2Proof

/-- The memories of a state. -/
def State.memories (s : State) : Store 8 × Store 8 × Store 8 × Store 8 × Store 8 := (s.mem, s.hostMem, s.hostMem1, s.peerMem, s.staging)

theorem State.memories_eq {s t : State} (h : t.memories = s.memories) :
    t.mem = s.mem ∧ t.hostMem = s.hostMem ∧ t.hostMem1 = s.hostMem1 ∧ t.peerMem = s.peerMem ∧ t.staging = s.staging := by
  simpa [State.memories] using h

theorem State.memWf_of_memories {s t : State} (h : t.memories = s.memories) (w : s.memWf = true) : t.memWf = true := by
  obtain ⟨h1, h2, h3, h4, h5⟩ := State.memories_eq h
  simpa only [memWf, h1, h2, h3, h4, h5] using w

theorem sameMemory_of_memories {s t : State} (h : t.memories = s.memories) : sameMemory s t := by
  obtain ⟨h1, h2, h3, h4, -⟩ := State.memories_eq h
  intro a
  rw [h1, h2, h3, h4]
  exact ⟨rfl, rfl, rfl, rfl⟩

theorem sameMemory.refl (s : State) : sameMemory s s := fun _ => ⟨rfl, rfl, rfl, rfl⟩

theorem sameMemory.trans {s t u : State} (h : sameMemory s t) (g : sameMemory t u) : sameMemory s u := fun a =>
  ⟨(g a).1.trans (h a).1, (g a).2.1.trans (h a).2.1, (g a).2.2.1.trans (h a).2.2.1, (g a).2.2.2.trans (h a).2.2.2⟩

theorem State.reset_memWf : State.reset.memWf = true := rfl

/-! ## Updates that leave the memories as they are -/

section
variable (s : State)

@[simp] theorem State.setCtx_memories (k : Nat) (c : Ctx) : (s.setCtx k c).memories = s.memories := rfl
@[simp] theorem State.modCtx_memories (k : Nat) (f : Ctx → Ctx) : (s.modCtx k f).memories = s.memories := rfl
@[simp] theorem State.modMe_memories (f : Ctx → Ctx) : (s.modMe f).memories = s.memories := rfl
@[simp] theorem State.modCore_memories (k : Nat) (f : Core → Core) : (s.modCore k f).memories = s.memories := rfl
@[simp] theorem State.modGroup_memories (k : Nat) (f : Group → Group) : (s.modGroup k f).memories = s.memories := rfl
@[simp] theorem State.modRelay_memories (g k : Nat) (f : Relay → Relay) : (s.modRelay g k f).memories = s.memories := rfl
@[simp] theorem State.modSerai_memories (k : Nat) (f : Serai → Serai) : (s.modSerai k f).memories = s.memories := rfl
@[simp] theorem State.modQueue_memories (k : Nat) (f : Queue → Queue) : (s.modQueue k f).memories = s.memories := rfl
@[simp] theorem State.modTmon_memories (k : Nat) (f : Tmon → Tmon) : (s.modTmon k f).memories = s.memories := rfl
@[simp] theorem State.modPk_memories (f : PkgRegs → PkgRegs) : (s.modPk f).memories = s.memories := rfl
@[simp] theorem State.tally_memories (reg lo n : Nat) : (s.tally reg lo n).memories = s.memories := rfl
@[simp] theorem State.modPace_memories (f : Pace → Pace) : (s.modPace f).memories = s.memories := rfl
@[simp] theorem State.modCmd_memories (k : Nat) (f : Cmd → Cmd) : (s.modCmd k f).memories = s.memories := rfl
@[simp] theorem State.dropCmd_memories (k : Nat) : (s.dropCmd k).memories = s.memories := rfl
@[simp] theorem State.fresh_memories : s.fresh.memories = s.memories := rfl
@[simp] theorem State.send_memories (o : Out) : (s.send o).memories = s.memories := rfl
@[simp] theorem State.modCon_memories (k : Nat) (f : Cons → Cons) : (s.modCon k f).memories = s.memories := by
  unfold State.modCon; split <;> rfl
@[simp] theorem State.startResult_memories (slot : Nat) (d : Dest) (v l : VWord) (st : List Mask) (lat : Nat) (fl : List Mask) :
    (s.startResult slot d v l st lat fl).memories = s.memories := rfl
@[simp] theorem State.landS_memories (slot : Nat) (r : BitVec 6) (x : Word) (lat : Nat) : (s.landS slot r x lat).memories = s.memories := by
  unfold State.landS; split <;> simp
@[simp] theorem State.landA_memories (slot : Nat) (r : BitVec 5) (x : Word) (lat : Nat) : (s.landA slot r x lat).memories = s.memories := by
  unfold State.landA; split <;> simp
@[simp] theorem State.landFp_memories (slot : Nat) (r : BitVec 6) (x : Word) (lat : Nat) (f : FpFlags) :
    (s.landFp slot r x lat f).memories = s.memories := by
  unfold State.landFp; split <;> simp
@[simp] theorem State.landV_memories (slot : Nat) (r : BitVec 10) (x l : VWord) (lat : Nat) (f : List Mask) :
    (s.landV slot r x l lat f).memories = s.memories := rfl
@[simp] theorem State.landM_memories (slot sel : Nat) (x : Mask) : (s.landM slot sel x).memories = s.memories := by
  unfold State.landM; split <;> simp
@[simp] theorem State.landStack_memories (slot : Nat) (st : List Mask) : (s.landStack slot st).memories = s.memories := rfl
@[simp] theorem State.landCr_memories (slot : Nat) (i : BitVec 12) (x : Word) (lat : Nat) : (s.landCr slot i x lat).memories = s.memories := rfl
@[simp] theorem State.semPut_memories (g core n v : Nat) (sat : Bool) : (s.semPut g core n v sat).memories = s.memories := rfl
@[simp] theorem State.semAssign_memories (g core n : Nat) (x : Int) : (s.semAssign g core n x).memories = s.memories := rfl
@[simp] theorem State.semChange_memories (g core n : Nat) (d : Int) : (s.semChange g core n d).memories = s.memories := rfl
@[simp] theorem State.semDo_memories (k id : Nat) (b : Bool) (n : Nat) (x : Int) : (s.semDo k id b n x).memories = s.memories := by
  cases b <;> rfl
@[simp] theorem State.semByContext_memories (b : Bool) (n : Nat) (x : Int) : (s.semByContext b n x).memories = s.memories := by
  unfold State.semByContext
  split
  · rfl
  · simp
@[simp] theorem State.postPiece_memories (k h : Nat) (p : Piece) : (s.postPiece k h p).memories = s.memories := rfl
@[simp] theorem State.post_memories (k : Nat) (p : Piece) : (s.post k p).memories = s.memories := rfl
@[simp] theorem State.link_memories (k : Nat) (p : Posted → Bool) : (s.link k p).memories = s.memories := rfl
@[simp] theorem State.noteRead_memories (k : Nat) : (s.noteRead k).memories = s.memories := rfl
@[simp] theorem State.coverDrains_memories (k : Nat) : (s.coverDrains k).memories = s.memories := rfl
@[simp] theorem State.padWrite_memories (g : Nat) (side : Bool) (a : Nat) (d : List Byte) : (s.padWrite g side a d).memories = s.memories := rfl
@[simp] theorem State.msi_memories (v : Nat) (l : List Nat) : (s.msi v l).memories = s.memories := rfl

/-- What entering the coherence order does: it changes the posted stores and nothing else. -/
theorem State.enter_eq (s : State) (xs : List Posted) : ∃ l : List Posted, s.enter xs = { s with posted := l } := by
  unfold State.enter
  have key : ∀ (xs : List Posted) (l0 : List Posted), ∃ l : List Posted,
      xs.foldl (fun (s : State) x =>
        let x := { x with born := s.now }
        let later (y : Posted) : Bool := !y.out || (y.born == s.now && y.after x)
        { s with posted := (s.posted.takeWhile fun y => !later y) ++ x :: (s.posted.dropWhile fun y => !later y) })
        { s with posted := l0 } = { s with posted := l } := by
    intro xs
    induction xs with
    | nil => intro l0; exact ⟨l0, rfl⟩
    | cons x xs ih => intro l0; exact ih _
  exact key xs s.posted

@[simp] theorem State.enter_memories (xs : List Posted) : (s.enter xs).memories = s.memories := by
  obtain ⟨l, h⟩ := s.enter_eq xs; rw [h]; rfl
@[simp] theorem State.publish_memories (scope core : Nat) (p : Posted → Bool) : (s.publish scope core p).memories = s.memories :=
  (State.enter_memories _ _).trans rfl
@[simp] theorem State.performed_memories (kind : WriteKind) (id cid mt a : Nat) (d : List Byte) :
    (s.performed kind id cid mt a d).memories = s.memories := (State.enter_memories _ _).trans rfl
@[simp] theorem State.engineWrite_memories (cid mt a : Nat) (d : List Byte) : (s.engineWrite cid mt a d).memories = s.memories :=
  s.performed_memories .engine s.nextId cid mt a d
@[simp] theorem State.releaseOf_memories (k scope : Nat) (rels : List Rel) (b : Posted → Bool) :
    (s.releaseOf k scope rels b).2.memories = s.memories :=
  (State.modCtx_memories _ _ _).trans (State.publish_memories _ _ _ _)
@[simp] theorem State.releaseAt_memories (k scope : Nat) : (s.releaseAt k scope).2.memories = s.memories := s.releaseOf_memories _ _ _ _
@[simp] theorem State.push_memories (q : QueueId) (tail : BitVec 24) (op : CmdOp) (n : Nat) : (s.push q tail op n).memories = s.memories := by
  unfold State.push
  dsimp only
  split
  · rfl
  · exact s.publish_memories _ _ _

end

/-- A fold whose every step leaves the memories as they are does so too. -/
theorem State.foldl_memories {α : Type} (f : State → α → State) (hf : ∀ s x, (f s x).memories = s.memories) (l : List α) (s : State) :
    (l.foldl f s).memories = s.memories := by
  induction l generalizing s with
  | nil => rfl
  | cons x l ih => rw [List.foldl_cons, ih, hf]

/-- A fold whose every step keeps the canonical form does so too. -/
theorem State.foldl_memWf {α : Type} (f : State → α → State) (hf : ∀ s x, s.memWf = true → (f s x).memWf = true) (l : List α) {s : State}
    (h : s.memWf = true) : (l.foldl f s).memWf = true := by
  induction l generalizing s with
  | nil => exact h
  | cons x l ih => exact ih (hf s x h)

section
variable (s : State)

@[simp] theorem State.endLease_memories (k : Nat) (again : Bool) : (s.endLease k again).memories = s.memories := by
  unfold State.endLease
  split
  · rfl
  · dsimp only
    split
    · split
      · split <;> rfl
      · rfl
    · rfl

@[simp] theorem State.killCon_memories (k status reason : Nat) : (s.killCon k status reason).memories = s.memories := by
  unfold State.killCon
  split
  · rfl
  · split
    · rfl
    · exact (State.foldl_memories (fun (s : State) cid => (s.endLease cid false).modCtx cid Ctx.dropWork) (fun s cid => by simp) _ _).trans
        (s.modCon_memories k _)

@[simp] theorem State.outriderStop_memories (die code : Nat) : (s.outriderStop die code).memories = s.memories := by
  unfold State.outriderStop
  refine (State.tally_memories _ _ _ _).trans ((State.tally_memories _ _ _ _).trans ?_)
  split <;> split <;> rfl

@[simp] theorem State.openTrap_memories (t : TrapInfo) : (s.openTrap t).2.memories = s.memories := by
  unfold State.openTrap; dsimp only; split
  · rfl
  · split <;> rfl

@[simp] theorem State.undoTakes_memories (g : Nat) (l : List Nat) : (s.undoTakes g l).memories = s.memories := by
  unfold State.undoTakes
  dsimp only
  refine (State.foldl_memories _ (fun s x => by simp) _ _).trans (State.foldl_memories _ (fun s x => by simp) _ _)

@[simp] theorem State.rollback_memories (k : Nat) : (s.rollback k).memories = s.memories := by
  unfold State.rollback; split <;> simp

@[simp] theorem State.parkOne_memories (seq k : Nat) : (s.parkOne seq k).memories = s.memories := by
  unfold State.parkOne; dsimp only; split <;> simp

@[simp] theorem State.parkGroup_memories (k seq : Nat) : (s.parkGroup k seq).memories = s.memories :=
  (State.foldl_memories (fun (s : State) k => s.parkOne seq k) (fun s k => s.parkOne_memories seq k) _ _).trans
    (s.undoTakes_memories _ _)

@[simp] theorem State.flushLate_memories : s.flushLate.memories = s.memories := by
  have h := State.foldl_memories (fun (s : State) (l : Late) => s.padWrite l.gid l.side l.addr l.data) (fun s x => rfl)
    (s.late.mergeSort fun a b => decide (coreOf a.cid ≤ coreOf b.cid)) { s with late := [] }
  unfold State.flushLate
  dsimp only
  split
  · exact h
  · exact h

@[simp] theorem State.maskSteps_memories : s.maskSteps.memories = s.memories := by
  unfold State.maskSteps; split <;> rfl

@[simp] theorem State.refreshLeases_memories : s.refreshLeases.memories = s.memories :=
  State.foldl_memories _ (fun s k => by split <;> simp) _ _

end

/-! ## Operations that write a memory keep the canonical form -/

section
variable {s : State}

theorem State.memWf_iff : s.memWf = true ↔
    s.mem.wf = true ∧ s.hostMem.wf = true ∧ s.hostMem1.wf = true ∧ s.peerMem.wf = true ∧ s.staging.wf = true := by
  simp [State.memWf, Memory.wf, and_assoc]

theorem State.backing_wf (h : s.memWf = true) (mt : Nat) : (s.backing mt).wf = true := by
  obtain ⟨h1, h2, h3, h4, -⟩ := State.memWf_iff.1 h
  unfold State.backing; split <;> assumption

theorem State.setBacking_memWf (h : s.memWf = true) (mt : Nat) {m : Store 8} (hm : m.wf = true) : (s.setBacking mt m).memWf = true := by
  obtain ⟨h1, h2, h3, h4, h5⟩ := State.memWf_iff.1 h
  unfold State.setBacking
  split <;> exact State.memWf_iff.2 ⟨by assumption, by assumption, by assumption, by assumption, by assumption⟩

theorem State.writeHome_memWf (h : s.memWf = true) (mt a : Nat) (d : List Byte) : (s.writeHome mt a d).memWf = true := by
  unfold State.writeHome
  dsimp only
  split
  · exact State.memWf_of_memories (State.performed_memories { s with poison := clearPoison mt a d.length s.poison } .host s.nextId
      Config.outriderBase mt a d) h
  · exact State.setBacking_memWf (s := { s with poison := clearPoison mt a d.length s.poison }) h mt
      (Store.wf_setBytes (State.backing_wf (s := { s with poison := clearPoison mt a d.length s.poison }) h mt) a d)

theorem settle_memWf (l : List Posted) (h : s.memWf = true) : (settle l s).2.memWf = true := by
  induction l generalizing s with
  | nil => exact h
  | cons p l ih =>
    unfold settle
    split
    · split
      · exact ih (State.setBacking_memWf h _ (Store.wf_setBytes (State.backing_wf h _) _ _))
      · exact h
    · exact ih h

theorem State.settleAll_memWf (h : s.memWf = true) : s.settleAll.memWf = true := settle_memWf s.posted h

theorem State.releaseAt_memWf (h : s.memWf = true) (k scope : Nat) : (s.releaseAt k scope).2.memWf = true :=
  State.memWf_of_memories (s.releaseAt_memories k scope) h

theorem State.commitOp_memWf (h : s.memWf = true) (k : Nat) (g : GateOp) : (s.commitOp k g).memWf = true := by
  cases g with
  | scratch side ws => exact h
  | global ea ps => exact State.memWf_of_memories (State.foldl_memories (fun (t : State) p => t.postPiece k s.nextId p) (fun s p => rfl) ps s) h
  | give rb => exact h
  | release sc => exact State.memWf_of_memories (s.releaseOf_memories _ _ _ _) h

theorem State.commitRegion_memWf (h : s.memWf = true) (k : Nat) : (s.commitRegion k).memWf = true := by
  unfold State.commitRegion
  split
  · exact h
  · exact State.foldl_memWf (fun (s : State) g => s.commitOp k g) (fun s g hs => State.commitOp_memWf hs k g) _
      (s := s.modCtx k _) h

theorem State.mark_memWf (h : s.memWf = true) (k : Nat) : (s.mark k).memWf = true := by
  unfold State.mark
  have := State.commitRegion_memWf h k
  dsimp only
  split
  · exact this
  · exact this

theorem State.takeTrap_memWf (h : s.memWf = true) (k : Nat) (t : TrapInfo) : (s.takeTrap k t).memWf = true := by
  unfold State.takeTrap
  have h1 : (s.openTrap t).2.memWf = true := State.memWf_of_memories (s.openTrap_memories t) h
  revert h1
  generalize s.openTrap t = o
  obtain ⟨t, s⟩ := o
  intro h1
  dsimp only at h1 ⊢
  have h2 : (if t.cause = .eccu then s.tally 0x817 48 1 else s).memWf = true := by
    split <;> exact h1
  revert h2
  generalize (if t.cause = .eccu then s.tally 0x817 48 1 else s) = u
  intro h2
  generalize ((u.ctx k).regs.inh && !isOutrider k && t.cause.target == Target.resolver) = keep
  have h3 : ((u.commitRegion k).modCtx k fun c => c.trapped t (u.cycleOf k) keep).memWf = true := State.commitRegion_memWf h2 k
  revert h3
  generalize ((u.commitRegion k).modCtx k fun c => c.trapped t (u.cycleOf k) keep) = v
  intro h3
  split
  · split
    · exact State.memWf_of_memories (by simp) h3
    · exact h3
  · split
    · refine State.memWf_of_memories (s := v) ?_ h3
      exact v.endLease_memories k true
    · split
      · exact State.memWf_of_memories (by simp) h3
      · exact h3
    · split
      · split
        · exact State.memWf_of_memories (by simp) h3
        · exact h3
      · exact h3

theorem State.issueTrap_memWf (h : s.memWf = true) (slot : Nat) (c : Cause) (tv : Word) : (s.issueTrap slot c tv).memWf = true :=
  State.takeTrap_memWf h _ _

theorem State.takeSeq_memWf (h : s.memWf = true) (asid : Nat) : (s.takeSeq asid).2.memWf = true := State.writeHome_memWf h _ _ _

theorem State.takeFault_memWf (h : s.memWf = true) (k kind : Nat) (a : Word) (l : Nat) : (s.takeFault k kind a l).memWf = true :=
  State.memWf_of_memories (State.parkGroup_memories _ k _) (State.takeSeq_memWf (s := s) h (s.ctx k).asid)

end

end Sys2Proof.Machine
end

