-- ==== Sys2Proof/Laws/Ops.lean ====
section
/-! SUPPORT. The shared operations in one lemma each: how a slot instruction is handled, what a push does, what becomes of a
region, a lease, a consignment, and what a semaphore holds after a change. -/

namespace Sys2Proof.Machine

open Sys2Proof

/-! ## How a slot instruction is handled (R50) -/

section
variable {s t : State} {slot : Nat} {i : Instr} {v : State → Verdict} {f : State → State}

theorem slotOp_check (h : s.issue.phase = .check) : slotOp slot i v f s =
    .next { s with issue := { s.issue with verdicts := s.issue.verdicts ++ [(slot, slotVerdict i v s)] } } := by
  simp only [slotOp, h]

theorem slotOp_act (h : s.issue.phase = .act) : slotOp slot i v f s = .next (f s) := by simp only [slotOp, h]

theorem slotVerdict_ok (w : i.wf = true) : slotVerdict i v s = v s := by simp [slotVerdict, fieldsOk, w]

theorem slotVerdict_ill (w : i.wf = false) : slotVerdict i v s = .trap .illop 0 := by simp [slotVerdict, fieldsOk, w]

theorem slotOp_whole (h : s.issue.phase = .whole) (g : slotVerdict i v s = .ok) : slotOp slot i v f s = .next (f s) := by
  simp only [slotOp, h, g]

theorem slotOp_answer (h : s.issue.phase = .whole) (g : slotVerdict i v s ≠ .ok) : slotOp slot i v f s = s.answer slot (slotVerdict i v s) := by
  unfold slotOp
  rw [h]
  dsimp only
  cases e : slotVerdict i v s with
  | ok => exact absurd e g
  | block | stall | trap | fault => rfl

theorem slotOp_trap (h : s.issue.phase = .whole) {c : Cause} {tv : Word} (g : slotVerdict i v s = .trap c tv) :
    slotOp slot i v f s = .next (s.issueTrap slot c tv) := by simp only [slotOp, h, g, State.answer]

theorem slotOp_illop (h : s.issue.phase = .whole) (w : i.wf = false) : slotOp slot i v f s = .next (s.issueTrap slot .illop 0) :=
  slotOp_trap h (slotVerdict_ill w)

theorem slotOp_waits (h : s.issue.phase = .whole) (g : slotVerdict i v s = .block ∨ slotVerdict i v s = .stall) :
    slotOp slot i v f s = .next s := by
  rcases g with g | g <;> simp only [slotOp, h, g, State.answer]

/-- An instruction without conditions of its own takes effect where it performs. -/
theorem slotOp_performs (h : s.performs i) : slotOp slot i noCheck f s = .next (f s) := by
  rcases h with h | ⟨h, w⟩
  · exact slotOp_act h
  · exact slotOp_whole h (slotVerdict_ok w)

theorem slotOp_runs (h : s.performs i) (g : v s = .ok) : slotOp slot i v f s = .next (f s) := by
  rcases h with h | ⟨h, w⟩
  · exact slotOp_act h
  · exact slotOp_whole h ((slotVerdict_ok w).trans g)

/-- Everything that handling a slot instruction can lead to: its verdict is recorded, its effect happens, it waits, it traps,
its context parks or takes a fault. -/
theorem slotOp_cases (h : slotOp slot i v f s = .next t) :
    (s.issue.phase = .check ∧ t = { s with issue := { s.issue with verdicts := s.issue.verdicts ++ [(slot, slotVerdict i v s)] } }) ∨
    (s.issue.phase ≠ .check ∧ (s.issue.phase = .whole → slotVerdict i v s = .ok) ∧ t = f s) ∨
    (s.issue.phase = .whole ∧ (slotVerdict i v s = .block ∨ slotVerdict i v s = .stall) ∧ t = s) ∨
    (s.issue.phase = .whole ∧ ∃ c tv, slotVerdict i v s = .trap c tv ∧ t = s.issueTrap slot c tv) ∨
    (s.issue.phase = .whole ∧ ∃ k a l, slotVerdict i v s = .fault k a l ∧
      t = if k = 3 then s.parkGroup s.issue.cid l else s.takeFault s.issue.cid k a l) := by
  cases p : s.issue.phase with
  | check => rw [slotOp_check p] at h; cases h; exact .inl ⟨rfl, rfl⟩
  | act => rw [slotOp_act p] at h; cases h; exact .inr (.inl ⟨by simp, by simp, rfl⟩)
  | whole =>
    cases g : slotVerdict i v s with
    | ok => rw [slotOp_whole p g] at h; cases h; exact .inr (.inl ⟨by simp, fun _ => rfl, rfl⟩)
    | block => rw [slotOp_waits p (.inl g)] at h; cases h; exact .inr (.inr (.inl ⟨rfl, .inl rfl, rfl⟩))
    | stall => rw [slotOp_waits p (.inr g)] at h; cases h; exact .inr (.inr (.inl ⟨rfl, .inr rfl, rfl⟩))
    | trap c tv => rw [slotOp_trap p g] at h; cases h; exact .inr (.inr (.inr (.inl ⟨rfl, c, tv, rfl, rfl⟩)))
    | fault k a l =>
      refine .inr (.inr (.inr (.inr ⟨rfl, k, a, l, rfl, ?_⟩)))
      rw [slotOp_answer p (by simp [g]), g] at h
      simp only [State.answer] at h
      split at h <;> cases h <;> simp_all

/-- Handling a slot instruction keeps the canonical form of the memories where its effect does. -/
theorem slotOp_memWf (h : slotOp slot i v f s = .next t) (w : s.memWf = true) (hf : (f s).memWf = true) : t.memWf = true := by
  rcases slotOp_cases h with ⟨-, rfl⟩ | ⟨-, -, rfl⟩ | ⟨-, -, rfl⟩ | ⟨-, c, tv, -, rfl⟩ | ⟨-, k, a, l, -, rfl⟩
  · exact w
  · exact hf
  · exact w
  · exact State.issueTrap_memWf w _ _ _
  · split
    · exact State.memWf_of_memories (by simp) w
    · exact State.takeFault_memWf w _ _ _ _

theorem eventOp_next {name : String} {b : Bool} (h : eventOp name b s = .next t) : b = true ∧ t = s := by
  unfold eventOp at h
  split at h
  · rename_i hb; cases h; exact ⟨hb, rfl⟩
  · cases h

end

/-! ## Verdicts -/

@[simp] theorem Verdict.ok_both (v : Verdict) : Verdict.ok.both v = v := rfl

@[simp] theorem Verdict.both_eq_ok {a b : Verdict} : a.both b = .ok ↔ a = .ok ∧ b = .ok := by
  cases a <;> simp [Verdict.both]

theorem Verdict.both_of_ne {a : Verdict} (b : Verdict) (h : a ≠ .ok) : a.both b = a := by
  cases a <;> simp_all [Verdict.both]

theorem firstFail_ok {l : List (Bool × Verdict)} (h : ∀ x ∈ l, x.1 = false) : firstFail l = .ok := by
  induction l with
  | nil => rfl
  | cons x l ih =>
    obtain ⟨b, v⟩ := x
    have : b = false := h (b, v) (by simp)
    subst this
    exact ih fun y hy => h y (by simp [hy])

theorem tailVerdict_ok {s : State} {t : BitVec 24} : s.tailVerdict t = .ok ↔ s.tailOk t := by
  simp only [State.tailVerdict, State.tailOk, State.semVerdict, Verdict.both_eq_ok]
  constructor
  · rintro ⟨h1, h2⟩
    constructor
    · intro a; simp only [a, if_false] at h1; split at h1 <;> simp_all
    · intro a; simp only [a, if_false] at h2; split at h2 <;> simp_all
  · rintro ⟨h1, h2⟩
    constructor
    · by_cases a : tailWT t = 0
      · simp [a]
      · simp [a, Nat.not_le.2 (h1 a)]
    · by_cases a : tailInc t = 0
      · simp [a]
      · simp [a, Nat.not_le.2 (h2 a)]

theorem queueFull_eq_false {s : State} {q : QueueId} : s.queueFull q = false ↔ s.hasRoom q :=
  ⟨fun h => Nat.not_le.1 (of_decide_eq_false h), fun h => decide_eq_false (Nat.not_le.2 h)⟩

/-! ## Pushes (R64, R84) -/

/-- What publication does: it changes the posted stores and nothing else. -/
theorem State.publish_eq (s : State) (scope core : Nat) (p : Posted → Bool) :
    ∃ l : List Posted, s.publish scope core p = { s with posted := l } := State.enter_eq ..

/-- A push appends one command and takes one identity; it may publish posted stores. -/
theorem State.push_eq (s : State) (q : QueueId) (tail : BitVec 24) (op : CmdOp) (n : Nat) :
    ∃ (c : Cmd) (l : List Posted), s.push q tail op n = { s with nextId := s.nextId + 1, cmds := s.cmds ++ [c], posted := l } ∧
      c.id = s.nextId ∧ c.queue = q ∧ c.tail = tail ∧ c.op = op ∧ c.number = n := by
  unfold State.push
  dsimp only
  split
  · exact ⟨_, s.posted, rfl, rfl, rfl, rfl, rfl, rfl⟩
  · obtain ⟨l, h⟩ := State.publish_eq s q.scope (coreOf s.issue.cid)
      (fun x => (s.posted.map fun x => (x.id, x.before s s.issue.cid)).contains (x.id, true))
    exact ⟨_, l, by rw [h], rfl, rfl, rfl, rfl, rfl⟩

section
variable (s : State) (q : QueueId) (tail : BitVec 24) (op : CmdOp) (n : Nat)

@[simp] theorem State.push_ctxs : (s.push q tail op n).ctxs = s.ctxs := by obtain ⟨c, l, h, -⟩ := s.push_eq q tail op n; rw [h]
@[simp] theorem State.push_groups : (s.push q tail op n).groups = s.groups := by obtain ⟨c, l, h, -⟩ := s.push_eq q tail op n; rw [h]
@[simp] theorem State.push_serais : (s.push q tail op n).serais = s.serais := by obtain ⟨c, l, h, -⟩ := s.push_eq q tail op n; rw [h]
@[simp] theorem State.push_me : (s.push q tail op n).me = s.me := by obtain ⟨c, l, h, -⟩ := s.push_eq q tail op n; rw [h]; rfl

end

/-! ## Semaphores (R269) -/

theorem semClamp_fst (x : Int) : ((semClamp x).1 : Int) = max 0 (min 65535 x) := by
  unfold semClamp; split
  · simp; omega
  · split <;> simp <;> omega

theorem semClamp_snd (x : Int) : (semClamp x).2 = true ↔ x < 0 ∨ 65535 < x := by
  unfold semClamp; split
  · simp; omega
  · split <;> simp <;> omega

theorem semClamp_le (x : Int) : (semClamp x).1 ≤ 65535 := by
  unfold semClamp; split
  · simp
  · split <;> simp; omega

/-- A store of a semaphore changes no other semaphore of its core. -/
theorem State.semVal_semPut (s : State) (g core n m v : Nat) (sat : Bool) :
    (s.semPut g core n v sat).semVal g core m = if m = n then v % 65536 else s.semVal g core m := by
  have key : ∀ k, ({ s.group g with sems := (s.group g).sems.set ((s.group g).semKey core n) ((if sat then 1#1 else 0#1) ++ BitVec.ofNat 16 v) } : Group).semKey
      core k = (s.group g).semKey core k := fun _ => rfl
  simp only [State.semVal, State.semPut, State.group_modGroup, if_true, key, Store.get_set]
  by_cases h : m = n
  · subst h
    simp only [if_true]
    have e : ((if sat then 1#1 else 0#1) ++ BitVec.ofNat 16 v).extractLsb' 0 16 = BitVec.ofNat 16 v := by
      apply BitVec.eq_of_getLsbD_eq
      intro i hi
      rw [BitVec.getLsbD_extractLsb', BitVec.getLsbD_append]
      simp [hi]
    rw [e]
    simp
  · have : ¬ (s.group g).semKey core m = (s.group g).semKey core n := by simp only [Group.semKey]; omega
    simp [h, this]

theorem State.semSat_semPut (s : State) (g core n v : Nat) (sat : Bool) : (s.semPut g core n v sat).semSat g core n = sat := by
  have key : ∀ k, ({ s.group g with sems := (s.group g).sems.set ((s.group g).semKey core n) ((if sat then 1#1 else 0#1) ++ BitVec.ofNat 16 v) } : Group).semKey
      core k = (s.group g).semKey core k := fun _ => rfl
  simp only [State.semSat, State.semPut, State.group_modGroup, if_true, key, Store.get_set]
  rw [BitVec.getLsbD_append]
  cases sat <;> simp

/-! ## Regions, leases, consignments -/

theorem State.commitRegion_none {s : State} {k : Nat} (h : (s.ctx k).region = none) : s.commitRegion k = s := by
  simp [State.commitRegion, h]

theorem State.rollback_none {s : State} {k : Nat} (h : (s.ctx k).region = none) : s.rollback k = s := by
  simp [State.rollback, h]

/-- After a context loses its lease it holds none (R183). -/
theorem State.endLease_lease (s : State) (k : Nat) (again : Bool) (hk : isSerai k = true) :
    ∀ l, ((s.endLease k again).serai (seraiOf k)).lease = some l → l.holder ≠ k := by
  intro l
  unfold State.endLease
  simp only [hk, Bool.not_true, Bool.false_eq_true, if_false]
  split
  · rename_i l' hl
    split
    · split <;> simp
    · rename_i hne
      simp only [State.serai_modSerai, if_true, hl, Option.some.injEq]
      rintro rfl
      exact hne
  · rename_i hl
    simp [hl]

/-- Ending a running consignment gives it the status and the reason (R361). -/
theorem State.killCon_con? {s : State} {k status reason : Nat} {x : Cons} (h : s.con? k = some x) (hr : x.state = .running) :
    (s.killCon k status reason).con? k = some { x with state := .killing, status := status, reason := reason, asked := s.tick } := by
  have fold : ∀ (l : List Nat) (u : State), (l.foldl (fun s cid => (s.endLease cid false).modCtx cid Ctx.dropWork) u).cons = u.cons := by
    intro l
    induction l with
    | nil => intro u; rfl
    | cons a l ih =>
      intro u
      rw [List.foldl_cons, ih]
      simp only [State.modCtx_cons]
      unfold State.endLease
      split
      · rfl
      · dsimp only; split
        · split
          · split <;> rfl
          · rfl
        · rfl
  unfold State.killCon
  simp only [h, hr]
  simp only [State.con?, fold]
  have := State.con?_modCon s k (fun c => { c with state := .killing, status := status, reason := reason, asked := s.tick }) k
  simp only [if_true, h, Option.map] at this
  exact this

/-- An emergency that is added lowers ECAP to its limit (R388, R390). -/
theorem Pace.ecap_append (p : Pace) (e l : Nat) :
    ({ p with emergencies := p.emergencies ++ [(e, l)] } : Pace).ecap = if p.ecap = 0 then l else min p.ecap l := by
  unfold Pace.ecap
  rw [List.foldl_append]
  rfl

/-- What hardware counts in a package register is noted for the base cycle (R126). -/
@[simp] theorem State.tally_bumps (s : State) (reg lo n : Nat) : (s.tally reg lo n).pk.bumps = s.pk.bumps ++ [(reg, lo, n)] := rfl

@[simp] theorem State.tally_ctxs (s : State) (reg lo n : Nat) : (s.tally reg lo n).ctxs = s.ctxs := rfl

end Sys2Proof.Machine
end

