-- ==== Sys2Proof/Laws/PerInstr.lean ====
section
/-! SUPPORT. One lemma per instruction about its word: the word stands in one of the eight slots, and has opcode zero only
where it is `nop` (R48, R51).  An event has no word. -/

namespace Sys2Proof.Laws.SlotWord

/-- The word of an instruction stands in one of the eight slots, and its opcode is zero only for `nop`. -/
def Statement (i : Instr) : Prop :=
  ∀ k w, encode i = some (k, w) → k < 8 ∧ (opcodeOf w = 0#8 → ∃ b, i = .nop (BitVec.ofNat 3 k) b)

theorem of_word {i : Instr} {k : Nat} {w : BitVec 64} (h : encode i = some (k, w)) (hk : k < 8) (ho : opcodeOf w ≠ 0#8) :
    Statement i := by
  intro k' w' h'
  rw [h] at h'
  cases h'
  exact ⟨hk, fun e => absurd e ho⟩

theorem of_event {i : Instr} (h : encode i = none) : Statement i := by
  intro k w h'
  rw [h] at h'
  cases h'

theorem of_s {i : Instr} {x : SW} {op : BitVec 8} (h : encode i = some (0, x.word op)) (ho : op ≠ 0#8) : Statement i :=
  of_word h (by decide) (by rwa [SW.opcode_word])

theorem of_v {i : Instr} {x : VW} {op : BitVec 8} (h : encode i = some ((if x.slotB then 2 else 1), x.word op)) (ho : op ≠ 0#8) :
    Statement i :=
  of_word h (by split <;> decide) (by rwa [VW.opcode_word])

theorem of_m {i : Instr} {x : MW} {op : BitVec 8} (h : encode i = some (3, x.word op)) (ho : op ≠ 0#8) : Statement i :=
  of_word h (by decide) (by rwa [MW.opcode_word])

theorem of_l {i : Instr} {k : Nat} {x : LW} {op : BitVec 8} (h : encode i = some (k, x.word op)) (hk : k < 8) (ho : op ≠ 0#8) :
    Statement i :=
  of_word h hk (by rwa [LW.opcode_word])

theorem of_c {i : Instr} {x : CW} {op : BitVec 8} (h : encode i = some (6, x.word op)) (ho : op ≠ 0#8) : Statement i :=
  of_word h (by decide) (by rwa [CW.opcode_word])

theorem of_y {i : Instr} {x : YW} {op : BitVec 8} (h : encode i = some (7, x.word op)) (ho : op ≠ 0#8) : Statement i :=
  of_word h (by decide) (by rwa [YW.opcode_word])

theorem nop (slot : BitVec 3) (body : BitVec 56) : Statement (.nop slot body) := by
  rintro k w ⟨⟩
  exact ⟨slot.isLt, fun _ => ⟨body, by simp⟩⟩

theorem hint (slot : BitVec 3) (code : BitVec 4) (body : BitVec 56) : Statement (.hint slot code body) := by
  refine of_word (k := slot.toNat) rfl slot.isLt ?_
  intro h
  have e : (opcodeOf (0xF#4 ++ code ++ body)).getLsbD 7 = true := by
    unfold opcodeOf
    rw [BitVec.getLsbD_extractLsb', BitVec.getLsbD_append, BitVec.getLsbD_append]
    simp
  rw [h] at e
  simp at e

theorem add (x : SW) : Statement (.add x) := of_s (x := x) rfl (by decide)
theorem sub (x : SW) : Statement (.sub x) := of_s (x := x) rfl (by decide)
theorem and (x : SW) : Statement (.and x) := of_s (x := x) rfl (by decide)
theorem or (x : SW) : Statement (.or x) := of_s (x := x) rfl (by decide)
theorem xor (x : SW) : Statement (.xor x) := of_s (x := x) rfl (by decide)
theorem andn (x : SW) : Statement (.andn x) := of_s (x := x) rfl (by decide)
theorem shl (x : SW) : Statement (.shl x) := of_s (x := x) rfl (by decide)
theorem shr (x : SW) : Statement (.shr x) := of_s (x := x) rfl (by decide)
theorem sra (x : SW) : Statement (.sra x) := of_s (x := x) rfl (by decide)
theorem rotl (x : SW) : Statement (.rotl x) := of_s (x := x) rfl (by decide)
theorem min (x : SW) : Statement (.min x) := of_s (x := x) rfl (by decide)
theorem max (x : SW) : Statement (.max x) := of_s (x := x) rfl (by decide)
theorem scmp (x : SW) : Statement (.scmp x) := of_s (x := x) rfl (by decide)
theorem sel (x : SW) : Statement (.sel x) := of_s (x := x) rfl (by decide)
theorem li (x : SW) : Statement (.li x) := of_s (x := x) rfl (by decide)
theorem lih (x : SW) : Statement (.lih x) := of_s (x := x) rfl (by decide)
theorem addi (x : SW) : Statement (.addi x) := of_s (x := x) rfl (by decide)
theorem mov (x : SW) : Statement (.mov x) := of_s (x := x) rfl (by decide)
theorem clz (x : SW) : Statement (.clz x) := of_s (x := x) rfl (by decide)
theorem ctz (x : SW) : Statement (.ctz x) := of_s (x := x) rfl (by decide)
theorem popc (x : SW) : Statement (.popc x) := of_s (x := x) rfl (by decide)
theorem bfx (x : SW) : Statement (.bfx x) := of_s (x := x) rfl (by decide)
theorem bfi (x : SW) : Statement (.bfi x) := of_s (x := x) rfl (by decide)
theorem s2a (x : SW) : Statement (.s2a x) := of_s (x := x) rfl (by decide)
theorem a2s (x : SW) : Statement (.a2s x) := of_s (x := x) rfl (by decide)
theorem mul (x : SW) : Statement (.mul x) := of_s (x := x) rfl (by decide)
theorem mulh (x : SW) : Statement (.mulh x) := of_s (x := x) rfl (by decide)
theorem div (x : SW) : Statement (.div x) := of_s (x := x) rfl (by decide)
theorem rem (x : SW) : Statement (.rem x) := of_s (x := x) rfl (by decide)
theorem mfc (x : SW) : Statement (.mfc x) := of_s (x := x) rfl (by decide)
theorem mtc (x : SW) : Statement (.mtc x) := of_s (x := x) rfl (by decide)
theorem faddD (x : SW) : Statement (.faddD x) := of_s (x := x) rfl (by decide)
theorem fsubD (x : SW) : Statement (.fsubD x) := of_s (x := x) rfl (by decide)
theorem fmulD (x : SW) : Statement (.fmulD x) := of_s (x := x) rfl (by decide)
theorem fmaD (x : SW) : Statement (.fmaD x) := of_s (x := x) rfl (by decide)
theorem fdivD (x : SW) : Statement (.fdivD x) := of_s (x := x) rfl (by decide)
theorem fsqrtD (x : SW) : Statement (.fsqrtD x) := of_s (x := x) rfl (by decide)
theorem fminD (x : SW) : Statement (.fminD x) := of_s (x := x) rfl (by decide)
theorem fmaxD (x : SW) : Statement (.fmaxD x) := of_s (x := x) rfl (by decide)
theorem fcmpD (x : SW) : Statement (.fcmpD x) := of_s (x := x) rfl (by decide)
theorem fclassD (x : SW) : Statement (.fclassD x) := of_s (x := x) rfl (by decide)
theorem fcvt (x : SW) : Statement (.fcvt x) := of_s (x := x) rfl (by decide)
theorem vadd (x : VW) : Statement (.vadd x) := of_v (x := x) rfl (by decide)
theorem vsub (x : VW) : Statement (.vsub x) := of_v (x := x) rfl (by decide)
theorem vand (x : VW) : Statement (.vand x) := of_v (x := x) rfl (by decide)
theorem vor (x : VW) : Statement (.vor x) := of_v (x := x) rfl (by decide)
theorem vxor (x : VW) : Statement (.vxor x) := of_v (x := x) rfl (by decide)
theorem vshl (x : VW) : Statement (.vshl x) := of_v (x := x) rfl (by decide)
theorem vshr (x : VW) : Statement (.vshr x) := of_v (x := x) rfl (by decide)
theorem vsra (x : VW) : Statement (.vsra x) := of_v (x := x) rfl (by decide)
theorem vmin (x : VW) : Statement (.vmin x) := of_v (x := x) rfl (by decide)
theorem vmax (x : VW) : Statement (.vmax x) := of_v (x := x) rfl (by decide)
theorem vabs (x : VW) : Statement (.vabs x) := of_v (x := x) rfl (by decide)
theorem vneg (x : VW) : Statement (.vneg x) := of_v (x := x) rfl (by decide)
theorem vcmp (x : VW) : Statement (.vcmp x) := of_v (x := x) rfl (by decide)
theorem vsel (x : VW) : Statement (.vsel x) := of_v (x := x) rfl (by decide)
theorem vclz (x : VW) : Statement (.vclz x) := of_v (x := x) rfl (by decide)
theorem vpopc (x : VW) : Statement (.vpopc x) := of_v (x := x) rfl (by decide)
theorem vidx (x : VW) : Statement (.vidx x) := of_v (x := x) rfl (by decide)
theorem vmov (x : VW) : Statement (.vmov x) := of_v (x := x) rfl (by decide)
theorem vsplat (x : VW) : Statement (.vsplat x) := of_v (x := x) rfl (by decide)
theorem vmul (x : VW) : Statement (.vmul x) := of_v (x := x) rfl (by decide)
theorem vmulh (x : VW) : Statement (.vmulh x) := of_v (x := x) rfl (by decide)
theorem vmadd (x : VW) : Statement (.vmadd x) := of_v (x := x) rfl (by decide)
theorem vfadd (x : VW) : Statement (.vfadd x) := of_v (x := x) rfl (by decide)
theorem vfsub (x : VW) : Statement (.vfsub x) := of_v (x := x) rfl (by decide)
theorem vfmin (x : VW) : Statement (.vfmin x) := of_v (x := x) rfl (by decide)
theorem vfmax (x : VW) : Statement (.vfmax x) := of_v (x := x) rfl (by decide)
theorem vfcmp (x : VW) : Statement (.vfcmp x) := of_v (x := x) rfl (by decide)
theorem vfmul (x : VW) : Statement (.vfmul x) := of_v (x := x) rfl (by decide)
theorem vfma (x : VW) : Statement (.vfma x) := of_v (x := x) rfl (by decide)
theorem vfms (x : VW) : Statement (.vfms x) := of_v (x := x) rfl (by decide)
theorem vfnma (x : VW) : Statement (.vfnma x) := of_v (x := x) rfl (by decide)
theorem vfdiv (x : VW) : Statement (.vfdiv x) := of_v (x := x) rfl (by decide)
theorem vfsqrt (x : VW) : Statement (.vfsqrt x) := of_v (x := x) rfl (by decide)
theorem vfclass (x : VW) : Statement (.vfclass x) := of_v (x := x) rfl (by decide)
theorem vcvt (x : VW) : Statement (.vcvt x) := of_v (x := x) rfl (by decide)
theorem vmxpack (x : VW) : Statement (.vmxpack x) := of_v (x := x) rfl (by decide)
theorem vmxunpack (x : VW) : Statement (.vmxunpack x) := of_v (x := x) rfl (by decide)
theorem vred (x : VW) : Statement (.vred x) := of_v (x := x) rfl (by decide)
theorem vscan (x : VW) : Statement (.vscan x) := of_v (x := x) rfl (by decide)
theorem vperm (x : VW) : Statement (.vperm x) := of_v (x := x) rfl (by decide)
theorem vrot (x : VW) : Statement (.vrot x) := of_v (x := x) rfl (by decide)
theorem vext (x : VW) : Statement (.vext x) := of_v (x := x) rfl (by decide)
theorem v2s (x : VW) : Statement (.v2s x) := of_v (x := x) rfl (by decide)
theorem vhashSrp (x : VW) : Statement (.vhashSrp x) := of_v (x := x) rfl (by decide)
theorem mpush (x : VW) : Statement (.mpush x) := of_v (x := x) rfl (by decide)
theorem minv (x : VW) : Statement (.minv x) := of_v (x := x) rfl (by decide)
theorem mpop (x : VW) : Statement (.mpop x) := of_v (x := x) rfl (by decide)
theorem mand (x : VW) : Statement (.mand x) := of_v (x := x) rfl (by decide)
theorem mor (x : VW) : Statement (.mor x) := of_v (x := x) rfl (by decide)
theorem mcnt (x : VW) : Statement (.mcnt x) := of_v (x := x) rfl (by decide)
theorem mlease (x : MW) : Statement (.mlease x) := of_m (x := x) rfl (by decide)
theorem mfree (x : MW) : Statement (.mfree x) := of_m (x := x) rfl (by decide)
theorem tld (x : MW) : Statement (.tld x) := of_m (x := x) rfl (by decide)
theorem tst (x : MW) : Statement (.tst x) := of_m (x := x) rfl (by decide)
theorem mma (x : MW) : Statement (.mma x) := of_m (x := x) rfl (by decide)
theorem mmaBs (x : MW) : Statement (.mmaBs x) := of_m (x := x) rfl (by decide)
theorem mmaNm (x : MW) : Statement (.mmaNm x) := of_m (x := x) rfl (by decide)
theorem mzero (x : MW) : Statement (.mzero x) := of_m (x := x) rfl (by decide)
theorem tsld (x : MW) : Statement (.tsld x) := of_m (x := x) rfl (by decide)
theorem tsst (x : MW) : Statement (.tsst x) := of_m (x := x) rfl (by decide)
theorem ld (x : LW) : Statement (.ld x) := of_l (x := x) rfl (by decide) (by decide)
theorem vld (x : LW) : Statement (.vld x) := of_l (x := x) rfl (by decide) (by decide)
theorem vlds (x : LW) : Statement (.vlds x) := of_l (x := x) rfl (by decide) (by decide)
theorem vldx (x : LW) : Statement (.vldx x) := of_l (x := x) rfl (by decide) (by decide)
theorem ldf (x : LW) : Statement (.ldf x) := of_l (x := x) rfl (by decide) (by decide)
theorem vldf (x : LW) : Statement (.vldf x) := of_l (x := x) rfl (by decide) (by decide)
theorem popf (x : LW) : Statement (.popf x) := of_l (x := x) rfl (by decide) (by decide)
theorem vpopf (x : LW) : Statement (.vpopf x) := of_l (x := x) rfl (by decide) (by decide)
theorem rlyTake (x : LW) : Statement (.rlyTake x) := of_l (x := x) rfl (by decide) (by decide)
theorem st (x : LW) : Statement (.st x) := of_l (x := x) rfl (by decide) (by decide)
theorem vst (x : LW) : Statement (.vst x) := of_l (x := x) rfl (by decide) (by decide)
theorem vsts (x : LW) : Statement (.vsts x) := of_l (x := x) rfl (by decide) (by decide)
theorem vstx (x : LW) : Statement (.vstx x) := of_l (x := x) rfl (by decide) (by decide)
theorem rlyGive (x : LW) : Statement (.rlyGive x) := of_l (x := x) rfl (by decide) (by decide)
theorem stg (x : LW) : Statement (.stg x) := of_l (x := x) rfl (by decide) (by decide)
theorem vstg (x : LW) : Statement (.vstg x) := of_l (x := x) rfl (by decide) (by decide)
theorem amoAdd (x : LW) : Statement (.amoAdd x) := of_l (x := x) rfl (by decide) (by decide)
theorem amoMin (x : LW) : Statement (.amoMin x) := of_l (x := x) rfl (by decide) (by decide)
theorem amoMax (x : LW) : Statement (.amoMax x) := of_l (x := x) rfl (by decide) (by decide)
theorem amoAnd (x : LW) : Statement (.amoAnd x) := of_l (x := x) rfl (by decide) (by decide)
theorem amoOr (x : LW) : Statement (.amoOr x) := of_l (x := x) rfl (by decide) (by decide)
theorem amoXor (x : LW) : Statement (.amoXor x) := of_l (x := x) rfl (by decide) (by decide)
theorem amoSwap (x : LW) : Statement (.amoSwap x) := of_l (x := x) rfl (by decide) (by decide)
theorem amoCas (x : LW) : Statement (.amoCas x) := of_l (x := x) rfl (by decide) (by decide)
theorem amoFadd (x : LW) : Statement (.amoFadd x) := of_l (x := x) rfl (by decide) (by decide)
theorem fenceAcq (x : LW) : Statement (.fenceAcq x) := of_l (x := x) rfl (by decide) (by decide)
theorem fenceRel (x : LW) : Statement (.fenceRel x) := of_l (x := x) rfl (by decide) (by decide)
theorem fenceAr (x : LW) : Statement (.fenceAr x) := of_l (x := x) rfl (by decide) (by decide)
theorem rlyInit (x : CW) : Statement (.rlyInit x) := of_c (x := x) rfl (by decide)
theorem cpLin (x : CW) : Statement (.cpLin x) := of_c (x := x) rfl (by decide)
theorem cpTen (x : CW) : Statement (.cpTen x) := of_c (x := x) rfl (by decide)
theorem cpGat (x : CW) : Statement (.cpGat x) := of_c (x := x) rfl (by decide)
theorem cpSct (x : CW) : Statement (.cpSct x) := of_c (x := x) rfl (by decide)
theorem cpFill (x : CW) : Statement (.cpFill x) := of_c (x := x) rfl (by decide)
theorem drain (x : CW) : Statement (.drain x) := of_c (x := x) rfl (by decide)
theorem scProbe (x : CW) : Statement (.scProbe x) := of_c (x := x) rfl (by decide)
theorem scCommit (x : CW) : Statement (.scCommit x) := of_c (x := x) rfl (by decide)
theorem scDrop (x : CW) : Statement (.scDrop x) := of_c (x := x) rfl (by decide)
theorem colRedRoot (x : CW) : Statement (.colRedRoot x) := of_c (x := x) rfl (by decide)
theorem colRedAll (x : CW) : Statement (.colRedAll x) := of_c (x := x) rfl (by decide)
theorem colRedScat (x : CW) : Statement (.colRedScat x) := of_c (x := x) rfl (by decide)
theorem colGat (x : CW) : Statement (.colGat x) := of_c (x := x) rfl (by decide)
theorem launch (x : CW) : Statement (.launch x) := of_c (x := x) rfl (by decide)
theorem ltrig (x : CW) : Statement (.ltrig x) := of_c (x := x) rfl (by decide)
theorem br (x : YW) : Statement (.br x) := of_y (x := x) rfl (by decide)
theorem bz (x : YW) : Statement (.bz x) := of_y (x := x) rfl (by decide)
theorem bnz (x : YW) : Statement (.bnz x) := of_y (x := x) rfl (by decide)
theorem bmNone (x : YW) : Statement (.bmNone x) := of_y (x := x) rfl (by decide)
theorem bmAny (x : YW) : Statement (.bmAny x) := of_y (x := x) rfl (by decide)
theorem jmp (x : YW) : Statement (.jmp x) := of_y (x := x) rfl (by decide)
theorem call (x : YW) : Statement (.call x) := of_y (x := x) rfl (by decide)
theorem ret (x : YW) : Statement (.ret x) := of_y (x := x) rfl (by decide)
theorem loopImm (x : YW) : Statement (.loopImm x) := of_y (x := x) rfl (by decide)
theorem loopReg (x : YW) : Statement (.loopReg x) := of_y (x := x) rfl (by decide)
theorem loopx (x : YW) : Statement (.loopx x) := of_y (x := x) rfl (by decide)
theorem yield (x : YW) : Statement (.yield x) := of_y (x := x) rfl (by decide)
theorem halt (x : YW) : Statement (.halt x) := of_y (x := x) rfl (by decide)
theorem xim (x : YW) : Statement (.xim x) := of_y (x := x) rfl (by decide)
theorem mark (x : YW) : Statement (.mark x) := of_y (x := x) rfl (by decide)
theorem wait (x : YW) : Statement (.wait x) := of_y (x := x) rfl (by decide)
theorem semAdd (x : YW) : Statement (.semAdd x) := of_y (x := x) rfl (by decide)
theorem semSet (x : YW) : Statement (.semSet x) := of_y (x := x) rfl (by decide)
theorem semRd (x : YW) : Statement (.semRd x) := of_y (x := x) rfl (by decide)
theorem phReg (x : YW) : Statement (.phReg x) := of_y (x := x) rfl (by decide)
theorem phDrop (x : YW) : Statement (.phDrop x) := of_y (x := x) rfl (by decide)
theorem phArr (x : YW) : Statement (.phArr x) := of_y (x := x) rfl (by decide)
theorem phWait (x : YW) : Statement (.phWait x) := of_y (x := x) rfl (by decide)
theorem phArw (x : YW) : Statement (.phArw x) := of_y (x := x) rfl (by decide)
theorem dupcmp (x : YW) : Statement (.dupcmp x) := of_y (x := x) rfl (by decide)
theorem trap (x : YW) : Statement (.trap x) := of_y (x := x) rfl (by decide)
theorem sys (x : YW) : Statement (.sys x) := of_y (x := x) rfl (by decide)
theorem eret (x : YW) : Statement (.eret x) := of_y (x := x) rfl (by decide)
theorem paceAnn (x : YW) : Statement (.paceAnn x) := of_y (x := x) rfl (by decide)
theorem paceAnnE (x : YW) : Statement (.paceAnnE x) := of_y (x := x) rfl (by decide)
theorem paceJoin (x : YW) : Statement (.paceJoin x) := of_y (x := x) rfl (by decide)
theorem paceLeave (x : YW) : Statement (.paceLeave x) := of_y (x := x) rfl (by decide)
theorem colFlitReceive (die : Nat) (flit : Flit) : Statement (.colFlitReceive die flit) := of_event rfl
theorem tollCount (frame slot times : Nat) : Statement (.tollCount frame slot times) := of_event rfl
theorem queueOpen (queue : Nat) : Statement (.queueOpen queue) := of_event rfl
theorem queueClose (queue : Nat) : Statement (.queueClose queue) := of_event rfl
theorem queueKill (queue : Nat) : Statement (.queueKill queue) := of_event rfl
theorem queueDoorbell (queue prod : Nat) : Statement (.queueDoorbell queue prod) := of_event rfl
theorem preemptSuspend (queue seq : Nat) : Statement (.preemptSuspend queue seq) := of_event rfl
theorem preemptKill (queue seq : Nat) : Statement (.preemptKill queue seq) := of_event rfl
theorem preemptRelease (queue seq : Nat) : Statement (.preemptRelease queue seq) := of_event rfl
theorem resume (seq asid : Nat) : Statement (.resume seq asid) := of_event rfl
theorem tresumeResume (unit who asid : Nat) : Statement (.tresumeResume unit who asid) := of_event rfl
theorem tresumeAbort (unit who asid : Nat) : Statement (.tresumeAbort unit who asid) := of_event rfl
theorem xlinv (value : Word) : Statement (.xlinv value) := of_event rfl
theorem errcntWrite (value : Word) : Statement (.errcntWrite value) := of_event rfl
theorem errcnt2Write (value : Word) : Statement (.errcnt2Write value) := of_event rfl
theorem merrClear (value : Word) : Statement (.merrClear value) := of_event rfl
theorem qpartWrite (value : Word) : Statement (.qpartWrite value) := of_event rfl
theorem pwinWrite (value : Word) : Statement (.pwinWrite value) := of_event rfl
theorem fllsetWrite (value : Word) : Statement (.fllsetWrite value) := of_event rfl
theorem throttleWrite (value : Word) : Statement (.throttleWrite value) := of_event rfl
theorem controlRegisterWrite (index : Nat) (value : Word) : Statement (.controlRegisterWrite index value) := of_event rfl
theorem bootFlash : Statement (.bootFlash) := of_event rfl
theorem bootReboot : Statement (.bootReboot) := of_event rfl
theorem hostBar0Access (access : HostAccess) : Statement (.hostBar0Access access) := of_event rfl
theorem hostBar2Access (access : HostAccess) : Statement (.hostBar2Access access) := of_event rfl
theorem functionLevelReset (port : Nat) : Statement (.functionLevelReset port) := of_event rfl
theorem getVersion (port : Nat) : Statement (.getVersion port) := of_event rfl
theorem getCapabilities (req : SpdmReq) : Statement (.getCapabilities req) := of_event rfl
theorem negotiateAlgorithms (req : SpdmReq) : Statement (.negotiateAlgorithms req) := of_event rfl
theorem getDigests (port : Nat) : Statement (.getDigests port) := of_event rfl
theorem getCertificate (port slot offset length : Nat) : Statement (.getCertificate port slot offset length) := of_event rfl
theorem challenge (port slot : Nat) (ask : SpdmAsk) : Statement (.challenge port slot ask) := of_event rfl
theorem getMeasurements (port index : Nat) (signed : Bool) (ask : SpdmAsk) : Statement (.getMeasurements port index signed ask) := of_event rfl
theorem spdmUnsupportedRequest (port code : Nat) : Statement (.spdmUnsupportedRequest port code) := of_event rfl
theorem correctableError (hbm : Bool) (times : Nat) : Statement (.correctableError hbm times) := of_event rfl
theorem uncorrectableError (place : Place) : Statement (.uncorrectableError place) := of_event rfl
theorem tempSample (die temp : Nat) : Statement (.tempSample die temp) := of_event rfl
theorem hbmTempSample (stack temp : Nat) : Statement (.hbmTempSample stack temp) := of_event rfl
theorem linkTraining (pkg tick : Nat) : Statement (.linkTraining pkg tick) := of_event rfl
theorem peerRequestTimeout (id : Nat) : Statement (.peerRequestTimeout id) := of_event rfl
theorem annReceive (msg : PaceMsg) : Statement (.annReceive msg) := of_event rfl
theorem hbReceive (msg : PaceMsg) : Statement (.hbReceive msg) := of_event rfl
theorem joinReceive (msg : PaceMsg) : Statement (.joinReceive msg) := of_event rfl
theorem welcomeReceive (msg : PaceMsg) : Statement (.welcomeReceive msg) := of_event rfl
theorem leaveReceive (msg : PaceMsg) : Statement (.leaveReceive msg) := of_event rfl
theorem peerMemoryRequest (req : PeerReq) : Statement (.peerMemoryRequest req) := of_event rfl
theorem pcieCorrectableError (port : Nat) : Statement (.pcieCorrectableError port) := of_event rfl
theorem resultLanding (cid : Nat) : Statement (.resultLanding cid) := of_event rfl
theorem quantumEnd (core : Nat) : Statement (.quantumEnd core) := of_event rfl
theorem trapEventPost (asid : Nat) : Statement (.trapEventPost asid) := of_event rfl
theorem leaseGrant (serai : Nat) : Statement (.leaseGrant serai) := of_event rfl
theorem leaseIdleExpiry (serai : Nat) : Statement (.leaseIdleExpiry serai) := of_event rfl
theorem arrayCommandStart (serai : Nat) : Statement (.arrayCommandStart serai) := of_event rfl
theorem arrayUpdateBegin (serai : Nat) : Statement (.arrayUpdateBegin serai) := of_event rfl
theorem arrayCommandComplete (serai : Nat) : Statement (.arrayCommandComplete serai) := of_event rfl
theorem mfreeMarkerSignal (serai : Nat) : Statement (.mfreeMarkerSignal serai) := of_event rfl
theorem tileCommandStart (core : Nat) : Statement (.tileCommandStart core) := of_event rfl
theorem tileCommandComplete (core : Nat) : Statement (.tileCommandComplete core) := of_event rfl
theorem tsCopyStart (serai : Nat) : Statement (.tsCopyStart serai) := of_event rfl
theorem tsCopyBeat (serai : Nat) : Statement (.tsCopyBeat serai) := of_event rfl
theorem tsCopyYield (serai : Nat) : Statement (.tsCopyYield serai) := of_event rfl
theorem tsCopyComplete (serai : Nat) : Statement (.tsCopyComplete serai) := of_event rfl
theorem rlyInitStart (serai : Nat) : Statement (.rlyInitStart serai) := of_event rfl
theorem rlyInitComplete (serai : Nat) : Statement (.rlyInitComplete serai) := of_event rfl
theorem droverCommandStart (drover : Nat) : Statement (.droverCommandStart drover) := of_event rfl
theorem droverChunkCommit (drover : Nat) : Statement (.droverChunkCommit drover) := of_event rfl
theorem chunkTagWrite (drover : Nat) : Statement (.chunkTagWrite drover) := of_event rfl
theorem droverCommandComplete (drover : Nat) : Statement (.droverCommandComplete drover) := of_event rfl
theorem drainStart (cid : Nat) : Statement (.drainStart cid) := of_event rfl
theorem drainComplete (cid : Nat) : Statement (.drainComplete cid) := of_event rfl
theorem scCommandStart (serai : Nat) : Statement (.scCommandStart serai) := of_event rfl
theorem scDirectoryPoint (serai : Nat) : Statement (.scDirectoryPoint serai) := of_event rfl
theorem scCommandComplete (serai : Nat) : Statement (.scCommandComplete serai) := of_event rfl
theorem colCommandStart (die : Nat) : Statement (.colCommandStart die) := of_event rfl
theorem colCommandComplete (die : Nat) : Statement (.colCommandComplete die) := of_event rfl
theorem colTimeout (die : Nat) : Statement (.colTimeout die) := of_event rfl
theorem launchComplete (unit : Nat) : Statement (.launchComplete unit) := of_event rfl
theorem pageWalkComplete (cid entry : Nat) : Statement (.pageWalkComplete cid entry) := of_event rfl
theorem faultQueueWrite (asid : Nat) : Statement (.faultQueueWrite asid) := of_event rfl
theorem farLoadArrival (cid entry : Nat) : Statement (.farLoadArrival cid entry) := of_event rfl
theorem parkEventPost (asid : Nat) : Statement (.parkEventPost asid) := of_event rfl
theorem storePublicationDone (cid : Nat) : Statement (.storePublicationDone cid) := of_event rfl
theorem atomicPerform (id : Nat) : Statement (.atomicPerform id) := of_event rfl
theorem shadowStackSpillFill (cid : Nat) : Statement (.shadowStackSpillFill cid) := of_event rfl
theorem phaserRegistrationApply (op : Nat) : Statement (.phaserRegistrationApply op) := of_event rfl
theorem phaserDropApply (op : Nat) : Statement (.phaserDropApply op) := of_event rfl
theorem phaserArrivalCount (op : Nat) : Statement (.phaserArrivalCount op) := of_event rfl
theorem phaseDelivery (op : Nat) : Statement (.phaseDelivery op) := of_event rfl
theorem phTimeout (cid : Nat) : Statement (.phTimeout cid) := of_event rfl
theorem waitTimeout (cid : Nat) : Statement (.waitTimeout cid) := of_event rfl
theorem schedulerSelection (die : Nat) : Statement (.schedulerSelection die) := of_event rfl
theorem scratchImageCopyDone (gid : Nat) : Statement (.scratchImageCopyDone gid) := of_event rfl
theorem groupStart (gid : Nat) : Statement (.groupStart gid) := of_event rfl
theorem powerInterval : Statement (.powerInterval) := of_event rfl
theorem overdrawWindow : Statement (.overdrawWindow) := of_event rfl
theorem overdrawCapRise (serai : Nat) : Statement (.overdrawCapRise serai) := of_event rfl
theorem clockRaise (serai : Nat) : Statement (.clockRaise serai) := of_event rfl
theorem consignmentComplete (cons : Nat) : Statement (.consignmentComplete cons) := of_event rfl
theorem completionRecordWrite (cons : Nat) : Statement (.completionRecordWrite cons) := of_event rfl
theorem watchdogExpiry (cons : Nat) : Statement (.watchdogExpiry cons) := of_event rfl
theorem queueClosed (queue : Nat) : Statement (.queueClosed queue) := of_event rfl
theorem packetFetch (queue : Nat) : Statement (.packetFetch queue) := of_event rfl
theorem launchPacket (queue : Nat) : Statement (.launchPacket queue) := of_event rfl
theorem waitseqPacket (queue : Nat) : Statement (.waitseqPacket queue) := of_event rfl
theorem evwaitPacket (queue : Nat) : Statement (.evwaitPacket queue) := of_event rfl
theorem evsigPacket (queue : Nat) : Statement (.evsigPacket queue) := of_event rfl
theorem graphPacket (queue : Nat) : Statement (.graphPacket queue) := of_event rfl
theorem eventObjectPoll (queue : Nat) : Statement (.eventObjectPoll queue) := of_event rfl
theorem contextFreeze (cid : Nat) : Statement (.contextFreeze cid) := of_event rfl
theorem suspendSaveComplete (cons : Nat) : Statement (.suspendSaveComplete cons) := of_event rfl
theorem groupRejoin (cid : Nat) : Statement (.groupRejoin cid) := of_event rfl
theorem contextRejoin (cid : Nat) : Statement (.contextRejoin cid) := of_event rfl
theorem xlinvDone : Statement (.xlinvDone) := of_event rfl
theorem powerOn : Statement (.powerOn) := of_event rfl
theorem msixMessage (port vector : Nat) : Statement (.msixMessage port vector) := of_event rfl
theorem roundBoundary : Statement (.roundBoundary) := of_event rfl
theorem heartbeatSend : Statement (.heartbeatSend) := of_event rfl
theorem welcomeSend (pkg : Nat) : Statement (.welcomeSend pkg) := of_event rfl
theorem peerSilent (pkg : Nat) : Statement (.peerSilent pkg) := of_event rfl
theorem peerDeparted (pkg : Nat) : Statement (.peerDeparted pkg) := of_event rfl
theorem membershipLapse : Statement (.membershipLapse) := of_event rfl
theorem launchCommandStart (unit : Nat) : Statement (.launchCommandStart unit) := of_event rfl
theorem bundleFetch (cid : Nat) : Statement (.bundleFetch cid) := of_event rfl
theorem globalStorePerform (id : Nat) : Statement (.globalStorePerform id) := of_event rfl

end Sys2Proof.Laws.SlotWord
end

