-- ==== Sys2Proof/Machine/KzText.lean ====
section
/-! DEFINITION. The text that the assembler kzas reads: lines, numbers, literals, expressions and operands (R3, R74, R75, R77).
No step reads it. -/

namespace Sys2Proof.Machine

open Sys2Proof

/-- A run of characters of a source. -/
abbrev Text := List Char

/-- Why kzas rejects a source (R74 to R78). -/
inductive AsmError where
  | slotTaken | tooManyVectors | biClash | fieldClash | tail | range | operand | expression | doesNotFit | unknownMnemonic
  | unknownDirective | directive | xim | label | macro_ | nesting | fuel
  deriving DecidableEq, Repr

/-! ## Words of a line -/

/-- A character of a word: a word ends at a dot, a blank, a comma, a bracket, a colon or an operator sign (R78). -/
def wordChar (c : Char) : Bool := c.isAlphanum || c == '_'

/-- A blank. -/
def blank (c : Char) : Bool := c == ' ' || c == '\t'

/-- Text without blanks at its two ends. -/
def trim (t : Text) : Text := ((t.dropWhile blank).reverse.dropWhile blank).reverse

/-- The pieces of a text between the characters that `p` accepts. -/
def pieces (p : Char → Bool) : Text → List Text
  | [] => [[]]
  | c :: r =>
    if p c then [] :: pieces p r
    else match pieces p r with
      | [] => [[c]]
      | w :: ws => (c :: w) :: ws

/-- A line up to its comment, which starts at `;` or `//` (R74). -/
def uncommented : Text → Text
  | [] => []
  | c :: r => if c == ';' || (c == '/' && r.head? == some '/') then [] else c :: uncommented r

/-- A word, another character, or blanks. -/
inductive Tok where
  | word (t : Text)
  | mark (c : Char)
  | gap
  deriving DecidableEq, Repr

/-- The words and marks of a text. -/
def toks : Text → List Tok
  | [] => []
  | c :: r =>
    let rest := toks r
    if wordChar c then
      match rest with
      | .word t :: ts => .word (c :: t) :: ts
      | ts => .word [c] :: ts
    else if blank c then (match rest with | .gap :: _ => rest | ts => .gap :: ts)
    else .mark c :: rest

/-- The text of words and marks. -/
def untoks (ts : List Tok) : Text := ts.flatMap fun t => match t with | .word w => w | .mark c => [c] | .gap => [' ']

/-- The operand prefixes behind which a parameter is replaced (R78). -/
def operandPrefixes : List Text := ["s".toList, "a".toList, "v".toList, "m".toList, "t".toList, "y".toList, "ph".toList, "rb".toList, "dr".toList]

/-- A word of a macro's body with its parameters replaced: as a whole word, or as the tail behind an operand prefix (R78). -/
def substWord (args : List (Text × Text)) (w : Text) : Text :=
  match args.find? fun a => a.1 == w with
  | some a => a.2
  | none =>
    match (args.flatMap fun a => operandPrefixes.map fun p => (p, a)).find? fun x => x.1 ++ x.2.1 == w with
    | some x => x.1 ++ x.2.2
    | none => w

/-- A line of a macro's body with its parameters replaced (R78). -/
def substLine (args : List (Text × Text)) (t : Text) : Text :=
  untoks ((toks t).map fun k => match k with | .word w => .word (substWord args w) | k => k)

/-! ## Numbers and literals (R3, R77) -/

/-- Value of a digit: its place among those of base 16, in either case. -/
def digit (c : Char) : Option Nat := "0123456789abcdef".toList.idxOf? c.toLower

/-- Digits of a base, with underscores between them. -/
def digits (base : Nat) (t : Text) : Option Nat :=
  if t.head? == some '_' || t.getLast? == some '_' || t == [] then none
  else t.foldl (fun n c => n.bind fun n =>
    if c == '_' then some n else (digit c).bind fun d => if d < base then some (base * n + d) else none) (some 0)

/-- A number: hexadecimal behind 0x, binary behind 0b, else decimal (R3). -/
def number : Text → Option Nat
  | '0' :: 'x' :: t => digits 16 t
  | '0' :: 'b' :: t => digits 2 t
  | t => digits 10 t

/-- A decimal literal without its sign: its digits and the power of ten (R77). -/
def decimal (t : Text) : Option (Nat × Int) :=
  match pieces (fun c => c == 'e' || c == 'E') t with
  | [m] => mantissa m
  | [m, '-' :: e] => (mantissa m).bind fun x => (digits 10 e).map fun k => (x.1, x.2 - (k : Int))
  | [m, '+' :: e] => (mantissa m).bind fun x => (digits 10 e).map fun k => (x.1, x.2 + (k : Int))
  | [m, e] => (mantissa m).bind fun x => (digits 10 e).map fun k => (x.1, x.2 + (k : Int))
  | _ => none
where
  /-- Digits with at most one point among them. -/
  mantissa (m : Text) : Option (Nat × Int) :=
    match pieces (fun c => c == '.') m with
    | [w] => (digits 10 w).map fun n => (n, 0)
    | [w, f] => (digits 10 (w ++ f)).map fun n => (n, -((f.filter fun c => c != '_').length : Int))
    | _ => none

/-- A floating-point literal: decimal with an optional exponent, or `inf`, `nan` and `snan`, each with an optional sign
(R77; DESIGN CHOICE, log 82). -/
def literal (t : Text) : Option Fp :=
  match t with
  | '-' :: r => plain true (trim r)
  | '+' :: r => plain false (trim r)
  | r => plain false r
where
  /-- The literal behind its sign. -/
  plain (neg : Bool) (t : Text) : Option Fp :=
    if t == "inf".toList then some (.inf neg)
    else if t == "nan".toList then some (.nan neg (2 ^ 51))
    else if t == "snan".toList then some (.nan neg (2 ^ 50))
    else (decimal t).map fun x =>
      if x.1 = 0 then .fin ⟨neg, 0, 0⟩
      else if 0 ≤ x.2 then .fin ⟨neg, x.1 * 10 ^ x.2.toNat, 0⟩
      else .fin (Dy.div ⟨neg, x.1, 0⟩ ⟨false, 10 ^ x.2.natAbs, 0⟩)

/-- The code of a literal in a format, rounded to nearest with ties to even (R78). -/
def literalCode (f : Fmt) : Fp → Nat
  | .inf n => f.signBit n + f.infCode
  | .nan n m => f.signBit n + f.infCode + m >>> (52 - f.fracBits)
  | .fin d => (roundTo f 0 d).1

/-! ## Expressions (R77) -/

/-- A word or an operator of an expression. -/
inductive ETok where
  | word (t : Text)
  | op (t : Text)
  deriving DecidableEq, Repr

/-- The tokens of an expression or operand: names may hold dots, `<<`, `>>` and `>=` are one sign each. -/
def etoks : List Tok → List ETok
  | [] => []
  | .gap :: r => etoks r
  | .word w :: .mark '.' :: r => (match etoks r with | .word v :: ts => .word (w ++ '.' :: v) :: ts | ts => .word w :: .op ['.'] :: ts)
  | .word w :: r => .word w :: etoks r
  | .mark '<' :: .mark '<' :: r => .op ['<', '<'] :: etoks r
  | .mark '>' :: .mark '>' :: r => .op ['>', '>'] :: etoks r
  | .mark '>' :: .mark '=' :: r => .op ['>', '='] :: etoks r
  | .mark c :: r => .op [c] :: etoks r

/-- An expression (R77). -/
inductive Ex where
  | num (w : Word)
  | sym (t : Text)
  | neg (e : Ex)
  | inv (e : Ex)
  | bin (op : Text) (a b : Ex)
  deriving DecidableEq, Repr

/-- The binary operators from the weakest, in the order of C (R77). -/
def binaryLevels : List (List Text) :=
  [["|".toList], ["^".toList], ["&".toList], ["<<".toList, ">>".toList], ["+".toList, "-".toList],
   ["*".toList, "/".toList, "%".toList]]

/-- Read an expression at an operator level, to the left of which `left` has been read; level 6 is a sign, a number, a symbol or
parentheses. -/
def parseEx : Nat → Nat → Option Ex → List ETok → Option (Ex × List ETok)
  | 0, _, _, _ => none
  | n + 1, lvl, left, ts =>
    if 6 ≤ lvl then
      match ts with
      | .op ['-'] :: r => (parseEx n 6 none r).map fun x => (.neg x.1, x.2)
      | .op ['+'] :: r => parseEx n 6 none r
      | .op ['~'] :: r => (parseEx n 6 none r).map fun x => (.inv x.1, x.2)
      | .op ['('] :: r =>
        (match parseEx n 0 none r with
         | some (e, .op [')'] :: r') => some (e, r')
         | _ => none)
      | .word w :: r =>
        if (w.headD ' ').isDigit then
          (match number w with | some k => if k < 2 ^ 64 then some (.num (BitVec.ofNat 64 k), r) else none | none => none)
        else some (.sym w, r)
      | _ => none
    else match left with
      | none => (parseEx n (lvl + 1) none ts).bind fun x => parseEx n lvl (some x.1) x.2
      | some a =>
        match ts with
        | .op o :: r =>
          if (binaryLevels.getD lvl []).contains o then
            (parseEx n (lvl + 1) none r).bind fun x => parseEx n lvl (some (.bin o a x.1)) x.2
          else some (a, ts)
        | ts => some (a, ts)

/-- The expression that tokens spell whole. -/
def expression (ts : List ETok) : Option Ex :=
  match parseEx (8 * ts.length + 8) 0 none ts with
  | some (e, []) => some e
  | _ => none

/-- What a symbol stands for: a constant, a place in a section of this object, or something another object defines. -/
inductive Sym where
  | const (w : Word)
  | at_ (section_ off : Nat)
  | extern_
  deriving DecidableEq, Repr

/-- The symbols known at a point. -/
abbrev SymTab := List (Text × Sym)

/-- What a name stands for. -/
def SymTab.get (env : SymTab) (t : Text) : Option Sym := (env.find? fun x => x.1 == t).map (·.2)

/-- A value: a number, or a symbol that stays for the linker with a number added. -/
structure Val where
  sym : Option Text
  add : Word
  deriving DecidableEq, Repr

/-- A number. -/
def Val.num (w : Word) : Val := ⟨none, w⟩

/-- The distance of two places of one section. -/
def SymTab.distance (env : SymTab) (a b : Text) : Option Word :=
  match env.get a, env.get b with
  | some (.at_ s x), some (.at_ r y) => if s = r then some (BitVec.ofInt 64 ((x : Int) - y)) else none
  | _, _ => none

/-- A binary operator on numbers, in 64-bit two's complement as in C; none where C has no result (R77; DESIGN CHOICE, log 82). -/
def binary (op : Text) (a b : Word) : Option Word :=
  match op with
  | ['+'] => some (a + b)
  | ['-'] => some (a - b)
  | ['*'] => some (a * b)
  | ['/'] => if b = 0 then none else some (a.sdiv b)
  | ['%'] => if b = 0 then none else some (a.srem b)
  | ['<', '<'] => if b.toNat < 64 then some (a <<< b.toNat) else none
  | ['>', '>'] => if b.toNat < 64 then some (a.sshiftRight b.toNat) else none
  | ['&'] => some (a &&& b)
  | ['|'] => some (a ||| b)
  | ['^'] => some (a ^^^ b)
  | _ => none

/-- Value of an expression: a symbol that is no constant stays, if at most a number is added to it (R77; DESIGN CHOICE, log 82). -/
def Ex.value (env : SymTab) : Ex → Option Val
  | .num w => some (.num w)
  | .sym t => some (match env.get t with | some (.const w) => .num w | _ => ⟨some t, 0⟩)
  | .neg e => (e.value env).bind fun v => if v.sym.isNone then some (.num (-v.add)) else none
  | .inv e => (e.value env).bind fun v => if v.sym.isNone then some (.num (~~~v.add)) else none
  | .bin op a b =>
    (a.value env).bind fun x => (b.value env).bind fun y =>
      match x.sym, y.sym, op with
      | none, none, op => (binary op x.add y.add).map Val.num
      | some t, none, ['+'] => some ⟨some t, x.add + y.add⟩
      | none, some t, ['+'] => some ⟨some t, x.add + y.add⟩
      | some t, none, ['-'] => some ⟨some t, x.add - y.add⟩
      | some t, some u, ['-'] => (env.distance t u).map fun d => .num (d + x.add - y.add)
      | _, _, _ => none

/-- Value of the expression that tokens spell. -/
def valueOf (env : SymTab) (ts : List ETok) : Option Val := (expression ts).bind (Ex.value env)

/-- Value of an expression that must be a number. -/
def constOf (env : SymTab) (t : Text) : Option Word :=
  (valueOf env (etoks (toks t))).bind fun v => if v.sym.isNone then some v.add else none

/-! ## Operands (R75) -/

/-- The files of numbered things that operands name. -/
inductive RegFile where
  | s | a | v | m | t | y | ph | rb | dr
  deriving DecidableEq, Repr

/-- The prefixes of the files and how many each has. -/
def regFiles : List (Text × RegFile × Nat) :=
  [("s".toList, .s, 64), ("a".toList, .a, 32), ("v".toList, .v, 1024), ("m".toList, .m, 8), ("t".toList, .t, 16),
   ("y".toList, .y, 256), ("ph".toList, .ph, 576), ("rb".toList, .rb, 16), ("dr".toList, .dr, 4)]

/-- A register operand such as s5, v917 or ph70 (R75). -/
def register (w : Text) : Option (RegFile × Nat) :=
  (regFiles.filterMap fun f =>
    if w.take f.1.length == f.1 then
      (match w.drop f.1.length with
       | ['0'] => some (f.2.1, 0)
       | '0' :: _ => none
       | r => if r.all Char.isDigit then (digits 10 r).bind fun n => if n < f.2.2 then some (f.2.1, n) else none else none)
    else none).head?

/-- An operand: a register, the broadcast port, memory with an optional index, or another word or expression. -/
inductive Opnd where
  | reg (f : RegFile) (n : Nat)
  | bc
  | mem (base : Nat) (index : Option (RegFile × Nat)) (shift : Nat) (off : Val)
  | name (t : Text)
  | val (v : Val)
  deriving DecidableEq, Repr

/-- The offset of a memory operand; one written with a minus sign is negated, and the sign negates the whole expression after it
(R75; DESIGN CHOICE, log 82). -/
def memOffset (env : SymTab) : List ETok → Option Val
  | [] => some (.num 0)
  | .op ['+'] :: r => valueOf env r
  | .op ['-'] :: r => (valueOf env r).bind fun v => if v.sym.isNone then some (.num (-v.add)) else none
  | _ => none

/-- What stands between the brackets of a memory operand; the k of a scaled index is a plain number, no expression and no symbol (R75;
DESIGN CHOICE, log 99). -/
def memory (env : SymTab) : List ETok → Option Opnd
  | .word b :: r =>
    match register b with
    | some (.a, base) =>
      let plain := (memOffset env r).map fun v => Opnd.mem base none 0 v
      (match r with
       | .op ['+'] :: .word i :: r' =>
         (match register i with
          | some (f, n) =>
            if f ≠ .s && f ≠ .v then none else
            (match r' with
             | .op ['<', '<'] :: .word k :: r'' =>
               (match number k with
                | some k => if k ≤ 7 then (memOffset env r'').map fun v => .mem base (some (f, n)) k v else none
                | none => none)
             | r' => (memOffset env r').map fun v => .mem base (some (f, n)) 0 v)
          | none => plain)
       | _ => plain)
    | _ => none
  | _ => none

/-- An operand (R75); one word that is no register may name a control register or a mode. -/
def operand (env : SymTab) (t : Text) : Option Opnd :=
  match etoks (toks t) with
  | [.op ['@'], .word w] => if w == "bc".toList then some .bc else none
  | .op ['['] :: r => if r.getLast? == some (.op [']']) then memory env r.dropLast else none
  | [.word w] =>
    match register w with
    | some (f, n) => some (.reg f n)
    | none => if (w.headD ' ').isDigit then (valueOf env [.word w]).map Opnd.val else some (.name w)
  | ts => (valueOf env ts).map Opnd.val

end Sys2Proof.Machine
end

