-- ==== Sys2Proof/Machine/KzTable.lean ====
section
/-! DEFINITION. The written form of every instruction: mnemonic, suffixes, operands and the fields they fill (R55 to R71, R75 and
the syntax lines of the chapters).  No step reads it. -/

namespace Sys2Proof.Machine

open Sys2Proof

/-- An operand position of a form: what may stand there, and the field it fills.  `pos` is the field's lowest bit. -/
inductive KzArg where
  /-- A register number in a field. -/
  | reg (f : RegFile) (pos : Nat)
  /-- An `m` operand: a mask selector from 1 to 7. -/
  | sel (pos : Nat)
  /-- A v register below 512 (`dupcmp`, R118). -/
  | low (pos : Nat)
  /-- The vb operand: a v register, or `@bc` with BCB (R68, R75). -/
  | vb
  /-- A number from `lo` to `hi`, less `bias`, in `len` bits. -/
  | num (pos len : Nat) (lo hi : Int) (bias : Int)
  /-- The signed imm32 of the S slot, negated for `sub`; `wide` where `xim` may extend it (R55, R56). -/
  | imm (wide negated : Bool)
  /-- The unsigned imm32 of `lih` (R121). -/
  | immHigh
  /-- An s register that the Y word names in BI, with BV = 1 (R75). -/
  | bi
  /-- A memory operand; its index is an s register or absent (R75). -/
  | mem
  /-- A memory operand without index (`amo.cas`, R241). -/
  | memPlain
  /-- A memory operand with a v index (R159). -/
  | memVec
  /-- `[aN]` alone, the register in a field. -/
  | addr (pos : Nat)
  /-- A control register by name (R75). -/
  | creg
  /-- A branch or call target (R70). -/
  | target
  /-- One of some words, each with its bits. -/
  | word (ws : List (String × Nat))
  /-- The phaser of `drain.arr` with its scope (R281). -/
  | phScope
  deriving DecidableEq, Repr

/-- Which tails a form takes (R64, R75). -/
inductive Tails where
  | none_ | signal | both
  deriving DecidableEq, Repr

/-- A row: the first word of the mnemonic, the groups of suffixes after it with the bits each sets (an empty name: the suffix may be
left out), the slot (1 for both vector slots), the opcode, the bits it always sets, and its operands. -/
structure KzRow where
  head : String
  suffixes : List (List (String × Nat))
  slot : Nat
  op : Nat
  fixed : Nat
  args : List KzArg
  mask : Bool
  tails : Tails
  deriving DecidableEq, Repr

/-- Bits that a list of names sets, moved up. -/
def lifted (k : Nat) (ns : List (String × Nat)) : List (String × Nat) := ns.map fun n => (n.1, n.2 * 2 ^ k)

/-! ## Suffixes -/

/-- Integer types (R58). -/
def intTypes : List (String × Nat) := [("i8", 0), ("i16", 1), ("i32", 2), ("i64", 3), ("n8", 4), ("n16", 5), ("n32", 6), ("n64", 7)]

/-- Floating-point types (R58). -/
def fpTypes : List (String × Nat) := [("f64", 8), ("f32", 9), ("f16", 10), ("bf16", 11)]

/-- Every type: a suffix that an instruction does not accept is written and traps at issue (R58, R79, R132; DESIGN CHOICE, log 82). -/
def anyTypes : List (String × Nat) := intTypes ++ fpTypes

/-- MX element types as FN[2:0] names them (R58). -/
def mxTypes : List (String × Nat) := [("e4m3", 0), ("e5m2", 1), ("e2m3", 2), ("e3m2", 3), ("e2m1", 4), ("mxi8", 5)]

/-- The wide types of MX packing (R141). -/
def wideTypes : List (String × Nat) := [("f32", 9), ("bf16", 11)]

/-- Access widths (R157). -/
def widths : List (String × Nat) := [("8", 0), ("16", 1), ("32", 2), ("64", 3)]

/-- Element widths that a type suffix sets in a load or store (R157). -/
def typeWidths : List (String × Nat) :=
  [("i8", 0), ("n8", 0), ("i16", 1), ("n16", 1), ("f16", 1), ("bf16", 1), ("i32", 2), ("n32", 2), ("f32", 2), ("i64", 3), ("n64", 3),
   ("f64", 3)]

/-- Scopes (R252). -/
def scopeNames : List (String × Nat) :=
  [("ctx", 0), ("core", 1), ("serai", 2), ("qtr", 3), ("die", 4), ("pkg", 5), ("convoy", 6), ("sys", 7)]

/-- Conditions of `scmp` (R121). -/
def scmpConds : List (String × Nat) :=
  [("eq", 0), ("ne", 1), ("lt", 2), ("le", 3), ("gt", 4), ("ge", 5), ("ltu", 6), ("leu", 7), ("gtu", 8), ("geu", 9)]

/-- Conditions of `vcmp` (R134). -/
def vcmpConds : List (String × Nat) := scmpConds.take 6

/-- Conditions of the floating-point compares (R128). -/
def fcmpConds : List (String × Nat) := vcmpConds ++ [("un", 6), ("ord", 7)]

/-- Types of `fcvt` (R129). -/
def fcvtTypes : List (String × Nat) :=
  [("f64", 0), ("f32", 1), ("f16", 2), ("bf16", 3), ("i32", 4), ("n32", 5), ("i64", 6), ("n64", 7)]

/-- Control registers by name (R125, R228, R232, R250, R332, R357, R371, R374, R381, R392, R394, R406, R407, R414 to R416). -/
def cregNames : List (String × Nat) :=
  [("CTXCTL", 0x000), ("FPCTL", 0x001), ("FPSTAT", 0x002), ("MXSTAT", 0x003), ("SKIPS", 0x004), ("PLANES_DONE", 0x005),
   ("PLANES_SKIPPED", 0x006), ("SSP", 0x008), ("CYCLE", 0x009), ("TCAUSE", 0x010), ("TPC", 0x011), ("TSLOT", 0x012),
   ("TVAL", 0x013), ("TLAT", 0x014), ("TEPC", 0x015), ("THAND", 0x016), ("RBCTL", 0x017), ("TSCR0", 0x018), ("TSCR1", 0x019)] ++
  [("TSHAPE0", 0x040), ("TSHAPE1", 0x041), ("TSHAPE2", 0x042), ("TSHAPE3", 0x043), ("TSHAPE4", 0x044), ("TSHAPE5", 0x045),
   ("TSHAPE6", 0x046), ("TSHAPE7", 0x047), ("TSHAPE8", 0x048), ("TSHAPE9", 0x049), ("TSHAPE10", 0x04A), ("TSHAPE11", 0x04B),
   ("TSHAPE12", 0x04C), ("TSHAPE13", 0x04D), ("TSHAPE14", 0x04E), ("TSHAPE15", 0x04F)] ++
  [("SPBASE", 0x200), ("SPLIM", 0x201), ("TSBASE", 0x202), ("TSLIM", 0x203), ("THROTTLE", 0x204), ("FLLSET", 0x205),
   ("PACE", 0x300), ("PACEROUND", 0x301), ("TICK", 0x302), ("CONVOYID", 0x303)] ++
  [("XLINV", 0x810), ("RESUME", 0x811), ("ASTAB", 0x812), ("TOLLBASE", 0x813), ("QTAB", 0x814), ("PREEMPT", 0x815),
   ("TRESUME", 0x816), ("ERRCNT", 0x817), ("ERRCNT2", 0x818), ("COLTAB", 0x819), ("CVTAB", 0x81A), ("TMON0", 0x820),
   ("TMON1", 0x821), ("TMON2", 0x822), ("TMON3", 0x823), ("TMON4", 0x824), ("TMON5", 0x825), ("TMON6", 0x826), ("TMON7", 0x827),
   ("TMON8", 0x828), ("TMON9", 0x829), ("QPART", 0x830), ("PWIN", 0x831), ("BOOT", 0x832), ("MERR", 0x833)]

/-! ## The S slot (R55, R121, R124, R128) -/

/-- The three register operands of the S slot. -/
def sRegs : List KzArg := [.reg .s 50, .reg .s 44, .reg .s 38]

/-- A row of the S slot. -/
def sRow (head : String) (suffixes : List (List (String × Nat))) (op : Nat) (fixed : Nat) (args : List KzArg) : KzRow :=
  ⟨head, suffixes, 0, op, fixed, args, false, .none_⟩

/-- An instruction of the S slot in its register form and in its immediate form, which sets FN[0]. -/
def sBoth (head : String) (suffixes : List (List (String × Nat))) (op : Nat) (imm : KzArg) : List KzRow :=
  [sRow head suffixes op 0 sRegs, sRow head suffixes op (2 ^ 32) [.reg .s 50, .reg .s 44, imm]]

/-- An optional unsigned suffix in FN[1]. -/
def unsignedSuffix : List (List (String × Nat)) := [[("", 0), ("n64", 2 ^ 33)]]

/-- The rows of the S slot. -/
def sRows : List KzRow :=
  let wide : KzArg := .imm true false
  let imm : KzArg := .imm false false
  let shift : KzArg := .num 0 6 0 63 0
  let d : List (List (String × Nat)) := [[("d", 0)]]
  [sRow "add" [] 0x01 0 sRegs, sRow "add" [] 0x11 0 [.reg .s 50, .reg .s 44, wide], sRow "sub" [] 0x02 0 sRegs,
   sRow "sub" [] 0x11 0 [.reg .s 50, .reg .s 44, .imm true true]] ++
  sBoth "and" [] 0x03 wide ++ sBoth "or" [] 0x04 wide ++ sBoth "xor" [] 0x05 wide ++ sBoth "andn" [] 0x06 wide ++
  sBoth "shl" [] 0x07 shift ++ sBoth "shr" [] 0x08 shift ++ sBoth "sra" [] 0x09 shift ++ sBoth "rotl" [] 0x0A shift ++
  sBoth "min" unsignedSuffix 0x0B imm ++ sBoth "max" unsignedSuffix 0x0C imm ++ sBoth "scmp" [lifted 33 scmpConds] 0x0D imm ++
  [sRow "sel" [] 0x0E 0 (sRegs ++ [.reg .s 0]), sRow "li" [] 0x0F 0 [.reg .s 50, wide],
   sRow "lih" [] 0x10 0 [.reg .s 50, .reg .s 44, .immHigh], sRow "addi" [] 0x11 0 [.reg .s 50, .reg .s 44, wide],
   sRow "mov" [] 0x12 0 [.reg .s 50, .reg .s 44], sRow "clz" [] 0x13 0 [.reg .s 50, .reg .s 44],
   sRow "ctz" [] 0x14 0 [.reg .s 50, .reg .s 44], sRow "popc" [] 0x15 0 [.reg .s 50, .reg .s 44],
   sRow "bfx" [[("", 0), ("s", 2 ^ 32)]] 0x16 0 [.reg .s 50, .reg .s 44, .num 0 6 0 63 0, .num 6 7 0 127 0],
   sRow "bfi" [] 0x17 0 (sRegs ++ [.num 0 6 0 63 0, .num 6 7 0 127 0]),
   sRow "s2a" [] 0x18 0 [.reg .a 50, .reg .s 44], sRow "a2s" [] 0x19 0 [.reg .s 50, .reg .a 44]] ++
  sBoth "mul" [] 0x20 imm ++ sBoth "mulh" [[("", 0), ("n64", 2 ^ 33), ("su", 2 ^ 34)]] 0x21 imm ++
  sBoth "div" unsignedSuffix 0x22 imm ++ sBoth "rem" unsignedSuffix 0x23 imm ++
  [sRow "mfc" [] 0x28 0 [.reg .s 50, .creg], sRow "mtc" [] 0x29 0 [.creg, .reg .s 44],
   sRow "fadd" d 0x30 0 sRegs, sRow "fsub" d 0x31 0 sRegs, sRow "fmul" d 0x32 0 sRegs, sRow "fma" d 0x33 0 (sRegs ++ [.reg .s 0]),
   sRow "fdiv" d 0x34 0 sRegs, sRow "fsqrt" d 0x35 0 [.reg .s 50, .reg .s 44], sRow "fmin" d 0x36 0 sRegs,
   sRow "fmax" d 0x37 0 sRegs, sRow "fcmp" [lifted 32 fcmpConds, [("d", 0)]] 0x38 0 sRegs,
   sRow "fclass" d 0x39 0 [.reg .s 50, .reg .s 44],
   sRow "fcvt" [lifted 35 fcvtTypes, lifted 32 fcvtTypes] 0x3A 0 [.reg .s 50, .reg .s 44]]

/-! ## The vector slots (R57, R108, R133 to R146) -/

/-- A row of the vector slots; `mask` where a mask operand may stand last (R75). -/
def vRow (head : String) (suffixes : List (List (String × Nat))) (op : Nat) (fixed : Nat) (args : List KzArg) (mask : Bool := true) :
    KzRow :=
  ⟨head, suffixes, 1, op, fixed, args, mask, .none_⟩

/-- vD and vA. -/
def vTwo : List KzArg := [.reg .v 46, .reg .v 36]

/-- vD, vA and vB. -/
def vThree : List KzArg := vTwo ++ [.vb]

/-- vD, vA, vB and vC. -/
def vFour : List KzArg := vThree ++ [.reg .v 16]

/-- A shift in its register form and in its immediate form (R134). -/
def vShift (head : String) (op : Nat) : List KzRow :=
  [vRow head [lifted 9 anyTypes] op 0 vThree, vRow head [lifted 9 anyTypes] op 1 (vTwo ++ [.num 1 6 0 63 0])]

/-- A reduction or scan (R143). -/
def vFold (head : String) (op : Nat) : List KzRow :=
  [vRow head [[("add", 0), ("min", 1), ("max", 2), ("and", 3), ("or", 4), ("xor", 5), ("fadd", 8), ("fmin", 9), ("fmax", 10)],
              lifted 9 anyTypes] op 0 vTwo]

/-- `mand` and `mor` (R108). -/
def maskPair (head : String) (op : Nat) : List KzRow :=
  let nots : List (List (String × Nat)) := [[("", 0), ("not", 2)]]
  [vRow head nots op 0 [.sel 46, .sel 36, .sel 26] false, vRow head nots op 1 [.sel 46, .sel 36, .reg .v 26] false]

/-- The rows of the vector slots. -/
def vRows : List KzRow :=
  let any := [lifted 9 anyTypes]
  let sat : List (List (String × Nat)) := [[("", 0), ("sat", 1)], lifted 9 anyTypes]
  [vRow "vadd" sat 0x01 0 vThree, vRow "vsub" sat 0x02 0 vThree, vRow "vand" any 0x03 0 vThree, vRow "vor" any 0x04 0 vThree,
   vRow "vxor" any 0x05 0 vThree] ++ vShift "vshl" 0x06 ++ vShift "vshr" 0x07 ++ vShift "vsra" 0x08 ++
  [vRow "vmin" any 0x09 0 vThree, vRow "vmax" any 0x0A 0 vThree, vRow "vabs" [lifted 9 anyTypes] 0x0B 0 vTwo,
   vRow "vneg" [lifted 9 anyTypes] 0x0C 0 vTwo, vRow "vcmp" [vcmpConds, lifted 9 anyTypes] 0x0D 0 vThree,
   vRow "vsel" any 0x0E 0 vFour, vRow "vclz" any 0x0F 0 vTwo, vRow "vpopc" any 0x10 0 vTwo, vRow "vidx" any 0x11 0 [.reg .v 46],
   vRow "vmov" any 0x12 0 vTwo, vRow "vsplat" any 0x13 0 [.reg .v 46, .reg .s 36],
   vRow "vmul" any 0x18 0 vThree, vRow "vmulh" any 0x19 0 vThree, vRow "vmadd" any 0x1A 0 vFour,
   vRow "vfadd" any 0x20 0 vThree, vRow "vfsub" any 0x21 0 vThree, vRow "vfmin" any 0x22 0 vThree, vRow "vfmax" any 0x23 0 vThree,
   vRow "vfcmp" [fcmpConds, lifted 9 anyTypes] 0x24 0 vThree, vRow "vfmul" any 0x25 0 vThree, vRow "vfma" any 0x26 0 vFour,
   vRow "vfms" any 0x27 0 vFour, vRow "vfnma" any 0x28 0 vFour, vRow "vfdiv" any 0x29 0 vThree, vRow "vfsqrt" any 0x2A 0 vTwo,
   vRow "vfclass" any 0x2B 0 vTwo,
   vRow "vcvt" [lifted 9 anyTypes, lifted 3 anyTypes] 0x30 0 (vTwo ++ [.num 0 3 0 7 0]),
   vRow "vcvt" [lifted 9 anyTypes, lifted 3 anyTypes] 0x30 0 vTwo,
   vRow "vmxpack" [mxTypes, lifted 9 wideTypes] 0x31 0 vTwo false, vRow "vmxunpack" [lifted 9 wideTypes, mxTypes] 0x32 0 vTwo] ++
  vFold "vred" 0x38 ++ vFold "vscan" 0x39 ++
  [vRow "vperm" any 0x3A 0 vThree, vRow "vrot" any 0x3B 0 (vTwo ++ [.num 0 7 0 127 0]), vRow "vrot" any 0x3B (2 ^ 7) vThree,
   vRow "vext" any 0x3C 0 (vThree ++ [.num 0 7 0 127 0]),
   vRow "v2s" any 0x3D 0 [.reg .s 46, .reg .v 36, .num 0 7 0 127 0] false, vRow "v2s" any 0x3D (2 ^ 7) [.reg .s 46, .reg .v 36, .vb] false,
   vRow "vhash" [[("srp", 9 * 2 ^ 9)]] 0x40 0 (vTwo ++ [.reg .v 26, .num 0 5 0 31 0]) false,
   vRow "mpush" [[("", 0), ("raw", 2)]] 0x48 0 [.reg .v 36] false, vRow "mpush" [[("", 0), ("raw", 2)]] 0x48 1 [.sel 36] false,
   vRow "minv" [] 0x49 0 [] false, vRow "mpop" [] 0x4A 0 [] false] ++ maskPair "mand" 0x4B ++ maskPair "mor" 0x4C ++
  [vRow "mcnt" [] 0x4D 0 [.reg .s 46, .sel 36] false]

/-! ## The M and C slots (R60, R63) -/

/-- A command of the M slot. -/
def mRow (head : String) (suffixes : List (List (String × Nat))) (op : Nat) (args : List KzArg) (tails : Tails := .both) : KzRow :=
  ⟨head, suffixes, 3, op, 0, args, false, tails⟩

/-- A command of the C slot. -/
def cRow (head : String) (suffixes : List (List (String × Nat))) (op : Nat) (fixed : Nat) (args : List KzArg) : KzRow :=
  ⟨head, suffixes, 6, op, fixed, args, false, .both⟩

/-- The rows of the M slot (R173, R179, R180, R194, R213). -/
def mRows : List KzRow :=
  let sc : List (List (String × Nat)) := [[("", 0), ("sc", 2 ^ 24)]]
  let budget : KzArg := .num 24 6 1 64 1
  [mRow "mlease" [] 0x01 [budget] .none_, mRow "mlease" [] 0x01 [budget, .num 30 2 0 3 0] .none_, mRow "mfree" [] 0x02 [] .signal,
   mRow "tld" sc 0x03 [.reg .t 52, .addr 43, .reg .s 37], mRow "tst" sc 0x04 [.reg .t 52, .addr 43, .reg .s 37],
   mRow "mma" [] 0x08 [.reg .t 52, .reg .t 48, .reg .a 43, .reg .s 37], mRow "mma" [[("bs", 0)]] 0x09 [.reg .t 52, .reg .t 48, .reg .a 43, .reg .s 37],
   mRow "mma" [[("nm", 0)]] 0x0A [.reg .t 52, .reg .t 48, .reg .a 43, .reg .s 37], mRow "mzero" [] 0x0B [.reg .a 43, .reg .s 37],
   mRow "tsld" [[("", 0), ("prune24", 2 ^ 24), ("prune48", 3 * 2 ^ 24)]] 0x10 [.reg .a 43, .reg .s 37], mRow "tsst" [] 0x11 [.reg .a 43, .reg .s 37]]

/-- The two forms of a drover command (R287). -/
def cpForms (suffix : String) (op : Nat) : List KzRow :=
  [cRow "cp" [[(suffix, 0)]] op 0 [.reg .dr 24, .addr 51], cRow "cp" [[(suffix, 0)]] op 0 [.reg .dr 24, .addr 51, .reg .s 40]]

/-- The rows of the C slot (R162, R281, R287, R307, R354, R355, R396). -/
def cRows : List KzRow :=
  [cRow "rly" [[("init", 0)]] 0x01 0 [.reg .rb 24, .reg .a 51, .reg .s 40]] ++
  cpForms "lin" 0x08 ++ cpForms "ten" 0x09 ++ cpForms "gat" 0x0A ++ cpForms "sct" 0x0B ++ cpForms "fill" 0x0C ++
  [cRow "drain" [] 0x10 0 [.num 24 8 0 255 0], cRow "drain" [[("rel", 2 ^ 35)], lifted 32 scopeNames] 0x10 0 [.num 24 8 0 255 0],
   cRow "drain" [[("arr", 2 ^ 35 + 2 ^ 36)]] 0x10 0 [.num 24 8 0 255 0, .phScope],
   cRow "sc" [[("probe", 0)], [("", 0), ("v", 2 ^ 24)]] 0x18 0 [.addr 51, .reg .s 40], cRow "sc" [[("commit", 0)]] 0x19 0 [.addr 51, .reg .s 40],
   cRow "sc" [[("drop", 0)]] 0x1A 0 [.addr 51],
   cRow "col" [[("red", 0)], [("root", 0), ("all", 2 ^ 24), ("scat", 2 ^ 25)]] 0x20 0 [.addr 51], cRow "col" [[("gat", 0)]] 0x21 0 [.addr 51],
   cRow "launch" [] 0x28 0 [.addr 51, .reg .s 40], cRow "ltrig" [] 0x29 0 []]

/-! ## The L and T slots (R61, R157, R159, R163, R164, R237, R239 to R241, R265) -/

/-- An instruction of the L slot. -/
def lRow (head : String) (suffixes : List (List (String × Nat))) (op : Nat) (args : List KzArg) : KzRow :=
  ⟨head, suffixes, 4, op, 0, args, false, .none_⟩

/-- An instruction of the T slot. -/
def tRow (head : String) (suffixes : List (List (String × Nat))) (op : Nat) (args : List KzArg) : KzRow :=
  ⟨head, suffixes, 5, op, 0, args, false, .none_⟩

/-- The rows of the L slot. -/
def lRows : List KzRow :=
  let sx : List (String × Nat) := [("", 0), ("sx", 2 ^ 5)]
  [lRow "ld" [lifted 3 widths, sx] 0x01 [.reg .s 46, .mem], lRow "ld" [[("side", 2 ^ 6)]] 0x01 [.reg .s 46, .mem],
   lRow "vld" [] 0x02 [.reg .v 46, .mem], lRow "vlds" [lifted 3 typeWidths] 0x03 [.reg .v 46, .mem],
   lRow "vldx" [lifted 3 typeWidths] 0x04 [.reg .v 46, .memVec], lRow "ldf" [lifted 3 widths, sx] 0x08 [.mem], lRow "vldf" [] 0x09 [.mem],
   lRow "popf" [] 0x0A [.reg .s 46], lRow "vpopf" [] 0x0B [.reg .v 46],
   lRow "rly" [[("take", 0)], [("", 0), ("try", 2 ^ 7)]] 0x10 [.reg .a 46, .reg .rb 3]]

/-- An atomic (R241). -/
def amoRow (suffix : String) (op : Nat) (merge : List (String × Nat)) (types : List (String × Nat)) (args : List KzArg) : KzRow :=
  tRow "amo" ([[(suffix, 0)], [("", 0), ("f", 2 ^ 5)]] ++ [merge, types, lifted 6 scopeNames]) op args

/-- The rows of the T slot. -/
def tRows : List KzRow :=
  let unsigned : List (String × Nat) := [("n32", 2 * 2 ^ 3), ("n64", 3 * 2 ^ 3)]
  let ordered : List (String × Nat) := [("i32", 2 ^ 9 + 2 * 2 ^ 3), ("i64", 2 ^ 9 + 3 * 2 ^ 3)] ++ unsigned
  let noMerge : List (String × Nat) := [("", 0)]
  let plain : List KzArg := [.reg .s 46, .mem]
  [tRow "st" [lifted 3 widths] 0x01 [.reg .s 46, .mem], tRow "st" [[("side", 2 ^ 6)]] 0x01 [.reg .s 46, .mem],
   tRow "vst" [] 0x02 [.reg .v 46, .mem], tRow "vsts" [lifted 3 typeWidths] 0x03 [.reg .v 46, .mem],
   tRow "vstx" [lifted 3 typeWidths] 0x04 [.reg .v 46, .memVec], tRow "rly" [[("give", 0)]] 0x05 [.reg .rb 3],
   tRow "stg" [lifted 3 widths] 0x08 [.reg .s 46, .mem], tRow "vstg" [] 0x09 [.reg .v 46, .mem],
   amoRow "add" 0x10 noMerge unsigned plain, amoRow "min" 0x11 noMerge ordered plain, amoRow "max" 0x12 noMerge ordered plain,
   amoRow "and" 0x13 noMerge unsigned plain, amoRow "or" 0x14 noMerge unsigned plain, amoRow "xor" 0x15 noMerge unsigned plain,
   amoRow "swap" 0x16 noMerge unsigned plain, amoRow "cas" 0x17 noMerge unsigned [.reg .s 46, .reg .s 35, .memPlain],
   amoRow "fadd" 0x18 [("", 0), ("m", 2 ^ 10)] [("f32", 2 * 2 ^ 3), ("f64", 3 * 2 ^ 3)] plain,
   tRow "fence" [lifted 3 [("acq", 1), ("rel", 2), ("ar", 3)], lifted 5 scopeNames] 0x20 []]

/-! ## The Y slot (R66, R95, R101, R103, R118, R272, R277, R370, R391) -/

/-- An instruction of the Y slot. -/
def yRow (head : String) (suffixes : List (List (String × Nat))) (op : Nat) (fixed : Nat) (args : List KzArg) : KzRow :=
  ⟨head, suffixes, 7, op, fixed, args, false, .none_⟩

/-- The rows of the Y slot; `mark` and `wait` without a timeout are words of the bundle (R76). -/
def yRows : List KzRow :=
  let time : KzArg := .num 10 14 0 16383 0
  let modes : KzArg := .word (lifted 10 [("sig", 1), ("wait", 2), ("sw", 3)])
  [yRow "br" [] 0x01 0 [.target], yRow "bz" [] 0x02 0 [.bi, .target], yRow "bnz" [] 0x03 0 [.bi, .target],
   yRow "bm" [[("none", 0)]] 0x04 0 [.target], yRow "bm" [[("any", 0)]] 0x05 0 [.target], yRow "jmp" [] 0x06 0 [.reg .a 0],
   yRow "call" [] 0x07 0 [.target], yRow "ret" [] 0x08 0 [], yRow "loop" [] 0x09 0 [.bi, .num 0 24 0 16777215 0],
   yRow "loop" [] 0x09 0 [.bi, .reg .s 0], yRow "loopx" [] 0x0A 0 [.bi, .reg .a 0], yRow "yield" [] 0x0B 0 [], yRow "halt" [] 0x0C 0 [],
   yRow "xim" [] 0x0D 0 [.num 0 24 0 16777215 0],
   yRow "sem" [[("add", 0)]] 0x19 0 [.reg .y 0, .num 9 15 (-16384) 16383 0], yRow "sem" [[("add", 2 ^ 8)]] 0x19 0 [.reg .y 0, .bi],
   yRow "sem" [[("set", 0)]] 0x1A 0 [.reg .y 0, .num 9 15 0 32767 0], yRow "sem" [[("set", 2 ^ 8)]] 0x1A 0 [.reg .y 0, .bi],
   yRow "sem" [[("rd", 0)]] 0x1B 0 [.reg .s 8, .reg .y 0],
   yRow "ph" [[("reg", 0)]] 0x20 0 [.reg .ph 0, modes], yRow "ph" [[("reg", 0)]] 0x20 0 [.reg .ph 0, modes, .num 12 10 0 1023 0],
   yRow "ph" [[("drop", 0)]] 0x21 0 [.reg .ph 0], yRow "ph" [[("arr", 0)]] 0x22 0 [.reg .ph 0], yRow "ph" [[("wait", 0)]] 0x23 0 [.reg .ph 0],
   yRow "ph" [[("wait", 0)]] 0x23 0 [.reg .ph 0, time], yRow "ph" [[("arw", 0)]] 0x24 0 [.reg .ph 0], yRow "ph" [[("arw", 0)]] 0x24 0 [.reg .ph 0, time],
   yRow "dupcmp" [] 0x28 0 [.low 0, .num 9 10 1 512 0], yRow "trap" [] 0x30 0 [.num 0 16 0 65535 0], yRow "sys" [] 0x31 0 [.num 0 16 0 65535 0],
   yRow "sys" [] 0x31 0 [.num 0 16 0 65535 0, .bi], yRow "eret" [] 0x32 0 [],
   yRow "pace" [[("ann", 0)], [("", 0), ("e", 2 ^ 8)]] 0x38 0 [.num 0 8 16 160 0], yRow "pace" [[("ann", 2 ^ 9)], [("", 0), ("e", 2 ^ 8)]] 0x38 0 [.bi],
   yRow "pace" [[("join", 0)]] 0x39 0 [], yRow "pace" [[("leave", 0)]] 0x3A 0 []]

/-- Every row; `nop` writes nothing. -/
def kzRows : List KzRow := sRows ++ vRows ++ mRows ++ lRows ++ tRows ++ cRows ++ yRows

/-! ## Finding a row -/

/-- The bits that suffixes set, if the groups take them all in order. -/
def suffixBits : List (List (String × Nat)) → List Text → Option Nat
  | [], [] => some 0
  | [], _ :: _ => none
  | g :: gs, ps =>
    let skipped := if g.any fun x => x.1 == "" then suffixBits gs ps else none
    match ps with
    | [] => skipped
    | p :: rest =>
      match g.find? fun x => x.1.toList == p with
      | some x => (match suffixBits gs rest with | some b => some (x.2 + b) | none => skipped)
      | none => skipped

/-- A row with the bits of a mnemonic's suffixes. -/
structure KzMatch where
  row : KzRow
  bits : Nat
  deriving DecidableEq, Repr

/-- The rows that a mnemonic names, in the table's order. -/
def kzFind (mnemonic : Text) : List KzMatch :=
  match pieces (fun c => c == '.') mnemonic with
  | [] => []
  | h :: ps => kzRows.filterMap fun r =>
      if r.head.toList == h then (suffixBits r.suffixes ps).map fun b => ⟨r, b⟩ else none

/-- The word is a mnemonic, one of its first words, or a word of a bundle. -/
def isMnemonic (w : Text) : Bool :=
  ["nop".toList, "bc".toList, "first".toList, "last".toList, "wait".toList, "mark".toList].contains w || kzRows.any fun r => r.head.toList == w

end Sys2Proof.Machine
end

