-- ==== Sys2Proof/Machine/Tchiley.lean ====
section
/-! DEFINITION. The portable form: Tchiley records, their translation into native bundles and the map section, and what a program of
records does (R421 to R424, R426).  They are read by the driver; no step reads them. -/

namespace Sys2Proof.Machine

open Sys2Proof

/-! ## Tchiley records (R421 to R424) -/

/-- A Tchiley record: the class and the word of each of its four slots, and the header bits above the classes (R421). -/
structure TRecord where
  classes : List Nat
  words : List Word
  rest : Nat
  deriving DecidableEq, Repr

/-- The record that 40 bytes hold (R421). -/
def TRecord.ofBytes (b : List Byte) : TRecord where
  classes := (List.range 4).map fun k => bitsOf (dnum b 0 8) (3 * k) 3
  words := (List.range 4).map fun k => BitVec.ofNat 64 (dnum b (8 + 8 * k) 8)
  rest := dnum b 0 8 / 4096

/-- The words of a class, in slot order: 1 S, 2 V, 3 M, 4 L, 5 T, 6 C, 7 Y. -/
def TRecord.ofClass (r : TRecord) (k : Nat) : List Word := ((r.classes.zip r.words).filter fun x => x.1 == k).map (·.2)

/-- Header bits 63 to 12 are zero, and an empty slot holds a zero word (R421). -/
def TRecord.formOk (r : TRecord) : Bool := r.rest == 0 && (r.ofClass 0).all fun w => w == 0

/-- At most one word of a class, two of class V (R423). -/
def TRecord.countOk (r : TRecord) : Bool :=
  decide ((r.ofClass 2).length ≤ 2) && [1, 3, 4, 5, 6, 7].all fun k => decide ((r.ofClass k).length ≤ 1)

/-- The Y word, zero where there is none. -/
def TRecord.yWord (r : TRecord) : Word := (r.ofClass 7).headD 0

/-- The eight slot words of the native bundle: each word in the slot of its class, the first V word in VA and the second in
VB (R424). -/
def TRecord.native (r : TRecord) : List Word :=
  [(r.ofClass 1).headD 0, (r.ofClass 2).headD 0, ((r.ofClass 2).drop 1).headD 0, (r.ofClass 3).headD 0, (r.ofClass 4).headD 0,
    (r.ofClass 5).headD 0, (r.ofClass 6).headD 0, r.yWord]

/-- The instructions of a record, by native slot. -/
def TRecord.instrs (r : TRecord) : List (Nat × Instr) :=
  ((List.range 8).zip r.native).filterMap fun x =>
    match decodeSlot false x.1 x.2 with | .ok i => some (x.1, i) | .error _ => none

/-- The register that an instruction writes by its field, as a destination: the call's link, the results of L, S and vector words and
of `sem.rd` (R71, R98). -/
def regWritten : Instr → Option Dest
  | .add x | .sub x | .and x | .or x | .xor x | .andn x | .shl x | .shr x | .sra x | .rotl x | .min x | .max x | .scmp x
  | .sel x | .li x | .lih x | .addi x | .mov x | .clz x | .ctz x | .popc x | .bfx x | .bfi x | .a2s x | .mul x | .mulh x
  | .div x | .rem x | .mfc x | .faddD x | .fsubD x | .fmulD x | .fmaD x | .fdivD x | .fsqrtD x | .fminD x | .fmaxD x
  | .fcmpD x | .fclassD x | .fcvt x => some (.s x.sd)
  | .s2a x => some (.a (x.sd.extractLsb' 0 5))
  | .mtc x => some (.cr (BitVec.ofNat 12 (SWidx x)))
  | .vadd x | .vsub x | .vand x | .vor x | .vxor x | .vshl x | .vshr x | .vsra x | .vmin x | .vmax x | .vabs x | .vneg x
  | .vcmp x | .vsel x | .vclz x | .vpopc x | .vidx x | .vmov x | .vsplat x | .vmul x | .vmulh x | .vmadd x | .vfadd x
  | .vfsub x | .vfmin x | .vfmax x | .vfcmp x | .vfmul x | .vfma x | .vfms x | .vfnma x | .vfdiv x | .vfsqrt x
  | .vfclass x | .vcvt x | .vmxpack x | .vmxunpack x | .vred x | .vscan x | .vperm x | .vrot x | .vext x
  | .vhashSrp x => some (.v x.vd)
  | .v2s x | .mcnt x => some (.s (x.vd.extractLsb' 0 6))
  | .mpush _ | .minv _ | .mpop _ => some .stack
  | .mand x | .mor x => some (if x.vd = 1 then .stack else .m (x.vd.extractLsb' 0 3))
  | .ld x | .popf x => some (.s (x.dr.extractLsb' 0 6))
  | .vld x | .vlds x | .vldx x | .vpopf x => some (.v x.dr)
  | .rlyTake x => some (.a (x.dr.extractLsb' 0 5))
  | .call _ => some (.a 30)
  | .semRd x => some (.s (x.co.extractLsb' 8 6))
  | _ => none

/-- SSP, which `call` and `ret` write beside their link (R98). -/
def stackWritten : Instr → List Dest
  | .call _ => [.cr 8]
  | .ret _ => [.cr 8]
  | _ => []

/-- Destinations that a record's words write; s0 and a0 count for nothing (R54, R423; DEDUCED, log 64). -/
def TRecord.writes (r : TRecord) : List Dest :=
  (r.instrs.flatMap fun x => (regWritten x.2).toList ++ stackWritten x.2).filter fun d => d != .s 0 && d != .a 0

/-- No register stands twice. -/
def distinct : List Dest → Bool
  | [] => true
  | d :: rest => !rest.contains d && distinct rest

/-- Opcodes whose CO counts records: `br`, `bz`, `bnz`, `bm.none`, `bm.any`, `call` (R421). -/
def countsRecords (y : Word) : Bool := [0x01, 0x02, 0x03, 0x04, 0x05, 0x07].contains (opcodeOf y).toNat

/-- Number of the record that a branch of record `i` names. -/
def tTarget (i : Nat) (y : Word) : Int := (i : Int) + (YW.ofWord y).co.toInt

/-- Record `i` of a section of `n` passes the translator (R423). -/
def TRecord.legal (n i : Nat) (r : TRecord) : Bool :=
  let y := r.yWord
  let f := YW.ofWord y
  let op := (opcodeOf y).toNat
  r.formOk && r.countOk && distinct r.writes &&
    op != 0x09 && op != 0x0A && f.lff == 0 && f.lfl == 0 && f.lvl == 0 &&
    !(f.rm == 1 && op == 0x10) &&
    (f.bv == 1 || (r.ofClass 2).all fun w => (VW.ofWord false w).bcb == 0) &&
    (op != 0x0D || r.instrs.any fun x => x.1 == 0 && ximOk x.2) &&
    (!countsRecords y || (decide (0 ≤ tTarget i y) && decide (tTarget i y < n)))

/-- A section of Tchiley records is installed whole or not at all (R423). -/
def tSectionOk (rs : List TRecord) : Bool :=
  ((List.range rs.length).zip rs).all fun x => x.2.legal rs.length x.1

/-- Where a translation puts the records of a section, counted in native bundles: the bundle of each record, the bundle at which it is
entered, and how many bundles there are (R424; DESIGN CHOICE, log 65). -/
structure TLayout where
  place : Nat → Nat
  enter : Nat → Nat
  size : Nat

/-- The record of a list that stands first. -/
def TLayout.firstOf (k : TLayout) : List Nat → Option Nat
  | [] => none
  | i :: rest => match k.firstOf rest with
    | some j => if k.place j < k.place i then some j else some i
    | none => some i

/-- The record of a list that stands last. -/
def TLayout.lastOf (k : TLayout) : List Nat → Option Nat
  | [] => none
  | i :: rest => match k.lastOf rest with
    | some j => if k.place i < k.place j then some j else some i
    | none => some i

/-- The native Y word of record `i` (R424). -/
def TRecord.nativeY (k : TLayout) (i : Nat) (r : TRecord) : Word :=
  let y := r.yWord
  if countsRecords y then
    y.extractLsb' 24 40 ++ BitVec.ofInt 24 ((k.enter (tTarget i y).toNat : Int) - k.place i)
  else y

/-- The native bundle of record `i` (R424; DESIGN CHOICE, log 65). -/
def TRecord.bundle (k : TLayout) (i : Nat) (r : TRecord) : List Word := r.native.take 7 ++ [r.nativeY k i]

/-! ## The translation (R424, R426) -/

/-- Frozen latency of the result of a slot word; TY 8 is `.f64` (R58, R71). -/
def frozenLatency (slot : Nat) (w : Word) : Nat :=
  let op := (opcodeOf w).toNat
  let at_ (lo hi : Nat) : Bool := decide (lo ≤ op) && decide (op ≤ hi)
  match slot with
  | 0 =>
    if at_ 0x01 0x19 then 1
    else match op with
      | 0x20 => 3
      | 0x21 => 4
      | 0x22 => 22
      | 0x23 => 22
      | 0x34 => 24
      | 0x35 => 30
      | 0x3A => 3
      | n => if 0x30 ≤ n && n ≤ 0x33 then 4 else 2
  | 1 | 2 =>
    let double := (VW.ofWord false w).ty = 0x8
    if at_ 0x01 0x13 then 2
    else if at_ 0x18 0x24 then 4
    else if at_ 0x25 0x28 then 5
    else if at_ 0x3A 0x3D then 3
    else if at_ 0x48 0x4D then 1
    else match op with
      | 0x29 => if double then 24 else 16
      | 0x2A => if double then 28 else 18
      | 0x2B => 2
      | 0x30 => 3
      | 0x31 => 6
      | 0x32 => 6
      | 0x38 => 8
      | 0x39 => 10
      | _ => 12
  | 4 => (match op with | 0x01 => 6 | 0x02 => 8 | 0x03 => 12 | 0x04 => 12 | 0x10 => 2 | _ => 1)
  | 7 => if op = 0x1B then 2 else 1
  | _ => 0

/-- Results of a record: the register and the cycles to its landing. -/
def TRecord.results (r : TRecord) : List (Reg × Nat) :=
  r.instrs.filterMap fun x =>
    match (regWritten x.2).bind Dest.reg with
    | some d => some (d, frozenLatency x.1 (r.native.getD x.1 0))
    | none => none

/-- The longest latency of a record's words, that of an `mtc` included. -/
def TRecord.longest (r : TRecord) : Nat :=
  (r.instrs.map fun x => if idleInstr x.2 then 0 else frozenLatency x.1 (r.native.getD x.1 0)).foldl max 0

/-- The v registers that `dupcmp` compares where CTXCTL.DUP is 1 (R118). -/
def dupReads : Instr → List Reg
  | .dupcmp x =>
    (List.range (x.co.extractLsb' 9 10).toNat).flatMap fun j => [.v ((x.co.extractLsb' 0 9).toNat + j), .v ((x.co.extractLsb' 0 9).toNat + j + 512)]
  | _ => []

/-- Registers that a record reads, the broadcast port and those that `dupcmp` may read included (R68, R118). -/
def TRecord.reads (r : TRecord) : List Reg :=
  (r.instrs.flatMap fun x => regReads x.2 ++ dupReads x.2) ++ (if (YW.ofWord r.yWord).bv = 1 then [rS (YW.ofWord r.yWord).bi] else [])

/-- A record holds a control transfer (R94, R424). -/
def TRecord.transfers (r : TRecord) : Bool := r.instrs.any fun x => x.1 == 7 && transferOp x.2

/-- A record holds a `jmp` or a `ret`, whose target no field names. -/
def TRecord.jumps (r : TRecord) : Bool := opcodeOf r.yWord == 0x06 || opcodeOf r.yWord == 0x08

/-- A record holds a `call`. -/
def TRecord.calls (r : TRecord) : Bool := opcodeOf r.yWord == 0x07

/-- A record that shows what earlier ones have left in control registers or in flight: `mfc`, and what enters or leaves a handler. -/
def TRecord.observes (r : TRecord) : Bool :=
  r.instrs.any fun x => match x.2 with | .mfc _ | .trap _ | .sys _ | .eret _ | .yield _ => true | _ => false

/-- A record holds an `mtc`. -/
def TRecord.controls (r : TRecord) : Bool := r.instrs.any fun x => match x.2 with | .mtc _ => true | _ => false

/-- Work whose relative order a translation keeps: memory accesses and fences, engine pushes, Y words with an instruction or a common
field that acts, `mtc` (R66, R424). -/
def TRecord.ordered (r : TRecord) : Bool :=
  (YW.ofWord r.yWord).ywt != 0 || (YW.ofWord r.yWord).rm != 0 ||
    r.instrs.any fun x => !idleInstr x.2 && (decide (3 ≤ x.1) || (match x.2 with | .mtc _ => true | _ => false))

/-- An instruction that reads and writes general registers and masks alone. -/
def plainInstr : Instr → Bool
  | .nop _ _ | .hint _ _ _ | .add _ | .sub _ | .and _ | .or _ | .xor _ | .andn _ | .shl _ | .shr _ | .sra _ | .rotl _ | .min _ | .max _
  | .scmp _ | .sel _ | .li _ | .lih _ | .addi _ | .mov _ | .clz _ | .ctz _ | .popc _ | .bfx _ | .bfi _ | .a2s _ | .s2a _ | .mul _
  | .mulh _ | .vadd _ | .vsub _ | .vand _ | .vor _ | .vxor _ | .vshl _ | .vshr _ | .vsra _ | .vmin _ | .vmax _ | .vabs _ | .vneg _
  | .vcmp _ | .vsel _ | .vclz _ | .vpopc _ | .vidx _ | .vmov _ | .vsplat _ | .vmul _ | .vmulh _ | .vmadd _ | .vperm _ | .vrot _
  | .vext _ | .v2s _ | .mcnt _ => true
  | _ => false

/-- Neither record writes a register that the other reads or writes, and a record that reads or writes a control register stands beside
plain instructions alone: control registers hold what floating-point and other work reads and leaves (R424). -/
def TRecord.independent (a b : TRecord) : Bool :=
  let w (r : TRecord) : List Reg := r.writes.filterMap Dest.reg
  let plain (r : TRecord) : Bool := !r.ordered && r.instrs.all fun x => plainInstr x.2
  let state (r : TRecord) : Bool := r.observes || r.controls
  (!state a || plain b) && (!state b || plain a) && (w a).all (fun d => !(w b).contains d && !b.reads.contains d) &&
    (w b).all fun e => !a.reads.contains e

/-- Record `j` can be reached by a transfer: a branch or a call names it, it follows a call, a symbol names it, or the section jumps where
no field says. -/
def tReached (rs : List TRecord) (named : List Nat) (j : Nat) : Bool :=
  named.contains j || rs.any TRecord.jumps ||
    ((List.range rs.length).zip rs).any fun x =>
      (countsRecords x.2.yWord && (tTarget x.1 x.2.yWord).toNat == j) || (x.2.calls && x.1 + 1 == j)

/-- The steps from the native bundle of one record to that of another, with the cycles between them: in order, a branch or call to where
its target is entered, a `jmp` or `ret` to the bundle of any record (R424). -/
inductive TPath (rs : List TRecord) (k : TLayout) : Nat → Nat → Nat → Prop where
  | next (i j : Nat) : k.place i < k.place j → TPath rs k i j (k.place j - k.place i)
  | branch (i : Nat) (r : TRecord) : rs[i]? = some r → countsRecords r.yWord = true →
      TPath rs k i (tTarget i r.yWord).toNat (3 + (k.place (tTarget i r.yWord).toNat - k.enter (tTarget i r.yWord).toNat))
  | jump (i j : Nat) (r : TRecord) : rs[i]? = some r → r.jumps = true → TPath rs k i j 3
  | trans (i j l m n : Nat) : TPath rs k i j m → TPath rs k j l n → TPath rs k i l (m + n)

/-- The placings that R424 allows a translator, where symbols name the records of `named`: every record has a bundle of its own and is
entered there or at `nop` bundles before it, a transfer is followed by two bundles of no record and a call by the bundle of the next one,
every read falls at or after the landing of what it needs, and records change places only within a stretch that no transfer leaves or
enters, where they are independent and one of them holds no ordered work (DESIGN CHOICE, log 65). -/
structure TPlacing (rs : List TRecord) (named : List Nat) (k : TLayout) : Prop where
  inside : ∀ i, i < rs.length → k.place i < k.size
  apart : ∀ i j, i < rs.length → j < rs.length → k.place i = k.place j → i = j
  entered : ∀ i, i < rs.length → k.enter i ≤ k.place i ∧ ∀ j, j < rs.length → ¬ (k.enter i ≤ k.place j ∧ k.place j < k.place i)
  delays : ∀ i j r, rs[i]? = some r → r.transfers = true → j < rs.length → k.place j ≠ k.place i + 1 ∧ k.place j ≠ k.place i + 2
  linked : ∀ i r, rs[i]? = some r → r.calls = true → k.place (i + 1) = k.place i + 3
  landed : ∀ i j n a b d l, TPath rs k i j n → rs[i]? = some a → rs[j]? = some b → (d, l) ∈ a.results → d ∈ b.reads → l ≤ n
  observed : ∀ i j n a b, TPath rs k i j n → rs[i]? = some a → rs[j]? = some b → b.observes = true → a.longest ≤ n
  controlled : ∀ i j n a, TPath rs k i j n → rs[i]? = some a → a.controls = true → 2 ≤ n
  ordered : ∀ i j a b, rs[i]? = some a → rs[j]? = some b → i < j → a.ordered = true → b.ordered = true → k.place i < k.place j
  moved : ∀ i j a b, rs[i]? = some a → rs[j]? = some b → i < j → k.place j < k.place i → a.independent b = true ∧
    (∀ m r, i ≤ m → m < j → rs[m]? = some r → r.transfers = false) ∧ ∀ m, i < m → m ≤ j → tReached rs named m = false

/-- Bundles that a record takes where nothing is moved: its own and those that its longest result needs, with two after a transfer and
just two after a call, whose link names the bundle of the next record (R422, R424; DESIGN CHOICE, log 65). -/
def TRecord.span (r : TRecord) : Nat := if r.calls then 3 else if r.transfers then max 3 r.longest else max 1 r.longest

/-- `nop` bundles before record `j`, so that what a record that branches there has started lands before it reads; none after a call
(R422, R424; DESIGN CHOICE, log 65). -/
def tLead (rs : List TRecord) (j : Nat) : Nat :=
  if 0 < j && (match rs[j - 1]? with | some r => r.calls | none => false) then 0
  else ((((List.range rs.length).zip rs).filter fun x => countsRecords x.2.yWord && (tTarget x.1 x.2.yWord).toNat == j).map
    fun x => x.2.longest - 3).foldl max 0

/-- Native bundle at which record `i` is entered where nothing is moved. -/
def plainEnter (rs : List TRecord) (i : Nat) : Nat :=
  (((List.range i).zip rs).map fun x => tLead rs x.1 + x.2.span).foldl (· + ·) 0

/-- The placing that moves nothing: each record after the span of those before it (R424; DESIGN CHOICE, log 65). -/
def plainLayout (rs : List TRecord) : TLayout where
  place i := plainEnter rs i + tLead rs i
  enter := plainEnter rs
  size := plainEnter rs rs.length

/-- Native bundles of a section under a placing: each record's own, and `nop` bundles between them (R424). -/
def translate (rs : List TRecord) (k : TLayout) : List (List Word) :=
  (List.range k.size).map fun b =>
    match ((List.range rs.length).zip rs).find? fun x => k.place x.1 == b with
    | some x => x.2.bundle k x.1
    | none => List.replicate 8 0

/-- Contents of the map section: for each native bundle the index of its Tchiley record, 32 bits each; a `nop` bundle takes that of
the record that stands before it, or of the first one (R424, R426; DESIGN CHOICE, log 65). -/
def mapSection (rs : List TRecord) (k : TLayout) : List Byte :=
  (List.range k.size).flatMap fun b =>
    let before := (List.range rs.length).filter fun i => decide (k.place i ≤ b)
    natLe 4 ((if before = [] then k.firstOf (List.range rs.length) else k.lastOf before).getD 0)

/-- Install a section: nothing where a record breaks R423, else the plain translation and its map (R423, R424). -/
def install (rs : List TRecord) : Option (List (List Word) × List Byte) :=
  if tSectionOk rs then some (translate rs (plainLayout rs), mapSection rs (plainLayout rs)) else none

/-! ## What a Tchiley program does (R422) -/

/-- A section as it is installed: its records, the virtual address of its native code, and the layout. -/
structure TCode where
  records : List TRecord
  base : Nat
  layout : TLayout

/-- Native address of a bundle. -/
def TCode.addr (k : TCode) (n : Nat) : Word := BitVec.ofNat 64 (k.base + 64 * n)

/-- Native address of the bundle of record `i`, or that of the end of the section. -/
def TCode.placeAt (k : TCode) (i : Nat) : Word := k.addr (if i < k.records.length then k.layout.place i else k.layout.size)

/-- The record that runs from a native address of the section on: the one that stands there or next after it. -/
def TCode.recordAt (k : TCode) (a : Word) : Option Nat :=
  let n := (a.toNat - k.base) / 64
  if k.base ≤ a.toNat && decide (n < k.layout.size) then k.layout.firstOf ((List.range k.records.length).filter fun i => decide (n ≤ k.layout.place i))
  else none

/-- Every result that a record has started lands now, those that a `yield` or a trap has set aside and those of a return under way
included; what native code keeps in the replay buffer (`old`) stays there (R422 rule 2).  A result that traps is taken at once, but for
one of the bundle that has entered the handler itself, and for one of a context that has stopped. -/
def State.landAll (s : State) (cid : Nat) (old : List Result) (entered : Bool) : State :=
  let t := s.cycleOf cid
  let now (r : Result) : Result := { r with due := t }
  let s := (s.modCtx cid fun c =>
    { c with
      returning := c.returning.map fun _ => t
      replay := c.replay.filter fun r => old.contains r
      pend := (c.pend ++ c.replay.filter fun r => !old.contains r).map now }).landDue cid
  if ((s.ctx cid).trapResults t).isEmpty || (s.ctx cid).status != .ready then s
  else if entered then s.modCtx cid fun c => c.pendToReplay t
  else s.landTrap cid

/-- What running one record of a program comes to: it waits or has faulted and runs again, the context has stopped or halted, the next
record runs, or code outside the section does. -/
inductive TStep where
  | waits (s : State)
  | faults (s : State)
  | ends (s : State)
  | next (record : Nat) (s : State)
  | leaves (s : State)

/-- The bundle at PC has been left: it has issued, been suppressed, or trapped. -/
def Ctx.movedOn (c c' : Ctx) : Bool := c'.order != c.order || c'.pc != c.pc || c'.regs.inh != c.regs.inh

/-- Run record `i` in context `cid`: its operands are read before any result is written, every result is written before the next record
reads, a taken transfer makes its target the next record, a trap its handler and `eret` the record at TEPC, and `call` leaves in a30 the
native address after its delay bundles, where the bundle of the next record stands (R50, R422, R424). -/
def TCode.run (k : TCode) (cid i : Nat) (s : State) : TStep :=
  match k.records[i]? with
  | none => .leaves s
  | some r =>
    let pc := k.addr (k.layout.place i)
    let bytes := (r.bundle k.layout i).flatMap fun w => natLe 8 w.toNat
    let s := s.modCtx cid fun c => { c with pc := pc, xfer := none, line := some (pc, .bytes bytes) }
    let c := s.ctx cid
    match s.attemptCtx cid with
    | .blocked s' => .waits s'.endFrame
    | .used s' =>
      let s' := s'.endFrame
      let c' := s'.ctx cid
      if c'.parked.isSome then .faults s'
      else if c'.live && !c.movedOn c' then .waits s'
      else
        let away := c'.regs.inh != c.regs.inh || (c'.xfer.isNone && c'.pc != pc + 64)
        let u := if away then s' else s'.modCtx cid fun c =>
          { c with
            pc := (match c.xfer with | some x => x.target | none => k.placeAt (i + 1))
            xfer := none }
        let t := u.landAll cid c.replay (away && c'.regs.inh)
        if !(t.ctx cid).live then .ends t
        else match k.recordAt (t.ctx cid).pc with
          | some j => .next j t
          | none => .leaves t

end Sys2Proof.Machine
end

