-- ==== Sys2Proof/Machine/Objects.lean ====
section
/-! DEFINITION. KZO files: their tables, relocations, linking and launch fields (R425 to R431).  They are read by kzld and by the
loader; no step reads them. -/

namespace Sys2Proof.Machine

open Sys2Proof

/-! ## KZO files (R425 to R428) -/

/-- Header of a KZO file (R425). -/
structure KzoHeader where
  kind : Nat
  secOff : Nat
  secNum : Nat
  symNum : Nat
  symOff : Nat
  strOff : Nat
  strSize : Nat
  conNum : Nat
  conOff : Nat
  deriving DecidableEq, Repr

/-- The header that a file begins with (R425). -/
def KzoHeader.ofBytes (b : List Byte) : KzoHeader where
  kind := dnum b 6 2
  secOff := dnum b 8 8
  secNum := dnum b 16 4
  symNum := dnum b 20 4
  symOff := dnum b 24 8
  strOff := dnum b 32 8
  strSize := dnum b 40 4
  conNum := dnum b 44 4
  conOff := dnum b 48 8

/-- The limits of a header: MAGIC, VERSION, KIND, SECNUM and the zero bytes (R425). -/
def kzoHeaderOk (b : List Byte) : Bool :=
  decide (64 ≤ b.length) && dnum b 0 4 == 0x314F5A4B && dnum b 4 2 == 1 && within 1 2 (dnum b 6 2) && within 1 65534 (dnum b 16 4) &&
    dzero b 56 63

/-- Section header (R426): kind 1 text, 2 data, 3 scratch, 4 tilestore, 5 Tchiley, 6 map. -/
structure KzoSection where
  name : Nat
  kind : Nat
  align : Nat
  size : Nat
  offset : Nat
  relOff : Nat
  relNum : Nat
  deriving DecidableEq, Repr

/-- The section header that 48 bytes hold (R426). -/
def KzoSection.ofBytes (b : List Byte) : KzoSection where
  name := dnum b 0 4
  kind := dnum b 4 1
  align := dnum b 5 1
  size := dnum b 8 8
  offset := dnum b 16 8
  relOff := dnum b 24 8
  relNum := dnum b 32 4

/-- The limits of a section header (R426). -/
def kzoSectionOk (b : List Byte) : Bool :=
  let x := KzoSection.ofBytes b
  within 1 6 x.kind && (x.kind != 1 || decide (6 ≤ x.align)) && (x.kind != 5 || decide (3 ≤ x.align)) &&
    (x.kind != 4 || x.offset == 0) && dzero b 6 7 && dzero b 36 47

/-- Symbol (R427): section 0 undefined, 0xFFFF absolute; bind 0 local, 1 global; type 0 none, 1 code, 2 data, 3 scratch, 4
tile-store row, 5 constant. -/
structure KzoSymbol where
  name : Nat
  section_ : Nat
  bind : Nat
  type : Nat
  value : Word
  size : Nat
  deriving DecidableEq, Repr

/-- The limits of a symbol in a file of `n` sections (R427). -/
def kzoSymbolOk (n : Nat) (b : List Byte) : Bool :=
  decide (dnum b 6 1 ≤ 1) && decide (dnum b 7 1 ≤ 5) && (decide (dnum b 4 2 ≤ n) || dnum b 4 2 == 0xFFFF)

/-- The symbol that 24 bytes hold (R427). -/
def KzoSymbol.ofBytes (b : List Byte) : KzoSymbol where
  name := dnum b 0 4
  section_ := dnum b 4 2
  bind := dnum b 6 1
  type := dnum b 7 1
  value := BitVec.ofNat 64 (dnum b 8 8)
  size := dnum b 16 8

/-- Relocation entry (R428). -/
structure KzoReloc where
  offset : Nat
  sym : Nat
  type : Nat
  addend : Int
  deriving DecidableEq, Repr

/-- The relocation entry that 24 bytes hold (R428). -/
def KzoReloc.ofBytes (b : List Byte) : KzoReloc where
  offset := dnum b 0 8
  sym := dnum b 8 4
  type := dnum b 12 2
  addend := (BitVec.ofNat 64 (dnum b 16 8)).toInt

/-- The limits of a relocation entry (R428). -/
def kzoRelocOk (b : List Byte) : Bool := within 1 8 (dnum b 12 2) && dzero b 14 15

/-- Entry `i` of a table of a file whose entries take `n` bytes. -/
def kzoEntry (file : List Byte) (off n i : Nat) : List Byte := (file.drop (off + n * i)).take n

/-- The sections of a file, number 1 first (R425, R426). -/
def kzoSections (file : List Byte) : List KzoSection :=
  let h := KzoHeader.ofBytes file
  (List.range h.secNum).map fun i => KzoSection.ofBytes (kzoEntry file h.secOff 48 i)

/-- The symbols of a file (R425, R427). -/
def kzoSymbols (file : List Byte) : List KzoSymbol :=
  let h := KzoHeader.ofBytes file
  (List.range h.symNum).map fun i => KzoSymbol.ofBytes (kzoEntry file h.symOff 24 i)

/-- The relocation entries of a section (R426, R428). -/
def kzoRelocs (file : List Byte) (x : KzoSection) : List KzoReloc :=
  (List.range x.relNum).map fun i => KzoReloc.ofBytes (kzoEntry file x.relOff 24 i)

/-- The consignment records of a file (R425, R431). -/
def kzoRecords (file : List Byte) : List (List Byte) :=
  let h := KzoHeader.ofBytes file
  (List.range h.conNum).map fun i => kzoEntry file h.conOff 64 i

/-- A name of the string table: the bytes before the next zero (R425). -/
def kzoName (file : List Byte) (off : Nat) : List Byte :=
  let h := KzoHeader.ofBytes file
  ((file.drop (h.strOff + off)).take (h.strSize - off)).takeWhile fun b => b != 0

/-! ## Relocations (R428) -/

/-- Why kzld writes no image (R326, R428, R430, R431). -/
inductive LinkError where
  | doesNotFit | overlap | undefined | definedTwice | tooLarge | required | malformed
  deriving DecidableEq, Repr

/-- The bits that an entry of a type writes: for each field, its first bit counted from the byte OFFSET names, its length,
and the bit of V (or of the quotient) that it starts with. -/
def relocFields (type : Nat) : List (Nat × Nat × Nat) :=
  match type with
  | 1 => [(0, 64, 0)]
  | 2 => [(0, 32, 0)]
  | 3 => [(0, 32, 0)]
  | 4 => [(0, 32, 0), (448, 24, 32)]
  | 5 => [(0, 32, 32)]
  | 6 => [(11, 24, 0)]
  | 7 => [(0, 24, 0)]
  | 8 => [(0, 24, 0)]
  | _ => []

/-- A number lies in the signed range of a width. -/
def signedIn (w : Nat) (v : Int) : Bool := decide (-(2 ^ (w - 1) : Nat) ≤ v) && decide (v < (2 ^ (w - 1) : Nat))

/-- What an entry writes: V, or for a branch the distance in units from the bundle or record that holds the field. -/
def relocValue (type : Nat) (base : Nat) (offset : Nat) (v : Int) : Int :=
  match type with
  | 7 => (v - (base + offset / 64 * 64 : Nat)) / 64
  | 8 => (v - (base + offset / 40 * 40 : Nat)) / 40
  | _ => v

/-- The value of an entry fits (R428); `base` is the address of the section, `bytes` its contents. -/
def relocFits (type base offset : Nat) (bytes : List Byte) (v : Int) : Bool :=
  match type with
  | 1 => true
  | 2 => decide (-(2 ^ 31) ≤ v) && decide (v < 2 ^ 32)
  | 3 => signedIn 32 v
  | 4 => signedIn 56 v && offset % 64 == 0 && dnum bytes (offset + 63) 1 == 0x0D
  | 5 => true
  | 6 => signedIn 24 v
  | 7 => (v - (base + offset / 64 * 64 : Nat)) % 64 == 0 && signedIn 24 (relocValue 7 base offset v)
  | 8 => (v - (base + offset / 40 * 40 : Nat)) % 40 == 0 && signedIn 24 (relocValue 8 base offset v)
  | _ => false

/-- Replace `len` bits from bit `lo` of a number. -/
def putField (x lo len v : Nat) : Nat := x - bitsOf x lo len * 2 ^ lo + v % 2 ^ len * 2 ^ lo

/-- Write the bits of one field into a section's bytes. -/
def writeField (bytes : List Byte) (bit len v : Nat) : List Byte :=
  let a := bit / 8
  bytes.take a ++ natLe 8 (putField (dnum bytes a 8) (bit % 8) len v) ++ bytes.drop (a + 8)

/-- Apply one entry whose symbol has the value `value` (R428). -/
def applyReloc (base : Nat) (bytes : List Byte) (r : KzoReloc) (value : Word) : Except LinkError (List Byte) :=
  let v := (value.toNat : Int) + r.addend
  if !relocFits r.type base r.offset bytes v then .error .doesNotFit
  else
    let x := (BitVec.ofInt 64 (relocValue r.type base r.offset v)).toNat
    .ok (((relocFields r.type).foldl (fun b f => writeField b (8 * r.offset + f.1) f.2.1 (x / 2 ^ f.2.2)) bytes).take bytes.length)

/-- The written bits of two entries meet (R428). -/
def relocsMeet (r q : KzoReloc) : Bool :=
  (relocFields r.type).any fun f => (relocFields q.type).any fun g =>
    rangesMeet (8 * r.offset + f.1) f.2.1 (8 * q.offset + g.1) g.2.1

/-- Some two entries meet. -/
def relocsOverlap : List KzoReloc → Bool
  | [] => false
  | r :: rest => rest.any (relocsMeet r) || relocsOverlap rest

/-- Apply the entries of a section; `value` gives the value of each entry's symbol where it has one (R428). -/
def applyRelocs (base : Nat) (value : KzoReloc → Option Word) (bytes : List Byte) (rs : List KzoReloc) : Except LinkError (List Byte) :=
  if relocsOverlap rs then .error .overlap
  else rs.foldl (fun b r => b.bind fun b => match value r with
    | some v => applyReloc base b r v
    | none => .error .undefined) (.ok bytes)

/-! ## Linking (R427, R430) -/

/-- The next multiple of `2 ^ k`. -/
def alignUp (k x : Nat) : Nat := (x + 2 ^ k - 1) / 2 ^ k * 2 ^ k

/-- Places of sections of one kind put one after the other, each at its own alignment, from an offset on (R430). -/
def placeSections (at_ : Nat) : List KzoSection → List Nat
  | [] => []
  | x :: rest =>
    let a := alignUp (if x.kind = 1 then max 6 x.align else x.align) at_
    a :: placeSections (a + x.size) rest

/-- A section of the input: the object it comes from, its number there, its header, and its place among those of its kind. -/
structure Placed where
  object : Nat
  number : Nat
  header : KzoSection
  at_ : Nat
  deriving DecidableEq, Repr

/-- The sections of one kind, in input order, each at its own alignment from offset 0 on (R430). -/
def placeKind (files : List (List Byte)) (kind : Nat) : List Placed :=
  let all := ((List.range files.length).zip files).flatMap fun f =>
    let ss := kzoSections f.2
    ((((List.range ss.length).zip ss).filter fun x => x.2.kind == kind).map fun x => (f.1, x.1 + 1, x.2))
  (all.zip (placeSections 0 (all.map (·.2.2)))).map fun x => ⟨x.1.1, x.1.2.1, x.1.2.2, x.2⟩

/-- Bytes, or rows of kind 4, that the sections of a kind take. -/
def extent (ps : List Placed) : Nat := ps.foldl (fun n p => max n (p.at_ + p.header.size)) 0

/-- What a link starts from: the objects in order, the virtual address of each kind of section as the image will be placed, and for each
Tchiley section the address of its native code and its layout (R424, R427). -/
structure LinkJob where
  files : List (List Byte)
  base : Nat → Nat
  native : Nat → Nat → Nat
  layout : Nat → Nat → TLayout

/-- Where a section of an object stands among those of its kind. -/
def LinkJob.placed (l : LinkJob) (object number : Nat) : Option Placed :=
  ([1, 2, 3, 4, 5, 6].flatMap (placeKind l.files)).find? fun p => p.object == object && p.number == number

/-- VALUE of a symbol in a linked image: code and data their virtual address, scratch and tile-store symbols their offset from SPBASE
and TSBASE, a Tchiley symbol the native address of the bundle translated from its record; an absolute symbol keeps it (R427). -/
def LinkJob.value (l : LinkJob) (object : Nat) (x : KzoSymbol) : Option Word :=
  if x.section_ = 0xFFFF then some x.value
  else
    (l.placed object x.section_).map fun p =>
      match p.header.kind with
      | 1 => BitVec.ofNat 64 (l.base 1 + p.at_) + x.value
      | 2 => BitVec.ofNat 64 (l.base 2 + p.at_) + x.value
      | 5 => BitVec.ofNat 64 (l.native object x.section_ + 64 * (l.layout object x.section_).place (x.value.toNat / 40))
      | _ => BitVec.ofNat 64 p.at_ + x.value

/-- The definitions of global symbols: object, name, symbol. -/
def globals (files : List (List Byte)) : List (Nat × List Byte × KzoSymbol) :=
  ((List.range files.length).zip files).flatMap fun f =>
    ((kzoSymbols f.2).filter fun x => x.bind == 1 && x.section_ != 0).map fun x => (f.1, kzoName f.2 x.name, x)

/-- A name stands twice. -/
def namesTwice : List (List Byte) → Bool
  | [] => false
  | x :: rest => rest.contains x || namesTwice rest

/-- The definition that a symbol of an object takes: its own, or the global symbol of its name (R430). -/
def resolve (files : List (List Byte)) (object : Nat) (x : KzoSymbol) : Except LinkError (Nat × KzoSymbol) :=
  if x.section_ ≠ 0 then .ok (object, x)
  else
    let name := kzoName (files.getD object []) x.name
    match (globals files).find? fun g => g.2.1 == name with
    | some g => .ok (g.1, g.2.2)
    | none => .error .undefined

/-- A symbol is a code or data address: an entry against it stays in the image for the loader (R430; DEDUCED, log 64). -/
def staysForLoader (x : KzoSymbol) : Bool := x.type == 1 || x.type == 2

/-- The definition that symbol `n` of an object takes (R430). -/
def LinkJob.definition (l : LinkJob) (object n : Nat) : Option (Nat × KzoSymbol) :=
  match (kzoSymbols (l.files.getD object []))[n]? with
  | some x => (match resolve l.files object x with | .ok d => some d | .error _ => none)
  | none => none

/-- The address of the record that a Tchiley symbol names, which a branch between records counts from (R428). -/
def LinkJob.recordAddress (l : LinkJob) (object : Nat) (x : KzoSymbol) : Option Word :=
  (l.placed object x.section_).bind fun p =>
    if p.header.kind = 5 then some (BitVec.ofNat 64 (l.base 5 + p.at_) + x.value) else none

/-- The value of the symbol of an entry of an object's section, where it has one (R427, R428). -/
def LinkJob.valueFor (l : LinkJob) (object : Nat) (r : KzoReloc) : Option Word :=
  (l.definition object r.sym).bind fun d => if r.type = 8 then l.recordAddress d.1 d.2 else l.value d.1 d.2

/-- The entry stays in the image for the loader: it is against a code or data address (R430; DEDUCED, log 64). -/
def LinkJob.stays (l : LinkJob) (object : Nat) (r : KzoReloc) : Bool :=
  match l.definition object r.sym with | some d => staysForLoader d.2 | none => false

/-- Contents of a section in its file. -/
def Placed.bytes (p : Placed) (files : List (List Byte)) : List Byte :=
  ((files.getD p.object []).drop p.header.offset).take p.header.size

/-- Relocation entries of a section. -/
def Placed.relocs (p : Placed) (files : List (List Byte)) : List KzoReloc := kzoRelocs (files.getD p.object []) p.header

/-- Address of a section for its branches (R428). -/
def LinkJob.address (l : LinkJob) (p : Placed) : Nat :=
  if p.header.kind = 1 ∨ p.header.kind = 2 ∨ p.header.kind = 5 then l.base p.header.kind + p.at_ else p.at_

/-- Apply some entries to the bytes of a section (R428). -/
def LinkJob.apply (l : LinkJob) (p : Placed) (bytes : List Byte) (rs : List KzoReloc) : Except LinkError (List Byte) :=
  applyRelocs (l.address p) (l.valueFor p.object) bytes rs

/-- A section with the linker's entries applied.  Every entry keeps to bits of its own and fits its field, one that stays for the loader
too (R428, R430). -/
def LinkJob.link (l : LinkJob) (p : Placed) : Except LinkError (List Byte) :=
  let all := p.relocs l.files
  (l.apply p (p.bytes l.files) all).bind fun _ => l.apply p (p.bytes l.files) (all.filter fun r => !l.stays p.object r)

/-- A linked section as the loader completes it (R430). -/
def LinkJob.load (l : LinkJob) (p : Placed) : Except LinkError (List Byte) :=
  (l.link p).bind fun b => l.apply p b ((p.relocs l.files).filter (l.stays p.object))

/-- An entry that the image keeps for the loader: the kind of its section, the entry with its OFFSET counted from the start of that kind's
sections, and the definition that its symbol takes (R430). -/
structure LoaderEntry where
  kind : Nat
  entry : KzoReloc
  object : Nat
  symbol : KzoSymbol
  deriving DecidableEq, Repr

/-- The entries of the sections of a kind that stay for the loader (R430). -/
def LinkJob.kept (l : LinkJob) (kind : Nat) : List LoaderEntry :=
  (placeKind l.files kind).flatMap fun p =>
    ((p.relocs l.files).filter (l.stays p.object)).filterMap fun r =>
      (l.definition p.object r.sym).map fun d => ⟨kind, { r with offset := p.at_ + r.offset }, d.1, d.2⟩

/-- The sections of a kind joined, zero bytes between them (R430). -/
def LinkJob.join (l : LinkJob) (step : Placed → Except LinkError (List Byte)) (kind : Nat) : Except LinkError (List Byte) :=
  (placeKind l.files kind).foldl (fun acc p => acc.bind fun bs => (step p).map fun b =>
    bs ++ List.replicate (p.at_ - bs.length) 0 ++ b) (.ok [])

/-- Rows that `.tilestore` reserves (R207, R430). -/
def LinkJob.rows (l : LinkJob) : Nat := extent (placeKind l.files 4)

/-- Side-bank bytes of a scratch section, which its object holds directly after the main bytes (R338; DEDUCED, log 64). -/
def Placed.side (p : Placed) (files : List (List Byte)) : List Byte :=
  ((files.getD p.object []).drop (p.header.offset + p.header.size)).take ((p.header.size + 15) / 16)

/-- The scratch image: the main bytes from offset 0 up, to a multiple of 16, and directly after them the side-bank bytes (R338, R430,
R431). -/
def LinkJob.scratchImage (l : LinkJob) : Except LinkError (List Byte) :=
  let ps := placeKind l.files 3
  let n := (extent ps + 15) / 16 * 16
  (l.join l.link 3).map fun main =>
    let side := ps.foldl (fun m p => Store.setBytes m (p.at_ / 16) (p.side l.files)) ([] : Store 8)
    main ++ List.replicate (n - main.length) 0 ++ side.bytes 0 (n / 16)

/-- A linked image: text, data with the scratch image at `imageAt` in it, the Tchiley sections, the reserved rows, and the entries that
stay for the loader. -/
structure Linked where
  text : List Byte
  data : List Byte
  imageAt : Nat
  tchiley : List Byte
  rows : Nat
  entries : List LoaderEntry
  deriving DecidableEq, Repr

/-- Every symbol of every object that its section does not define is defined by another (R430). -/
def allDefined (files : List (List Byte)) : Bool :=
  ((List.range files.length).zip files).all fun f => (kzoSymbols f.2).all fun x =>
    match resolve files f.1 x with | .ok _ => true | .error _ => false

/-- kzld: every consignment's scratch image and reserved rows fit what it declares, no global name is defined twice, every name is
defined, and every value fits; otherwise no image is written.  The scratch image follows the data at a multiple of 64 (R338, R430,
R431). -/
def LinkJob.run (l : LinkJob) : Except LinkError Linked :=
  if namesTwice ((globals l.files).map (·.2.1)) then .error .definedTwice
  else if !allDefined l.files then .error .undefined
  else if (l.files.flatMap kzoRecords).any fun r =>
      decide (dnum r 20 4 < extent (placeKind l.files 3)) || decide (dnum r 24 2 < l.rows) then .error .tooLarge
  else
    (l.join l.link 1).bind fun text => (l.join l.link 2).bind fun data => (l.join l.link 5).bind fun tchiley =>
      l.scratchImage.map fun scratch =>
        let at_ := alignUp 6 (l.base 2 + data.length) - l.base 2
        { text := text
          data := data ++ List.replicate (at_ - data.length) 0 ++ scratch
          imageAt := at_
          tchiley := tchiley
          rows := l.rows
          entries := [1, 2, 3, 5].flatMap l.kept }

/-! ## Launch fields (R273, R326, R431) -/

/-- The package phaser that an instruction names (R273, R431). -/
def phaserNamed : Instr → Option Nat
  | .phReg x | .phDrop x | .phArr x | .phWait x | .phArw x => some (YWph x)
  | .drain x => drainArrives x
  | _ => none

/-- PHN of a consignment with these instructions (R431). -/
def phnOf (is : List Instr) : Nat := (is.filterMap phaserNamed).foldl (fun m n => if 64 ≤ n then max m (n - 63) else m) 0

/-- The limits of a consignment record: its zero bytes (R431; DEDUCED, log 64). -/
def kzoRecordOk (r : List Byte) : Bool := dzero r 29 31 && dzero r 48 63

/-- ASCII bytes of a name. -/
def ascii (cs : List Char) : List Byte := cs.map fun c => BitVec.ofNat 8 c.toNat

/-- The value of a global symbol of the link, by name (R326, R431). -/
def LinkJob.global (l : LinkJob) (name : List Byte) : Option Word :=
  match (globals l.files).find? fun g => g.2.1 == name with
  | some g => l.value g.1 g.2.2
  | none => none

/-- `depot_entry` (R326). -/
def depotEntry : List Byte := ascii ['d', 'e', 'p', 'o', 't', '_', 'e', 'n', 't', 'r', 'y']

/-- `trap_entry` (R431). -/
def trapEntry : List Byte := ascii ['t', 'r', 'a', 'p', '_', 'e', 'n', 't', 'r', 'y']

/-- ENTRY of a consignment record of an object: the value of the symbol that its index names (R431). -/
def LinkJob.entry (l : LinkJob) (object : Nat) (r : List Byte) : Option Word :=
  match (kzoSymbols (l.files.getD object []))[dnum r 4 4]? with
  | some x => (match resolve l.files object x with | .ok (o, y) => l.value o y | .error _ => none)
  | none => none

/-- What a consignment's launch takes from its symbols and its scratch image: ENTRY, `depot_entry`, `trap_entry`, the address
of the image and its main bytes (R431). -/
structure LinkInput where
  entry : Word
  depot : Option Word
  trap : Option Word
  image : Word
  scratch : Nat
  code : List Instr
  deriving DecidableEq, Repr

/-- The instructions of the words of text bytes (DEDUCED, log 64). -/
def textInstrs (b : List Byte) : List Instr :=
  (List.range (b.length / 8)).filterMap fun i =>
    match decodeSlot false (i % 8) (BitVec.ofNat 64 (dnum b (8 * i) 8)) with | .ok x => some x | .error _ => none

/-- The instructions of the records of the linked Tchiley sections. -/
def LinkJob.recordInstrs (l : LinkJob) (out : Linked) : List Instr :=
  (placeKind l.files 5).flatMap fun p =>
    (List.range (p.header.size / 40)).flatMap fun i =>
      (TRecord.ofBytes ((out.tchiley.drop (p.at_ + 40 * i)).take 40)).instrs.map (·.2)

/-- What the link gives a consignment record of an object (R326, R430, R431). -/
def LinkJob.input (l : LinkJob) (object : Nat) (r : List Byte) (out : Linked) : Except LinkError LinkInput :=
  match l.entry object r with
  | none => .error .undefined
  | some e =>
    .ok { entry := e, depot := l.global depotEntry, trap := l.global trapEntry
          image := BitVec.ofNat 64 (l.base 2 + out.imageAt), scratch := extent (placeKind l.files 3)
          code := textInstrs out.text ++ l.recordInstrs out }

/-- The LAUNCH fields that kzld fills from a consignment record (R431; DEDUCED, log 64); the fields it does not name are zero. -/
def launchFields (r : List Byte) (x : LinkInput) : Except LinkError Packet :=
  let depots := dnum r 28 1
  let noGroup := dzero r 8 12 && dzero r 16 19
  let shape (n : Nat) : Nat := if noGroup then 1 else n
  if !kzoRecordOk r then .error .malformed
  else if dnum r 40 4 = 0 || dnum r 44 4 = 0 then .error .required
  else if depots ≠ 0 && x.depot.isNone then .error .undefined
  else if dnum r 20 4 < x.scratch then .error .tooLarge
  else .ok
    { dep := false, early := false, entry := x.entry, args := 0, handler := x.trap.getD 0
      depot := if depots = 0 then 0 else x.depot.getD 0
      scqBase := 0, scQuota := dnum r 32 8 / 4096
      p := shape (dnum r 8 1), c := shape (dnum r 9 1), s := shape (dnum r 10 1), q := shape (dnum r 11 1), d := shape (dnum r 12 1)
      fg := dnum r 13 1, tregs := dnum r 14 1
      spg := (dnum r 20 4 + 65535) / 65536, tsg := (dnum r 24 2 + 31) / 32
      relays := dnum r 15 1, depots := depots, g := shape (dnum r 16 4), sems := dnum r 26 2, phn := phnOf x.code
      energy := dnum r 40 4, current := dnum r 44 4, argStride := 0, wdog := 0, event := 0
      simg := if x.scratch = 0 then 0 else x.image
      slen := (x.scratch + 15) / 16 * 16 }

/-- The launch packets of a link: one for each consignment record of each object (R430, R431). -/
def LinkJob.packets (l : LinkJob) : Except LinkError (List Packet) :=
  l.run.bind fun out =>
    (((List.range l.files.length).zip l.files).flatMap fun f => (kzoRecords f.2).map fun r => (f.1, r)).foldl
      (fun acc x => acc.bind fun ps => (l.input x.1 x.2 out).bind fun i => (launchFields x.2 i).map fun p => ps ++ [p]) (.ok [])

end Sys2Proof.Machine
end

