-- ==== Sys2Proof/Machine/KzBundle.lean ====
section
/-! DEFINITION. How kzas makes a bundle of the instructions and words written in it (R56, R74 to R76, R101, R429).  No step reads it. -/

namespace Sys2Proof.Machine

open Sys2Proof

/-! ## One instruction -/

/-- A field that the linker fills: a type of R428 and the value it takes. -/
structure Fixup where
  type : Nat
  sym : Text
  add : Word
  deriving DecidableEq, Repr

/-- What operands fill: bits of the word, the s register they claim for BI, the upper part of an immediate that `xim` carries, a
field for the linker, and whether that field is the imm32 of `li`, `addi` or `lih`, whose type the bundle decides (R429). -/
structure Fill where
  bits : Nat
  claim : Option Nat
  high : Option Nat
  fix : Option Fixup
  open_ : Bool
  deriving DecidableEq, Repr

/-- Nothing filled. -/
def Fill.none_ : Fill := ⟨0, none, none, none, false⟩

/-- Some bits filled. -/
def Fill.ofBits (b : Nat) : Fill := { Fill.none_ with bits := b }

/-- Two fills together. -/
def Fill.join (a b : Fill) : Fill :=
  ⟨a.bits ||| b.bits, a.claim.orElse fun _ => b.claim, a.high.orElse fun _ => b.high, a.fix.orElse fun _ => b.fix, a.open_ || b.open_⟩

/-- Where an instruction stands: the symbols, its section, and the offset of its bundle. -/
structure Site where
  env : SymTab
  section_ : Nat
  at_ : Nat
  deriving DecidableEq, Repr

/-- The value of an operand that is a name or an expression. -/
def Site.val (x : Site) : Opnd → Option Val
  | .val v => some v
  | .name t => (Ex.sym t).value x.env
  | _ => none

/-- A signed number in `len` bits. -/
def inBits (len : Nat) (w : Word) : Nat := w.toNat % 2 ^ len

/-- What an operand fills at a position of a form, or why it cannot stand there (R70, R75, R77, R429;
DESIGN CHOICE, log 82). -/
def KzArg.fill (x : Site) : KzArg → Opnd → Except AsmError Fill
  | .reg f pos, .reg g n => if f = g then .ok (.ofBits (n * 2 ^ pos)) else .error .operand
  | .sel pos, .reg .m n => if 1 ≤ n then .ok (.ofBits (n * 2 ^ pos)) else .error .operand
  | .low pos, .reg .v n => if n < 512 then .ok (.ofBits (n * 2 ^ pos)) else .error .doesNotFit
  | .vb, .reg .v n => .ok (.ofBits (n * 2 ^ 26))
  | .vb, .bc => .ok (.ofBits (2 ^ 8))
  | .bi, .reg .s n => .ok { Fill.ofBits (2 ^ 37 + n * 2 ^ 31) with claim := some n }
  | .num pos len lo hi bias, o =>
    match x.val o with
    | some ⟨none, w⟩ => if lo ≤ w.toInt ∧ w.toInt ≤ hi then .ok (.ofBits (inBits len (w - BitVec.ofInt 64 bias) * 2 ^ pos)) else .error .doesNotFit
    | _ => .error .operand
  | .imm wide negated, o =>
    match x.val o with
    | some ⟨none, w⟩ =>
      let v := if negated then -w else w
      if signedIn 32 v.toInt then .ok (.ofBits (inBits 32 v))
      else if wide && signedIn 56 v.toInt then .ok { Fill.ofBits (inBits 32 v) with high := some (v.toNat / 2 ^ 32 % 2 ^ 24) }
      else .error .doesNotFit
    | some ⟨some t, w⟩ => if negated then .error .operand else .ok { Fill.none_ with fix := some ⟨3, t, w⟩, open_ := wide }
    | none => .error .operand
  | .immHigh, o =>
    match x.val o with
    | some ⟨none, w⟩ => if w.toNat < 2 ^ 32 then .ok (.ofBits w.toNat) else .error .doesNotFit
    | some ⟨some t, w⟩ => .ok { Fill.none_ with fix := some ⟨3, t, w⟩, open_ := true }
    | none => .error .operand
  | .mem, .mem b i k v => memFill 24 11 b (match i with | some (.s, n) => some n | none => some 0 | _ => none) k v
  | .memPlain, .mem b none 0 v => memFill 24 11 b (some 0) 0 v
  | .memVec, .mem b (some (.v, n)) k ⟨none, w⟩ =>
    if signedIn 14 w.toInt then .ok (.ofBits (b * 2 ^ 41 + inBits 14 w * 2 ^ 21 + n * 2 ^ 11 + k)) else .error .doesNotFit
  | .addr pos, .mem b none 0 ⟨none, w⟩ => if w = 0 then .ok (.ofBits (b * 2 ^ pos)) else .error .operand
  | .creg, .name t =>
    match cregNames.find? fun r => r.1.toList == t with
    | some r => .ok (.ofBits r.2)
    | none => .error .operand
  | .target, o =>
    match x.val o with
    | some ⟨some t, w⟩ =>
      (match x.env.get t with
       | some (.at_ s off) =>
         if s = x.section_ then
           let d := (off : Int) + w.toInt - x.at_
           if d % 64 = 0 ∧ signedIn 24 (d / 64) then .ok (.ofBits (inBits 24 (BitVec.ofInt 64 (d / 64)))) else .error .doesNotFit
         else .ok { Fill.none_ with fix := some ⟨7, t, w⟩ }
       | _ => .ok { Fill.none_ with fix := some ⟨7, t, w⟩ })
    | _ => .error .operand
  | .word ws, .name t =>
    match ws.find? fun r => r.1.toList == t with
    | some r => .ok (.ofBits r.2)
    | none => .error .operand
  | .phScope, .reg .ph n => .ok (.ofBits (n * 2 ^ 46 + (if n < 64 then 2 else 5) * 2 ^ 32))
  | _, _ => .error .operand
where
  /-- AB, SI, OFF and SC of a memory operand; an offset with a symbol is left to the linker (R61, R429). -/
  memFill (len pos b : Nat) (si : Option Nat) (k : Nat) (v : Val) : Except AsmError Fill :=
    match si with
    | none => .error .operand
    | some n =>
      let f := b * 2 ^ 41 + n * 2 ^ 35 + k
      match v.sym with
      | some t => .ok { Fill.ofBits f with fix := some ⟨6, t, v.add⟩ }
      | none => if signedIn len v.add.toInt then .ok (.ofBits (f + inBits len v.add * 2 ^ pos)) else .error .doesNotFit

/-- What all operands of a form fill, the mask last where one stands (R75). -/
def fillAll (x : Site) (mask : Bool) : List KzArg → List Opnd → Except AsmError Fill
  | [], [] => .ok .none_
  | [], [.reg .m n] => if mask && decide (1 ≤ n) then .ok (.ofBits (n * 2 ^ 13)) else .error .operand
  | a :: as, o :: os => (a.fill x o).bind fun f => (fillAll x mask as os).map f.join
  | _, _ => .error .operand

/-- What kzas itself refuses of a vector word: an immediate shift amount of the width or more, a conversion of two widths without its
part (R134, R138). -/
def vectorWritable (w : Word) (args : Nat) : Bool :=
  let x := VW.ofWord false w
  let op := (opcodeOf w).toNat
  if (op = 0x06 || op = 0x07 || op = 0x08) && x.fn.getLsbD 0 then decide ((x.fn.extractLsb' 1 6).toNat < elemWidth x.ty)
  else if op = 0x30 then args = 3 || elemWidth x.ty = elemWidth (x.fn.extractLsb' 3 4)
  else true

/-- An instruction as it is placed: its slot (1 for a vector slot that the order decides), the word, what it claims and leaves open. -/
structure AsmOp where
  slot : Nat
  forced : Bool
  word : Word
  fill : Fill
  deriving DecidableEq, Repr

/-- The form of a mnemonic that its operands fit; the error of the first form that nearly fits, else that of the last (R74, R75). -/
def fitForm (x : Site) (forced : Option Nat) (os : List Opnd) : List KzMatch → Except AsmError AsmOp
  | [] => .error .unknownMnemonic
  | m :: ms =>
    match fillAll x m.row.mask m.row.args os with
    | .ok f =>
      let w := BitVec.ofNat 64 (m.row.op * 2 ^ 56 + m.row.fixed + m.bits) ||| BitVec.ofNat 64 f.bits
      if m.row.slot = 1 && !vectorWritable w m.row.args.length then .error .doesNotFit
      else if forced.isSome && m.row.slot ≠ 1 then .error .unknownMnemonic
      else .ok ⟨forced.getD m.row.slot, forced.isSome, w, f⟩
    | .error .doesNotFit => .error .doesNotFit
    | .error e => if ms.isEmpty then .error e else fitForm x forced os ms

/-! ## Tails (R64, R75) -/

/-- `yN>=T`: the semaphore and the threshold. -/
def waitPair (env : SymTab) (t : Text) : Option (Nat × Int) :=
  match etoks (toks t) with
  | .word y :: .op ['>', '='] :: r =>
    match register y, valueOf env r with
    | some (.y, n), some ⟨none, w⟩ => some (n, w.toInt)
    | _, _ => none
  | _ => none

/-- `yN+i`: the semaphore and the increment. -/
def signalPair (env : SymTab) (t : Text) : Option (Nat × Int) :=
  match etoks (toks t) with
  | .word y :: .op ['+'] :: r =>
    match register y, valueOf env r with
    | some (.y, n), some ⟨none, w⟩ => some (n, w.toInt)
    | _, _ => none
  | _ => none

/-- A line's operand text cut before a tail word that stands by itself. -/
def cutAt (word : Text) : List Tok → List Tok × Option (List Tok)
  | [] => ([], none)
  | t :: r => if t = .word word then ([], some r) else let x := cutAt word r; (t :: x.1, x.2)

/-- The tail bits of a wait and a signal (R64). -/
def tailBits (env : SymTab) (wait signal : Option Text) : Except AsmError Nat :=
  let w : Except AsmError Nat :=
    match wait with
    | none => .ok 0
    | some t =>
      (match waitPair env t with
       | some (n, v) => if 1 ≤ v ∧ v ≤ 63 then .ok (n * 2 ^ 16 + v.toNat * 2 ^ 10) else .error .range
       | none => .error .tail)
  let s : Except AsmError Nat :=
    match signal with
    | none => .ok 0
    | some t =>
      (match signalPair env t with
       | some (n, 1) => .ok (n * 4 + 1)
       | some (n, 2) => .ok (n * 4 + 2)
       | some (n, 4) => .ok (n * 4 + 3)
       | some _ => .error .range
       | none => .error .tail)
  w.bind fun a => s.map fun b => a + b

/-! ## What is written in a bundle -/

/-- A line inside a bundle: an instruction, or a word that sets common fields (R75, R76). -/
inductive Item where
  | op (p : AsmOp)
  | bc (n : Nat)
  | first (n : Nat)
  | last (n : Nat)
  | wait (n t : Nat)
  | mark
  | nop
  deriving DecidableEq, Repr

/-- An instruction with its tails (R64, R75). -/
def instruction (x : Site) (mnemonic rest : Text) : Except AsmError Item :=
  let isPlain := !(kzFind mnemonic).isEmpty
  let ending := mnemonic.drop (mnemonic.length - 3)
  let forced := if isPlain then none else if ending == ".va".toList then some 1 else if ending == ".vb".toList then some 2 else none
  let rows := kzFind (if forced.isSome then mnemonic.take (mnemonic.length - 3) else mnemonic)
  let cutW := cutAt "wait".toList (toks rest)
  let tailed := rows.any fun r => r.row.tails ≠ .none_
  let isModes := rows.any fun r => r.row.args.any fun a => match a with | .word _ => true | _ => false
  let front := if isModes then toks rest else cutW.1
  let back := if isModes then none else cutW.2
  let sigFront := cutAt "sig".toList front
  let sigBack := back.map (cutAt "sig".toList)
  let operandText := if isModes then front else sigFront.1
  let wait := match sigBack with | some b => some (untoks b.1) | none => none
  let signal := if isModes then none else match sigBack with
    | some b => b.2.map untoks
    | none => sigFront.2.map untoks
  let early := back.isSome && sigFront.2.isSome && !isModes
  let texts := if (trim (untoks operandText)).isEmpty then [] else pieces (fun c => c == ',') (untoks operandText)
  match texts.mapM (fun t => operand x.env (trim t)) with
  | none => .error .operand
  | some os =>
    (fitForm x forced os rows).bind fun p =>
      if (wait.isSome || signal.isSome) && (!tailed || early) then .error .tail
      else if wait.isSome && rows.any fun r => r.row.tails = .signal then .error .tail
      else (tailBits x.env wait signal).map fun b => .op { p with word := p.word ||| BitVec.ofNat 64 b }

/-- A line of a bundle (R74 to R76). -/
def item (x : Site) (t : Text) : Except AsmError Item :=
  let mnemonic := t.takeWhile fun c => !blank c
  let rest := trim (t.dropWhile fun c => !blank c)
  let level (mk : Nat → Item) : Except AsmError Item :=
    match constOf x.env rest with
    | some w => if w.toNat < 8 then .ok (mk w.toNat) else .error .doesNotFit
    | none => .error .operand
  if mnemonic == "nop".toList then (if rest.isEmpty then .ok .nop else .error .operand)
  else if mnemonic == "mark".toList then (if rest.isEmpty then .ok .mark else .error .operand)
  else if mnemonic == "bc".toList then (match register rest with | some (.s, n) => .ok (.bc n) | _ => .error .operand)
  else if mnemonic == "first".toList then level .first
  else if mnemonic == "last".toList then level .last
  else if mnemonic == "wait".toList then
    match pieces (fun c => c == ',') rest with
    | [p] =>
      (match waitPair x.env p with
       | some (n, v) => if 1 ≤ v ∧ v ≤ 1023 then .ok (.wait n v.toNat) else .error .range
       | none => .error .operand)
    | [p, k] =>
      (match waitPair x.env p, constOf x.env k with
       | some (n, v), some w =>
         if ¬(1 ≤ v ∧ v ≤ 1023) then .error .range
         else if 2 ^ 24 ≤ w.toNat then .error .doesNotFit
         else .ok (.op ⟨7, false, BitVec.ofNat 64 (0x18 * 2 ^ 56 + n * 2 ^ 48 + v.toNat * 2 ^ 38 + w.toNat), .none_⟩)
       | _, _ => .error .operand)
    | _ => .error .operand
  else instruction x mnemonic rest

/-! ## Building the bundle -/

/-- A bundle as its lines are taken in: the placed instructions and the common fields. -/
structure Build where
  words : List (Option AsmOp)
  vectors : Nat
  bi : Option Nat
  firstAt : Option Nat
  lastAt : Option Nat
  wait : Option (Nat × Nat)
  waitFirst : Bool
  marked : Bool
  deriving DecidableEq, Repr

/-- A bundle in which nothing is written. -/
def Build.empty : Build := ⟨List.replicate 8 none, 0, none, none, none, none, false, false⟩

/-- Claim BI for an s register: two different ones are rejected (R75). -/
def Build.claim (b : Build) (n : Nat) : Except AsmError Build :=
  match b.bi with
  | none => .ok { b with bi := some n }
  | some m => if m = n then .ok b else .error .biClash

/-- Put an instruction into its slot: the first vector instruction into VA, the second into VB (R74). -/
def Build.place (b : Build) (p : AsmOp) : Except AsmError Build :=
  let vector := p.slot = 1 || p.slot = 2
  let k := if vector && !p.forced then 1 + b.vectors else p.slot
  if vector && 2 ≤ b.vectors then .error .tooManyVectors
  else if (b.words.getD k none).isSome then .error .slotTaken
  else
    let b' := { b with words := b.words.set k (some { p with slot := k }), vectors := if vector then b.vectors + 1 else b.vectors }
    match p.fill.claim with
    | some n => b'.claim n
    | none => .ok b'

/-- Take in a line (R75, R76; DESIGN CHOICE, log 82). -/
def Build.add (b : Build) : Item → Except AsmError Build
  | .op p => b.place p
  | .bc n => b.claim n
  | .first n => if b.firstAt.isSome then .error .fieldClash else .ok { b with firstAt := some n }
  | .last n => if b.lastAt.isSome then .error .fieldClash else .ok { b with lastAt := some n }
  | .wait n t => if b.wait.isSome then .error .fieldClash else .ok { b with wait := some (n, t), waitFirst := !b.marked }
  | .mark => if b.marked then .error .fieldClash else .ok { b with marked := true }
  | .nop => .ok b

/-- The Y opcode is free: no instruction stands in the slot, and none is needed for an immediate. -/
def Build.yFree (b : Build) : Bool :=
  (b.words.getD 7 none).isNone && !(match b.words.getD 0 none with | some p => p.fill.high.isSome | none => false)

/-- The Y slot holds a `call` or a `ret`, whose bundle has RM = 1 (R99). -/
def Build.links (b : Build) : Bool :=
  match b.words.getD 7 none with | some p => opcodeOf p.word == 0x07 || opcodeOf p.word == 0x08 | none => false

/-- The Y word as R66 lays it out, from the instruction's word, the common fields and the opcodes that R76, R99 and R101 give. -/
def Build.yWord (b : Build) (xim : Option Nat) : Except AsmError Word :=
  let own := match b.words.getD 7 none with | some p => p.word.toNat | none => 0
  let waitOp := b.yFree && b.wait.isSome && (b.waitFirst || !b.marked)
  let markOp := b.yFree && b.marked && !waitOp
  let op := if waitOp then 0x18 * 2 ^ 56 else if markOp then 0x10 * 2 ^ 56 else match xim with | some h => 0x0D * 2 ^ 56 + h | none => 0
  let level : Except AsmError Nat :=
    match b.firstAt, b.lastAt with
    | none, none => .ok 0
    | some n, none => .ok (2 ^ 30 + n * 2 ^ 26)
    | none, some n => .ok (2 ^ 29 + n * 2 ^ 26)
    | some n, some m => if n = m then .ok (2 ^ 30 + 2 ^ 29 + n * 2 ^ 26) else .error .fieldClash
  let waits := match b.wait with | some (n, t) => n * 2 ^ 48 + t * 2 ^ 38 | none => 0
  let port := match b.bi with | some n => 2 ^ 37 + n * 2 ^ 31 | none => 0
  if b.wait.isSome && (own / 2 ^ 56 = 0x18) then .error .fieldClash
  else level.map fun l =>
    BitVec.ofNat 64 own ||| BitVec.ofNat 64 op ||| BitVec.ofNat 64 l ||| BitVec.ofNat 64 waits ||| BitVec.ofNat 64 port |||
      BitVec.ofNat 64 (if b.marked && !markOp || b.links then 2 ^ 25 else 0)

/-- A field of a section for the linker. -/
structure AsmReloc where
  offset : Nat
  type : Nat
  sym : Text
  add : Word
  deriving DecidableEq, Repr

/-- Kind of the section of this object in which a symbol is defined: 3 scratch, 4 tile store (R426). -/
abbrev KindOf := Text → Option Nat

/-- The type that R429 gives `li`, `addi` or `lih` with a symbol: SIMM32 for a scratch or tile-store symbol of the object, else SIMM56
where the Y slot is free, else SIMM32. -/
def simmType (kind : Option Nat) (yFree : Bool) : Nat :=
  if kind = some 3 ∨ kind = some 4 then 3 else if yFree then 4 else 3

/-- The finished bundle: its eight words and its fields for the linker (R56, R74 to R76, R101, R429). -/
def Build.finish (b : Build) (kind : KindOf) (at_ : Nat) : Except AsmError (List Word × List AsmReloc) :=
  let s := b.words.getD 0 none
  let high := match s with | some p => p.fill.high | none => none
  let yOp := match b.words.getD 7 none with | some p => (opcodeOf p.word).toNat | none => 0
  let free := b.yFree && b.wait.isNone && !b.marked
  let typeOf (p : AsmOp) (f : Fixup) : Nat := if p.fill.open_ then simmType (kind f.sym) free else f.type
  let fix (p : AsmOp) : List AsmReloc :=
    match p.fill.fix with
    | some f => [⟨at_ + 8 * p.slot, typeOf p f, f.sym, f.add⟩]
    | none => []
  let relocs := b.words.flatMap fun p => match p with | some p => fix p | none => []
  let xim := if high.isSome then high else if relocs.any fun r => r.type == 4 then some 0 else none
  let sOk := match s with
    | some p => (match decodeSlot false 0 p.word with | .ok i => ximOk i | .error _ => false)
    | none => false
  if high.isSome && (b.words.getD 7 none).isSome then .error .doesNotFit
  else if yOp = 0x0D && !sOk then .error .xim
  else (b.yWord xim).map fun y =>
    (((List.range 7).map fun k => match b.words.getD k none with | some p => p.word | none => 0) ++ [y], relocs)

/-- A bundle from its lines (R74). -/
def asmBundle (x : Site) (kind : KindOf) (lines : List Text) : Except AsmError (List Word × List AsmReloc) :=
  (lines.foldl (fun (b : Except AsmError Build) t => b.bind fun b => (item x t).bind b.add) (.ok Build.empty)).bind fun b =>
    b.finish kind x.at_

end Sys2Proof.Machine
end

