-- ==== Sys2Proof/Machine/Kzas.lean ====
section
/-! DEFINITION. The assembler kzas: its lines, directives and macros, and the KZO object it writes (R74, R78, R425 to R428, R431).
No step reads it. -/

namespace Sys2Proof.Machine

open Sys2Proof

/-! ## Lines -/

/-- A piece of a source line: a brace that opens or closes a bundle, or text (R74). -/
inductive SrcLine where
  | open_
  | close
  | text (t : Text)
  deriving DecidableEq, Repr

/-- The characters of the braces. -/
def openBrace : Char := Char.ofNat 123
/-- The closing brace. -/
def closeBrace : Char := Char.ofNat 125

/-- A line cut at its braces. -/
def cutBraces : Text → List SrcLine
  | [] => [.text []]
  | c :: r =>
    if c == openBrace then .text [] :: .open_ :: cutBraces r
    else if c == closeBrace then .text [] :: .close :: cutBraces r
    else match cutBraces r with
      | .text t :: ls => .text (c :: t) :: ls
      | ls => .text [c] :: ls

/-- The lines of a source, without comments, blanks and empty pieces (R74). -/
def sourceLines (src : Text) : List SrcLine :=
  (pieces (fun c => c == '\n') src).flatMap fun t =>
    (cutBraces (uncommented t)).filterMap fun l =>
      match l with
      | .text t => if (trim t).isEmpty then none else some (.text (trim t))
      | l => some l

/-- A label at the start of a line, and what follows it (R74). -/
def labelled (t : Text) : Option (Text × Text) :=
  let name := t.takeWhile fun c => wordChar c || c == '.'
  match t.drop name.length with
  | ':' :: r => if name.isEmpty || name.head? == some '.' then none else some (name, trim r)
  | _ => none

/-- The first word of a line and what follows it. -/
def firstWord (t : Text) : Text × Text := (t.takeWhile fun c => !blank c, trim (t.dropWhile fun c => !blank c))

/-- Operands of a line, cut at commas. -/
def commaList (t : Text) : List Text := if (trim t).isEmpty then [] else (pieces (fun c => c == ',') t).map trim

/-! ## The state of an assembly -/

/-- A section as it is filled: kind 1 text, 2 data, 3 scratch, 4 tile store (R426). -/
structure AsmSection where
  name : Text
  kind : Nat
  align : Nat
  bytes : List Byte
  side : Store 8
  rows : Nat
  relocs : List AsmReloc
  deriving DecidableEq, Repr

/-- An empty section. -/
def AsmSection.empty (name : Text) (kind : Nat) : AsmSection :=
  ⟨name, kind, if kind = 1 then 6 else if kind = 3 then 4 else 0, [], [], 0, []⟩

/-- A consignment description: `.group` and `.declare` as they were written (R78). -/
structure ConDesc where
  name : Text
  entry : Text
  group : List Nat
  declared : List (Text × Nat)
  deriving DecidableEq, Repr

/-- A macro: its parameters and its lines (R78). -/
structure Macro where
  name : Text
  params : List Text
  body : List SrcLine
  deriving DecidableEq, Repr

/-- A branch of `.if`: it assembles, and the one after `.else` would. -/
structure CondBranch where
  on : Bool
  other : Bool
  deriving DecidableEq, Repr

/-- An assembly: its sections and the current one, the symbols of this pass and of the pass before, and what is open. -/
structure Asm where
  sections_ : List AsmSection
  cur : Nat
  env : SymTab
  known : SymTab
  final : Bool
  globals : List Text
  externs : List Text
  macros : List Macro
  defining : Option Macro
  conds : List CondBranch
  bundle : Option (List Text)
  labels : List Text
  cons : List ConDesc
  latcheck : Bool
  checked : List (Nat × Nat)
  regLoops : List (Nat × Nat)
  inexact : Bool
  deriving DecidableEq, Repr

/-- The start of a pass: the sections of `.text`, `.data`, `.scratch` and `.tilestore` (R78; DESIGN CHOICE, log 82). -/
def Asm.start (known : SymTab) (final : Bool) : Asm :=
  { sections_ := [AsmSection.empty ".text".toList 1, AsmSection.empty ".data".toList 2, AsmSection.empty ".scratch".toList 3,
                  AsmSection.empty ".tilestore".toList 4]
    cur := 0, env := [], known := known, final := final, globals := [], externs := [], macros := [], defining := none, conds := []
    bundle := none, labels := [], cons := [], latcheck := false, checked := [], regLoops := [], inexact := false }

/-- The current section. -/
def Asm.here (x : Asm) : AsmSection := x.sections_.getD x.cur (AsmSection.empty [] 1)

/-- Change the current section. -/
def Asm.change (x : Asm) (f : AsmSection → AsmSection) : Asm := { x with sections_ := x.sections_.set x.cur (f x.here) }

/-- Every symbol that an operand may name. -/
def Asm.symbols (x : Asm) : SymTab := x.env ++ x.known

/-- Define a symbol once. -/
def Asm.define (x : Asm) (t : Text) (v : Sym) : Except AsmError Asm :=
  if (x.env.get t).isSome || t.isEmpty then .error .label else .ok { x with env := x.env ++ [(t, v)] }

/-- Give the labels that stand open the place where the next bundle or datum comes (R74; DESIGN CHOICE, log 82). -/
def Asm.settle (x : Asm) : Except AsmError Asm :=
  x.labels.foldl (fun (a : Except AsmError Asm) t => a.bind fun a => a.define t (.at_ a.cur a.here.bytes.length)) (.ok { x with labels := [] })

/-- The kind of the section in which a symbol of this object stands (R429). -/
def Asm.kindOf (x : Asm) (t : Text) : Option Nat :=
  match x.symbols.get t with
  | some (.at_ s _) => some (x.sections_.getD s (AsmSection.empty [] 1)).kind
  | _ => none

/-- Append bytes to the current section. -/
def Asm.emit (x : Asm) (b : List Byte) : Asm := x.change fun s => { s with bytes := s.bytes ++ b }

/-- The latency check takes in the bundles that come next (R79). -/
def Asm.check (x : Asm) (n : Nat) : Asm :=
  if x.latcheck && x.here.kind == 1 then
    { x with checked := x.checked ++ (List.range n).map fun i => (x.cur, x.here.bytes.length / 64 + i) }
  else x

/-- Pad the current section with zero bytes, which are `nop` bundles in text (R78). -/
def Asm.pad (x : Asm) (n : Nat) : Asm :=
  let k := (n - x.here.bytes.length % n) % n
  (x.check (k / 64)).emit (List.replicate k 0)

/-- A line is a `loop` whose trip count comes from a register (R103). -/
def loopsByRegister (t : Text) : Bool :=
  (firstWord t).1 == "loop".toList &&
    match commaList (firstWord t).2 with
    | _ :: n :: _ => (register (firstWord n).1).isSome
    | _ => false

/-- Append a bundle; the first pass keeps only its place (R74). -/
def Asm.putBundle (x : Asm) (lines : List Text) : Except AsmError Asm :=
  if x.here.kind ≠ 1 then .error .directive
  else
    let at_ := x.here.bytes.length
    let x := x.check 1
    let x := if lines.any loopsByRegister then { x with regLoops := x.regLoops ++ [(x.cur, at_ / 64)] } else x
    if !x.final then .ok (x.emit (List.replicate 64 0))
    else (asmBundle ⟨x.symbols, x.cur, at_⟩ x.kindOf lines).map fun r =>
      (x.emit (r.1.flatMap fun w => natLe 8 w.toNat)).change fun s => { s with relocs := s.relocs ++ r.2 }

/-! ## Data (R78) -/

/-- The values of a data directive: `x dup n` stands for n times x. -/
def Asm.expanded (x : Asm) (ts : List Text) : Except AsmError (List Text) :=
  let one (t : Text) : Option (List Text) :=
    match cutAt "dup".toList (toks t) with
    | (_, none) => some [t]
    | (v, some n) => (constOf x.env (untoks n)).map fun (k : Word) => List.replicate k.toNat (trim (untoks v))
  match ts.mapM one with
  | some l => .ok l.flatten
  | none => .error .directive

/-- One integer of `.word` (4 bytes) or `.dword` (8 bytes); one that names a symbol is left to the linker as ABS32 or ABS64. -/
def Asm.integer (x : Asm) (n : Nat) (t : Text) : Except AsmError Asm :=
  if !x.final then .ok (x.emit (List.replicate n 0))
  else match valueOf x.symbols (etoks (toks t)) with
  | none => .error .expression
  | some ⟨none, w⟩ =>
    if n = 4 ∧ ¬(-(2 ^ 31) ≤ w.toInt ∧ w.toInt < 2 ^ 32) then .error .doesNotFit else .ok (x.emit (natLe n w.toNat))
  | some ⟨some s, w⟩ =>
    .ok ((x.change fun k => { k with relocs := k.relocs ++ [⟨k.bytes.length, if n = 4 then 2 else 1, s, w⟩] }).emit (List.replicate n 0))

/-- One literal of `.f32`, `.f64` or `.bf16`. -/
def Asm.real (x : Asm) (n : Nat) (f : Fmt) (t : Text) : Except AsmError Asm :=
  match literal t with
  | some v => .ok (x.emit (natLe n (literalCode f v)))
  | none => .error .expression

/-- Apply a data directive to each of its values; in a text section it is rejected (DESIGN CHOICE, log 82). -/
def Asm.each (x : Asm) (ts : List Text) (f : Asm → Text → Except AsmError Asm) : Except AsmError Asm :=
  if x.here.kind ≠ 2 ∧ x.here.kind ≠ 3 then .error .directive
  else (x.expanded ts).bind fun vs => vs.foldl (fun (a : Except AsmError Asm) v => a.bind fun a => f a v) (.ok x)

/-- Element-major bytes of a block (R42). -/
def elementBytes (t : MxType) (es : List Nat) : List Byte :=
  if t = 4 then (List.range 16).map fun k => BitVec.ofNat 8 (es.getD (2 * k) 0 + 16 * es.getD (2 * k + 1) 0)
  else es.map fun e => BitVec.ofNat 8 e

/-- Plane-major bytes of a block of elements `w` bits wide: bit i of word j is bit j of element i (R153). -/
def planeMajor (w : Nat) (es : List Nat) : List Byte :=
  (List.range w).flatMap fun j => natLe 4 (((List.range 32).map fun i => bitsOf (es.getD i 0) j 1 * 2 ^ i).foldl (· + ·) 0)

/-- `.mxblock`: in data the elements and then the scale; in scratch the plane-major block at a multiple of 16, padded to its stride,
with the scale in the side bank (R43, R78, R152, R153).  `x dup n` stands for n of the values here too (DESIGN CHOICE, log 82). -/
def Asm.mxblock (x : Asm) (ts : List Text) : Except AsmError Asm :=
  match ts with
  | [] => .error .directive
  | e :: vs =>
    match mxTypes.find? fun r => r.1.toList == e with
    | none => .error .directive
    | some (_, t) =>
      (x.expanded vs).bind fun vs =>
        match vs.mapM literal with
        | none => .error .expression
        | some fs =>
          if fs.length ≠ 32 then .error .directive
          else
            let b := packBlock t fs
            let x := { x with inexact := x.inexact || b.flags &&& flagNX != 0 }
            if x.here.kind = 2 then x.settle.map fun x => x.emit (elementBytes t b.elems ++ [BitVec.ofNat 8 b.scale])
            else if x.here.kind = 3 then
              (x.pad 16).settle.map fun x =>
              let at_ := x.here.bytes.length / 16
              ((x.emit (planeMajor (mxBits t) b.elems)).change fun s =>
                { s with side := Store.setBytes s.side at_ [BitVec.ofNat 8 b.scale] }).pad 16
            else .error .directive

/-! ## The other directives (R78) -/

/-- Take up a section by name, or open it. -/
def Asm.enter (x : Asm) (name : Text) (kind : Nat) : Except AsmError Asm :=
  match ((List.range x.sections_.length).zip x.sections_).find? fun s => s.2.name == name with
  | some s => if s.2.kind = kind then .ok { x with cur := s.1 } else .error .directive
  | none => .ok { x with sections_ := x.sections_ ++ [AsmSection.empty name kind], cur := x.sections_.length }

/-- `.align`: a power of two, at least 64 in text; the section's own alignment rises to it. -/
def Asm.align (x : Asm) (n : Nat) : Except AsmError Asm :=
  if n = 0 ∨ 2 ^ Nat.log2 n ≠ n ∨ (x.here.kind = 1 ∧ n < 64) ∨ x.here.kind = 4 then .error .directive
  else .ok ((x.pad n).change fun s => { s with align := max s.align (Nat.log2 n) })

/-- `.tilestore`: a name for the first of some rows (R78, R426). -/
def Asm.reserve (x : Asm) (name : Text) (rows : Nat) : Except AsmError Asm :=
  let s := x.sections_.getD 3 (AsmSection.empty [] 4)
  if rows < 1 ∨ 1024 < rows then .error .doesNotFit
  else (x.define name (.at_ 3 s.rows)).map fun x => { x with sections_ := x.sections_.set 3 { s with rows := s.rows + rows } }

/-- The keys of `.declare` with their bytes in the consignment record: the first byte and how many (R431). -/
def declareKeys : List (String × Nat × Nat) :=
  [("faultgroup", 13, 1), ("tregs", 14, 1), ("relays", 15, 1), ("spbytes", 20, 4), ("tsrows", 24, 2), ("sems", 26, 2), ("depots", 28, 1),
   ("scquota", 32, 8), ("energy", 40, 4), ("current", 44, 4)]

/-- The limits of `.group`: p, c, s, q, d and g (R78, R338). -/
def groupLimits : List Nat := [4, 4, 6, 4, 2, 16777215]

/-- Change the description that stands open. -/
def Asm.describe (x : Asm) (f : ConDesc → ConDesc) : Except AsmError Asm :=
  match x.cons.reverse with
  | [] => .error .directive
  | c :: cs => .ok { x with cons := (f c :: cs).reverse }

/-- A value of `.declare`. -/
def Asm.declared (x : Asm) (key value : Text) : Option Nat :=
  if key == "faultgroup".toList then
    (["context".toList, "core".toList, "serai".toList].idxOf? value)
  else (constOf x.env value).map BitVec.toNat

/-- Numbers known at this point of the source. -/
def Asm.numbers (x : Asm) (ts : List Text) : Option (List Nat) := (ts.mapM (constOf x.env)).map fun l => l.map BitVec.toNat

/-- A directive that does not steer the reading (R78). -/
def Asm.directive (x : Asm) (name : Text) (rest : Text) : Except AsmError Asm :=
  let args := commaList rest
  let is (s : String) : Bool := name == s.toList
  let cursor (k : Nat) : Except AsmError Asm := if args.isEmpty then .ok { x with cur := k } else .error .directive
  if is "text" then cursor 0
  else if is "data" then cursor 1
  else if is "scratch" then cursor 2
  else if is "tilestore" then
    match args with
    | [n, r] => (match constOf x.env r with | some w => x.reserve n w.toNat | none => .error .expression)
    | _ => .error .directive
  else if is "section" then
    match args with
    | [n, k] => (match ["text".toList, "data".toList, "scratch".toList].idxOf? k with | some i => x.enter n (i + 1) | none => .error .directive)
    | _ => .error .directive
  else if is "align" then
    match x.numbers args with
    | some [n] => x.align n
    | _ => .error .directive
  else if is "global" then (match args with | [n] => .ok { x with globals := n :: x.globals } | _ => .error .directive)
  else if is "extern" then (match args with | [n] => .ok { x with externs := n :: x.externs } | _ => .error .directive)
  else if is "equ" then
    match args with
    | [n, e] => (match constOf x.symbols e with | some w => x.define n (.const w) | none => .error .expression)
    | _ => .error .directive
  else if is "word" then x.each args fun a t => a.integer 4 t
  else if is "dword" then x.each args fun a t => a.integer 8 t
  else if is "f32" then x.each args fun a t => a.real 4 fmt32 t
  else if is "f64" then x.each args fun a t => a.real 8 fmt64 t
  else if is "bf16" then x.each args fun a t => a.real 2 fmtB16 t
  else if is "mxblock" then x.mxblock args
  else if is "consignment" then
    match args with
    | [n, e] => .ok { x with cons := x.cons ++ [⟨n, e, [], []⟩] }
    | _ => .error .directive
  else if is "group" then
    match x.numbers args with
    | some ns =>
      if ns.length = 6 ∧ (ns.zip groupLimits).all (fun p => decide (1 ≤ p.1) && decide (p.1 ≤ p.2)) then x.describe fun c => { c with group := ns }
      else .error .doesNotFit
    | none => .error .directive
  else if is "declare" then
    match args with
    | [k, v] =>
      (match declareKeys.find? fun r => r.1.toList == k, x.declared k v with
       | some r, some n =>
         if n < 256 ^ r.2.2 then x.describe fun c => { c with declared := c.declared ++ [(k, n)] } else .error .doesNotFit
       | _, _ => .error .directive)
    | _ => .error .directive
  else if is "latcheck" then
    match args with
    | [t] => if t == "on".toList then .ok { x with latcheck := true } else if t == "off".toList then .ok { x with latcheck := false } else .error .directive
    | _ => .error .directive
  else .error .unknownDirective

/-! ## Reading a source -/

/-- Lines are assembled, not skipped by an `.if`. -/
def Asm.active (x : Asm) : Bool := x.conds.all CondBranch.on

/-- Open a branch of `.if`; nesting goes to 16 levels (R78). -/
def Asm.openIf (x : Asm) (e : Text) : Except AsmError Asm :=
  if 16 ≤ x.conds.length then .error .nesting
  else if !x.active then .ok { x with conds := ⟨false, false⟩ :: x.conds }
  else match constOf x.env e with
    | some w => .ok { x with conds := ⟨w != 0, w == 0⟩ :: x.conds }
    | none => .error .expression

/-- Start a macro: a parameter that reads as a register or a mnemonic is rejected (R78). -/
def Asm.openMacro (x : Asm) (rest : Text) : Except AsmError Asm :=
  match commaList rest with
  | [] => .error .macro_
  | n :: ps =>
    if n.isEmpty || ps.any (fun p => (register p).isSome || isMnemonic p || p.isEmpty || !p.all wordChar) then .error .macro_
    else .ok { x with defining := some ⟨n, ps, []⟩ }

/-- A call of a macro: its lines with the parameters replaced (R78). -/
def Macro.call (m : Macro) (rest : Text) : Except AsmError (List SrcLine) :=
  let args := commaList rest
  if args.length ≠ m.params.length then .error .macro_
  else .ok (m.body.map fun l => match l with | .text t => .text (substLine (m.params.zip args) t) | l => l)

/-- Take in a line of text: what it changes, and the lines that come before the next one.  A label before a directive that goes to another
section takes its place in the section that it stands in (R74; DESIGN CHOICE, log 82). -/
def Asm.readText (x : Asm) (t : Text) : Except AsmError (Asm × List SrcLine) :=
  let (head, rest) := firstWord t
  if head == ".if".toList then (x.openIf rest).map fun x => (x, [])
  else if head == ".else".toList then
    match x.conds with
    | c :: cs => .ok ({ x with conds := ⟨c.other, false⟩ :: cs }, [])
    | [] => .error .nesting
  else if head == ".endif".toList then
    match x.conds with
    | _ :: cs => .ok ({ x with conds := cs }, [])
    | [] => .error .nesting
  else if !x.active then .ok (x, [])
  else if head == ".macro".toList then (x.openMacro rest).map fun x => (x, [])
  else match x.macros.find? fun m => m.name == head with
    | some m => (m.call rest).map fun ls => (x, ls)
    | none =>
      match labelled t with
      | some (n, rest) =>
        if x.bundle.isSome then .error .label
        else .ok ({ x with labels := x.labels ++ [n] }, if rest.isEmpty then [] else [.text rest])
      | none =>
        match x.bundle with
        | some ls => if head.head? == some '.' then .error .directive else .ok ({ x with bundle := some (ls ++ [t]) }, [])
        | none =>
          if head.head? == some '.' then
            ((if head == ".mxblock".toList then .ok x else x.settle).bind fun x => x.directive (head.drop 1) rest).map fun x => (x, [])
          else (x.settle.bind fun x => x.putBundle [t]).map fun x => (x, [])

/-- Take in a line (R74, R78). -/
def Asm.read (x : Asm) (l : SrcLine) : Except AsmError (Asm × List SrcLine) :=
  match x.defining with
  | some m =>
    (match l with
     | .text t =>
       if (firstWord t).1 == ".endmacro".toList then .ok ({ x with defining := none, macros := m :: x.macros }, [])
       else .ok ({ x with defining := some { m with body := m.body ++ [l] } }, [])
     | l => .ok ({ x with defining := some { m with body := m.body ++ [l] } }, []))
  | none =>
    match l with
    | .text t => x.readText t
    | .open_ => if !x.active then .ok (x, []) else if x.bundle.isSome then .error .nesting
      else x.settle.map fun x => ({ x with bundle := some [] }, [])
    | .close =>
      if !x.active then .ok (x, [])
      else match x.bundle with
        | some ls => ({ x with bundle := none }.putBundle ls).map fun x => (x, [])
        | none => .error .nesting

/-- Read lines to the end; a macro that calls itself for ever uses up the fuel. -/
def Asm.run : Nat → List SrcLine → Asm → Except AsmError Asm
  | _, [], x => if x.bundle.isSome || x.defining.isSome || !x.conds.isEmpty then .error .nesting else x.settle
  | 0, _ :: _, _ => .error .fuel
  | n + 1, l :: ls, x => (x.read l).bind fun r => Asm.run n (r.2 ++ ls) r.1

/-- Assemble a source in two passes: the first places every label, the second makes the bundles (R74 to R78). -/
def assemble (fuel : Nat) (src : Text) : Except AsmError Asm :=
  let ls := sourceLines src
  (Asm.run fuel ls (Asm.start [] false)).bind fun p => Asm.run fuel ls (Asm.start p.env true)

/-! ## The object (R425 to R428, R431) -/

/-- The names of an object's symbol table: those it defines, and those it leaves to other objects. -/
def Asm.names (x : Asm) : List Text :=
  (x.env.map (·.1) ++ x.externs ++ (x.sections_.flatMap fun s => s.relocs.map (·.sym)) ++ x.cons.map (·.entry)).foldl
    (fun l n => if l.contains n then l else l ++ [n]) []

/-- Every string of the object. -/
def Asm.strings (x : Asm) : List Text := x.names ++ x.sections_.map (·.name) ++ x.cons.map (·.name)

/-- Where string `i` of the string table begins. -/
def stringAt (ss : List Text) (i : Nat) : Nat := ((ss.take i).map fun s => s.length + 1).foldl (· + ·) 0

/-- The bytes of the string table. -/
def stringBytes (ss : List Text) : List Byte := ss.flatMap fun s => ascii s ++ [0]

/-- The 24 bytes of symbol `i` (R427). -/
def Asm.symbolBytes (x : Asm) (i : Nat) (n : Text) : List Byte :=
  let (sec, type, value) :=
    match x.env.get n with
    | some (.const w) => (0xFFFF, 5, w.toNat)
    | some (.at_ s off) => (s + 1, (x.sections_.getD s (AsmSection.empty [] 1)).kind, off)
    | _ => (0, 0, 0)
  natLe 4 (stringAt x.strings i) ++ natLe 2 sec ++ natLe 1 (if sec = 0 || x.globals.contains n then 1 else 0) ++ natLe 1 type ++
    natLe 8 value ++ natLe 8 0

/-- The contents of a section in the file: after those of a scratch section its side-bank bytes (R338; DEDUCED, log 64). -/
def AsmSection.contents (s : AsmSection) : List Byte :=
  if s.kind = 3 then s.bytes ++ s.side.bytes 0 ((s.bytes.length + 15) / 16) else s.bytes

/-- The 64 bytes of a consignment record (R431). -/
def Asm.conBytes (x : Asm) (i : Nat) (c : ConDesc) : List Byte :=
  let base := natLe 4 (stringAt x.strings (x.names.length + x.sections_.length + i)) ++ natLe 4 (x.names.idxOf c.entry) ++
    (c.group.take 5).map (fun n => BitVec.ofNat 8 n) ++ List.replicate (5 - min 5 c.group.length) 0 ++ List.replicate 3 0 ++
    natLe 4 (c.group.getD 5 0) ++ List.replicate 44 0
  c.declared.foldl (fun b d =>
    match declareKeys.find? fun r => r.1.toList == d.1 with
    | some r => b.take r.2.1 ++ natLe r.2.2 d.2 ++ b.drop (r.2.1 + r.2.2)
    | none => b) base

/-- The object file: header, section table, symbols, consignment records, strings, then each section's contents and entries
(R425 to R428, R431; the order of the parts is free). -/
def Asm.file (x : Asm) : List Byte :=
  let n := x.sections_.length
  let symAt := 64 + 48 * n
  let conAt := symAt + 24 * x.names.length
  let strAt := conAt + 64 * x.cons.length
  let strs := stringBytes x.strings
  let body := x.sections_.map fun s => s.contents
  let rels := x.sections_.map fun s => s.relocs.flatMap fun r =>
    natLe 8 r.offset ++ natLe 4 (x.names.idxOf r.sym) ++ natLe 2 r.type ++ natLe 2 0 ++ natLe 8 r.add.toNat
  let parts := (body.zip rels).flatMap fun p => [p.1, p.2]
  let at_ (k : Nat) : Nat := strAt + strs.length + ((parts.take k).map List.length).foldl (· + ·) 0
  let heads := ((List.range n).zip x.sections_).flatMap fun p =>
    natLe 4 (stringAt x.strings (x.names.length + p.1)) ++ natLe 1 p.2.kind ++ natLe 1 p.2.align ++ natLe 2 0 ++
      natLe 8 (if p.2.kind = 4 then p.2.rows else p.2.bytes.length) ++ natLe 8 (if p.2.kind = 4 then 0 else at_ (2 * p.1)) ++
      natLe 8 (at_ (2 * p.1 + 1)) ++ natLe 4 p.2.relocs.length ++ List.replicate 12 0
  natLe 4 0x314F5A4B ++ natLe 2 1 ++ natLe 2 1 ++ natLe 8 64 ++ natLe 4 n ++ natLe 4 x.names.length ++ natLe 8 symAt ++ natLe 8 strAt ++
    natLe 4 strs.length ++ natLe 4 x.cons.length ++ natLe 8 conAt ++ natLe 8 0 ++ heads ++
    ((List.range x.names.length).zip x.names).flatMap (fun p => x.symbolBytes p.1 p.2) ++
    ((List.range x.cons.length).zip x.cons).flatMap (fun p => x.conBytes p.1 p.2) ++ strs ++ parts.flatten

end Sys2Proof.Machine
end

