-- ==== Sys2Proof/Machine/LatCheck.lean ====
section
/-! DEFINITION. The latency check of kzas: the ways through a text section, and the reads and landings it reports (R79, R90 to R96,
R102 to R106).  No step reads it. -/

namespace Sys2Proof.Machine

open Sys2Proof

/-! ## What a bundle reads and writes -/

/-- A bundle as kzas knows it: its eight words, whether its `loop` was written with a register, and whether the linker fills in the CO of
its branch (R77, R103). -/
structure LatBundle where
  words : List Word
  regLoop : Bool
  linked : Bool
  deriving DecidableEq, Repr

/-- A bundle that holds no word. -/
def LatBundle.empty : LatBundle := ⟨[], false, false⟩

/-- A text section as bundles. -/
abbrev LatCode := List LatBundle

/-- The bundles of section `s` of an assembly. -/
def Asm.code (x : Asm) (s : Nat) : LatCode :=
  let k := x.sections_.getD s (AsmSection.empty [] 1)
  (List.range (k.bytes.length / 64)).map fun i =>
    ⟨(List.range 8).map fun j => BitVec.ofNat 64 (dnum k.bytes (64 * i + 8 * j) 8), x.regLoops.contains (s, i),
      k.relocs.any fun r => r.offset == 64 * i + 56⟩

/-- The instructions of a bundle with their slots; a `loop` is of the form that was written (R103). -/
def LatBundle.instrs (b : LatBundle) : List (Nat × Instr) :=
  ((List.range 8).zip b.words).filterMap fun p => match decodeSlot b.regLoop p.1 p.2 with | .ok i => some (p.1, i) | .error _ => none

/-- The fields of a bundle's Y word. -/
def LatBundle.yw (b : LatBundle) : YW := YW.ofWord (b.words.getD 7 0)

/-- Opcode of a bundle's Y word. -/
def LatBundle.yOp (b : LatBundle) : Nat := (opcodeOf (b.words.getD 7 0)).toNat

/-- Results of a bundle: each register and the cycles to its landing (R71, R103). -/
def LatBundle.results (b : LatBundle) : List (Reg × Nat) :=
  b.instrs.flatMap fun x =>
    (match (regWritten x.2).bind Dest.reg with | some d => [(d, frozenLatency x.1 (b.words.getD x.1 0))] | none => []) ++
    (match x.2 with | .loopx y => if y.co.extractLsb' 0 5 = 0 then [] else [(rA (y.co.extractLsb' 0 5), 1)] | _ => [])

/-- Registers that a bundle reads, the broadcast port included (R68, R91).  The vector registers that `dupcmp` compares are left out: it
reads them where CTXCTL.DUP is set alone, which kzas does not know (R118; DESIGN CHOICE, log 94). -/
def LatBundle.reads (b : LatBundle) : List Reg :=
  (b.instrs.flatMap fun x => regReads x.2) ++ (if b.yw.bv = 1 then [rS b.yw.bi] else [])

/-! ## The ways through the code -/

/-- What kzas knows of a loop descriptor: its level, the bundles of the body, and the a register that advances (R102). -/
structure LoopDesc where
  level : Nat
  body : Nat
  sar : Nat
  deriving DecidableEq, Repr

/-- An active loop on a way: whether this iteration is the first and whether it is the last. -/
structure LatLevel where
  desc : LoopDesc
  start : Nat
  first : Bool
  last : Bool
  deriving DecidableEq, Repr

/-- A transfer on a way: its target where kzas follows it, the delay bundles still to come after this one, and whether it is a call,
which leaves loops active (R94, R96). -/
structure LatXfer where
  target : Option Nat
  left : Nat
  call : Bool
  deriving DecidableEq, Repr

/-- A point of a way: the bundle, the transfer in whose delay it stands, and the active loops, innermost first. -/
structure LatPoint where
  at_ : Nat
  xfer : Option LatXfer
  loops : List LatLevel
  deriving DecidableEq, Repr

/-- The last bundle of a loop's body. -/
def LatLevel.ending (l : LatLevel) : Nat := l.start + l.desc.body - 1

/-- A bundle acts in this iteration (R106). -/
def LatPoint.acts (p : LatPoint) (b : LatBundle) : Bool :=
  let y := b.yw
  if y.lff = 0 ∧ y.lfl = 0 then true
  else match p.loops.find? fun l => l.desc.level == y.lvl.toNat with
    | some l => (y.lff == 1 && l.first) || (y.lfl == 1 && l.last)
    | none => true

/-- The loops after a bundle and where a back edge leads: inner loops first, an outer one only while none has gone back (R105). -/
def loopEnds (at_ : Nat) : List LatLevel → List (Option Nat × List LatLevel)
  | [] => [(none, [])]
  | l :: ls =>
    if at_ = l.ending then
      if l.last then loopEnds at_ ls
      else [(some l.start, { l with first := false, last := true } :: ls), (some l.start, { l with first := false } :: ls)]
    else (loopEnds at_ ls).map fun r => (r.1, l :: r.2)

/-- The a registers that the loops ending at a bundle advance, one after the other in one cycle (R105). -/
def loopAdvances (at_ : Nat) : List LatLevel → List Reg
  | [] => []
  | l :: ls =>
    let own : List Reg := if l.desc.sar = 0 then [] else [rA (BitVec.ofNat 5 l.desc.sar)]
    if at_ = l.ending then own ++ (if l.last then loopAdvances at_ ls else []) else loopAdvances at_ ls

/-- Loops whose body contains a bundle (R96). -/
def loopsAround (t : Nat) (ls : List LatLevel) : List LatLevel := ls.filter fun l => decide (l.start ≤ t) && decide (t ≤ l.ending)

/-- Where a transfer may lead: `none` for a target that kzas does not follow, which is that of `jmp` and `ret`, one outside the section, and
one that the linker fills in (R77, R79, R95). -/
def transferTargets (n at_ : Nat) (b : LatBundle) : Option (List (Option (Option Nat))) :=
  let t : Int := (at_ : Int) + b.yw.co.toInt
  let target : Option Nat := if 0 ≤ t ∧ t < n ∧ b.linked = false then some t.toNat else none
  match b.yOp with
  | 0x01 => some [some target]
  | 0x02 | 0x03 | 0x04 | 0x05 => some [none, some target]
  | 0x06 => some [some none]
  | 0x07 => some [some target]
  | 0x08 => some [some none]
  | _ => none

/-- The points that may follow: trip counts 0, 1 and more at a set-up bundle, both ways at a conditional branch, the two delay bundles
before a target, the back edges of loops.  A `halt` ends a way; an `eret` goes on to the bundle after it, as `jmp` and `ret` alone are named as
not followed (R79, R94, R96, R104, R105; DESIGN CHOICE, log 82). -/
def LatPoint.next (code : LatCode) (known : Nat → Option LoopDesc) (p : LatPoint) : List LatPoint :=
  let b := code.getD p.at_ .empty
  let op := b.yOp
  let acts := p.acts b
  let step (xfer : Option LatXfer) : List LatPoint :=
    (loopEnds p.at_ p.loops).map fun r => ⟨r.1.getD (p.at_ + 1), xfer, r.2⟩
  match p.xfer with
  | some ⟨t, 0, call⟩ => (match t with | some t => [⟨t, none, if call then p.loops else loopsAround t p.loops⟩] | none => [])
  | some ⟨t, n + 1, call⟩ => step (some ⟨t, n, call⟩)
  | none =>
    if acts && op == 0x0C then []
    else match if acts then transferTargets code.length p.at_ b else none with
      | some ts => ts.flatMap fun t => step (t.map fun t => ⟨t, 1, op == 0x07⟩)
      | none =>
        if acts && (op == 0x09 || op == 0x0A) then
          match known p.at_ with
          | some d =>
            ⟨p.at_ + 1 + d.body, none, p.loops⟩ ::
              [true, false].map fun last => ⟨p.at_ + 1, none, ⟨d, p.at_ + 1, true, last⟩ :: p.loops⟩
          | none => step none
        else step none

/-- A way through the code: each point may follow the one before it. -/
def latWay (code : LatCode) (known : Nat → Option LoopDesc) : List LatPoint → Prop
  | [] => True
  | [p] => p.at_ < code.length
  | p :: q :: r => p.at_ < code.length ∧ q ∈ p.next code known ∧ latWay code known (q :: r)

/-! ## What the check reports -/

/-- The results that the points of a way start, with the cycle in which each lands: one bundle issues in each cycle, and what the loops that
end at it add to one register counts as one result (R79, R105). -/
def wayResults (code : LatCode) (way : List LatPoint) : List (Nat × Reg × Nat) :=
  ((List.range way.length).zip way).flatMap fun x =>
    let b := code.getD x.2.at_ .empty
    (if x.2.acts b then b.results.map fun r => (x.1, r.1, x.1 + r.2) else []) ++
      (loopAdvances x.2.at_ x.2.loops).eraseDups.map fun r => (x.1, r, x.1 + 1)

/-- A read inside the window of a pending result: it issues after the result's bundle and before the landing. -/
def readsEarly (code : LatCode) (way : List LatPoint) : Bool :=
  let rs := wayResults code way
  ((List.range way.length).zip way).any fun x =>
    let b := code.getD x.2.at_ .empty
    x.2.acts b && b.reads.any fun d => rs.any fun r => r.2.1 == d && decide (r.1 < x.1) && decide (x.1 < r.2.2)

/-- Two results land on one register in one cycle. -/
def landsTwice : List (Nat × Reg × Nat) → Bool
  | [] => false
  | r :: rs => rs.any (fun q => q.2 == r.2) || landsTwice rs

/-- kzas reports an error for a way (R79). -/
def wayError (code : LatCode) (way : List LatPoint) : Bool := readsEarly code way || landsTwice (wayResults code way)

/-- The way that starts outside every loop and transfer at a bundle. -/
def LatPoint.entry (n : Nat) : LatPoint := ⟨n, none, []⟩

/-- Where the check starts: the first bundle of a section, and the entries that other code or the loader calls for (R79;
DESIGN CHOICE, log 82). -/
def Asm.entries (x : Asm) (s : Nat) : List Nat :=
  0 :: (x.globals ++ x.cons.map (·.entry)).filterMap fun t =>
    match x.env.get t with
    | some (.at_ r off) => if r = s then some (off / 64) else none
    | _ => none

/-- A way through the bundles of section `s` for which `.latcheck` is on, that the check reports (R79). -/
def Asm.reports (x : Asm) (known : Nat → Nat → Option LoopDesc) (s : Nat) (way : List LatPoint) : Prop :=
  let code := x.code s
  (∃ way₀ n, n ∈ x.entries s ∧ (way₀ ++ way).head? = some (.entry n) ∧ latWay code (known s) (way₀ ++ way)) ∧
    (∀ p ∈ way, (s, p.at_) ∈ x.checked) ∧ wayError code way = true

/-- kzas accepts a source and writes this object: it assembles, and the latency check reports nothing (R74 to R79). -/
def kzasWrites (known : Nat → Nat → Option LoopDesc) (src : Text) (file : List Byte) : Prop :=
  ∃ fuel x, assemble fuel src = .ok x ∧ file = x.file ∧
    ∀ s way, (x.sections_.getD s (AsmSection.empty [] 1)).kind = 1 → ¬x.reports known s way

end Sys2Proof.Machine
end

