-- ==== Sys2Proof/Tests/Slice0.lean ====
section
/-! SUPPORT. Tests of the model on fixed values: decoding of words that the manual writes out, an ill-formed term for each check of
WellFormed, single steps, and for each statement a state and operands that meet its hypotheses. -/

namespace Sys2Proof.Tests

open Sys2Proof Sys2Proof.Machine

-- Each theorem is checked before the next is read, so that their evaluations do not fill memory together.
set_option Elab.async false

/-! ## Small terms -/

def sw : SW := ⟨0, 0, 0, 0, 0⟩
def vw : VW := ⟨false, 0, 0, 0, 0, 0, 0, 0, 0⟩
def mw : MW := ⟨0, 0, 0, 0, 0, 0⟩
def lw : LW := ⟨0, 0, 0, 0, 0, 0⟩
def cw : CW := ⟨0, 0, 0, 0, 0⟩
def yw : YW := YW.quiet

/-- A ready context of group 1 and consignment 7. -/
def ctx0 : Ctx :=
  { Ctx.idle with
    status := .ready
    gid := 1
    ntregs := 16
    cons := some 7 }

/-- Its group, with a scratchpad of 4,096 bytes. -/
def grp : Group :=
  { Group.empty with
    cons := some 7
    spLim := 4096
    tsLim := 64
    nsems := 8
    nrelays := 1
    cores := [0]
    started := true
    resident := true
    relays := [⟨0, 0, 256, 128, 2, true, false, 0, 0, 0, [.filled 3, .free], none⟩] }

/-- A package with one context, whose bundle is under issue, and memory that maps address space 0 to itself. -/
def small : State :=
  { State.reset with
    ctxs := [(0, ctx0)]
    groups := [(1, grp)]
    mem := [(2, 1), (20, 1), (65536, 1), (65538, 2), (131072, 31)] }

/-- The same with its context changed. -/
def smallC (f : Ctx → Ctx) : State := { small with ctxs := [(0, f ctx0)] }

/-- A state in which the slots of a bundle act. -/
def acting : State := { small with issue := { Issue.idle with phase := .act } }

/-- A state in which the slots of a bundle are checked. -/
def checking : State := { small with issue := { Issue.idle with phase := .check } }

/-- A state of a depot core's context. -/
def depot : State :=
  { small with
    ctxs := [(768, ctx0)]
    issue := { Issue.idle with cid := 768 } }

/-- A state of the outrider of die 0. -/
def outrider : State :=
  { small with
    ctxs := [(800, ctx0)]
    issue := { Issue.idle with cid := 800 } }

/-! ## Decoding: words that the manual writes out, or that its formats give bit by bit -/

/-- R143 example's `li`, R124, R128. -/
theorem test_decode_s :
    decodeSlot false 0 0x0F1C_0000_01F3_F400#64 = .ok (.li ⟨7, 0, 0, 0, 0x01F3F400⟩) ∧
    decodeSlot false 0 0x0F10_0000_89AB_CDEF#64 = .ok (.li ⟨4, 0, 0, 0, 0x89ABCDEF⟩) ∧
    decodeSlot false 0 0x1010_4000_0123_4567#64 = .ok (.lih ⟨4, 4, 0, 0, 0x01234567⟩) ∧
    decodeSlot false 0 0x2900_7000_0000_0041#64 = .ok (.mtc ⟨0, 7, 0, 0, 0x41⟩) ∧
    decodeSlot false 0 0x2814_0000_0000_0002#64 = .ok (.mfc ⟨5, 0, 0, 0, 2⟩) ∧
    decodeSlot false 0 0x3010_1080_0000_0000#64 = .ok (.faddD ⟨4, 1, 2, 0, 0⟩) := ⟨rfl, rfl, rfl, rfl, rfl, rfl⟩

/-- R57: `vadd.i32 v3, v1, v2` in VB; `vmov` in VA. -/
theorem test_decode_v :
    decodeSlot false 2 (0x01#8 ++ 3#10 ++ 1#10 ++ 2#10 ++ 0#10 ++ 0#3 ++ 2#4 ++ 0#1 ++ 0#8) =
      .ok (.vadd ⟨true, 3, 1, 2, 0, 0, 2, 0, 0⟩) ∧
    decodeSlot false 1 (0x12#8 ++ 1023#10 ++ 512#10 ++ 0#10 ++ 0#10 ++ 5#3 ++ 11#4 ++ 0#1 ++ 0#8) =
      .ok (.vmov ⟨false, 1023, 512, 0, 0, 5, 11, 0, 0⟩) := ⟨rfl, rfl⟩

/-- R179 and R175 examples. -/
theorem test_decode_m :
    decodeSlot false 3 0x0310_20C0_0100_0009#64 = .ok (.tld ⟨1, 0, 4, 6, 1, 9⟩) ∧
    decodeSlot false 3 0x0100_0000_4F00_0000#64 = .ok (.mlease ⟨0, 0, 0, 0, 0x4F, 0⟩) := ⟨rfl, rfl⟩

/-- R62, R265. -/
theorem test_decode_lt :
    decodeSlot false 4 0x0100_C400_0000_0018#64 = .ok (.ld ⟨3, 2, 0, 0, 3, 0⟩) ∧
    decodeSlot false 5 0x2000_0000_0000_00B0#64 = .ok (.fenceRel ⟨0, 0, 0, 0, 22, 0⟩) := ⟨rfl, rfl⟩

/-- R63: `cp.lin a3, a4, s5`. -/
theorem test_decode_c :
    decodeSlot false 6 (0x08#8 ++ 3#5 ++ 4#5 ++ 5#6 ++ 1#16 ++ 0#24) = .ok (.cpLin ⟨3, 4, 5, 1, 0⟩) := rfl

/-- R272, R103, R101 examples. -/
theorem test_decode_y :
    decodeSlot false 7 0x1905_00C0_0000_0205#64 = .ok (.semAdd ⟨5, 3, 0, 0, 0, 0, 0, 0, 0, 0x205⟩) ∧
    decodeSlot false 7 0x1B00_0000_0000_0805#64 = .ok (.semRd ⟨0, 0, 0, 0, 0, 0, 0, 0, 0, 0x805⟩) ∧
    decodeSlot false 7 0x0900_002A_0000_0003#64 = .ok (.loopImm ⟨0, 0, 1, 20, 0, 0, 0, 0, 0, 3⟩) ∧
    decodeSlot false 7 0x0D00_0000_0023_4567#64 = .ok (.xim ⟨0, 0, 0, 0, 0, 0, 0, 0, 0, 0x234567⟩) := ⟨rfl, rfl, rfl, rfl⟩

/-- R51 to R53: `nop`, hint space, and words that are no instruction. -/
theorem test_decode_other :
    decodeSlot false 6 0x0000_0000_0000_0001#64 = .ok (.nop 6 1) ∧
    decodeSlot false 6 0xF300_0000_0000_0000#64 = .ok (.hint 6 3 0) ∧
    decodeSlot false 0 0x1A00_0000_0000_0000#64 = .error (.unassigned 0 0x1A) ∧
    decodeSlot false 5 0x2000_0000_0000_0000#64 = .error (.reservedVariant 5 0x20) ∧
    decodeSlot false 8 0 = .error (.noSuchSlot 8) := ⟨rfl, rfl, rfl, rfl, rfl⟩

/-! ## An ill-formed term for each check of WellFormed -/

theorem ill_add_fn : Instr.wf (.add { sw with fn := 1 }) = false := by decide
theorem ill_and_fn : Instr.wf (.and { sw with fn := 2 }) = false := by decide
theorem ill_shl_fn : Instr.wf (.shl { sw with fn := 2 }) = false := by decide
theorem ill_shl_amount : Instr.wf (.shl { sw with fn := 1, imm := 64 }) = false := by decide
theorem ill_min_fn : Instr.wf (.min { sw with fn := 4 }) = false := by decide
theorem ill_scmp_fn : Instr.wf (.scmp { sw with fn := 32 }) = false := by decide
theorem ill_scmp_cc : Instr.wf (.scmp { sw with fn := 20 }) = false := by decide
theorem ill_sel_fn : Instr.wf (.sel { sw with fn := 1 }) = false := by decide
theorem ill_sel_imm : Instr.wf (.sel { sw with imm := 64 }) = false := by decide
theorem ill_bfx_fn : Instr.wf (.bfx { sw with fn := 2, imm := 64 }) = false := by decide
theorem ill_bfx_len_zero : Instr.wf (.bfx sw) = false := by decide
theorem ill_bfx_len_large : Instr.wf (.bfx { sw with imm := 65 * 64 }) = false := by decide
theorem ill_bfx_end : Instr.wf (.bfx { sw with imm := 64 * 64 + 1 }) = false := by decide
theorem ill_bfx_reserved : Instr.wf (.bfx { sw with imm := 8192 + 64 }) = false := by decide
theorem ill_bfi_fn : Instr.wf (.bfi { sw with fn := 1, imm := 64 }) = false := by decide
theorem ill_bfi_len : Instr.wf (.bfi sw) = false := by decide
theorem ill_s2a_fn : Instr.wf (.s2a { sw with fn := 1 }) = false := by decide
theorem ill_s2a_sd : Instr.wf (.s2a { sw with sd := 32 }) = false := by decide
theorem ill_a2s_sa : Instr.wf (.a2s { sw with sa := 32 }) = false := by decide
theorem ill_a2s_fn : Instr.wf (.a2s { sw with fn := 1 }) = false := by decide
theorem ill_mulh_fn : Instr.wf (.mulh { sw with fn := 8 }) = false := by decide
theorem ill_mulh_sg : Instr.wf (.mulh { sw with fn := 6 }) = false := by decide
theorem ill_mfc_fn : Instr.wf (.mfc { sw with fn := 1 }) = false := by decide
theorem ill_mtc_imm : Instr.wf (.mtc { sw with imm := 4096 }) = false := by decide
theorem ill_fadd_fn : Instr.wf (.faddD { sw with fn := 1 }) = false := by decide
theorem ill_fadd_imm : Instr.wf (.faddD { sw with imm := 1 }) = false := by decide
theorem ill_fma_fn : Instr.wf (.fmaD { sw with fn := 1 }) = false := by decide
theorem ill_fma_imm : Instr.wf (.fmaD { sw with imm := 64 }) = false := by decide
theorem ill_fcmp_imm : Instr.wf (.fcmpD { sw with imm := 1 }) = false := by decide
theorem ill_fcmp_fn : Instr.wf (.fcmpD { sw with fn := 8 }) = false := by decide
theorem ill_fcvt_imm : Instr.wf (.fcvt { sw with fn := 1, imm := 1 }) = false := by decide
theorem ill_fcvt_same : Instr.wf (.fcvt sw) = false := by decide
theorem ill_fcvt_ints : Instr.wf (.fcvt { sw with fn := 44 }) = false := by decide
theorem ill_vadd_ty : Instr.wf (.vadd { vw with ty := 8 }) = false := by decide
theorem ill_vadd_fn : Instr.wf (.vadd { vw with fn := 2 }) = false := by decide
theorem ill_vand_ty : Instr.wf (.vand { vw with ty := 12 }) = false := by decide
theorem ill_vand_fn : Instr.wf (.vand { vw with fn := 1 }) = false := by decide
theorem ill_vshl_ty : Instr.wf (.vshl { vw with ty := 8 }) = false := by decide
theorem ill_vshl_bcb : Instr.wf (.vshl { vw with fn := 1, bcb := 1 }) = false := by decide
theorem ill_vshl_high : Instr.wf (.vshl { vw with fn := 129 }) = false := by decide
theorem ill_vshl_amount : Instr.wf (.vshl { vw with fn := 17 }) = false := by decide
theorem legal_vshl_fn : Instr.wf (.vshl { vw with fn := 2 }) = true := by decide
theorem ill_vmin_ty : Instr.wf (.vmin { vw with ty := 8 }) = false := by decide
theorem ill_vabs_ty : Instr.wf (.vabs { vw with ty := 4 }) = false := by decide
theorem ill_vneg_bcb : Instr.wf (.vneg { vw with bcb := 1 }) = false := by decide
theorem ill_vcmp_ty : Instr.wf (.vcmp { vw with ty := 8 }) = false := by decide
theorem ill_vcmp_fn : Instr.wf (.vcmp { vw with fn := 6 }) = false := by decide
theorem ill_vclz_ty : Instr.wf (.vclz { vw with ty := 8 }) = false := by decide
theorem ill_vclz_fn : Instr.wf (.vclz { vw with fn := 1 }) = false := by decide
theorem ill_vmov_bcb : Instr.wf (.vmov { vw with bcb := 1 }) = false := by decide
theorem ill_vsplat_va : Instr.wf (.vsplat { vw with va := 64 }) = false := by decide
theorem ill_vfadd_ty : Instr.wf (.vfadd vw) = false := by decide
theorem ill_vfcmp_fn : Instr.wf (.vfcmp { vw with ty := 8, fn := 8 }) = false := by decide
theorem ill_vfcmp_ty : Instr.wf (.vfcmp vw) = false := by decide
theorem ill_vfsqrt_bcb : Instr.wf (.vfsqrt { vw with ty := 8, bcb := 1 }) = false := by decide
theorem ill_vcvt_same : Instr.wf (.vcvt vw) = false := by decide
theorem ill_vcvt_part : Instr.wf (.vcvt { vw with ty := 1, fn := 2 }) = false := by decide
theorem ill_vcvt_ty : Instr.wf (.vcvt { vw with ty := 12 }) = false := by decide
theorem ill_vcvt_source : Instr.wf (.vcvt { vw with fn := 96 }) = false := by decide
theorem ill_vcvt_fn : Instr.wf (.vcvt { vw with ty := 1, fn := 128 }) = false := by decide
theorem ill_vcvt_bcb : Instr.wf (.vcvt { vw with ty := 1, bcb := 1 }) = false := by decide
theorem ill_vmxpack_sel : Instr.wf (.vmxpack { vw with ty := 9, sel := 1 }) = false := by decide
theorem ill_vmxpack_ty : Instr.wf (.vmxpack vw) = false := by decide
theorem ill_vmxunpack_fn : Instr.wf (.vmxunpack { vw with ty := 9, fn := 6 }) = false := by decide
theorem ill_vmxunpack_bcb : Instr.wf (.vmxunpack { vw with ty := 9, bcb := 1 }) = false := by decide
theorem ill_vred_ty : Instr.wf (.vred { vw with ty := 8 }) = false := by decide
theorem ill_vscan_fn : Instr.wf (.vscan { vw with fn := 6 }) = false := by decide
theorem ill_vred_fp : Instr.wf (.vred { vw with fn := 8 }) = false := by decide
theorem ill_vred_bcb : Instr.wf (.vred { vw with bcb := 1 }) = false := by decide
theorem ill_vrot_form : Instr.wf (.vrot { vw with fn := 129 }) = false := by decide
theorem ill_vrot_bcb : Instr.wf (.vrot { vw with bcb := 1 }) = false := by decide
theorem ill_vrot_element : Instr.wf (.vrot { vw with ty := 3, fn := 16 }) = false := by decide
theorem ill_vrot_ty : Instr.wf (.vrot { vw with ty := 12 }) = false := by decide
theorem ill_vext_fn : Instr.wf (.vext { vw with fn := 128 }) = false := by decide
theorem ill_vext_ty : Instr.wf (.vext { vw with ty := 12 }) = false := by decide
theorem ill_vext_element : Instr.wf (.vext { vw with ty := 3, fn := 16 }) = false := by decide
theorem ill_v2s_sel : Instr.wf (.v2s { vw with sel := 1 }) = false := by decide
theorem ill_v2s_vd : Instr.wf (.v2s { vw with vd := 64 }) = false := by decide
theorem ill_v2s_form : Instr.wf (.v2s { vw with fn := 129 }) = false := by decide
theorem ill_v2s_ty : Instr.wf (.v2s { vw with ty := 12 }) = false := by decide
theorem ill_vhash_sel : Instr.wf (.vhashSrp { vw with ty := 9, sel := 1 }) = false := by decide
theorem ill_vhash_bcb : Instr.wf (.vhashSrp { vw with ty := 9, bcb := 1 }) = false := by decide
theorem ill_vhash_ty : Instr.wf (.vhashSrp vw) = false := by decide
theorem ill_vhash_fn : Instr.wf (.vhashSrp { vw with ty := 9, fn := 32 }) = false := by decide
theorem ill_vhash_vb : Instr.wf (.vhashSrp { vw with ty := 9, vb := 1009 }) = false := by decide
theorem ill_mpush_common : Instr.wf (.mpush { vw with sel := 1 }) = false := by decide
theorem ill_mpush_vd : Instr.wf (.mpush { vw with vd := 1 }) = false := by decide
theorem ill_mpush_vb : Instr.wf (.mpush { vw with vb := 1 }) = false := by decide
theorem ill_mpush_fn : Instr.wf (.mpush { vw with fn := 4 }) = false := by decide
theorem ill_mpush_mask : Instr.wf (.mpush { vw with fn := 1 }) = false := by decide
theorem ill_minv_common : Instr.wf (.minv { vw with ty := 1 }) = false := by decide
theorem ill_minv_vd : Instr.wf (.minv { vw with vd := 1 }) = false := by decide
theorem ill_mpop_va : Instr.wf (.mpop { vw with va := 1 }) = false := by decide
theorem ill_mpop_vb : Instr.wf (.mpop { vw with vb := 1 }) = false := by decide
theorem ill_mpop_fn : Instr.wf (.mpop { vw with fn := 1 }) = false := by decide
theorem ill_mand_vd : Instr.wf (.mand { vw with va := 1, vb := 1 }) = false := by decide
theorem ill_mand_va : Instr.wf (.mand { vw with vd := 1, vb := 1 }) = false := by decide
theorem ill_mand_vb : Instr.wf (.mand { vw with vd := 1, va := 1 }) = false := by decide
theorem ill_mor_fn : Instr.wf (.mor { vw with vd := 1, va := 1, vb := 1, fn := 4 }) = false := by decide
theorem ill_mor_common : Instr.wf (.mor { vw with vd := 1, va := 1, vb := 1, vc := 1 }) = false := by decide
theorem ill_mcnt_vd : Instr.wf (.mcnt { vw with vd := 64, va := 1 }) = false := by decide
theorem ill_mcnt_va : Instr.wf (.mcnt vw) = false := by decide
theorem ill_mcnt_vb : Instr.wf (.mcnt { vw with va := 1, vb := 1 }) = false := by decide
theorem ill_mcnt_fn : Instr.wf (.mcnt { vw with va := 1, fn := 1 }) = false := by decide
theorem ill_mcnt_common : Instr.wf (.mcnt { vw with va := 1, bcb := 1 }) = false := by decide
theorem ill_mlease_flags : Instr.wf (.mlease { mw with flags := 256 }) = false := by decide
theorem ill_mlease_tail : Instr.wf (.mlease { mw with tail := 1 }) = false := by decide
theorem ill_mfree_tail : Instr.wf (.mfree { mw with tail := 1024 }) = false := by decide
theorem ill_tld_flags : Instr.wf (.tld { mw with flags := 2 }) = false := by decide
theorem ill_mma_flags : Instr.wf (.mma { mw with flags := 1 }) = false := by decide
theorem ill_tsld_flags : Instr.wf (.tsld { mw with flags := 4 }) = false := by decide
theorem ill_tsld_pattern : Instr.wf (.tsld { mw with flags := 2 }) = false := by decide
theorem ill_tsst_flags : Instr.wf (.tsst { mw with flags := 1 }) = false := by decide
theorem ill_ld_dr : Instr.wf (.ld { lw with dr := 64 }) = false := by decide
theorem ill_ld_fn : Instr.wf (.ld { lw with fn := 16 }) = false := by decide
theorem ill_ld_signed : Instr.wf (.ld { lw with fn := 7 }) = false := by decide
theorem ill_ld_side : Instr.wf (.ld { lw with fn := 9 }) = false := by decide
theorem ill_vld_fn : Instr.wf (.vld { lw with fn := 1 }) = false := by decide
theorem ill_vlds_fn : Instr.wf (.vlds { lw with fn := 4 }) = false := by decide
theorem ill_vldx_fn : Instr.wf (.vldx { lw with fn := 4 }) = false := by decide
theorem ill_vldx_width : Instr.wf (.vldx lw) = false := by decide
theorem ill_ldf_fn : Instr.wf (.ldf { lw with fn := 8 }) = false := by decide
theorem ill_ldf_signed : Instr.wf (.ldf { lw with fn := 7 }) = false := by decide
theorem ill_popf_dr : Instr.wf (.popf { lw with dr := 64 }) = false := by decide
theorem ill_popf_addr : Instr.wf (.popf { lw with off := 1 }) = false := by decide
theorem ill_popf_fn : Instr.wf (.popf { lw with fn := 1 }) = false := by decide
theorem ill_vpopf_addr : Instr.wf (.vpopf { lw with ab := 1 }) = false := by decide
theorem ill_vpopf_fn : Instr.wf (.vpopf { lw with fn := 1 }) = false := by decide
theorem ill_take_dr : Instr.wf (.rlyTake { lw with dr := 32 }) = false := by decide
theorem ill_take_fn : Instr.wf (.rlyTake { lw with fn := 32 }) = false := by decide
theorem ill_give_fn : Instr.wf (.rlyGive { lw with fn := 16 }) = false := by decide
theorem ill_st_dr : Instr.wf (.st { lw with dr := 64 }) = false := by decide
theorem ill_st_fn : Instr.wf (.st { lw with fn := 16 }) = false := by decide
theorem ill_st_signed : Instr.wf (.st { lw with fn := 4 }) = false := by decide
theorem ill_st_side : Instr.wf (.st { lw with fn := 9 }) = false := by decide
theorem ill_stg_dr : Instr.wf (.stg { lw with dr := 64 }) = false := by decide
theorem ill_stg_fn : Instr.wf (.stg { lw with fn := 4 }) = false := by decide
theorem ill_amo_width : Instr.wf (.amoAdd lw) = false := by decide
theorem ill_amo_dr : Instr.wf (.amoAdd { lw with fn := 2, dr := 64 }) = false := by decide
theorem ill_amo_sg : Instr.wf (.amoAdd { lw with fn := 66 }) = false := by decide
theorem ill_amo_mg : Instr.wf (.amoMin { lw with fn := 130 }) = false := by decide
theorem ill_cas_sc : Instr.wf (.amoCas { lw with fn := 2, sc := 1 }) = false := by decide
theorem ill_fence_addr : Instr.wf (.fenceAcq { lw with fn := 1, off := 1 }) = false := by decide
theorem ill_fence_dr : Instr.wf (.fenceAcq { lw with fn := 1, dr := 1 }) = false := by decide
theorem ill_fence_fn : Instr.wf (.fenceRel { lw with fn := 34 }) = false := by decide
theorem ill_fence_kind : Instr.wf (.fenceAr { lw with fn := 2 }) = false := by decide
theorem ill_rlyinit_ci : Instr.wf (.rlyInit { cw with ci := 16 }) = false := by decide
theorem ill_cp_ci : Instr.wf (.cpLin { cw with ci := 4 }) = false := by decide
theorem ill_drain_cs : Instr.wf (.drain { cw with cs := 1 }) = false := by decide
theorem ill_drain_ci : Instr.wf (.drain { cw with ci := 8192 }) = false := by decide
theorem ill_drain_arr : Instr.wf (.drain { cw with ci := 4096 }) = false := by decide
theorem ill_drain_scope : Instr.wf (.drain { cw with ci := 6144 }) = false := by decide
theorem ill_drain_phaser : Instr.wf (.drain { cw with cb := 1 }) = false := by decide
theorem ill_drain_number : Instr.wf (.drain { cw with ca := 31, ci := 7424 }) = false := by decide
theorem ill_probe_ci : Instr.wf (.scProbe { cw with ci := 2 }) = false := by decide
theorem ill_commit_ci : Instr.wf (.scCommit { cw with ci := 1 }) = false := by decide
theorem ill_red_mode : Instr.wf (.colRedRoot { cw with ci := 1 }) = false := by decide
theorem ill_red_all_mode : Instr.wf (.colRedAll cw) = false := by decide
theorem ill_red_scat_mode : Instr.wf (.colRedScat cw) = false := by decide
theorem ill_red_ci : Instr.wf (.colRedAll { cw with ci := 5 }) = false := by decide
theorem ill_y_rsv : Instr.wf (.br { yw with rsv := 1 }) = false := by decide
theorem ill_y_level : Instr.wf (.br { yw with lvl := 7 }) = false := by decide
theorem ill_y_flags : Instr.wf (.br { yw with lff := 1 }) = false := by decide
theorem ill_bz_bv : Instr.wf (.bz yw) = false := by decide
theorem ill_jmp_co : Instr.wf (.jmp { yw with co := 32 }) = false := by decide
theorem ill_ret_co : Instr.wf (.ret { yw with co := 1 }) = false := by decide
theorem ill_loop_co : Instr.wf (.loopReg { yw with bv := 1, co := 64 }) = false := by decide
theorem ill_loop_bv : Instr.wf (.loopImm yw) = false := by decide
theorem ill_loopreg_bv : Instr.wf (.loopReg yw) = false := by decide
theorem ill_loopx_bv : Instr.wf (.loopx yw) = false := by decide
theorem ill_loopx_co : Instr.wf (.loopx { yw with bv := 1, co := 32 }) = false := by decide
theorem ill_mark_rm : Instr.wf (.mark { yw with rm := 1 }) = false := by decide
theorem ill_mark_co : Instr.wf (.mark { yw with co := 1 }) = false := by decide
theorem ill_wait_threshold : Instr.wf (.wait yw) = false := by decide
theorem ill_sem_reg : Instr.wf (.semAdd { yw with co := 768, bv := 1 }) = false := by decide
theorem ill_sem_bv : Instr.wf (.semSet { yw with co := 256 }) = false := by decide
theorem ill_semrd_co : Instr.wf (.semRd { yw with co := 16384 }) = false := by decide
theorem ill_phreg_number : Instr.wf (.phReg { yw with co := 1600 }) = false := by decide
theorem ill_phreg_mode : Instr.wf (.phReg yw) = false := by decide
theorem ill_phreg_co : Instr.wf (.phReg { yw with co := 4195328 }) = false := by decide
theorem ill_pharr_co : Instr.wf (.phArr { yw with co := 1024 }) = false := by decide
theorem ill_phdrop_number : Instr.wf (.phDrop { yw with co := 576 }) = false := by decide
theorem ill_phwait_number : Instr.wf (.phWait { yw with co := 576 }) = false := by decide
theorem ill_dupcmp_count : Instr.wf (.dupcmp yw) = false := by decide
theorem ill_dupcmp_end : Instr.wf (.dupcmp { yw with co := 513 * 512 }) = false := by decide
theorem ill_dupcmp_co : Instr.wf (.dupcmp { yw with co := 524800 }) = false := by decide
theorem ill_trap_co : Instr.wf (.trap { yw with co := 65536 }) = false := by decide
theorem ill_ann_co : Instr.wf (.paceAnn { yw with co := 1024 }) = false := by decide
theorem ill_ann_kind : Instr.wf (.paceAnn { yw with co := 256 }) = false := by decide
theorem ill_ann_reg : Instr.wf (.paceAnn { yw with co := 512 }) = false := by decide
theorem ill_ann_limit : Instr.wf (.paceAnn { yw with co := 513, bv := 1 }) = false := by decide
theorem ill_anne_kind : Instr.wf (.paceAnnE yw) = false := by decide
theorem ill_nop_y : Instr.wf (.nop 7 (1 <<< 24)) = false := by decide
theorem ill_hint_y : Instr.wf (.hint 7 0 (1 <<< 24)) = false := by decide


/-! ## For each statement, a state and operands that meet its hypotheses -/

/-- A state in which every slot instruction takes effect. -/
theorem wit_performs (i : Instr) : acting.performs i := .inl rfl

/-- The context with some scalar and address registers set. -/
def regsC (s : List (Nat × Word)) (a : List (Nat × Word)) (c : Ctx) : Ctx := { c with s := s, a := a }

/-- A state whose slots act, with such a context. -/
def actingR (s a : List (Nat × Word)) : State := { smallC (regsC s a) with issue := acting.issue }

theorem wit_ZeroRegistersDiscardWrites : (1 : BitVec 6) ≠ 0 ∧ (31 : BitVec 5) ≠ 0 := by decide

theorem wit_ImmediateAndMoveResults :
    (⟨1, 2, 3, 4, 5⟩ : SW).fn.getLsbD 0 = false ∧ (⟨1, 2, 3, 1, 5⟩ : SW).fn.getLsbD 0 = true ∧ acting.issue.xim = none ∧
    ({ acting with issue := { acting.issue with xim := some 0x800000#24 } } : State).issue.xim = some 0x800000#24 := by decide

theorem wit_ShiftAndBitFieldResults :
    small.issue.phase = .whole ∧ (⟨1, 2, 0, 1, 64⟩ : SW).fn.getLsbD 0 = true ∧ (⟨1, 2, 0, 1, 64⟩ : SW).imm.extractLsb' 6 26 ≠ 0 ∧
    Instr.wf (.bfx ⟨1, 2, 0, 1, 0x1000#32⟩) = true ∧ Instr.wf (.bfi ⟨1, 2, 3, 0, 0x7F#32⟩) = true ∧
    (0x007F#32 : BitVec 32).extractLsb' 6 7 = 1#7 ∧ (0#32 : BitVec 32).extractLsb' 6 7 = 0 := by decide

/-- `div` and `rem`: a zero divisor, an unsigned quotient, the signed overflow, a signed quotient; `mulh` of each kind. -/
theorem wit_ProductAndQuotientResults :
    (acting.opB ⟨1, 2, 3, 0, 0⟩ = 0) ∧
    (∃ x : SW, x.fn.getLsbD 1 = true ∧ (actingR [(3, 7)] []).opB x ≠ 0) ∧
    (∃ x : SW, x.fn.getLsbD 1 = false ∧ ((actingR [(2, 0x8000000000000000#64), (3, 0xFFFFFFFFFFFFFFFF#64)] []).me.rs x.sa).toInt = -2 ^ 63 ∧
      ((actingR [(2, 0x8000000000000000#64), (3, 0xFFFFFFFFFFFFFFFF#64)] []).opB x).toInt = -1) ∧
    (∃ x : SW, x.fn.getLsbD 1 = false ∧ (actingR [(3, 7)] []).opB x ≠ 0 ∧ ((actingR [(3, 7)] []).me.rs x.sa).toInt ≠ -2 ^ 63) ∧
    (0#4 : BitVec 4).extractLsb' 1 2 = 0 ∧ (2#4 : BitVec 4).extractLsb' 1 2 = 1 ∧ (4#4 : BitVec 4).extractLsb' 1 2 = 2 ∧
    (6#4 : BitVec 4).extractLsb' 1 2 = 3 ∧ small.issue.phase = .whole :=
  ⟨by decide, ⟨⟨1, 2, 3, 2, 0⟩, by decide⟩, ⟨⟨1, 2, 3, 0, 0⟩, by decide⟩, ⟨⟨1, 2, 3, 0, 0⟩, by decide⟩, by decide⟩

/-- A widening of the last part, and a narrowing to it. -/
theorem wit_VectorConversionResults :
    (Instr.wf (.vcvt ⟨false, 1, 2, 0, 0, 0, 10, 0, 1⟩) = true ∧ elemWidth ((1#8).extractLsb' 3 4) < elemWidth 10#4) ∧
    (Instr.wf (.vcvt ⟨false, 1, 2, 0, 0, 0, 0, 0, 0x1F⟩) = true ∧ elemWidth 0#4 ≤ elemWidth ((0x1F#8).extractLsb' 3 4)) ∧
    7 * (1024 / elemWidth 3#4) + 15 < 1024 / elemWidth 0#4 := by decide

/-- No element active, and one. -/
theorem wit_CrossLaneResults :
    (∀ e < 1024 / 32, (acting.me.mkMask 2).getLsbD (e * 32 / 32) = false) ∧
    (∃ e < 1024 / 32, (acting.me.mkMask 0).getLsbD (e * 32 / 32) = true) ∧ tyInt 2 = true ∧ elemWidth 2 = 32 := by
  refine ⟨by decide, ⟨31, by decide⟩, by decide, by decide⟩

/-- The mask stack full but for one, with one entry, and `mand` on a written mask. -/
theorem wit_MaskResults :
    (smallC fun c => { c with stack := List.replicate 15 5 }).me.stack.length < 16 ∧
    (smallC fun c => { c with stack := [5] }).me.stack = 5 :: [] ∧ small.issue.phase = .whole ∧
    Instr.wf (.mpush ⟨true, 0, 1, 0, 0, 0, 0, 0, 3⟩) = true ∧ Instr.wf (.minv ⟨true, 0, 0, 0, 0, 0, 0, 0, 0⟩) = true ∧
    Instr.wf (.mpop ⟨true, 0, 0, 0, 0, 0, 0, 0, 0⟩) = true ∧ Instr.wf (.mand ⟨true, 7, 1, 2, 0, 0, 0, 0, 0⟩) = true ∧
    Instr.wf (.mor ⟨true, 1, 1, 2, 0, 0, 0, 0, 0⟩) = true := by decide

/-- A full and an empty mask stack; a misaligned address, and an access that ends one byte past the bound. -/
theorem wit_MaskAndScratchTraps :
    16 ≤ (smallC fun c => { c with stack := List.replicate 16 5 }).me.stack.length ∧ small.me.stack = [] ∧
    Instr.wf (.mand ⟨true, 1, 1, 2, 0, 0, 0, 0, 0⟩) = true ∧
    (small.ea ⟨1, 0, 0, 2, 2, 0⟩).toNat % 4 ≠ 0 ∧ Instr.wf (.ld ⟨1, 0, 0, 2, 2, 0⟩) = true ∧
    Instr.wf (.st ⟨1, 0, 0, 4096, 2, 0⟩) = true ∧ (small.ea ⟨1, 0, 0, 4096, 2, 0⟩).toNat % 4 = 0 ∧
    small.myGroup.limit ((2 : BitVec 6).getLsbD 3) < (small.ea ⟨1, 0, 0, 4096, 2, 0⟩).toNat + 4 ∧
    Instr.wf (.vld ⟨1, 0, 0, 3972, 0, 0⟩) = true ∧ (small.ea ⟨1, 0, 0, 3972, 0, 0⟩).toNat % 4 = 0 ∧
    small.myGroup.spLim < (small.ea ⟨1, 0, 0, 3972, 0, 0⟩).toNat + 128 := by decide

/-- FPSTAT read and written; TICK's neighbour PREEMPT for a privileged context; an index of each bar; an index nothing assigns; CTXCTL's
privileged field. -/
theorem wit_ControlRegisterMovesAndWrites :
    (small.crView 0 2).isSome = true ∧ Instr.wf (.mfc ⟨1, 0, 0, 0, 2⟩) = true ∧ Instr.wf (.mtc ⟨0, 1, 0, 0, 2⟩) = true ∧
    (small.me.rs 1 ^^^ small.crContents 0 2) &&& (crMasks 2).2 = 0 ∧
    (outrider.crView 800 0x815).isSome = true ∧ outrider.preemptBusy = false ∧ outrider.me.pend = [] ∧
    Instr.wf (.mtc ⟨0, 1, 0, 0, 0x815⟩) = true ∧ small.me.priv = false ∧ small.crView 0 0x7FF = none ∧
    Instr.wf (.mfc ⟨1, 0, 0, 0, 0x7FF⟩) = true := by decide

/-- The last byte of the scratchpad, and a vector, strided and indexed access that reach its end. -/
theorem wit_ScratchLoadResults :
    small.issue.phase = .whole ∧ Instr.wf (.ld ⟨1, 0, 0, 4095, 0, 0⟩) = true ∧ small.padOk false (small.ea ⟨1, 0, 0, 4095, 0, 0⟩) 1 1 ∧
    small.padPoisoned small.me.gid false 4095 1 = false ∧ small.me.region = none ∧
    Instr.wf (.vld ⟨1, 0, 0, 3968, 0, 0⟩) = true ∧ small.padOk false (small.ea ⟨1, 0, 0, 3968, 0, 0⟩) 128 4 ∧
    small.padPoisoned small.me.gid false 3968 128 = false := by
  simp only [State.padOk]; decide

/-- 32 words 128 bytes apart, the last at the end of the scratchpad; 32 words at address 0. -/
theorem wit_ScratchLoadResults_elements :
    Instr.wf (.vlds ⟨1, 0, 2, 124, 2, 0⟩) = true ∧
    (∀ e < 32, (smallC (regsC [(2, 128)] [])).padOk false ((smallC (regsC [(2, 128)] [])).eaStride ⟨1, 0, 2, 124, 2, 0⟩ e) 4 4 ∧
      (smallC (regsC [(2, 128)] [])).padPoisoned 1 false ((smallC (regsC [(2, 128)] [])).eaStride ⟨1, 0, 2, 124, 2, 0⟩ e).toNat 4 = false) ∧
    Instr.wf (.vldx ⟨1, 0, 0, 0, 2, 0⟩) = true ∧ small.padOk false 0 4 4 ∧ small.padPoisoned 1 false 0 4 = false := by
  simp only [State.padOk]; decide

/-- An open region with 63 entries in its gate has room. -/
theorem wit_ScratchStoreResults :
    small.gateRoom ∧
    (smallC fun c => { c with region := some ⟨c.record, 0, List.replicate 63 (.give 0), [], [], []⟩ }).gateRoom ∧
    Instr.wf (.st ⟨1, 0, 0, 4092, 2, 0⟩) = true ∧ small.padOk false (small.ea ⟨1, 0, 0, 4092, 2, 0⟩) 4 4 ∧
    Instr.wf (.vst ⟨1, 0, 0, 0, 0, 0⟩) = true ∧ Instr.wf (.vsts ⟨1, 0, 0, 0, 3, 0⟩) = true ∧
    (∀ e < 16, small.padOk false (small.eaStride ⟨1, 0, 0, 0, 3, 0⟩ e) 8 8) ∧ Instr.wf (.vstx ⟨1, 0, 0, 0, 3, 0⟩) = true ∧
    (∀ a ∈ small.indexAddrs ⟨1, 0, 0, 0, 3, 0⟩, small.padOk false a 8 8) ∧
    ({ small with late := [⟨0, 1, false, 4095, [7#8]⟩] } : State).late = [⟨0, 1, false, 4095, [7#8]⟩] ∧ small.me.gid = 1 := by
  refine ⟨?_, ?_, ?_⟩
  · intro r h
    rw [show small.me.region = none from rfl] at h
    cases h
  · intro r h
    have : r.entries = 63 := by
      have e := Option.some.inj h
      subst e
      rfl
    omega
  · unfold State.padOk
    refine ⟨by decide, by decide, by decide, by decide, by decide, by decide, ?_, rfl, rfl⟩
    intro a h
    rw [show small.indexAddrs ⟨1, 0, 0, 0, 3, 0⟩ = List.replicate 16 0 by decide +kernel] at h
    rw [List.eq_of_mem_replicate h]
    decide

/-- A far-load queue with one entry that has arrived. -/
def farOne (k : FarKind) (n : Nat) : State :=
  smallC fun c => { c with far := List.replicate n ⟨5, k, 0, 4, false, .arrived 9, false, 0, 0, none, 0, 0, 0, [], []⟩ }

theorem wit_FarLoadAndPopResults :
    Instr.wf (.ldf ⟨1, 0, 0, 8, 3, 0⟩) = true ∧ (small.ea ⟨1, 0, 0, 8, 3, 0⟩).toNat % 8 = 0 ∧ (small.ea ⟨1, 0, 0, 8, 3, 0⟩).toNat < 2 ^ 57 ∧
    (farOne .load 63).farRoom 4 ∧ ¬ (farOne .load 64).farRoom 4 ∧ Instr.wf (.vldf ⟨1, 0, 0, 4, 0, 0⟩) = true ∧
    (farOne .load 1).me.far = ⟨5, .load, 0, 4, false, .arrived 9, false, 0, 0, none, 0, 0, 0, [], []⟩ :: [] ∧
    (farOne .vector 1).me.far = ⟨5, .vector, 0, 4, false, .arrived 9, false, 0, 0, none, 0, 0, 0, [], []⟩ :: [] ∧
    Instr.wf (.popf ⟨1, 0, 0, 0, 0, 0⟩) = true ∧ Instr.wf (.vpopf ⟨1, 0, 0, 0, 0, 0⟩) = true ∧ small.me.far = [] :=
  ⟨rfl, rfl, by decide, by unfold State.farRoom; decide, by unfold State.farRoom; decide, rfl, rfl, rfl, rfl, rfl, rfl⟩

/-- The relay buffer of `grp`, taken in a cycle after it was filled, and one whose next slot is free. -/
theorem wit_RelayTakeAndGiveResults :
    (0#8 : BitVec 8).extractLsb' 0 4 = 0 ∧ 0 < small.myGroup.nrelays ∧
    small.myGroup.relays[0]? = some ⟨0, 0, 256, 128, 2, true, false, 0, 0, 0, [.filled 3, .free], none⟩ ∧
    Instr.wf (.rlyTake ⟨1, 0, 0, 0, 0, 0⟩) = true ∧ Instr.wf (.rlyTake ⟨1, 0, 0, 0, 16, 0⟩) = true ∧
    3 < ({ small with now := 4000 } : State).myCycle ∧ Instr.wf (.rlyGive ⟨0, 0, 0, 0, 0, 0⟩) = true ∧ small.me.region = none ∧
    (⟨0, 0, 256, 128, 2, true, false, 0, 0, 1, [.taken 0 7 false, .free], none⟩ : Relay).heldBy 0 = 1 ∧
    (⟨0, 0, 256, 128, 2, true, false, 0, 0, 1, [.taken 0 7 false, .free], none⟩ : Relay).slots[1]? = some .free := by decide

/-- A context with a region open at its first bundle. -/
def regionC (c : Ctx) : Ctx := { c with region := some ⟨c.record, 0, [], [], [], []⟩ }

/-- The page tables of `small` map address 4,096 to itself, for a word and for a vector. -/
theorem wit_GlobalStoreResults :
    Instr.wf (.stg ⟨1, 0, 0, 0x1000, 3, 0⟩) = true ∧ (small.ea ⟨1, 0, 0, 0x1000, 3, 0⟩).toNat % 8 = 0 ∧
    Instr.wf (.vstg ⟨1, 0, 0, 0x1000, 0, 0⟩) = true ∧
    small.translate 0 0 0x1000 8 .write false = .ok [(⟨0, 0x1000⟩, 8)] ∧
    small.translate 0 0 0x1000 128 .write false = .ok [(⟨0, 0x1000⟩, 128)] ∧ small.me.region = none ∧
    (smallC regionC).me.region.isSome = true ∧ (∃ q, q ≠ coreOf 0) ∧ small.noWalk 0x1000 :=
  ⟨rfl, rfl, rfl, by decide +kernel, by decide +kernel, rfl, rfl, ⟨1, by decide⟩, fun _ h => nomatch h⟩

/-- Every operation, with and without a fetch. -/
theorem wit_AtomicsLeaveForHome :
    small.translate 0 0 0x1000 4 .write false = .ok [(⟨0, 0x1000⟩, 4)] ∧
    (∀ i ∈ [Instr.amoAdd ⟨1, 0, 0, 0x1000, 6, 0⟩, .amoMin ⟨1, 0, 0, 0x1000, 6, 0⟩, .amoMax ⟨1, 0, 0, 0x1000, 2, 0⟩,
      .amoAnd ⟨1, 0, 0, 0x1000, 6, 0⟩, .amoOr ⟨1, 0, 0, 0x1000, 2, 0⟩, .amoXor ⟨1, 0, 0, 0x1000, 6, 0⟩,
      .amoSwap ⟨1, 0, 0, 0x1000, 6, 0⟩, .amoCas ⟨1, 0, 1, 0x1000, 6, 0⟩, .amoFadd ⟨1, 0, 0, 0x1000, 6, 0⟩], i.wf = true) ∧
    small.farRoom 5 ∧ small.noWalk 0x1000 := ⟨by decide +kernel, by decide, by unfold State.farRoom; decide, fun _ h => nomatch h⟩

/-- A store that context 0 has posted, and one of context 4 that happens-before a release of it that context 0 has read past. -/
def fenceS : State :=
  { smallC fun c => { c with reads := [(4, 1, 9)] } with
    posted :=
      [⟨1, 0, 0, some 7, .plain, ⟨⟨0, 64⟩, [1]⟩, [], [], false, 0, [], 0, 0, [], 0, [], 1⟩,
       ⟨2, 4, 1, some 7, .plain, ⟨⟨0, 128⟩, [2]⟩, [(7, 1)], [.fence 4 1 7 5], false, 0, [], 0, 0, [], 0, [], 2⟩] }

theorem wit_FenceResults : acting.me.region = none ∧
    ({ smallC regionC with issue := acting.issue } : State).me.region = some ⟨ctx0.record, 0, [], [], [], []⟩ ∧
    (∃ p ∈ fenceS.posted, p.before fenceS 0 = true ∧ p.wait ≤ fenceS.cycleOf p.cid) ∧
    (∃ p ∈ fenceS.posted, p.before fenceS 0 = false ∧ .fence 4 1 7 5 ∈ p.rel) ∧ (4, 1, 9) ∈ fenceS.me.reads ∧ 5 ≤ 9 ∧
    scopeHas 7 1 0 = true ∧ scopeHas 7 0 1 = true :=
  ⟨rfl, rfl, ⟨_, List.mem_cons_self, by decide⟩, ⟨_, List.mem_cons_of_mem _ List.mem_cons_self, by decide⟩, by decide, by decide, by decide,
    by decide⟩

/-- The serai's lease in the hands of context 0. -/
def leased (budget : Nat) : State :=
  { small with serais := [(0, { Serai.fresh with lease := some ⟨0, budget, 0, 0⟩ })] }

theorem wit_LeaseInstructions :
    isSerai 0 = true ∧ ((leased 0).serai 0).lease = some ⟨0, 0, 0, 0⟩ ∧ ((leased 1).serai 0).lease = some ⟨0, 1, 0, 0⟩ ∧
    Instr.wf (.mlease ⟨0, 0, 0, 0, 0xFF, 0⟩) = true ∧ Instr.wf (.mfree ⟨0, 0, 0, 0, 0, 0x070001⟩) = true ∧
    (leased 1).tailOk 0x070001 ∧ (leased 1).tailOk 0 ∧ (leased 1).hasRoom (.array 0) ∧ tailInc 0 = 0 ∧ tailInc 0x070001 ≠ 0 := by
  unfold State.tailOk State.hasRoom; decide

/-- An E4M3 A tile of 8 rows and a B tile of 8 columns, both with K of 32. -/
def shA : Word := 0x1F07000#64
def shB : Word := 0x1F07400#64

/-- A context with these shapes. -/
def tileC (c : Ctx) : Ctx := { c with regs := { c.regs with tshape := [(0, shA), (15, shB)] } }

theorem wit_TileCommandsPush :
    isDepot 0 = false ∧ (15 : Nat) < (smallC tileC).me.ntregs ∧ shapeOk ((smallC tileC).me.regs.tshape.get 15) = true ∧
    shapeOk shA = true ∧ shType shA < 6 ∧ tileLen shA = 32 ∧
    (∀ q < shExt shA, ((smallC (regsC [(1, 32)] [(1, 3840)])).me.ra 1 + BitVec.ofNat 64 q * (smallC (regsC [(1, 32)] [(1, 3840)])).me.rs 1).toNat % 16 = 0 ∧
      ((smallC (regsC [(1, 32)] [(1, 3840)])).me.ra 1 + BitVec.ofNat 64 q * (smallC (regsC [(1, 32)] [(1, 3840)])).me.rs 1).toNat + 32 ≤ 4096) ∧
    small.tailOk 9 ∧ small.hasRoom (.tile 0) ∧ Instr.wf (.tld ⟨0, 0, 1, 1, 1, 9⟩) = true ∧ Instr.wf (.tst ⟨0, 0, 1, 1, 1, 9⟩) = true := by
  unfold State.tailOk State.hasRoom; decide

/-- Context 0 holds the lease, has the two shapes, a position at the last place and a precision control word. -/
def arrayS (pos pcw : Word) : State :=
  { leased 2 with ctxs := [(0, regsC [(1, pcw)] [(1, pos)] (tileC ctx0))] }

theorem wit_ArrayCommandsPush :
    (∀ p ∈ [(0, Instr.mma ⟨0, 15, 1, 1, 0, 0⟩), (1, .mmaBs ⟨0, 15, 1, 1, 0, 0⟩), (2, .mmaNm ⟨0, 15, 1, 1, 0, 0⟩)], p.2.wf = true) ∧
    shRole shA = 0 ∧ shRole shB = 1 ∧ shK shA = shK shB ∧ shK shA = 32 ∧ shapeOk shB = true ∧
    (arrayS 0xFE038#64 0).shape 0 = shA ∧ (arrayS 0xFE038#64 0).shape 15 = shB ∧
    pcwOk 0 0 shA shB = true ∧ pcwOk 1 0 shA shB = true ∧ pcwOk 2 0x2000000 shA shB = true ∧
    posRow 0xFE038#64 + shExt shA ≤ (arrayS 0xFE038#64 0).myGroup.tsLim ∧ posCol 0xFE038#64 + accWords (pcwAcc 0) * shExt shB ≤ 1024 ∧
    pcwAcc 0 ≠ 2 ∧ (0xFE038#64 : Word).toNat < 2 ^ 20 ∧ Instr.wf (.mzero ⟨0, 0, 1, 1, 0, 0⟩) = true ∧
    posRow 0xFE038#64 + ((0x707#64 : Word).toNat % 2 ^ 8 + 1) ≤ 64 ∧ posCol 0xFE038#64 + ((0x707#64 : Word).toNat / 2 ^ 8 % 2 ^ 10 + 1) ≤ 1024 ∧
    (0x707#64 : Word).toNat < 2 ^ 18 := by decide

/-- No lease at all; a lease of another context; a depot core; a local phaser, registered and not, with each mode. -/
theorem wit_UnitTraps :
    (∀ l, (small.serai (seraiOf small.issue.cid)).lease = some l → l.holder ≠ small.issue.cid) ∧ isDepot small.issue.cid = false ∧
    isDepot depot.issue.cid = true ∧ small.phNamed 63 ∧ small.me.phReg? 63 = none ∧
    (smallC fun c => { c with phregs := [⟨63, 2, 0, 0⟩] }).me.phReg? 63 = some ⟨63, 2, 0, 0⟩ ∧
    (smallC fun c => { c with phregs := [⟨63, 1, 2, 0⟩] }).me.phReg? 63 = some ⟨63, 1, phaseAdd 0 2, 0⟩ ∧
    (smallC fun c => { c with phregs := [⟨63, 3, 0, 0⟩] }).me.phReg? 63 = some ⟨63, 3, 0, 0⟩ ∧
    8 ≤ (smallC fun c => { c with phregs := List.replicate 8 ⟨1, 1, 0, 0⟩ }).me.phregs.length ∧
    Instr.wf (.phReg ⟨0, 0, 0, 0, 0, 0, 0, 0, 0, 63 + 1024⟩) = true ∧ Instr.wf (.phWait ⟨0, 0, 0, 0, 0, 0, 0, 0, 0, 63⟩) = true ∧
    Instr.wf (.phArr ⟨0, 0, 0, 0, 0, 0, 0, 0, 0, 63⟩) = true ∧ Instr.wf (.phDrop ⟨0, 0, 0, 0, 0, 0, 0, 0, 0, 63⟩) = true ∧
    Instr.wf (.phArw ⟨0, 0, 0, 0, 0, 0, 0, 0, 0, 63⟩) = true := by
  refine ⟨?_, ?_⟩
  · intro l h
    rw [show (small.serai (seraiOf small.issue.cid)).lease = none from rfl] at h
    cases h
  · unfold State.phNamed; decide

/-- A store of one word at the last place; a pruned load of four words; a load of one MX block. -/
theorem wit_TileStoreCopiesPush :
    posRow 0xFFC3F#64 + cpRows 0 ≤ 64 ∧ posCol 0xFFC3F#64 + cpWords 0 ≤ 1024 ∧ cpFmt 0 = 0 ∧ cpOff 0xFFC3F#64 % 16 = 0 ∧
    cpOff 0xFFC3F#64 + cpLen 0 false ≤ 4096 ∧ cpMx 0 = false ∧ Instr.wf (.tsst ⟨0, 0, 1, 1, 0, 0⟩) = true ∧
    cpE 0xC00#64 % 4 = 0 ∧ cpMd 0 + cpMdLen 0xC00#64 ≤ 4096 ∧ cpLen 0xC00#64 true ≤ 4096 ∧ Instr.wf (.tsld ⟨0, 0, 1, 1, 1, 0⟩) = true ∧
    cpMx 0x20000007C00#64 = true ∧ cpE 0x20000007C00#64 % 32 = 0 ∧ cpKept 0x20000007C00#64 false / 32 = 1 ∧
    (0x20000007C00#64 : Word).toNat < 2 ^ 44 ∧ cpFmt 0x20000007C00#64 ≤ 8 ∧ small.tailOk 0 ∧ small.hasRoom (.copy 0) := by
  unfold State.tailOk State.hasRoom; decide

/-- A descriptor at the end of the scratchpad, and a relay buffer that ends there; `drain`, `ltrig`. -/
theorem wit_EngineCommandsPush :
    ((smallC (regsC [] [(1, 3968)])).me.ra 1).toNat % 128 = 0 ∧ ((smallC (regsC [] [(1, 3968)])).me.ra 1).toNat + 128 ≤ small.myGroup.spLim ∧
    (∀ i ∈ [Instr.cpLin ⟨1, 0, 1, 3, 0⟩, .cpTen ⟨1, 0, 1, 0, 0⟩, .cpGat ⟨1, 0, 1, 0, 0⟩, .cpSct ⟨1, 0, 1, 0, 0⟩, .cpFill ⟨1, 0, 1, 0, 0⟩,
      .scCommit ⟨1, 0, 1, 0, 0⟩, .scDrop ⟨1, 0, 0, 0, 0⟩, .scProbe ⟨1, 0, 1, 0, 0⟩, .scProbe ⟨1, 0, 1, 1, 0⟩, .colRedRoot ⟨1, 0, 0, 0, 0⟩,
      .colRedAll ⟨1, 0, 0, 1, 0⟩, .colRedScat ⟨1, 0, 0, 2, 0⟩, .colGat ⟨1, 0, 0, 0, 0⟩, .launch ⟨1, 0, 1, 0, 0⟩, .drain ⟨0, 0, 0, 0xDFF, 0⟩,
      .ltrig ⟨0, 0, 0, 0, 0⟩, .rlyInit ⟨1, 0, 1, 0, 0⟩], i.wf = true) ∧
    small.tailOk 0 ∧ small.hasRoom (.drover 3) ∧ small.hasRoom (.step 0) ∧ small.hasRoom (.coll 0) ∧ small.hasRoom (.launch 0) ∧
    small.hasRoom (.drain 0) ∧ small.hasRoom (.relay 0) ∧ depot.hasRoom (.drover 192) ∧ small.me.far.length < 64 ∧
    rlySlot 0x1000080#64 = 128 ∧ rlyCount 0x1000080#64 = 1 ∧ 3968 + rlySlot 0x1000080#64 * rlyCount 0x1000080#64 ≤ 4096 := by
  unfold State.tailOk State.hasRoom; decide

/-- `n` commands in the queue of drover 0, or in that of context 0's drain. -/
def fullS (q : QueueId) (n : Nat) : State := (List.range n).foldl (fun s _ => s.push q 0 .marker 0) small

theorem wit_QueuesFillInOrder :
    ¬ (fullS (.drover 0) 16).hasRoom (.drover ((fullS (.drover 0) 16).droverOf ⟨1, 0, 1, 0, 0⟩)) ∧
    ¬ (fullS (.drain 0) 4).hasRoom (.drain 0) ∧ (fullS (.drain 0) 3).hasRoom (.drain 0) ∧ (fullS (.drover 0) 16).tailOk 0 ∧
    ((fullS (.drover 0) 16).me.ra 1).toNat = 0 ∧ 128 ≤ (fullS (.drover 0) 16).myGroup.spLim ∧
    (∀ i ∈ [Instr.cpLin ⟨1, 0, 1, 0, 0⟩, .cpFill ⟨1, 0, 1, 0, 0⟩, .ltrig ⟨0, 0, 0, 0, 0⟩], i.wf = true) := by
  unfold State.tailOk State.hasRoom; decide

/-- The outermost loop level over a body of four bundles from address 64 up. -/
def loopC (c : Ctx) : Ctx := { c with loops := c.loops.set 0 ⟨true, 0, 9, 64, 4, 0, 0⟩ }

/-- Issued at `pc`. -/
def atPc (pc : Word) (s : State) : State := { s with issue := { s.issue with pc := pc } }

/-- A branch in the first body bundle meets no end in its delay; one in the second does. -/
theorem wit_TransferResults :
    (∀ i ∈ [Instr.br ⟨0, 0, 0, 0, 0, 0, 0, 0, 0, 5⟩, .bz ⟨0, 0, 1, 1, 0, 0, 0, 0, 0, 5⟩, .bnz ⟨0, 0, 1, 1, 0, 0, 0, 0, 0, 5⟩,
      .bmNone ⟨0, 0, 0, 0, 0, 0, 0, 0, 0, 5⟩, .bmAny ⟨0, 0, 0, 0, 0, 0, 0, 0, 0, 5⟩, .jmp ⟨0, 0, 0, 0, 0, 0, 0, 0, 0, 1⟩,
      .call ⟨0, 0, 0, 0, 0, 0, 0, 0, 0, 0x800000⟩, .ret ⟨0, 0, 0, 0, 0, 0, 0, 0, 0, 0⟩], i.wf = true) ∧
    (atPc 64 (smallC loopC)).delayFree ∧ ¬ (atPc 128 (smallC loopC)).delayFree ∧
    (smallC (regsC [] [(1, 1)])).me.ra 1 = 1 ∧ small.me.rs 1 = 0 ∧ (smallC (regsC [(1, 1)] [])).me.rs 1 ≠ 0 ∧ small.me.topMask ≠ 0 ∧
    (smallC fun c => { c with stack := [0] }).me.topMask = 0 ∧ (smallC fun c => { c with shadow := List.replicate 15 0 }).me.shadow.length < 16 ∧
    (smallC fun c => { c with shadow := [64], a := [(30, 64)] }).me.shadow = 64 :: [] ∧
    (smallC fun c => { c with shadow := [64], a := [(30, 64)] }).me.ra 30 = 64 ∧
    (smallC fun c => { c with shadow := [65], a := [(30, 65)] }).me.ra 30 = 65 := by
  unfold State.delayFree; decide

/-- Level 2 of one bundle under level 1; the descriptor of each form; a trip count of 0 and another; row pointers 3 and 7. -/
theorem wit_LoopSetUpResults :
    (∀ (j : Nat) (l : LoopLevel), j < 6 → (atPc 64 (smallC loopC)).me.loops[j]? = some l → l.active = true →
      j + 1 < 2 ∧ ((atPc 64 (smallC loopC)).issue.pc + 64 - l.start).toNat + 64 * 1 ≤ 64 * l.body) ∧
    (0x12#64 : Word).extractLsb' 25 7 = 0 ∧ (0x12#64 : Word).getLsbD 3 = false ∧ (0x1A#64 : Word).getLsbD 3 = true ∧
    ((0x12#64 : Word).extractLsb' 0 3).toNat = 2 ∧ ((0x12#64 : Word).extractLsb' 4 16).toNat = 1 ∧
    (smallC (regsC [(1, 0x12)] [])).me.rs 1 = 0x12 ∧ Instr.wf (.loopImm ⟨0, 0, 1, 1, 0, 0, 0, 0, 0, 3⟩) = true ∧
    Instr.wf (.loopReg ⟨0, 0, 1, 1, 0, 0, 0, 0, 0, 3⟩) = true ∧ Instr.wf (.loopx ⟨0, 0, 1, 1, 0, 0, 0, 0, 0, 2⟩) = true ∧
    leNat (({ small with groups := [(1, { grp with sp := [(4088, 3), (4092, 7)] })] } : State).padRead 0 false 4092 4) = 7 ∧
    4088 + 8 ≤ small.myGroup.spLim ∧ small.padPoisoned 1 false 4088 8 = false := by
  refine ⟨?_, by decide⟩
  intro j l hj h ha
  have : j = 0 ∨ j = 1 ∨ j = 2 ∨ j = 3 ∨ j = 4 ∨ j = 5 := by omega
  rcases this with rfl | rfl | rfl | rfl | rfl | rfl
  · have e := Option.some.inj h
    subst e
    decide
  all_goals
    have e := Option.some.inj h
    subst e
    exact absurd ha (by decide)

/-- In a handler, at which the context came from address `epc`. -/
def inhC (epc : Word) (c : Ctx) : Ctx :=
  { c with
    regs := { c.regs with
      tcause := 0x8000000000000000#64
      tepc := epc }
    aside := some (c.loops, none) }

/-- A pending result. -/
def pendC (c : Ctx) : Ctx := { c with pend := [⟨.s 3, 9, 0, [], 5, 0, 0, 0, 0, [], false, false, false, none⟩] }

theorem wit_YieldHaltMarkResults :
    small.me.pend = [] ∧ (smallC pendC).me.pend ≠ [] ∧ Instr.wf (.halt ⟨0, 0, 0, 0, 0, 0, 0, 0, 0, 0⟩) = true ∧ acting.me.regs.inh = false ∧
    ({ smallC (inhC 64) with issue := acting.issue } : State).me.regs.inh = true ∧
    small.me.region = none := ⟨rfl, by decide, rfl, rfl, rfl, rfl⟩

/-- A state whose group has a semaphore of value `v`. -/
def semS (v : BitVec 17) : State := { small with groups := [(1, { grp with sems := [(grp.semKey 0 7, v)] })] }

theorem wit_SemaphoreResults :
    Instr.wf (.wait ⟨7, 5, 0, 0, 0, 0, 0, 0, 0, 0⟩) = true ∧ (7 : Nat) < ((semS 5).group 1).nsems ∧
    (5#10 : BitVec 10).toNat ≤ (semS 5).semVal 1 0 7 ∧ (semS 4).semVal 1 0 7 < (5#10 : BitVec 10).toNat ∧
    Instr.wf (.semAdd ⟨0, 0, 0, 0, 0, 0, 0, 0, 0, 0xFFFE07⟩) = true ∧ Instr.wf (.semSet ⟨0, 0, 0, 0, 0, 0, 0, 0, 0, 0x107⟩) = false ∧
    Instr.wf (.semSet ⟨0, 0, 1, 0, 0, 0, 0, 0, 0, 0x107⟩) = true ∧ Instr.wf (.semRd ⟨0, 0, 0, 0, 0, 0, 0, 0, 0, 0x807⟩) = true ∧
    small.me.release = none ∧ (smallC fun c => { c with release := some 9 }).me.release = some 9 ∧
    Instr.wf (.semRd ⟨0, 0, 0, 0, 0, 0, 0, 0, 0, 0x808⟩) = true ∧ (small.group small.me.gid).nsems ≤ ((0x808#24 : BitVec 24).extractLsb' 0 8).toNat := by
  decide

theorem wit_PhaserInstructionResults :
    small.phNamed 63 ∧ small.me.phReg? 63 = none ∧ (smallC fun c => { c with phregs := List.replicate 7 ⟨1, 1, 0, 0⟩ }).me.phregs.length < 8 ∧
    (smallC fun c => { c with phregs := [⟨63, 3, 1, 0⟩] }).me.phReg? 63 = some ⟨63, 3, 1, 0⟩ ∧
    (1 : Nat) ≠ phaseAdd (small.phSeen 1 63) 2 ∧ laterPhase (small.phSeen 1 63) 0 = false ∧ laterPhase 0 (2 ^ 32 - 1) = true ∧
    Instr.wf (.drain ⟨1, 31, 0, 0x1AFF, 0⟩) = true ∧ drainPh ⟨1, 31, 0, 0x1AFF, 0⟩ = 63 ∧ (0x1AFF#16 : BitVec 16).getLsbD 12 = true ∧
    small.tailOk 0 ∧ small.hasRoom (.drain 0) := by
  unfold State.phNamed State.tailOk State.hasRoom; decide

/-- Registers v0 and v512 differ. -/
theorem wit_DupcmpResults :
    Instr.wf (.dupcmp ⟨0, 0, 0, 0, 0, 0, 0, 0, 0, 0x200⟩) = true ∧ small.me.regs.dup = false ∧
    (smallC fun c => { c with regs := { c.regs with dup := true } }).me.regs.dup = true ∧
    (smallC fun c => { c with v := [(0, 1)] }).me.v.get 0 ≠ (smallC fun c => { c with v := [(0, 1)] }).me.v.get 512 ∧
    small.me.v.get 0 = small.me.v.get 512 := ⟨rfl, rfl, rfl, by decide +kernel, rfl⟩

theorem wit_TrapSysAndEretResults :
    Instr.wf (.eret ⟨0, 0, 0, 0, 0, 0, 0, 0, 0, 0⟩) = true ∧ (smallC (inhC 64)).me.regs.inh = true ∧
    (smallC (inhC 64)).me.regs.tepc.toNat % 64 = 0 ∧ (smallC (inhC 64)).me.pend = [] ∧
    (smallC (inhC 64)).me.aside = some (Ctx.idle.loops, none) ∧ small.me.regs.inh = false ∧ (smallC fun c => pendC (inhC 64 c)).me.pend ≠ [] := by
  decide

/-- The outrider of die 0 in a package whose convoy table holds only its own number, and as a member of that convoy. -/
def convoyS (mstate : Nat) : State :=
  { outrider with
    pk := { outrider.pk with cvtab := 0x200000#64 }
    pace := { outrider.pace with
      cvn := 1
      pkg := 5
      mstate := mstate }
    mem := [(0x200000, 1), (0x200040, 5)] }

theorem wit_PaceInstructionResults :
    (convoyS 0).issue.cid = 800 ∧ (convoyS 0).pace.mstate = 0 ∧ (convoyS 0).pk.cvtab ≠ 0 ∧ (convoyS 0).pace.cvn ≠ 0 ∧
    devOk (convoyS 0).cvBase (64 + 2 * (convoyS 0).devNum (convoyS 0).cvBase 2) = true ∧ (convoyS 0).pace.pkg ∈ (convoyS 0).cvTable ∧
    (convoyS 2).pace.mstate = 2 ∧ Instr.wf (.paceAnn ⟨0, 0, 0, 0, 0, 0, 0, 0, 0, 160⟩) = true ∧
    Instr.wf (.paceAnnE ⟨0, 0, 0, 0, 0, 0, 0, 0, 0, 272⟩) = true ∧ Instr.wf (.paceJoin ⟨0, 0, 0, 0, 0, 0, 0, 0, 0, 0⟩) = true ∧
    isOutrider small.issue.cid = false ∧ 160 ≤ (convoyS 0).pace.ceil ∧ 16 < (convoyS 0).pace.ceil := by decide

theorem wit_SlotInstructionsCheckThenAct :
    (encode (.fenceRel ⟨0, 0, 0, 0, 22, 0⟩)).isSome = true ∧ checking.issue.phase = .check ∧ acting.issue.phase = .act ∧
    small.issue.phase = .whole ∧ Instr.wf (.add ⟨1, 2, 3, 1, 0⟩) = false ∧ (encode (.add ⟨1, 2, 3, 1, 0⟩)).isSome = true := by decide

theorem wit_ComputationOnlyStartsResults :
    (encode (.add ⟨1, 2, 3, 0, 0⟩)).map (·.1) = some 0 ∧ (encode (.vadd ⟨true, 1, 2, 3, 0, 0, 2, 0, 0⟩)).map (·.1) = some 2 ∧
    acting.issue.phase = .act ∧ ∃ t, exec (.add ⟨1, 2, 3, 0, 0⟩) acting = .next t := ⟨rfl, rfl, rfl, _, rfl⟩

theorem wit_SlotInstructionsFrame :
    (encode (.st ⟨1, 2, 0, 0, 0, 0⟩)).map (·.1) = some 5 ∧ acting.issue.phase = .act ∧
    ∃ t, exec (.st ⟨1, 2, 0, 0, 0, 0⟩) acting = .next t := ⟨rfl, rfl, _, rfl⟩

/-- A bundle whose slots 0 and 4 trap: the higher rank counts. -/
theorem wit_CauseCodesTargetsAndRanks :
    bundleVerdict [(0, .trap .access 5), (4, .trap .align 3)] = (4, .trap .align 3) ∧
    bundleVerdict [(5, .trap .align 3), (4, .trap .align 7)] = (4, .trap .align 7) := by decide

/-- A context with a handler at 128. -/
def handlerC (c : Ctx) : Ctx := { c with regs := { c.regs with thand := 128 } }

theorem wit_TrapEntersHandler :
    ((smallC handlerC).ctx 0).regs.inh = false ∧ Cause.target .align = .handler ∧ ((smallC handlerC).ctx 0).regs.thand &&& ~~~63#64 ≠ 0 ∧
    isOutrider 800 = true ∧ Cause.openTval .align = false ∧ (Cause.align ≠ .timeout) := by decide

/-- Consignment 7, running. -/
def con7 : Cons :=
  ⟨0, 0, 0, 0, Packet.ofBytes [], .running, 0, 0, [], 0, 0, 0, 0, 0, 0, 0, none, [], [], [], false, none, 0, 0, 0, 0⟩

/-- `small` with its consignment's record. -/
def running : State := { small with cons := [(7, con7)] }

theorem wit_TrapStopsOrAborts :
    isOutrider 0 = false ∧ Cause.target .sys = .resolver ∧ Cause.target .markov = .abort ∧ (running.ctx 0).cons = some 7 ∧
    running.con? 7 = some con7 ∧ con7.state = .running ∧ (running.ctx 0).regs.thand &&& ~~~63#64 = 0 ∧ Cause.target .align = .handler ∧
    ((smallC (inhC 64)).ctx 0).regs.inh = true ∧ isOutrider 800 = true ∧ (outrider.ctx 800).regs.thand &&& ~~~63#64 = 0 := by decide

/-- The slot words of a bundle with one instruction in slot 0, as bytes. -/
def bundleOf (w : Nat) : List Byte := natToBytes 64 w

/-- Context 0 holds core 0 and has the line of a bundle that holds `li s7, 5`. -/
def fetched : State :=
  { small with
    pk := { small.pk with poweredOn := true }
    ctxs := [(0, { ctx0 with line := some (0, .bytes (bundleOf 0x0F1C000000000005)) })]
    cores := [(0, { Core.fresh with
      holder := some 0
      since := 0 })] }

theorem wit_StepRunsTheDecodedBundle :
    (fetched.inputs = [] ∧ fetched.eventBefore.isNone = true ∧ fetched.usedCores.find? fetched.mayTry = some 0) ∧
    (fetched.core 0).holder = some 0 ∧ (fetched.ctx 0).live = true ∧ (fetched.ctx 0).hasLine = true ∧
    (fetched.ctx 0).notBefore ≤ fetched.coreCycle 0 ∧ ((fetched.reinject 0).frameFor 0).me.slotInstrs.length = 8 ∧
    ((fetched.reinject 0).frameFor 0).me.suppressed ((fetched.reinject 0).frameFor 0).issue.common = false ∧
    ((fetched.reinject 0).frameFor 0).held 0 = false ∧ ((fetched.reinject 0).frameFor 0).waitFails = false ∧
    (bundleVerdict (((((fetched.reinject 0).frameFor 0).seekStore ((fetched.reinject 0).frameFor 0).me.slotInstrs).startMark ((fetched.reinject 0).frameFor 0).me.slotInstrs).allChecks
      ((fetched.reinject 0).frameFor 0).me.slots ((fetched.reinject 0).frameFor 0).me.slotInstrs)).2 = .ok := by
  decide +kernel

theorem wit_EncodingRoundTrip :
    Instr.wf (.loopReg ⟨0, 0, 1, 20, 0, 0, 0, 0, 0, 3⟩) = true ∧ encode (.add ⟨1, 2, 3, 0, 0⟩) = some (0, 0x0104_20C0_0000_0000#64) := ⟨rfl, rfl⟩

/-- Reset meets the invariant, and a state whose memory lists a zero does not. -/
theorem wit_StepKeepsMemoryCanonical :
    State.reset.memWf = true ∧ small.memWf = true ∧ ({ small with mem := [(2, 0)] } : State).memWf = false := by decide

/-- The same at the end of the cycle, with what the host has asked for. -/
def triedS (l : List Instr) : State :=
  { fetched with
    cores := [(0, { Core.fresh with
      holder := some 0
      tried := 1 })]
    inputs := l }

/-- A read of 8 bytes through BAR2. -/
def access0 : HostAccess := ⟨0, false, false, 0, 8, []⟩

/-- Inputs run first; what the host asks for comes at the end of the cycle. -/
theorem wit_StepRunsTheDecodedBundle_input :
    hostLast (.queueDoorbell 0 1) = false ∧
    (∀ l ∈ [[], [Instr.hostBar2Access access0]], (∀ j ∈ (triedS l).inputs, hostLast j = true) ∧ (triedS l).eventBefore.isNone = true ∧
      (triedS l).usedCores.find? (triedS l).mayTry = none ∧ (triedS l).eventAfter.isNone = true ∧ (triedS l).acts = []) := by
  decide +kernel

/-! ### Events -/

/-- `small` in RUN, with one queue in a state. -/
def queueS (st : QState) : State :=
  { small with
    pk := { small.pk with bootState := 1 }
    queues := [(0, { Queue.closed with
      st := st
      rsize := 64
      csize := 64 })] }

theorem wit_RegisterWritesComplete :
    (∀ q ∈ small.queues, q.2.st = .closed) ∧ (0, { Queue.closed with st := .open_, rsize := 64, csize := 64 }) ∈ (queueS .open_).queues ∧
    QState.open_ ≠ .closed := ⟨by decide, List.mem_singleton.2 rfl, by decide⟩

theorem wit_ErrorsSamplesAndBoot :
    (small.tmon 1).alert = false ∧ (small.tmon 9).href = 0 ∧ (small.tmon 9).hcap = 0 ∧ small.pk.trained = false ∧
    ({ small with pk := { small.pk with trained := true } } : State).pk.trained = true ∧ small.pk.poweredOn = false ∧ small.pk.bootState ≠ 2 ∧
    ({ small with pk := { small.pk with bootState := 2 } } : State).pk.bootState = 2 := by decide

/-- ERRCNT through BAR0; BAR2 and a peer up to the end of the map; RUN. -/
theorem wit_PortRequestsComplete :
    184 % 8 = 0 ∧ 184 < 2048 ∧ (small.pkgReg (0x800 + 184 / 8)).isSome = true ∧ small.pk.bootState ≠ 2 ∧ (small.window 0).1 = 0 ∧
    Config.hbmBytes - 8 + 8 ≤ (small.window 0).2 ∧ (small.window 0).1 + (Config.hbmBytes - 8) + 8 ≤ Config.hbmBytes ∧ small.posted = [] ∧
    small.tollBase = 0 ∧ (queueS .open_).pk.bootState = 1 := by decide

/-- A descriptor of 64 packets and 64 records, of class 0, at the base of the queue table at 0x300000. -/
def openableS (rsize : Byte) : State :=
  { small with
    pk := { small.pk with
      bootState := 1
      qtab := 0x300000#64 }
    mem := [(0x300008, rsize), (0x300020, 64)] }

theorem wit_QueueCommandsComplete :
    (queueS .open_).pk.bootState = 1 ∧ ((queueS .open_).queue 0).st ≠ .closed ∧ ((openableS 64).queue 0).st = .closed ∧
    devOk ((openableS 64).qdAddr 0) 64 = true ∧ (openableS 64).descriptorOk 0 = true ∧ (openableS 63).descriptorOk 0 = false ∧
    ((queueS .error).queue 0).st = .error ∧ ((queueS .closing).queue 0).st = .closing ∧ ((queueS .open_).queue 0).dev = false ∧
    running.con? 7 = some con7 ∧ con7.queue = 0 ∧ con7.state = .running ∧ con7.status ≠ 2 ∧
    (queueS .open_).dieOfQueue 0 = 0 := by decide

/-- Consignment 7 with one core group. -/
def conIn (st : ConsState) : Cons := { con7 with pk := { con7.pk with g := 1 }, state := st }

theorem wit_QueueCommandsComplete_preempt :
    (conIn .running).pk.g ≠ 0 ∧ (conIn .running).state = .running ∧ (conIn .suspended).state = .suspended ∧
    (conIn .suspending).state = .suspending ∧ ({ small with cons := [(7, conIn .suspended)] } : State).con? 7 = some (conIn .suspended) ∧
    (∀ y, (7, y) ∈ ({ small with cons := [(7, conIn .suspended)] } : State).cons → y = conIn .suspended) := by
  refine ⟨by decide, by decide, by decide, by decide, by decide, ?_⟩
  intro y h
  simpa using h

/-- Context 0 parked on number 9 with a rejoin at tick 0, stopped with one, and of a consignment that is being suspended. -/
def parkedS : State :=
  { smallC fun c => { c with parked := some 9 } with rejoins := [⟨0, 0, false⟩] }

def stoppedS (rejoins : List Rejoin) : State :=
  { smallC fun c => { c with status := .stopped } with
    rejoins := rejoins
    cons := [(7, con7)] }

def suspendS (frozen : Bool) : State :=
  { smallC fun c => { c with frozen := frozen } with cons := [(7, conIn .suspending)] }

theorem wit_ResumptionEventsComplete :
    parkedS.rejoinDue 0 false = true ∧ (parkedS.ctx 0).parked.isSome = true ∧ small.stoppedAt 0 0 0 = none ∧
    (stoppedS []).stoppedAt 0 0 0 = some 0 ∧ (stoppedS []).rejoins = [] ∧ ((stoppedS []).ctx 0).cons = some 7 ∧
    (stoppedS []).con? 7 = some con7 ∧ con7.state = .running ∧ (stoppedS [⟨0, 0, true⟩]).rejoinDue 0 true = true ∧
    ((stoppedS [⟨0, 0, true⟩]).ctx 0).status = .stopped ∧ ((stoppedS [⟨0, 0, true⟩]).ctx 0).regs.inh = false ∧
    (suspendS false).freezeDue 0 = true ∧ (suspendS true).saveDue 7 = true ∧ (suspendS true).con? 7 = some (conIn .suspending) ∧
    (conIn .suspending).releaseAfter = false ∧ ({ conIn .suspending with releaseAfter := true } : Cons).releaseAfter = true := by decide

/-- A member of a convoy of packages 5, its own, and 6, which it sees as `view`, last heard at tick 0. -/
def memberS (mstate : Nat) (view : View) (tick : Nat) : State :=
  { convoyS mstate with
    tick := tick
    pace := { (convoyS mstate).pace with peers := [⟨6, view, 150, [], 0, 150, none, none⟩], owe := [(6, 0)] }
    mem := [(0x200000, 2), (0x200040, 5), (0x200042, 6)] }

/-- A message of package 6. -/
def msg6 (eff : Nat) : PaceMsg := ⟨1, false, 6, 1, 140, 140, eff, 0, 0⟩

theorem wit_ConvoyEventsComplete :
    (memberS 2 .live 0).roundTick = 0 ∧ (msg6 0).type < 256 ∧ (msg6 0).limit < 256 ∧
    (memberS 2 .departed 0).hears (msg6 0) false = false ∧ (memberS 2 .live 0).hears { msg6 0 with cvn := 2 } true = false ∧
    (memberS 2 .live 0).hears (msg6 1) false = true ∧ (memberS 2 .live 0).hears (msg6 0) true = true ∧
    (memberS 1 .absent 0).hears (msg6 0) false = true ∧ (memberS 1 .absent 0).pace.mstate = 1 ∧ (memberS 3 .live 0).pace.mstate ≠ 0 ∧
    (∀ x ∈ (memberS 2 .live 0).pace.peers, x.pkg = 6 → x.view ≠ .silent) ∧ (memberS 2 .live 0).owes 6 = true ∧
    (memberS 2 .live 20000).beats = true := by decide

theorem wit_ConvoyEventsComplete_time :
    (memberS 2 .live 100000).roundDue = true ∧ (memberS 0 .live 100000).pace.mstate = 0 ∧ (memberS 1 .live 100000).pace.halted = false ∧
    (memberS 3 .live 100000).pace.boundary ≤ 100000 ∧ (∀ p ∈ (memberS 3 .live 100000).pace.emergencies, p.1 ≤ 100000) ∧
    (∀ x ∈ (memberS 2 .live 200000).pace.peers, (memberS 2 .live 200000).silentNow x = true) ∧
    (∀ x ∈ (memberS 2 .silent 2000000).pace.peers, (memberS 2 .silent 2000000).departedNow x = true) ∧
    ({ memberS 2 .live 2000000 with pace := { (memberS 2 .live 2000000).pace with stoppedAt := some 0 } } : State).lapses = true := by decide

theorem wit_PowerAndClockEventsComplete :
    ({ small with tick := 1000 } : State).intervalBegins = true ∧ ({ small with tick := 100 } : State).windowEnds = true ∧
    ({ small with tick := 25000, serais := [(3, { Serai.fresh with ocap := 159, clk := 159 })] } : State).capRises 3 = true ∧
    ({ small with tick := 25000, serais := [(3, { Serai.fresh with ocap := 16, clk := 16, changed := some 0 })] } : State).capRises 3 = true ∧
    ({ small with tick := 25000, serais := [(3, { Serai.fresh with clk := 100, changed := some 0 })] } : State).clockRises 3 = true ∧
    ({ small with pk := { small.pk with msixDue := [(1, 2)], busEn := [false, true], msixEn := [false, true] } } : State).msixReady 1 2 = true ∧
    ({ small with tick := 400, pk := { small.pk with xlBusy := some 0 } } : State).xlinvOver = true := by decide

/-- Context 0 parked on number 9 with a far load FAULTED on it. -/
def resumeS : State :=
  smallC fun c => { c with parked := some 9, far := [⟨5, .load, 0x1000, 8, false, .notPresent 9, false, 0, 0, none, 0, 0, 0, [], []⟩] }

theorem wit_ResumptionEventsComplete_resume :
    (resumeS.ctxs.map (·.1)).Nodup ∧ (resumeS.ctx 0).asid = 0 ∧ (resumeS.ctx 0).parked = some 9 ∧ resumeS.rejoins = [] ∧
    (∃ e ∈ (resumeS.ctx 0).far, e.data = .notPresent 9) ∧
    (∃ r ∈ (stoppedS [⟨0, 0, true⟩]).rejoins, r.cid = 0 ∧ r.trap = true) ∧ (stoppedS [⟨0, 0, true⟩]).stoppedAt 0 0 0 = some 0 ∧
    ({ stoppedS [] with ctxs := [(0, { ctx0 with status := .stopped, cons := none })] } : State).stoppedAt 0 0 0 = some 0 := by
  refine ⟨by decide, rfl, rfl, rfl, ⟨_, List.mem_cons_self, rfl⟩, ⟨_, List.mem_cons_self, rfl, rfl⟩, by decide, by decide⟩

/-- Memory accesses enabled at port 0. -/
def barS : State := small.modPk fun p => { p with memEn := [true, false] }

theorem wit_PortRequestsComplete_ports :
    barS.barOn 0 = true ∧ barS.barOn 1 = false ∧ 0 < barS.pk.memEn.length ∧ barS.pk.bootState ≠ 2 ∧ barS.pk.bootState ≠ 1 ∧
    (Config.peerAnswers 3 = false → unanswered 3 ⟨1, 0⟩ = true) := by
  refine ⟨by decide, by decide, by decide, by decide, by decide, fun h => by simp [unanswered, h]⟩

/-- A packet of 128 bytes, of a type, with some more bytes set. -/
def packetOf (type : Byte) (more : Store 8) : List Byte := Store.bytes ((4, type) :: more) 0 128

/-- A LAUNCH packet with the least legal fields, and `g` groups. -/
def launchB (g : Byte) : List Byte := packetOf 1 [(52, 1), (53, 1), (54, 1), (55, 1), (56, 1), (64, g), (72, 1), (76, 1)]

/-- Queue 0 open with a packet fetched. -/
def headS (b : List Byte) : State :=
  { small with
    pk := { small.pk with bootState := 1 }
    queues := [(0, { Queue.closed with
      st := .open_
      rsize := 64
      csize := 64
      prod := 1
      packet := some b })] }

/-- Queue 0 open, its ring at 0x400000, where the next packet has a type and a sequence number. -/
def ringS (type seq : Byte) : State :=
  { small with
    mem := small.mem ++ [(0x400000, seq), (0x400004, type)]
    queues := [(0, { Queue.closed with
      st := .open_
      ring := 0x400000#64
      rsize := 64
      csize := 64
      prod := 1
      expect := 9 })] }

/-- The result of a read in an address space, if it succeeds. -/
def readOk (s : State) (asid va n : Nat) : Option (List Byte) := match s.asidRead 0 asid va n with | .ok b => some b | .error _ => none

theorem wit_QueueEventsComplete_fetch :
    (queueS .closing).closedNow 0 = true ∧ ((ringS 1 9).queue 0).fetchDue = true ∧
    (readOk (ringS 1 9) 0 0x400000 128).map (fun b => (dnum b 0 4, dnum b 4 1)) = some (9, 1) ∧
    (readOk (ringS 6 9) 0 0x400000 128).map (fun b => (dnum b 0 4, dnum b 4 1)) = some (9, 6) ∧
    (readOk (ringS 5 8) 0 0x400000 128).map (fun b => (dnum b 0 4, dnum b 4 1)) = some (8, 5) := by decide +kernel

theorem wit_QueueEventsComplete_packets :
    (headS (launchB 1)).launchReady? 0 = some (launchB 1) ∧ refusal (launchB 1) false = 0 ∧
    (headS (launchB 0)).launchReady? 0 = some (launchB 0) ∧ refusal (launchB 0) false = 1 ∧
    (headS (packetOf 2 [])).headPacket 0 2 = some (packetOf 2 []) ∧ (headS (packetOf 2 [])).waitseqHolds 0 (packetOf 2 []) = true ∧
    (headS (packetOf 3 [(9, 0x40)])).headPacket 0 3 = some (packetOf 3 [(9, 0x40)]) ∧ (headS (packetOf 3 [(9, 0x40)])).pollDue 0 = true ∧
    (headS (packetOf 4 [(9, 0x40)])).headPacket 0 4 = some (packetOf 4 [(9, 0x40)]) := by decide +kernel

/-- The same after the event object has been read in this tick. -/
def polledS : State := (headS (packetOf 3 [(9, 0x40)])).modQueue 0 fun x => { x with pollTick := 1 }

/-- A graph object at 0x4000 with one packet at 0x8000 and a block of 64 bytes at 0xC000; `n` is its number of packets. -/
def graphS (n : Byte) : State :=
  { headS (packetOf 5 [(9, 0x40)]) with
    mem := [(2, 1), (20, 1), (0x4001, 0x80), (0x4008, n), (0x400C, 64), (0x4011, 0xC0), (65536, 1), (65538, 2), (131072, 31)] }

theorem wit_QueueEventsComplete_graph :
    polledS.headPacket 0 3 = some (packetOf 3 [(9, 0x40)]) ∧ polledS.evwaitHolds 0 (packetOf 3 [(9, 0x40)]) = true ∧
    (graphS 1).headPacket 0 5 = some (packetOf 5 [(9, 0x40)]) ∧ dnum (packetOf 5 [(9, 0x40)]) 8 8 = 0x4000 ∧
    (readOk (graphS 1) 0 0x4000 64).map graphLegal = some true ∧ (readOk (graphS 0) 0 0x4000 64).map graphLegal = some false ∧
    (graphS 1).graphBlock 0 0x4000 false = some 0 ∧
    (match (graphS 1).fillBlock 0 0 0xC000 0xC040 64 0 0 with | .ok _ => true | .error _ => false) = true := by decide +kernel

/-- A consignment all of whose parcels have halted, one whose record is due, one of a graph, and one whose watchdog runs out. -/
def doneCon (st : ConsState) (graph : Option Nat) : Cons :=
  { con7 with
    pk := { con7.pk with
      g := 1
      wdog := 1 }
    state := st
    graph := graph }

def doneS (st : ConsState) (graph : Option Nat) (cpl : Word := 0x8000) : State :=
  { queueS .open_ with
    cons := [(7, doneCon st graph)]
    queues := [(0, { Queue.closed with
      st := .open_
      rsize := 64
      csize := 64
      cpl := cpl })]
    tick := 1000 }

theorem wit_QueueEventsComplete_records :
    (doneS .draining none).conDone 7 = true ∧ (doneS .completing none).recordReady 7 = true ∧ (doneS .completing (some 3)).recordReady 7 = true ∧
    (match (doneS .completing none 0x8000000000).asidWrite 0 0 0x8000000000 (doneCon .completing none).record with | .ok _ => true | .error _ => false) = false ∧
    (doneS .completing none 0x8000000000).recordReady 7 = true ∧
    (match (doneS .completing none).asidWrite 0 0 0x8000 (doneCon .completing none).record with | .ok _ => true | .error _ => false) = true ∧
    (doneS .running none).watchdogOver 7 = true ∧ (doneCon .completing none).queue < 8192 := by decide +kernel

/-- Consignment 7 accepted, with one group that fits (`fit`) or does not, and nothing placed. -/
def schedS (fit : Bool) : State :=
  { small with
    ctxs := []
    groups := []
    cons := [(7, { con7 with
      pk := { Packet.ofBytes (launchB 1) with c := if fit then 1 else 9 }
      state := .accepted })] }

/-- Group 1 placed for consignment 7, not started: its image of 32 bytes is due, or its parcel starts. -/
def placedS (image : Bool) : State :=
  { smallC fun c => { c with status := .starting } with
    groups := [(1, { grp with
      started := false
      imageDone := !image })]
    cons := [(7, { con7 with pk := { con7.pk with
      g := 1
      simg := 0x4000#64
      slen := 32 } })]
    tick := 4 }

theorem wit_SchedulerEventsComplete :
    (schedS true).selectionDue 0 = true ∧ ({ schedS true with lastSelect := [(0, 1)] } : State).candidates 0 = [7] ∧
    ((schedS true).con? 7).isSome = true ∧
    (schedS false).selectionDue 0 = true ∧ ({ schedS false with lastSelect := [(0, 1)] } : State).candidates 0 = [7] ∧
    ({ schedS false with lastSelect := [(0, 1)] } : State).tryPlace 7 = none := by decide +kernel

theorem wit_SchedulerEventsComplete_start :
    (placedS true).imageDue 1 = true ∧ ((placedS true).group 1).cons = some 7 ∧ ((placedS true).con? 7).isSome = true ∧
    (readOk (placedS true) 0 0x4000 34).isSome = true ∧ (placedS false).startDue 1 = true ∧ (placedS false).seated 1 = [0] ∧
    (match (placedS false).argsAll con7 [0] with | .ok _ => true | .error _ => false) = true ∧
    ((placedS false).ctx 0).gid = 1 ∧ ((placedS false).ctx 0).status = .starting := by decide +kernel

/-- A far load of context 0 from an address, with its data in a state; and one whose page tables do not exist. -/
def farE (kind : FarKind) (ea : Word) (data : FarData) : FarEntry := ⟨5, kind, ea, 8, false, data, false, 0, 0, some 9, 0, 0, 0, [], []⟩

def farS (kind : FarKind) (ea : Word) (data : FarData) : State := smallC fun c => { c with far := [farE kind ea data] }

theorem wit_MemoryEventsComplete_far :
    (∀ p ∈ [(farS .load 0x1000 .walking, farE .load 0x1000 .walking), (farS .load 0x8000000000 .walking, farE .load 0x8000000000 .walking)],
      p.1.far? 0 5 = some p.2 ∧ p.1.walkDue 0 p.2 = true) ∧
    (farS .load 0x1000 .walking).farTrans 0 (farE .load 0x1000 .walking) = .ok [(⟨0, 0x1000⟩, 8)] ∧
    (farS .load 0x8000000000 .walking).farTrans 0 (farE .load 0x8000000000 .walking) = .absent 0x8000000000 4 ∧
    ({ farS .load 0x1000 .walking with mem := [(2, 1)] } : State).farTrans 0 (farE .load 0x1000 .walking) = .access ∧
    ({ farS .load 0x1000 .walking with mem := [(2, 1)] } : State).far? 0 5 = some (farE .load 0x1000 .walking) ∧
    (farS .load 0x1000 .waiting).arrivalDue 0 (farE .load 0x1000 .waiting) = true ∧
    (farS .load 0x1000 .waiting).partsPoisoned [(⟨0, 0x1000⟩, 8)] = false ∧
    (farS .vector 0x1000 (.coming 7 true)).arrivalDue 0 (farE .vector 0x1000 (.coming 7 true)) = true ∧
    (farS .atomic 0x1000 .waiting).arrivalDue 0 (farE .atomic 0x1000 .waiting) = true := by decide +kernel

/-- A store of context 0 under way, an atomic of it with its entry, a fault and events to be written. -/
def storeP : Posted := ⟨3, 0, 0, none, .plain, ⟨⟨0, 0x1000⟩, [7]⟩, [], [], false, 0, [], 0, 0, [], 0, [], 3⟩

def atomicA : AtomicReq := ⟨4, 0, 0, ⟨0, 0x1000⟩, 8, false, 5, 0, some 5, 0, 0, 0⟩

def memoryS : State :=
  { farS .atomic 0x1000 .waiting with
    posted := [storeP]
    atomics := [atomicA]
    faultsOut := [⟨0, natLe 64 3⟩]
    eventsOut := [⟨0, 3, none, natLe 32 3⟩, ⟨0, 2, none, natLe 32 2⟩]
    mem := [(2, 1), (20, 1), (25, 0x50), (32, 64), (49, 0x60), (56, 64), (65536, 1), (65538, 2), (131072, 31)] }

/-- A tracked frame in the toll region at 0x100000. -/
def tollS (track : Byte) : State := { small with pk := { small.pk with tollbase := 0x100000#64 }, mem := small.mem ++ [(0x100042, track)] }

theorem wit_MemoryEventsComplete :
    (smallC fun c => { c with release := some 0 }).publicationDue 0 = true ∧ storeP ∈ memoryS.posted ∧ memoryS.storeDue storeP = true ∧
    memoryS.atomics.find? (fun a => a.id == 4 && memoryS.atomicDue a) = some atomicA ∧ atomicA.fetch = some 5 ∧
    memoryS.partsPoisoned [(atomicA.at_, atomicA.size)] = false ∧
    memoryS.faultsOut.find? (fun f => f.asid == 0) = some ⟨0, natLe 64 3⟩ ∧ memoryS.asidFull 0 36 40 32 = false ∧
    memoryS.eventOf 0 3 = some ⟨0, 3, none, natLe 32 3⟩ ∧ memoryS.eventReady 0 3 = true ∧
    memoryS.eventOf 0 2 = some ⟨0, 2, none, natLe 32 2⟩ ∧ memoryS.eventReady 0 2 = true ∧
    (∀ x ∈ memoryS.posted, x.wait ≤ memoryS.cycleOf x.cid) := by decide +kernel

/-- A page of the shadow stack at 0x200000, which holds a full stack or fills before a `ret`, after a walk for an address. -/
def shadowS (full : Bool) (walked : Word) : State :=
  { smallC fun c => { c with
      shadow := if full then List.replicate 16 64 else []
      regs := { c.regs with ssp := 0x200100#64 }
      fillWalk := some (walked, 0)
      line := some (0, .bytes (natLe 56 0 ++ natLe 8 0x0800000000000000)) } with
    mem := [(2, 1), (20, 1), (65536, 1), (65538, 2), (0x20000, 1), (0x20002, 3), (0x30000, 0x1F), (0x30008, 0x37), (0x3000A, 0x20)] }

theorem wit_MemoryEventsComplete_rest :
    small.tollBase = 0 ∧ (tollS 0).tollBase = 0x100000 ∧ (tollS 0).devNum (0x100042) 1 % 2 = 0 ∧ (tollS 1).devNum (0x100042) 1 % 2 = 1 ∧
    (tollS 1).descNum 0 18 2 = 0 ∧
    ((shadowS true 0x200178).shadowMove 0).map (fun x => (x.1, x.2.isSome)) = some (true, true) ∧
    ((shadowS false 0x200100).shadowMove 0).map (fun x => (x.1, x.2.isSome)) = some (false, true) ∧
    ((shadowS false 0).shadowMove 0).map (fun x => (x.1, x.2.isSome)) = some (false, false) ∧ ((shadowS false 0).shadowNeed 0).isSome = true ∧
    small.fetchDue 0 = true ∧ small.fetchTime 0 (small.fetchLine 0) = 0 := by
  decide +kernel

/-- The next bundle of context 0 lies where no page table is. -/
def farPcS : State := smallC fun c => { c with pc := 0x8000000000 }

theorem wit_MemoryEventsComplete_fetchWalk : farPcS.fetchDue 0 = true ∧ farPcS.fetchTime 0 (farPcS.fetchLine 0) ≠ 0 := by
  have path : ∀ b : Bool, farPcS.homePath 0 (farPcS.nextId) b ⟨0, 65544⟩ ≠ 0 := by decide +kernel
  have line : farPcS.fetchLine 0 = .notPresent := by decide +kernel
  have walk : farPcS.walkEntries 0x8000000000 4 (farPcS.descNum 0 0 8) = ([65544], false) := by decide +kernel
  have time : farPcS.pageTime 0 farPcS.nextId 0 0x8000000000 =
      farPcS.homePath 0 farPcS.nextId (cacheHit farPcS.nextId (10 + 0 + (0x8000000000 / 65536) % 2 * 10)) ⟨0, 65544⟩ := by
    unfold State.pageTime
    rw [show farPcS.descValid 0 = true by decide +kernel, walk]
    simp [Nat.mod_one]
  refine ⟨by decide +kernel, ?_⟩
  rw [line]
  show farPcS.pageTime 0 farPcS.nextId 0 0x8000000000 + 0 ≠ 0
  rw [time]
  exact path _

/-- A pending result for each kind of destination, due now; `flags` as the flags of its elements. -/
def resultTo (d : Dest) (flags : List Mask) : Result := ⟨d, 0x55, 0xFFFF, [1, 3], 0, 0, 0, 0, 0, flags, false, false, false, none⟩

theorem wit_ResultLandsInItsDestination :
    ∀ d ∈ [Dest.s 3, .s 0, .a 5, .v 9, .m 2, .stack], let c := { ctx0 with pend := [resultTo d [1]] }
      ((smallC fun _ => c).ctx 0 = c ∧ c.pend = [resultTo d [1]] ∧ (resultTo d [1]).due ≤ (smallC fun _ => c).cycleOf 0 ∧
        c.landCause (resultTo d [1]) = none ∧ c.returning = none) ∧ ∀ i, (resultTo d [1]).dest ≠ .cr i := by
  intro d h
  refine ⟨?_, ?_⟩
  · revert d; decide +kernel
  · intro i
    revert d; simp [resultTo]

/-- A result that has landed with an enabled flag. -/
def struckTo (flag : Nat) : Result := { resultTo (.s 3) (List.replicate flag 0 ++ [1]) with struck := some 0x3F00#64 }

/-- Context 0 with a result that traps, its core having had its issue attempt. -/
def trapLandS (flag : Nat) : State :=
  { smallC fun c => { c with
      pend := [struckTo flag]
      regs := { c.regs with
        fpctl := 0x3F00#64
        thand := 0x400#64 } } with
    cores := [(0, { Core.fresh with tried := 1 })] }

/-- Context 0 has held core 0 for its quantum while context 1 is ready. -/
def quantumS : State :=
  { small with
    ctxs := [(0, { ctx0 with pend := [resultTo (.s 3) []] }), (1, { ctx0 with line := some (0, .bytes (natLe 64 0)) })]
    cores := [(0, { Core.fresh with holder := some 0 })]
    now := 1000000
    serais := [(0, { Serai.fresh with cyc := 1000000 })] }

/-- Context 0 has waited for a long time at a `wait` with a limit, or a `ph.wait`. -/
def waitingS (y : Nat) : State :=
  { smallC fun c => { c with
      line := some (0, .bytes (natLe 56 0 ++ natLe 8 y))
      waitSince := some 0
      phregs := [⟨3, 1, 0, 0⟩] } with
    now := 1000000 }

theorem wit_ContextAndPhaserEventsComplete :
    (∀ p ∈ [(5, Cause.snan), (0, .fpx)], ((trapLandS p.1).ctx 0).pend = [struckTo p.1] ∧
      (trapLandS p.1).landReady 0 = false ∧ (trapLandS p.1).landTrapReady 0 = true ∧
      ((trapLandS p.1).ctx 0).landCause (struckTo p.1) = some p.2 ∧
      ((trapLandS p.1).ctx 0).regs.inh = false ∧ ((trapLandS p.1).ctx 0).regs.thand &&& ~~~63#64 ≠ 0) ∧ isOutrider 0 = false ∧
    (quantumS.core 0).holder = some 0 ∧ quantumS.quantumOver 0 = true := by decide +kernel

theorem wit_ContextAndPhaserEventsComplete_limits :
    ((waitingS 0x1807004000000028).ranOut 0 ((waitingS 0x1807004000000028).waitLimit 0) (some 0)).isSome = true ∧
    ((waitingS 0x2300000000001003).ranOut 0 ((waitingS 0x2300000000001003).phLimit 0) ((waitingS 0x2300000000001003).phSince 0)).isSome = true := by decide +kernel

/-- Operations of context 0 at phaser `ph`, with its registration at phase 0 and `nsig` signallers. -/
def phaserS (ph nsig : Nat) (act : PhAct) : State :=
  let p : Phaser := ⟨0, nsig, 0, 0, 0, [(0, 1, 0, 0)]⟩
  { small with
    groups := [(1, { grp with phasers := [(3, p)] })]
    cons := [(7, { con7 with phasers := [(70, p)] })]
    phops := [⟨5, 0, 1, some 7, ph, act, 0, false⟩] }

theorem wit_ContextAndPhaserEventsComplete_phasers :
    (∀ ph ∈ [3, 70], ∀ act ∈ [PhAct.register 1 2 0, .drop, .arrive, .carried, .deliver 4],
      (phaserS ph 2 act).readyOp 5 = some ⟨5, 0, 1, some 7, ph, act, 0, false⟩) ∧ ((phaserS 70 2 .drop).con? 7).isSome = true ∧
    (∀ ph ∈ [3, 70], ∀ act ∈ [PhAct.drop, .arrive, .carried], let s := phaserS ph 2 act; let o : PhOp := ⟨5, 0, 1, some 7, ph, act, 0, false⟩
      (s.phaserOf o).reg? 0 = some (0, 1, 0, 0) ∧ ((s.phaserOf o).withdraw 0).full = false ∧ ((s.phaserOf o).count 0).full = false ∧
      (s.phaserOf o).full = false ∧ (((phaserS ph 1 act).phaserOf o).count 0).full = true ∧ s.phops = [o]) := by decide +kernel

/-- `small` at base cycle 100 with a command in a queue: waiting, or started and due. -/
def unitS (q : QueueId) (op : CmdOp) (started updating : Bool) (work : Nat) : State :=
  let s := small.push q 0x070001#24 op 0
  { s with
    now := 100
    cmds := s.cmds.map fun c => { c with
      start := if started then some 0 else none
      updating := updating
      work := work } }

/-- Its command. -/
def unitC (q : QueueId) (op : CmdOp) (started updating : Bool) (work : Nat) : Cmd :=
  ((unitS q op started updating work).cmds.head?).getD (Cmd.mk 0 q 0 0 0 0 op 0 0 none 0 0 0 0 [] none ([], []) [] 0 false 0 [] [] [] [] 0 0 0 none 0 [] 0)

def productOp : CmdOp := .product 0 0 15 0 0 shA shB

/-- A lease request, and a lease that has stood idle for 256 ticks while one stands. -/
def requestS (held : Bool) : State :=
  { small with
    now := 10240
    serais := [(0, { Serai.fresh with
      lease := if held then some ⟨1, 2, 0, 0⟩ else none
      reqs := [⟨0, 0, 0, 0, false, 0⟩] })] }

theorem wit_ArrayAndTileEventsComplete :
    ((requestS false).serai 0).winner = some ⟨0, 0, 0, 0, false, 0⟩ ∧ ((requestS false).serai 0).grantDue = true ∧
    (requestS true).leaseIdle 0 = true ∧
    (unitS (.array 0) (.zero 0 0x707) false false 0).arrayStart? 0 = some (unitC (.array 0) (.zero 0 0x707) false false 0) ∧
    (unitS (.array 0) productOp true false 0).updateBegin? 0 = some (unitC (.array 0) productOp true false 0) ∧
    (unitS (.array 0) (.zero 0 0x707) true true 0).arrayDone? 0 = some (unitC (.array 0) (.zero 0 0x707) true true 0) ∧
    (unitS (.array 0) productOp true true 0).arrayDone? 0 = some (unitC (.array 0) productOp true true 0) ∧
    (unitS (.array 0) .marker false false 0).markerDue? 0 = some (unitC (.array 0) .marker false false 0) ∧
    tailInc (unitC (.array 0) .marker false false 0).tail ≠ 0 ∧ tailInc (0 : BitVec 24) = 0 := by decide +kernel

def tileOp : CmdOp := .tile false 0 0 32 shA false

/-- A copy of 8 rows of 8 words. -/
def copyOp : CmdOp := .copy false 0 0x2001C07 false false

/-- A copy that an update phase has held up for 7 cycles. -/
def yieldS : State :=
  { unitS (.copy 0) copyOp true false 0 with
    cmds := (unitS (.copy 0) copyOp true false 0).cmds ++ (unitS (.array 0) (.zero 0 0x707) true true 0).cmds.map fun c => { c with id := 9 } }

theorem wit_ArrayAndTileEventsComplete_tiles :
    tileOp.tile?.isSome = true ∧ (unitS (.tile 0) tileOp false false 0).tileStart? 0 = some (unitC (.tile 0) tileOp false false 0) ∧
    (unitS (.tile 0) tileOp true false 0).dueIn (.tile 0) = some (unitC (.tile 0) tileOp true false 0) ∧
    (unitS (.copy 0) copyOp false false 0).copyStart? 0 = some (unitC (.copy 0) copyOp false false 0) ∧
    ((unitS (.copy 0) copyOp true false 0).beat? 0).isSome = true ∧ (yieldS.yield? 0).isSome = true ∧
    (unitS (.copy 0) copyOp true false 8).copyDone? 0 = some (unitC (.copy 0) copyOp true false 8) ∧
    (unitS (.relay 0) (.relayInit 0 0 64 2) false false 0).relayStart? 0 = some (unitC (.relay 0) (.relayInit 0 0 64 2) false false 0) ∧
    (unitS (.relay 0) (.relayInit 0 0 64 2) true false 0).dueIn (.relay 0) = some (unitC (.relay 0) (.relayInit 0 0 64 2) true false 0) := by
  decide +kernel

/-- `unitS` with bytes in the scratchpad of the group, a descriptor copy in the command, and more changes to it. -/
def engineS (q : QueueId) (op : CmdOp) (started updating : Bool) (work : Nat) (sp : Store 8) (copy : List Byte) : State :=
  let s := unitS q op started updating work
  { s with
    groups := [(1, { grp with sp := sp })]
    cmds := s.cmds.map fun c => { c with copyOf := copy } }

/-- Its command. -/
def engineC (q : QueueId) (op : CmdOp) (started updating : Bool) (work : Nat) (copy : List Byte) : Cmd :=
  { unitC q op started updating work with copyOf := copy }

/-- Descriptor of a `cp.fill` of 8 bytes at an address whose second byte is `hi`, with a chunk tag at 0x2000; `len` in bytes. -/
def fillD (hi len : Byte) : Store 8 := [(1, 0x10), (4, hi), (17, 1), (25, 0x20), (32, len)].filter fun x => x.2 != 0

def fillOp : CmdOp := .drover 4 0 0

/-- The same as a running command, which has run `work` chunks. -/
def fillS (hi : Byte) (updating : Bool) (work : Nat) : State :=
  engineS (.drover 0) fillOp true updating work [] ((fillD hi 8).bytes 0 96)

def fillC (updating : Bool) (work : Nat) : Cmd := engineC (.drover 0) fillOp true updating work ((fillD 0 8).bytes 0 96)

theorem wit_EngineEventsComplete_drovers :
    (∀ len ∈ [(8 : Byte), 0, 3], (engineS (.drover 0) fillOp false false 0 (fillD 0 len) []).droverStart? 0 =
      some (engineC (.drover 0) fillOp false false 0 [])) ∧
    (engineS (.drover 0) fillOp false false 0 (fillD 0 3) []).droverIllegal (engineC (.drover 0) fillOp false false 0 [])
      ⟨4, (fillD 0 3).bytes 0 96⟩ = true ∧
    (engineS (.drover 0) fillOp false false 0 (fillD 0 0) []).droverIllegal (engineC (.drover 0) fillOp false false 0 [])
      ⟨4, (fillD 0 0).bytes 0 96⟩ = false ∧ Drv.chunks ⟨4, (fillD 0 0).bytes 0 96⟩ = 0 ∧
    (∀ u ∈ [false, true], (match (fillS 0 u 0).chunkNow? 0 with | some (c, _, .ready _ _) => decide (c = fillC u 0) | _ => false) = true) ∧
    (match ({ fillS 0 false 0 with mem := [(2, 1)] } : State).chunkNow? 0 with | some (_, _, .fail (.access _)) => true | _ => false) = true ∧
    ((fillS 0 false 1).tagDue? 0).isSome = true := by decide +kernel

/-- The same with its tag written. -/
def taggedS : State := { fillS 0 false 1 with cmds := (fillS 0 false 1).cmds.map fun c => { c with number := 1 } }

/-- A drain of stores of scope 7, with a release or without. -/
def drainOp (rel : Bool) : CmdOp := .drain 1 7 rel none false

theorem wit_EngineEventsComplete_drains :
    (taggedS.droverDone? 0).isSome = true ∧
    (unitS (.drain 0) (drainOp false) false false 0).drainStart? 0 = some (unitC (.drain 0) (drainOp false) false false 0) ∧
    (∀ p ∈ [(false, false), (true, false), (true, true)],
      (unitS (.drain 0) (drainOp p.1) true p.2 0).drainDone? 0 = some (unitC (.drain 0) (drainOp p.1) true p.2 0)) ∧
    (∀ k ∈ [0, 2], (engineS (.step 0) (.step k 0 0 none) true false 0 [] []).scPoint? 0 =
      some (engineC (.step 0) (.step k 0 0 none) true false 0 [], true)) ∧
    (engineS (.step 0) (.step 0 0 0 none) true false 0 [] []).scEntry? (engineC (.step 0) (.step 0 0 0 none) true false 0 []) = none ∧
    (engineS (.step 0) (.step 2 0 0 none) true true 0 [] []).scDone? 0 = some (engineC (.step 0) (.step 2 0 0 none) true true 0 []) ∧
    (∀ k ∈ [0, 2], (engineS (.step 0) (.step k 0 0 none) false false 0 [] []).scStart? 0 =
      some (engineC (.step 0) (.step k 0 0 none) false false 0 [])) ∧
    scLegal 2 (natLe 64 0) = true ∧ scLegal 0 (natLe 64 0) = false := by decide +kernel

/-- The directory holds the entry of a command, locked by another. -/
def lockedS : State :=
  { engineS (.step 0) (.step 0 0 0 none) true false 0 [] [] with
    steps := [(0, [⟨true, 0, 7, 0, some 99, 0, 0, 0, 0, 0, 0, 0⟩])] }

/-- An entry of the command's tag and owner. -/
def fullE : SCEntry := ⟨true, 0, 7, 0, none, 0, 0, 0, 0, 0, 0, 0⟩

/-- A directory of such an entry and some more. -/
def dirS (rest : List SCEntry) : State :=
  { engineS (.step 0) (.step 1 0 0 none) true false 0 [] [] with steps := [(0, fullE :: rest)] }

theorem point_dirS (rest : List SCEntry) : ((dirS rest).scPoint? 0).map (·.2) = some true := rfl

theorem length_dirS (n : Nat) : ((dirS (List.replicate n fullE)).dir (scHome (scTag []))).length = n + 1 := by
  rw [show scHome (scTag []) = 0 by decide +kernel]
  show ((fullE :: List.replicate n fullE).filter (SCEntry.standing 100)).length = n + 1
  simp [SCEntry.standing, fullE]

theorem wit_EngineEventsComplete_full :
    ∃ s : State, 8192 ≤ (s.dir (scHome (scTag []))).length ∧ (s.scPoint? 0).map (·.2) = some true :=
  ⟨dirS (List.replicate 8191 fullE), Nat.le_of_eq (length_dirS 8191).symm, point_dirS _⟩

/-- Descriptor of a collective of 2 elements over table `t`, and of one that is legal for two ranks. -/
def colD (t : Byte) : Store 8 := [(16, 2), (22, t)].filter fun x => x.2 != 0

/-- Package 0 with the collective tables at 0x800000, of which table 0 lists both dies. -/
def colS (t : Byte) (started : Bool) (copy : List Byte) : State :=
  let s := engineS (.coll 0) (.coll 1 0) started false 0 (colD t) copy
  { s with
    tick := 100
    pk := { s.pk with coltab := 0x800000#64 }
    mem := s.mem ++ [(0x800000, 2), (0x800002, 1), (0x800013, 0x10)] }

def colC (started : Bool) (copy : List Byte) : Cmd := engineC (.coll 0) (.coll 1 0) started false 0 copy

/-- The running command with both segments, and with its time over. -/
def colRunS (finals : Nat) (tlim : Byte) : State :=
  let s := colS 0 true (Store.bytes [(16, 2), (28, tlim)] 0 96)
  { s with
    tick := 5000
    cmds := s.cmds.map fun c => { c with
      aux := 2
      finals := List.replicate finals ⟨0, 0, 2, 1, 0, 0, 0, 0, 1, true, [0], []⟩ } }

/-- The same with a failure. -/
def failedS (finals : Nat) : State :=
  { colRunS finals 0 with cmds := (colRunS finals 0).cmds.map fun c => { c with fault := some (9, 0, 0) } }

/-- A flit of table 0, of mode `mode`. -/
def flit0 (seq mode : Nat) : Flit := ⟨0, seq, 2, mode, 0, 0, 0, 0, 1, true, [0], []⟩

/-- The engine of die 0 has started nine commands of table 0. -/
def countedS : State := { small with pk := { small.pk with colCount := [(0, 9)] } }

theorem wit_EngineEventsComplete_collectives :
    (lockedS.scPoint? 0).map (·.2) = some false ∧
    (colS 64 false []).colStart? 0 = some (colC false []) ∧ colTopo ((colD 64).bytes 0 96) = 64 ∧
    (colS 0 false []).colStart? 0 = some (colC false []) ∧ colTopo ((colD 0).bytes 0 96) = 0 ∧
    (colS 0 false []).topoRank? 0 0 ((colS 0 false []).topoRanks 0) = some 0 ∧
    colLegal 1 ((colD 0).bytes 0 96) = true ∧ colFits 1 ((colS 0 false []).devNum ((colS 0 false []).topoAddr 0) 2) ((colD 0).bytes 0 96) = true ∧
    (colS 0 false []).rangesFail (colC false []) (colRanges 1 2 0 ((colD 0).bytes 0 96)) = none ∧
    ((colRunS 2 0).colDone? 0).isSome = true ∧
    (∀ c ∈ (colRunS 2 0).cmds, (colRunS 2 0).rangesFail c ((colRanges c.op.collMode c.aux c.occ c.copyOf).drop 1) = none) ∧
    ((colRunS 0 1).colLate? 0).isSome = true ∧
    small.colFor? 0 (flit0 3 1) = none ∧ (small.pk.colCount.get (colKey 0 0)).toNat ≤ (flit0 3 1).cseq ∧
    countedS.colFor? 0 (flit0 3 1) = none ∧
    (flit0 3 1).cseq < (countedS.pk.colCount.get (colKey 0 0)).toNat ∧
    ((colRunS 0 0).colFor? 0 (flit0 0 2)).isSome = true ∧ (∀ c ∈ (colRunS 0 0).cmds, c.fault = none ∧ c.agrees (flit0 0 2) = false) ∧
    (∀ b ∈ [false, true], ((colRunS 0 0).colFor? 0 { flit0 0 1 with final := b }).isSome = true ∧
      ∀ c ∈ (colRunS 0 0).cmds, c.agrees { flit0 0 1 with final := b } = true) ∧
    ((failedS 2).colFor? 0 (flit0 0 1)).isSome = true ∧ (∀ c ∈ (failedS 2).cmds, c.fault.isSome = true ∧ (failedS 2).cmd? c.id = some c) ∧
    ((failedS 2).colDone? 0).isSome = true := by
  decide +kernel

/-- A `launch` from a context to queue 5, whose ring is at 0x400000. -/
def launchS (started dev : Bool) (ring : Word := 0x400000) : State :=
  { engineS (.launch 0) (.launch 0 5) started false 0 [] (if started then launchB 1 else []) with
    queues := [(5, { Queue.closed with
      st := .open_
      ring := ring
      rsize := 64
      csize := 64
      dev := dev })] }

theorem wit_EngineEventsComplete_launch :
    ((launchS false true).launchStart? 0).isSome = true ∧ ((launchS true false).launchDone? 0).isSome = true ∧
    (∀ c ∈ (launchS true false).cmds, (launchS true false).launchable c = false) ∧ ((launchS true true).launchDone? 0).isSome = true ∧
    (∀ c ∈ (launchS true true).cmds, (launchS true true).launchable c = true ∧ c.op.launchQueue = 5) ∧
    ((launchS true true 0x8000000000).launchDone? 0).isSome = true ∧
    ([(0x400000 : Word), 0x8000000000].map fun r =>
      match (launchS true true r).asidRange 0 0 true ((launchS true true r).queue 5).prodSlot 128 with
        | .ok _ => true
        | .error _ => false) = [true, false] := by
  decide +kernel

/-! ## Single steps with the values of the manual's worked examples -/

/-- The state after a step, or reset where it stops. -/
def after (r : Host.Outcome State Fault Refusal) : State := match r with | .next t => t | _ => State.reset

/-- Value and flags of the results that a step has started. -/
def started (r : Host.Outcome State Fault Refusal) : List (Nat × Nat) :=
  ((after r).ctx 0).pend.map fun x => (x.value.toNat, x.fpFlags.toNat)

/-- `acting` with scalar registers and FPCTL. -/
def fpS (s : List (Nat × Word)) (fpctl : Word) : State :=
  { smallC (fun c => { c with s := s, regs := { c.regs with fpctl := fpctl } }) with issue := acting.issue }

/-- R127's example: `fadd.d s3, s1, s2` under RNE and under RTZ, NX both times. -/
theorem test_fadd_rounding :
    started (exec (.faddD ⟨3, 1, 2, 0, 0⟩) (fpS [(1, 0x3FF0000000000000), (2, 0x3CA8000000000000)] 0)) = [(0x3FF0000000000001, 0x10)] ∧
    started (exec (.faddD ⟨4, 1, 2, 0, 0⟩) (fpS [(1, 0x3FF0000000000000), (2, 0x3CA8000000000000)] 1)) = [(0x3FF0000000000000, 0x10)] := by
  decide +kernel

/-- R128's example: `xim` and `li`, then `lih`. -/
theorem test_li_lih :
    started (exec (.li ⟨4, 0, 0, 0, 0x89ABCDEF⟩) { acting with issue := { acting.issue with xim := some 0x234567 } }) = [(0x0023456789ABCDEF, 0)] ∧
    started (exec (.lih ⟨4, 4, 0, 0, 0x01234567⟩) (fpS [(4, 0x0023456789ABCDEF)] 0)) = [(0x0123456789ABCDEF, 0)] := by decide +kernel

/-- R47's example: 70,000.0 to binary16 under RTZ and RNE; -3.5 to .i32 under RDN, RTZ and RNE; 3.0 x 10^10 to .i32. -/
theorem test_fcvt :
    started (exec (.fcvt ⟨3, 1, 0, 17, 0⟩) (fpS [(1, 0x4788B800)] 1)) = [(0x7BFF, 0x14)] ∧
    started (exec (.fcvt ⟨3, 1, 0, 17, 0⟩) (fpS [(1, 0x4788B800)] 0)) = [(0x7C00, 0x14)] ∧
    ([3, 1, 0].map fun rm => started (exec (.fcvt ⟨3, 1, 0, 33, 0⟩) (fpS [(1, 0xC0600000)] rm))) =
      [[(2 ^ 64 - 4, 0x10)], [(2 ^ 64 - 3, 0x10)], [(2 ^ 64 - 4, 0x10)]] ∧
    started (exec (.fcvt ⟨3, 1, 0, 33, 0⟩) (fpS [(1, 0x50DF8476)] 0)) = [(0x7FFFFFFF, 0x01)] := by decide +kernel

/-- R42's example: a block of 6.0 and -0.7 packed to E2M1. -/
theorem test_pack_e2m1 :
    (packBlock 4 (([0x40C00000, 0xBF333333] ++ List.replicate 30 0).map (Fp.ofBits fmt32))).scale = 0x7F ∧
    (packBlock 4 (([0x40C00000, 0xBF333333] ++ List.replicate 30 0).map (Fp.ofBits fmt32))).elems = [7, 9] ++ List.replicate 30 0 ∧
    (packBlock 4 (([0x40C00000, 0xBF333333] ++ List.replicate 30 0).map (Fp.ofBits fmt32))).flags = 0x10 := by decide +kernel

/-- v6 of R143's example: 1.0, 2^24, 1.0, -2^24. -/
def vredS : State :=
  { smallC fun c => { c with v := [(6, 0xCB800000_3F800000_4B800000_3F800000#1024)] } with issue := acting.issue }

/-- R143's example: `vred.fadd.f32` and `vscan.fadd.f32`. -/
theorem test_vred_order :
    started (exec (.vred ⟨false, 5, 6, 0, 0, 0, 9, 0, 8⟩) vredS) = [(0, 0x10)] ∧
    started (exec (.vscan ⟨false, 7, 6, 0, 0, 0, 9, 0, 8⟩) vredS) = [(0x4B800000_4B800000_3F800000, 0x10)] := by decide +kernel

/-- R108's example: `mpush v5` and `minv` over a top of 0x0000FFFF, and `mcnt` of the result. -/
theorem test_masks :
    (((after (exec (.mpush ⟨false, 0, 5, 0, 0, 0, 0, 0, 0⟩)
      { smallC fun c => { c with stack := [0xFFFF], v := [(5, (List.range 16).foldl (fun x i => x ||| (1#1024 <<< (64 * i))) 0)] } with
        issue := acting.issue })).ctx 0).pend.map (·.stack)) = [[0x5555, 0xFFFF]] ∧
    (((after (exec (.minv ⟨false, 0, 0, 0, 0, 0, 0, 0, 0⟩)
      { smallC fun c => { c with stack := [0x5555, 0xFFFF] } with issue := acting.issue })).ctx 0).pend.map (·.stack)) = [[0xAAAA, 0xFFFF]] ∧
    started (exec (.mcnt ⟨false, 6, 1, 0, 0, 0, 0, 0, 0⟩)
      { smallC fun c => { c with stack := [0xAAAA, 0xFFFF] } with issue := acting.issue }) = [(8, 0)] := by decide +kernel

/-- The product of R201's example: one row of 1.0 against columns 12, -4, 8 and 5, 3 of 2^-6, with a budget of 2 planes. -/
def productEx : Prod × Store 8 × Store 8 :=
  (⟨0, 0, 0x108055, 0x01F00005, 0x01F01405⟩,
    (List.range 32).map (fun k => (k, 0x40)) ++ [(scaleBase, 0x7F)],
    -- planes 0 to 7 of column 0 then of column 1, as little-endian words
    (Store.setBytes [] 0 ((([0, 0, 1 + 2, 1 + 2 + 4, 2, 2, 2, 2] ++ [1 + 2, 2, 1, 0, 0, 0, 0, 0] : List Nat)).flatMap (natLe 4))) ++
      [(scaleBase, 0x7F), (scaleBase + 1, 0x7F)])

/-- R201's example: 0.25 and 0.09375, no flag, 4 planes done and 12 skipped. -/
theorem test_product :
    ((productEx.1.update productEx.2.1 productEx.2.2 [] []).1.get 0, (productEx.1.update productEx.2.1 productEx.2.2 [] []).1.get 1) =
      (0x3E800000, 0x3DC00000) ∧ (productEx.1.update productEx.2.1 productEx.2.2 [] []).2 = 0 ∧
    productEx.1.planeSums productEx.2.2 true = (4, 12) ∧ (productEx.1.columns productEx.2.2).map (·.planes) = [2, 2] := by decide +kernel

/-- R18's example: at 2,000 MHz a load from the own quarter takes 832 cycles less the issue and landing of the far-load queue. -/
theorem test_path : small.homePath 0 0 false ⟨0, 0⟩ = 1640 ∧
    ({ small with serais := [(0, { Serai.fresh with clk := 80 })] } : State).homePath 0 0 false ⟨0, 0⟩ = 832 := by decide +kernel

/-- R366's example: ALIGN in slot 4 at 0x8002. -/
theorem test_align_trap :
    let c := ((after (exec (.ld ⟨3, 2, 0, 0, 3, 0⟩)
      { smallC (fun c => { c with a := [(2, 0x8002)], pc := 0x4000, regs := { c.regs with thand := 0x100 } }) with
        issue := { small.issue with pc := 0x4000 } })).ctx 0)
    c.regs.tcause = 0x8000000000000005 ∧ c.regs.tpc = 0x4000 ∧ c.regs.tepc = 0x4000 ∧ c.regs.tslot = 4 ∧ c.regs.tval = 0x8002 ∧
      c.regs.tlat = 0 ∧ c.pc = 0x100 := by decide +kernel

/-- R366's example: `trap 7`. -/
theorem test_trap_seven :
    let c := ((after (exec (.trap ⟨0, 0, 0, 0, 0, 0, 0, 0, 0, 7⟩)
      { smallC (fun c => { c with pc := 0x4000, regs := { c.regs with thand := 0x100 } }) with
        issue := { acting.issue with pc := 0x4000 } })).ctx 0)
    c.regs.tcause = 0x8000000000070015 ∧ c.regs.tepc = 0x4040 ∧ c.regs.tslot = 7 ∧ c.regs.tval = 0 := by decide +kernel

/-- R311's example: MAXABS of inputs that differ by 2^-10 and 2^-12 is 2^-10, within 2^-9. -/
theorem test_metric :
    scMetricOf 0 ([0x3F800000, 0x3F802000, 0x3F7FF000].map (Fp.ofBits fmt32)) ((List.replicate 3 0x3F800000).map (Fp.ofBits fmt32)) =
      0x3F50000000000000 ∧ scWithin 0x3F50000000000000 0x3F60000000000000 = true ∧ scHome 0x77 = 0 := by decide +kernel

/-! ## Tchiley records and KZO files (R421 to R431) -/

/-- The bundle of R428's example: `li s4, BUF` with `xim`. -/
def relocEx : List Byte := natLe 8 0x0F10000000000000 ++ List.replicate 48 0 ++ natLe 8 0x0D00000000000000

/-- The contents of a link, where it succeeds. -/
def linked (r : Except LinkError (List Byte)) : List Byte := match r with | .ok b => b | .error _ => []
/-- The error of a link. -/
def linkFails (r : Except LinkError (List Byte)) : Option LinkError := match r with | .ok _ => none | .error e => some e

/-- R428's example: BUF resolved to 0x0012_3456_789A_BC00. -/
theorem test_simm56 :
    let b := linked (applyRelocs 0 (fun _ => some 0x00123456789ABC00) relocEx [⟨0, 1, 4, 0⟩])
    dnum b 0 8 = 0x0F100000789ABC00 ∧ dnum b 56 8 = 0x0D00000000123456 ∧ b.length = 64 := by decide +kernel

/-- R428's forbidden outcomes: a value that does not fit, and entries that overlap. -/
theorem test_link_errors :
    linkFails (applyRelocs 0 (fun _ => some 0x0080000000000000) relocEx [⟨0, 1, 4, 0⟩]) = some .doesNotFit ∧
    linkFails (applyRelocs 0 (fun _ => some 0x1000) relocEx [⟨0, 1, 4, 0⟩, ⟨0, 1, 3, 0⟩]) = some .overlap := by decide +kernel

/-- LOFF24 and YBR24 write OFF and CO and nothing else of their words (R428). -/
theorem test_offsets :
    dnum (linked (applyRelocs 0x1000 (fun _ => some 0x40) (natLe 8 0x010C06000000000F) [⟨0, 1, 6, -0x41⟩])) 0 8 = 0x010C0607FFFFF80F ∧
    dnum (linked (applyRelocs 0x1000 (fun _ => some 0x1000) (List.replicate 120 0 ++ natLe 8 0x0100000000000000) [⟨120, 1, 7, 0⟩])) 120 8 =
      0x0100000000FFFFFF := by decide +kernel

/-- A record `addi s9, s9, 1` with a branch to the record before it. -/
def recordEx : TRecord := ⟨[1, 7, 0, 0], [0x1124900000000001, 0x0100000000FFFFFF, 0, 0], 0⟩

/-- R421, R423, R424: the record is legal as the second of two, not as the first; its branch skips three native bundles back. -/
theorem test_record :
    recordEx.legal 2 1 = true ∧ recordEx.legal 2 0 = false ∧ ({ recordEx with rest := 1 } : TRecord).legal 2 1 = false ∧
    (recordEx.bundle ⟨fun i => 3 * i, fun i => 3 * i, 6⟩ 1)[0]? = some 0x1124900000000001 ∧
    (recordEx.bundle ⟨fun i => 3 * i, fun i => 3 * i, 6⟩ 1)[7]? = some 0x0100000000FFFFFD := by decide +kernel

/-- R423: two words that write one register; s0 counts for nothing. -/
theorem test_record_writes :
    (⟨[1, 4, 0, 0], [0x1124900000000001, 0x0102400000000018, 0, 0], 0⟩ : TRecord).legal 1 0 = false ∧
    (⟨[1, 4, 0, 0], [0x1124900000000001, 0x0102800000000018, 0, 0], 0⟩ : TRecord).legal 1 0 = true ∧
    (⟨[1, 4, 0, 0], [0x1100900000000001, 0x0100000000000018, 0, 0], 0⟩ : TRecord).legal 1 0 = true := by decide +kernel

/-- A consignment record with no `.group`, spbytes 0xC130, energy 20,000 and current 1,500 (R431). -/
def conEx : List Byte := List.replicate 20 0 ++ natLe 4 0xC130 ++ List.replicate 16 0 ++ natLe 4 20000 ++ natLe 4 1500 ++ List.replicate 16 0

/-- R431: shape 1, 1, 1, 1, 1, 1, one granule, PHN from the highest package phaser; ENERGY is required. -/
theorem test_launch_fields :
    (match launchFields conEx ⟨0x40, none, none, 0x10000, 0xC130, [.phReg { yw with co := 70 }, .phArr { yw with co := 3 }]⟩ with
      | .ok k => [k.p, k.g, k.spg, k.tsg, k.phn, k.slen, k.energy, k.current] | .error _ => []) =
      [1, 1, 1, 0, 7, 0xC130, 20000, 1500] ∧
    (match launchFields (List.replicate 64 0) ⟨0x40, none, none, 0, 0, []⟩ with | .ok _ => none | .error e => some e) = some .required := by
  decide +kernel

/-- R424, R426: `addi` and a branch back to it take one bundle and three; the branch counts native bundles, and the map names the
record of each bundle.  A section with a record that R423 forbids is not installed. -/
theorem test_install :
    let first : TRecord := ⟨[1, 0, 0, 0], [0x1124900000000001, 0, 0, 0], 0⟩
    (match install [first, recordEx] with | some (code, map) => some (code.map fun b => b[7]?, map) | none => none) =
      some ([some 0, some 0x0100000000FFFFFF, some 0, some 0], natLe 4 0 ++ natLe 4 1 ++ natLe 4 1 ++ natLe 4 1) ∧
    install [recordEx, first] = none := by decide +kernel

/-- R422: a record reads its operands before any result is written, and its results stand before the next record: `addi s9, s9, 1`
once, and the branch makes record 0 the next one. -/
theorem test_record_runs :
    (match TCode.run ⟨[recordEx, recordEx], 4096, plainLayout [recordEx, recordEx]⟩ 0 1 { small with ctxs := [(0, { ctx0 with s := [(9, 5)] })] } with
      | .next r t => some (r, (t.ctx 0).s.get 9, (t.ctx 0).pend.length) | _ => none) = some (0, 6, 0) := by decide +kernel

/-! ## kzas (R73 to R79, R429, R431) -/

/-- A place in a text section at 0x40, with a symbol of another object, a label at 0 and a scratch symbol. -/
def site0 : Site := ⟨[("BUF".toList, .extern_), ("top".toList, .at_ 0 0), ("blk".toList, .at_ 2 64)], 0, 0x40⟩
/-- A bundle of some lines there. -/
def kz (ls : List String) : Except AsmError (List Word × List AsmReloc) :=
  asmBundle site0 (fun t => if t == "blk".toList then some 3 else none) (ls.map String.toList)
/-- Its words. -/
def kzWords (ls : List String) : List Word := match kz ls with | .ok r => r.1 | .error _ => []
/-- The types of its fields for the linker. -/
def kzFields (ls : List String) : List (Nat × Nat) := match kz ls with | .ok r => r.2.map fun f => (f.offset, f.type) | .error _ => []
/-- Why it is rejected. -/
def kzFails (ls : List String) : Option AsmError := match kz ls with | .ok _ => none | .error e => some e

/-- R73's example: its five lines and the words that the table gives. -/
theorem test_kz_bundle :
    kzWords ["addi s9, s9, 1", "vfma.f32 v10, v11, @bc, v12", "vadd.i32 v20, v21, v22, m2", "mma t0, t1, a4, s9 wait y4>=2 sig y5+1",
             "bc s7"] =
      [0x1124900000000001, 0x260280B0000C1300, 0x0105015058004400, 0x0801212000040815, 0, 0, 0, 0x0000002380000000] := by decide +kernel

/-- Words of the examples of R272, R107, R159, R265, R355 and R391. -/
theorem test_kz_words :
    (kzWords ["sem.add y5, 1", "wait y5>=3"])[7]? = some 0x190500C000000205 ∧ (kzWords ["sem.rd s8, y5"])[7]? = some 0x1B00000000000805 ∧
    (kzWords ["loop s20, 3"])[7]? = some 0x0900002A00000003 ∧
    (kzWords ["vlds.i16 v40, [a3 + s5<<1 + 64]"])[4]? = some 0x030A062800020009 ∧
    (kzWords ["fence.rel.pkg"])[5]? = some 0x20000000000000B0 ∧ (kzWords ["launch [a6], s9 sig y2+1"])[6]? = some 0x2830090000000009 ∧
    (kzWords ["pace.ann s5"])[7]? = some 0x3800002280000200 := by decide +kernel

/-- R101's example: a value that needs 56 bits takes `xim`; `lih` takes its immediate unsigned. -/
theorem test_kz_xim :
    (kzWords ["li s4, 0x0023_4567_89AB_CDEF"])[0]? = some 0x0F10000089ABCDEF ∧
    (kzWords ["li s4, 0x0023_4567_89AB_CDEF"])[7]? = some 0x0D00000000234567 ∧
    (kzWords ["lih s4, s4, 0x0123_4567"])[0]? = some 0x1010400001234567 := by decide +kernel

/-- R429 and R431's example: SIMM56 with `xim`, SIMM32 where `wait` has the Y slot or the symbol is of the scratchpad, LOFF24. -/
theorem test_kz_relocations :
    (kzWords ["li s4, BUF"])[0]? = some 0x0F10000000000000 ∧ (kzWords ["li s4, BUF"])[7]? = some 0x0D00000000000000 ∧
    kzFields ["li s4, BUF"] = [(0x40, 4)] ∧ kzFields ["li s4, BUF", "wait y3>=1"] = [(0x40, 3)] ∧ kzFields ["li s4, blk"] = [(0x40, 3)] ∧
    kzFields ["st.64 s3, [a2 + BUF]"] = [(0x68, 6)] := by decide +kernel

/-- R74 to R76: what kzas rejects. -/
theorem test_kz_rejects :
    kzFails ["vadd.i32 v1, v2, v3", "vadd.i32 v4, v5, v6", "vadd.i32 v7, v8, v9"] = some .tooManyVectors ∧
    kzFails ["addi s1, s2, 1", "mov s3, s4"] = some .slotTaken ∧ kzFails ["bc s1", "bz s2, top"] = some .biClash ∧
    kzFails ["mma t0, t1, a4, s9 wait y4>=64"] = some .range ∧ kzFails ["addi s1, s2, 1 sig y5+1"] = some .tail ∧
    kzFails ["first 1", "last 2"] = some .fieldClash ∧ kzFails ["st.64 s3, [a2 + 8388608]"] = some .doesNotFit ∧
    kzFails ["vshl.i32 v1, v2, 32"] = some .doesNotFit := by decide +kernel

/-- R77: precedence of C, 64-bit two's complement, underscores; R78: a parameter as a whole word and behind an operand prefix. -/
theorem test_kz_text :
    constOf [] "-1 + 3*2 << 4 | 0x0_F & 0b1010".toList = some 0x5A ∧ constOf [] "-7 / 2".toList = some (-3) ∧
    substLine [("Q".toList, "2".toList), ("E".toList, "f32".toList)] "vadd.E drQ, Q, xQ".toList = "vadd.f32 dr2, 2, xQ".toList := by decide +kernel

/-- The bytes of the section of an assembled source. -/
def kzBytes (s : Nat) (ls : List String) : List Byte :=
  match assemble 64 (ls.flatMap fun l => l.toList ++ ['\n']) with
  | .ok x => (x.sections_.getD s (AsmSection.empty [] 1)).bytes
  | .error _ => []

/-- R78: data, `dup`, `.if` and `.equ`; decimal literals are rounded to nearest. -/
theorem test_kz_data :
    kzBytes 1 [".equ K, 2", ".data", ".word K dup K, -1 ; two and one", ".if K - 2", ".word 9", ".else", ".f32 -0.1, inf", ".endif"] =
      natLe 4 2 ++ natLe 4 2 ++ natLe 4 0xFFFFFFFF ++ natLe 4 0xBDCCCCCD ++ natLe 4 0x7F800000 := by decide +kernel

/-- The two lines of R79's example with some `nop` bundles between them. -/
def latEx (k : Nat) : LatCode :=
  ([kzWords ["vfma.f32 v10, v11, v12, v13"]] ++ List.replicate k (List.replicate 8 0) ++ [kzWords ["vadd.f32 v14, v10, v15"]]).map
    fun ws => ⟨ws, false, false⟩

/-- R79's example: rejected with three bundles between the two lines, accepted with four. -/
theorem test_latcheck :
    wayError (latEx 3) ((List.range 5).map LatPoint.entry) = true ∧ wayError (latEx 4) ((List.range 6).map LatPoint.entry) = false := by
  decide +kernel

/-! ## More states that meet hypotheses of the statements -/

/-- The fold of a reduction exists for every step function. -/
theorem wit_CrossLaneResults_fold (m : Mask) (w : Nat) (first : Nat → Nat) (comb : Nat → Nat → Nat) :
    ∃ acc : Nat → Option Nat, acc 0 = none ∧ ∀ e < 1024 / w, acc (e + 1) = if m.getLsbD (e * w / 32) = true then
      some (match acc e with | none => first e | some y => comb y e) else acc e :=
  ⟨fun n => Nat.rec none (fun e y => if m.getLsbD (e * w / 32) = true then some (match y with | none => first e | some z => comb z e) else y) n,
    rfl, fun _ _ => rfl⟩

/-- Every function of a reduction, packs to one block and to two, and the hash, on legal words. -/
theorem wit_CrossLaneResults_forms :
    (∀ f ∈ [0, 1, 2, 3, 4, 5], Instr.wf (.vred ⟨false, 1, 2, 0, 0, 0, 2, 0, f⟩) = true ∧ Instr.wf (.vscan ⟨true, 1, 2, 0, 0, 0, 2, 0, f⟩) = true) ∧
    (∀ f ∈ [8, 9, 10], Instr.wf (.vred ⟨false, 1, 2, 0, 0, 0, 9, 0, f⟩) = true) ∧
    Instr.wf (.vmxpack ⟨false, 1, 2, 0, 0, 0, 9, 0, 0⟩) = true ∧ Instr.wf (.vmxpack ⟨false, 1, 2, 0, 0, 0, 11, 0, 4⟩) = true ∧
    Instr.wf (.vhashSrp ⟨false, 1, 2, 32, 0, 0, 9, 0, 31⟩) = true := by decide

/-- Strided and indexed accesses: a first element misaligned or past the bound, and a second one. -/
theorem wit_MaskAndScratchTraps_elements :
    (small.eaStride ⟨1, 0, 0, 2, 2, 0⟩ 0).toNat % 4 ≠ 0 ∧ (small.eaStride ⟨1, 0, 0, 4096, 2, 0⟩ 0).toNat % 4 = 0 ∧
    small.myGroup.spLim < (small.eaStride ⟨1, 0, 0, 4096, 2, 0⟩ 0).toNat + 4 ∧
    (actingR [(1, 2)] []).eaStride ⟨1, 0, 1, 0, 2, 0⟩ 1 = 2 ∧ (actingR [(1, 4096)] []).eaStride ⟨1, 0, 1, 0, 2, 0⟩ 1 = 4096 ∧
    (∀ i ∈ [Instr.vlds ⟨1, 0, 1, 0, 2, 0⟩, .vsts ⟨1, 0, 1, 0, 2, 0⟩, .vldx ⟨1, 0, 0, 2, 2, 0⟩, .vstx ⟨1, 0, 0, 2, 2, 0⟩], i.wf = true) := by decide

/-- The relay buffer of `small` with other slots: none FILLED, none held. -/
def relayS (slots : List SlotState) : State := { small with groups := [(1, { grp with relays := [⟨0, 0, 256, 128, 2, true, false, 0, 0, 0, slots, none⟩] })] }

theorem wit_RelayTakeAndGiveResults_none :
    (∀ c, SlotState.filled c ∉ [SlotState.taken 0 7 false, .free]) ∧
    (relayS [.taken 0 7 false, .free]).myGroup.relays[0]? = some ⟨0, 0, 256, 128, 2, true, false, 0, 0, 0, [.taken 0 7 false, .free], none⟩ ∧
    (⟨0, 0, 256, 128, 2, true, false, 0, 0, 0, [.free, .free], none⟩ : Relay).heldBy 0 = 0 ∧
    (relayS [.free, .free]).myGroup.relays[0]? = some ⟨0, 0, 256, 128, 2, true, false, 0, 0, 0, [.free, .free], none⟩ ∧
    (relayS [.free, .free]).me.region = none ∧ (relayS [.free, .free]).issue.phase = .whole := by
  refine ⟨fun c => by simp, by decide, by decide, by decide, by decide, by decide⟩

/-- Each queue of the C slot full, with no tail to check. -/
theorem wit_QueuesFillInOrder_full :
    (∀ q ∈ [QueueId.step 0, .coll 0, .launch 0, .drain 0, .relay 0, .array 0, .tile 0, .copy 0],
      ((fullS q q.capacity).cmds.filter fun c => c.queue == q).length = q.capacity ∧ (fullS q q.capacity).me.gid = 1) ∧
    small.launchUnit = 0 ∧ seraiOf small.issue.cid = 0 ∧ dieOf small.issue.cid = 0 ∧ isDepot small.issue.cid = false ∧
    Instr.wf (.drain ⟨1, 31, 0, 0x1AFF, 0⟩) = true := by decide +kernel

/-- A full shadow stack before its walk, one whose spill or fill has no legal address, and an empty one. -/
theorem wit_TransferResults_shadow :
    16 ≤ (shadowS true 0).me.shadow.length ∧ (shadowS true 0).shadowWalked 0 ((shadowS true 0).spillAt 0) = false ∧
    ((shadowS true 0).spillAt 0).toNat < 2 ^ 57 ∧ (shadowS false 0).me.shadow = [] ∧
    (shadowS false 0).shadowWalked 0 ((shadowS false 0).sspNow 0) = false ∧
    (shadowS true 0x200178).shadowWalked 0 ((shadowS true 0x200178).spillAt 0) = true ∧
    (match (shadowS true 0x200178).translate 0 0 0x200178 8 .push false with | .ok _ => true | _ => false) = true ∧
    ({ shadowS true 0x200178 with mem := [(2, 1)] } : State).translate 0 0 0x200178 8 .push false = .access ∧
    2 ^ 57 ≤ ((smallC fun c => { c with regs := { c.regs with ssp := 0x0200000000000000#64 } }).sspNow 0).toNat := by decide +kernel

/-- A store that a drain's completion signal published, read through a `sem.rd` of semaphore 3. -/
def signalS : State :=
  { smallC fun c => { c with semReads := [(3, 9)] } with
    posted := [⟨1, 1, 0, some 7, .plain, ⟨⟨0, 64⟩, [1]⟩, [], [.signal 1 0 3 5], false, 0, [], 0, 0, [], 0, [], 1⟩] }

theorem wit_FenceResults_signal :
    (∃ p ∈ signalS.posted, Rel.signal signalS.me.gid (coreOf signalS.issue.cid) 3 5 ∈ p.rel) ∧ (3, 9) ∈ signalS.me.semReads ∧ 5 < 9 := by decide

/-- The outrider of die 1. -/
theorem wit_PaceInstructionResults_die1 :
    let s : State := { outrider with issue := { outrider.issue with cid := 801 } }
    isOutrider s.issue.cid = true ∧ locOf s.issue.cid ≠ 800 ∧ Instr.wf (.paceLeave ⟨0, 0, 0, 0, 0, 0, 0, 0, 0, 0⟩) = true := by decide

/-- Context 0 of `fetched` with the line of `mlease` alone. -/
def leaseS : State :=
  { fetched with ctxs := [(0, { ctx0 with line := some (0, .bytes (bundleOf ((((encode (.mlease ⟨0, 0, 0, 0, 0xFF, 0⟩))).getD (0, 0)).2.toNat * 2 ^ 192))) })] }

theorem wit_StepRunsTheDecodedBundle_lease :
    leaseS.inputs = [] ∧ leaseS.eventBefore.isNone = true ∧ leaseS.usedCores.find? leaseS.mayTry = some 0 ∧ isSerai (firstCtxOf 0) = true ∧
    ((leaseS.firstRequests 0).serai 0).grantDue = true ∧ ((fetched.firstRequests 0).serai 0).grantDue = false := by decide +kernel

/-- A second context of the group of `parkedS`, parked on the same number: its rejoin is noted with the group's. -/
theorem wit_ResumptionEventsComplete_group :
    let s : State := { parkedS with ctxs := parkedS.ctxs ++ [(1, { ctx0 with parked := some 9 })] }
    (s.ctxs.map (·.1)).Nodup ∧ (∀ c ∈ s.ctxs, c.2.parked = some 9 → c.2.asid = 0 → ∃ r ∈ s.rejoins, r.trap = false ∧ (s.ctx r.cid).gid = c.2.gid ∧
      (s.ctx r.cid).parked = some 9 ∧ (s.ctx r.cid).asid = 0) := by decide

/-- A word of an event object, and a place for a record. -/
theorem wit_QueueEventsComplete_writes :
    small.posted = [] ∧ small.asidNum? 0 0 0x4000 = some 0 ∧ (match small.asidRange 0 0 true 0x4000 8 with | .ok l => l | .error _ => []) = [(⟨0, 0x4000⟩, 8)] ∧
    (match small.asidRange 0 0 true 0x8000 32 with | .ok l => l | .error _ => []) = [(⟨0, 0x8000⟩, 32)] ∧
    (match small.asidWrite 0 0 0x8000 con7.record with | .ok _ => true | .error _ => false) = true := by decide +kernel

/-- A store published at system scope, performed in an earlier cycle; faults and events with no store posted. -/
theorem wit_MemoryEventsComplete_settled :
    let p : Posted := { storeP with pub := [(7, 0)], performed := true }
    let s : State := { small with posted := [p], now := 5 }
    s.posted = [p] ∧ (7, 0) ∈ p.pub ∧ p.piece.at_.mt = 0 ∧ p.piece.at_.addr + p.piece.data.length ≤ Config.hbmBytes ∧ p.born ≠ s.now ∧
    s.readStands p = false ∧ ({ memoryS with posted := [] } : State).asidFull 0 36 40 32 = false ∧
    ({ memoryS with posted := [] } : State).eventReady 0 3 = true := by decide +kernel

/-- R71: `vfdiv` and `vfsqrt` take 24 and 28 cycles for `.f64`, 16 and 18 for `.f32`, also where kzas and the translator look. -/
theorem test_frozen_latency :
    ([Instr.vfdiv ⟨false, 1, 2, 3, 0, 0, 8, 0, 0⟩, .vfdiv ⟨false, 1, 2, 3, 0, 0, 9, 0, 0⟩, .vfsqrt ⟨false, 1, 2, 0, 0, 0, 8, 0, 0⟩,
      .vfsqrt ⟨false, 1, 2, 0, 0, 0, 9, 0, 0⟩].map fun i => (encode i).map fun w => frozenLatency w.1 w.2) =
      [some 24, some 16, some 28, some 18] := by decide

/-! ## Further clauses -/

/-- Entries of every kind of data at the head of the queue, behind one that a region holds. -/
def popS (held : Bool) (d : FarData) (k : FarKind) : State :=
  smallC fun c => { c with
    region := if held then some ⟨c.record, 0, [], [], [], []⟩ else none
    far := (if held then [⟨4, .load, 0, 4, false, .arrived 1, true, 0, 0, none, 0, 0, 0, [], []⟩] else []) ++
      [⟨5, k, 0x40, 4, false, d, false, 0, 0, none, 0, 0, 0, [], []⟩] }

theorem wit_FarLoadAndPopResults_pops :
    (∀ b ∈ [false, true], ∀ d ∈ [FarData.arrived 9, .walking, .waiting, .coming 7 true, .access, .notPresent 3, .poisoned],
      ∀ k ∈ [FarKind.load, .vector], ∃ held e, (popS b d k).me.far = held ++ e :: [] ∧ held.length = b.toNat ∧ (∀ f ∈ held, f.held = true) ∧
        e.held = false ∧ (∀ f ∈ held ++ [], f.id ≠ e.id) ∧ e.data = d ∧ e.kind = k ∧ (popS b d k).me.region.isSome = b) ∧
    (popS false .access .load).myCycle = 0 ∧ (popS false .access .load).me.fgrp = 0 := by
  refine ⟨?_, rfl, rfl⟩
  intro b hb d _ k _
  have : b = false ∨ b = true := by cases b <;> simp
  rcases this with rfl | rfl
  · exact ⟨[], _, rfl, rfl, by simp, rfl, by simp, rfl, rfl, rfl⟩
  · refine ⟨[_], _, rfl, rfl, ?_, rfl, ?_, rfl, rfl, rfl⟩ <;> · intro f h; obtain rfl := List.mem_singleton.1 h; simp

def rawRelay : Relay := ⟨0, 0, 256, 128, 2, false, false, 0, 0, 0, [.free, .free], none⟩

def heldRelay : Relay := ⟨0, 0, 256, 128, 2, true, false, 1, 0, 1, [.taken 0 7 false, .taken 0 8 false], none⟩

def givenSlots : List SlotState := [.taken 0 7 true, .filled 3]

/-- A buffer beyond the declaration, one that is not set up, one without a filled slot, and one whose older slot context 0 gives. -/
theorem wit_RelayTakeAndGiveResults_more :
    small.myGroup.nrelays ≤ ((1 : BitVec 6).extractLsb' 0 4).toNat ∧ Instr.wf (.rlyTake ⟨1, 0, 0, 0, 1, 0⟩) = true ∧
    Instr.wf (.rlyGive ⟨0, 0, 0, 0, 1, 0⟩) = true ∧
    rawRelay.ready = false ∧ (∀ c, SlotState.filled c ∉ rawRelay.slots) ∧ rawRelay.running = false ∧ rawRelay.heldBy 0 = 0 ∧
    heldRelay.slots[0]? = some (.taken 0 7 false) ∧
    (∀ j < 2, ∀ p ∈ [7, 8], heldRelay.slots[j]? = some (.taken 0 p false) → j = 0 ∨ 7 < p) ∧
    (∀ j ≤ 0, ∃ x, givenSlots[(0 + j) % 2]? = some x ∧ ∃ c o, x = .taken c o true) ∧
    (∃ j ≤ 1, ∃ x, givenSlots[(0 + j) % 2]? = some x ∧ x = .filled 3) := by
  refine ⟨by decide, by decide, by decide, rfl, by simp [rawRelay], rfl, rfl, rfl, by decide, fun j h => ?_, 1, Nat.le_refl 1, _, rfl, rfl⟩
  obtain rfl : j = 0 := by omega
  exact ⟨_, rfl, 0, 7, rfl⟩

/-- No context of the serai holds the lease, and another one does. -/
theorem wit_LeaseInstructions_none :
    (∀ l, (small.serai (seraiOf small.issue.cid)).lease = some l → l.holder ≠ small.issue.cid) ∧ isSerai small.issue.cid = true ∧
    (∀ l, (({ small with serais := [(0, { Serai.fresh with lease := some ⟨5, 2, 0, 0⟩ })] } : State).serai 0).lease = some l → l.holder ≠ 0) ∧
    Instr.wf (.mlease ⟨0, 0, 0, 0, 0, 0⟩) = true ∧ Instr.wf (.mfree ⟨0, 0, 0, 0, 0, 0⟩) = true := by
  refine ⟨fun l h => (nomatch h), rfl, fun l h => ?_, rfl, rfl⟩
  obtain rfl := Option.some.inj h
  decide

/-- Descriptors of level 0 and 7, of no body, with a reserved bit; a level that is active and one not contained; pointers that stand at address
2 and at the end of the scratchpad. -/
theorem wit_LoopSetUpResults_traps :
    (0x10#64 : Word).extractLsb' 0 3 = 0 ∧ (0x17#64 : Word).extractLsb' 0 3 = 7 ∧ (0x02#64 : Word).extractLsb' 4 16 = 0 ∧
    (0x2000012#64 : Word).extractLsb' 25 7 ≠ 0 ∧
    (∃ l, (atPc 64 (smallC loopC)).me.loops[0]? = some l ∧ l.active = true ∧ 1 ≤ 0 + 1 ∧ 64 * l.body < ((atPc 64 (smallC loopC)).issue.pc + 64 - l.start).toNat + 64 * 4) ∧
    ((smallC (regsC [] [(2, 2)])).me.ra 2).toNat % 4 ≠ 0 ∧ small.myGroup.spLim < ((smallC (regsC [] [(2, 4092)])).me.ra 2).toNat + 8 ∧
    (∀ i ∈ [Instr.loopImm ⟨0, 0, 1, 1, 0, 0, 0, 0, 0, 3⟩, .loopReg ⟨0, 0, 1, 1, 0, 0, 0, 0, 0, 3⟩, .loopx ⟨0, 0, 1, 1, 0, 0, 0, 0, 0, 2⟩], i.wf = true) :=
  ⟨rfl, rfl, rfl, by decide, ⟨_, rfl, rfl, by decide, by decide⟩, by decide, by decide, by decide⟩

/-- Context 0 acts with a pending result that raises an enabled flag in this cycle, and with one that raises none. -/
def strikeS (flags : List Mask) : State :=
  { smallC fun c => { c with
      pend := [resultTo (.s 3) flags]
      regs := { c.regs with fpctl := 0x3F00#64 } } with
    issue := acting.issue }

theorem wit_YieldHaltMarkResults_landing :
    (strikeS [1]).performs (.yield YW.quiet) ∧
    (∃ r ∈ (strikeS [1]).me.pend, r.due ≤ (strikeS [1]).myCycle ∧ (strikeS [1]).me.landCause r ≠ none) ∧
    (∀ r ∈ (strikeS []).me.pend, (strikeS []).me.landCause r = none) :=
  ⟨.inl rfl, ⟨_, List.mem_cons_self, by decide, by decide⟩, by decide⟩

/-- A control register's result of the context, of a port's register, and a result that strikes. -/
theorem wit_ResultLandsInItsDestination_control :
    (∀ i ∈ [0x002, 0x003, 0x815], let c := { ctx0 with pend := [resultTo (.cr i) []] }
      (resultTo (.cr i) []).due ≤ (smallC fun _ => c).cycleOf 0 ∧ c.landCause (resultTo (.cr i) []) = none ∧ c.returning = none ∧ c.finished = none) ∧
    ((strikeS [1]).ctx 0).pend = [resultTo (.s 3) [1]] ∧ (resultTo (.s 3) [1]).struck = none ∧ (strikeS [1]).me.landCause (resultTo (.s 3) [1]) = some .fpx ∧
    (strikeS [1]).me.returning = none := by decide +kernel

/-- Hardware has counted in this cycle; the queues are closed, and one is not. -/
theorem wit_RegisterWritesComplete_counts :
    (((small.tally 0x817 16 3).tally 0x833 1 48).pk.bumps.filter fun b => b.1 == 0x833) = [(0x833, 1, 48)] ∧ small.queues = [] ∧
    (∃ q ∈ ({ small with queues := [(0, { Queue.closed with st := .open_ })] } : State).queues, q.2.st ≠ .closed) :=
  ⟨by decide, rfl, ⟨_, List.mem_cons_self, by decide⟩⟩

/-- A member and a joining package that has been welcomed, at a boundary, with emergencies of this boundary and of a later one. -/
def boundaryS (mstate : Nat) : State :=
  { memberS mstate .live 100000 with
    pace := { (memberS mstate .live 100000).pace with
      boundary := 100000
      welcomes := 1
      emergencies := [(100000, 80), (200000, 90)] } }

theorem wit_ConvoyEventsComplete_boundary :
    (∀ m ∈ [1, 2, 3], (boundaryS m).roundDue = true ∧ (boundaryS m).pace.mstate = m ∧ (boundaryS m).pace.boundary ≤ 100000 ∧
      (boundaryS m).pace.welcomes ≠ 0 ∧ (boundaryS m).pace.halted = false) ∧
    100000 < ({ (boundaryS 3).pace with boundary := 200000 } : Pace).boundary ∧
    (∀ p ∈ (memberS 2 .live 100000).pace.emergencies, p.1 ≤ 100000) := by decide

/-- Consignments 7 and 8 of queues 3 and 5 of one class, both of which fit. -/
def rivalsS : State :=
  { small with
    ctxs := []
    groups := []
    lastSelect := [(0, 1)]
    cons := [(7, { con7 with
      queue := 3
      pk := Packet.ofBytes (launchB 1)
      state := .accepted }), (8, { con7 with
      queue := 5
      pk := Packet.ofBytes (launchB 1)
      state := .accepted })] }

/-- The place that serai 0 offers to each, where power admits it there, which rests on a free value (log 11). -/
def spot0 : Spot := ⟨0, [(0, [0])], 0, 0, [], []⟩

theorem wit_SchedulerEventsComplete_choice :
    ({ rivalsS with lastSelect := [] } : State).selectionDue 0 = true ∧ rivalsS.candidates 0 = [7, 8] ∧
    min 7 ((rivalsS.queue 3).cls + (rivalsS.queue 3).raises) = min 7 ((rivalsS.queue 5).cls + (rivalsS.queue 5).raises) ∧
    queueTurn (Table.find? rivalsS.lastServed 0) 3 < queueTurn (Table.find? rivalsS.lastServed 0) 5 ∧
    (∀ x ∈ rivalsS.cons, rivalsS.offers x.2 = true ∧ x.2.saved = [] ∧ x.2.pk.phn = 0 ∧ x.2.quarterOf 0 = none) ∧
    spot0.depots = [] ∧ spot0.relays = [] ∧ (spot0.cores.flatMap (·.2)).Nodup ∧ (∀ a ∈ spot0.cores.flatMap (·.2), a < 768) := by decide +kernel

theorem wit_SchedulerEventsComplete_spot (h : rivalsS.admits 0 (Packet.ofBytes (launchB 1)) = true) :
    rivalsS.spotOn (Packet.ofBytes (launchB 1)) [] 0 = some spot0 := by
  unfold State.spotOn
  rw [h]
  decide +kernel

theorem wit_SchedulerEventsComplete_spots (h : rivalsS.admits 0 (Packet.ofBytes (launchB 1)) = true) :
    ∀ x ∈ rivalsS.cons, rivalsS.spotFor x.2 x.2.nextGroup = some spot0 := by
  intro x hx
  obtain ⟨h1, h2, h3, h4⟩ : x.2.pk = Packet.ofBytes (launchB 1) ∧ x.2.quarterOf (x.2.nextGroup / x.2.pk.s) = none ∧ x.2.dieOf (x.2.nextGroup / x.2.pk.s) = 0 ∧
      x.2.pk.depots = 0 := by revert x; decide +kernel
  have hs := wit_SchedulerEventsComplete_spot h
  unfold State.spotFor
  dsimp only
  rw [h2, h3, h4, h1]
  generalize Packet.ofBytes (launchB 1) = k at hs ⊢
  simp [List.range, List.range.loop, hs]

/-- The image of group 1 has its chunk left to copy, or none. -/
theorem wit_SchedulerEventsComplete_image :
    ((placedS true).group 1).copyNext = 0 ∧ (((placedS true).con? 7).any fun x => decide (4096 * 0 < x.imageBytes)) = true ∧
    (((placedS true).con? 7).any fun x => match (placedS true).asidRead x.die x.asid (x.imageChunk 0) (min 4096 x.imageBytes) with
      | .ok _ => true | _ => false) = true ∧
    (((placedS true).con? 7).any fun x => decide (x.imageBytes ≤ 4096 * 1)) = true := by decide +kernel
end Sys2Proof.Tests
end

section
/-! SUPPORT. How a slot runs: every instruction with a word is handled by `slotOp`, and the slots of a bundle are what the decoder reads
at PC (R48, R50). -/

namespace Sys2Proof.Machine

open Sys2Proof

/-- Every instruction that has a word is handled by `slotOp`, in the slot of its word; an event has none (R48, R50).  The
instructions named have their checks and effect read off their meaning, which a bare `rfl` would unfold far into. -/
theorem exec_eq_slotOp {i : Instr} {w : Nat × BitVec 64} (h : encode i = some w) (s : State) :
    ∃ (v : State → Verdict) (f : State → State), exec i s = slotOp w.1 i v f s := by
  cases i with
  | vlds x => cases h; exact ⟨_, _, Eq.refl (execVlds x s)⟩
  | vldx x => cases h; exact ⟨_, _, Eq.refl (execVldx x s)⟩
  | vsts x => cases h; exact ⟨_, _, Eq.refl (execVsts x s)⟩
  | vstx x => cases h; exact ⟨_, _, Eq.refl (execVstx x s)⟩
  | paceAnnE x => cases h; exact ⟨_, _, Eq.refl (execPaceAnnE x s)⟩
  | _ => cases h <;> exact ⟨_, _, by rfl⟩

/-- A slot of a bundle that acts runs by `exec` (R50). -/
theorem exec_act_eq_runSlot {i : Instr} {w : Nat × BitVec 64} (h : encode i = some w) (s : State) :
    exec i { s with issue := { s.issue with phase := .act } } = .next (s.runSlot i) := by
  obtain ⟨v, f, acts⟩ := exec_eq_slotOp h { s with issue := { s.issue with phase := .act } }
  rw [slotOp_act rfl] at acts
  rw [State.runSlot, acts]

/-- A numbered entry stands in a list just where the list has it. -/
theorem mem_range_zip_iff {α : Type} {l : List α} {k : Nat} {x : α} : (k, x) ∈ (List.range l.length).zip l ↔ l[k]? = some x := by
  rw [List.mem_iff_getElem?]
  simp only [List.getElem?_zip_eq_some]
  constructor
  · rintro ⟨j, hj, h⟩
    obtain ⟨hlt, rfl⟩ := List.getElem?_eq_some_iff.1 hj
    simpa using h
  · intro h
    exact ⟨k, List.getElem?_range (List.getElem?_eq_some_iff.1 h).1, h⟩

/-- The instructions of a bundle are those that the decoder reads from the bytes at PC (R48). -/
theorem Ctx.mem_slotInstrs_iff {c : Ctx} {bytes : List Byte} (h : c.line = some (c.pc, .bytes bytes)) (k : Nat) (i : Instr) :
    (k, i) ∈ c.slotInstrs ↔ (decodeBytes (c.csrc c.lineY) bytes)[k]? = some (.ok i) := by
  have hb : c.lineBytes = bytes := by simp [Ctx.lineBytes, h]
  have len : (decodeBytes (c.csrc c.lineY) bytes).length = 8 := by simp [decodeBytes, decodeBundle]
  unfold Ctx.slotInstrs Ctx.slots
  rw [hb, ← len, ← mem_range_zip_iff, List.mem_filterMap]
  constructor
  · rintro ⟨⟨j, e⟩, hm, hx⟩
    cases e with
    | error e => cases hx
    | ok i' => cases hx; exact hm
  · intro hm
    exact ⟨_, hm, rfl⟩

end Sys2Proof.Machine
end

section
/-! SUPPORT. The line of the next bundle stays at hand while what is due lands, a return completes and a hold ends: none of these moves PC
or drops the line (R87, R90, R278, R370). -/

namespace Sys2Proof.Machine

open Sys2Proof

/-! ## Of one context -/

section
variable (c : Ctx)

@[simp] theorem Ctx.ws_hasLine (r : BitVec 6) (x : Word) : (c.ws r x).hasLine = c.hasLine := by unfold Ctx.ws; split <;> rfl
@[simp] theorem Ctx.wa_hasLine (r : BitVec 5) (x : Word) : (c.wa r x).hasLine = c.hasLine := by unfold Ctx.wa; split <;> rfl
@[simp] theorem Ctx.wv_hasLine (r : BitVec 10) (x l : VWord) : (c.wv r x l).hasLine = c.hasLine := rfl
@[simp] theorem Ctx.modRegion_hasLine (f : Region → Region) : (c.modRegion f).hasLine = c.hasLine := rfl
@[simp] theorem Ctx.putS_hasLine (r : BitVec 6) (x : Word) (b : Bool) : (c.putS r x b).hasLine = c.hasLine := by
  unfold Ctx.putS; split <;> simp
@[simp] theorem Ctx.putA_hasLine (r : BitVec 5) (x : Word) (b : Bool) : (c.putA r x b).hasLine = c.hasLine := by
  unfold Ctx.putA; split <;> simp
@[simp] theorem Ctx.putV_hasLine (r : BitVec 10) (x l : VWord) (b : Bool) : (c.putV r x l b).hasLine = c.hasLine := rfl
@[simp] theorem Ctx.recorded_hasLine (b : Bool) (f : Recorded → Recorded) : (c.recorded b f).hasLine = c.hasLine := by
  cases b <;> rfl
@[simp] theorem Ctx.orFlags_hasLine (f : Word) (b : Bool) : (c.orFlags f b).hasLine = c.hasLine :=
  Ctx.recorded_hasLine _ _ _
@[simp] theorem Ctx.strike_hasLine (x : Result) : (c.strike x).hasLine = c.hasLine := Ctx.orFlags_hasLine _ _ _

@[simp] theorem Ctx.crWrite_hasLine (idx : Nat) (x : Word) (b : Bool) : (c.crWrite idx x b).hasLine = c.hasLine := by
  unfold Ctx.crWrite
  dsimp only
  split
  case h_19 => split <;> cases b <;> rfl
  all_goals cases b <;> rfl

theorem Ctx.finishOne_hasLine (t : Nat) (x : Finish) : (c.finishOne t x).hasLine = c.hasLine := by
  unfold Ctx.finishOne
  split
  · split <;> rfl
  · split <;> rfl

/-- A fold of steps none of which moves PC or drops the line. -/
theorem Ctx.foldl_hasLine {α : Type} {f : Ctx → α → Ctx} (hf : ∀ c x, (f c x).hasLine = c.hasLine) (l : List α) (c : Ctx) :
    (l.foldl f c).hasLine = c.hasLine := by
  induction l generalizing c with
  | nil => rfl
  | cons x l ih => rw [List.foldl_cons, ih, hf]

@[simp] theorem Ctx.refinish_hasLine (idx t : Nat) : (c.refinish idx t).hasLine = c.hasLine := by
  unfold Ctx.refinish
  split
  · rfl
  · split
    · rfl
    · split
      · exact Ctx.foldl_hasLine (fun c x => c.finishOne_hasLine t x) _ _
      all_goals rfl

@[simp] theorem Ctx.landOne_hasLine (x : Result) : (c.landOne x).hasLine = c.hasLine := by
  have flags : (c.orFlags x.fpFlags (c.insideRegion x)).hasLine = c.hasLine := c.orFlags_hasLine _ _
  unfold Ctx.landOne
  dsimp only
  split
  case h_1 | h_2 | h_3 => simp
  case h_4 | h_5 => exact (Ctx.recorded_hasLine _ _ _).trans flags
  case h_6 => exact flags

@[simp] theorem Ctx.finishReturn_hasLine (t : Nat) : (c.finishReturn t).hasLine = c.hasLine := by
  unfold Ctx.finishReturn
  dsimp only
  split
  · split
    · split
      · exact c.ws_hasLine _ _
      · exact c.wa_hasLine _ _
      · rfl
      · rfl
    · rfl
  · rfl

end

/-! ## Of a context of the package -/

section
variable (s : State) (q : Nat)

theorem State.modCtx_hasLine (k : Nat) {f : Ctx → Ctx} (hf : ∀ c, (f c).hasLine = c.hasLine) :
    ((s.modCtx k f).ctx q).hasLine = (s.ctx q).hasLine := by
  rw [State.ctx_modCtx]
  split
  · next h => rw [hf, h]
  · rfl

/-- The same of a fold over states. -/
theorem State.foldl_hasLine {α : Type} {f : State → α → State} (hf : ∀ s x, ((f s x).ctx q).hasLine = (s.ctx q).hasLine) (l : List α)
    (s : State) : ((l.foldl f s).ctx q).hasLine = (s.ctx q).hasLine := by
  induction l generalizing s with
  | nil => rfl
  | cons x l ih => rw [List.foldl_cons, ih, hf]

theorem State.post_hasLine (k : Nat) (p : Piece) : ((s.post k p).ctx q).hasLine = (s.ctx q).hasLine :=
  State.modCtx_hasLine _ q k fun _ => rfl

theorem State.spillAll_hasLine (k : Nat) : ((s.spillAll k).ctx q).hasLine = (s.ctx q).hasLine := by
  unfold State.spillAll
  rw [State.modCtx_hasLine, State.foldl_hasLine]
  · intro s i
    dsimp only
    split
    · exact s.post_hasLine q k _
    · rfl
  · exact fun _ => rfl

theorem State.tresumeLink_ctxs (k idx : Nat) (v : Word) : (s.tresumeLink k idx v).ctxs = s.ctxs := by
  unfold State.tresumeLink
  dsimp only
  split
  · split <;> rfl
  · rfl

theorem State.crLand_hasLine (k idx : Nat) (x : Word) (b : Bool) : ((s.crLand k idx x b).ctx q).hasLine = (s.ctx q).hasLine := by
  unfold State.crLand
  split
  · exact s.modCtx_hasLine q k fun c => c.crWrite_hasLine idx x b
  · split
    · rfl
    · split
      · simp only [State.ctx, State.tresumeLink_ctxs]
      · rfl

theorem State.landOne_hasLine (k : Nat) (x : Result) : ((s.landOne k x).ctx q).hasLine = (s.ctx q).hasLine := by
  have spilled (b : Prop) [Decidable b] : ((if b then s.spillAll k else s).ctx q).hasLine = (s.ctx q).hasLine := by
    split
    · exact s.spillAll_hasLine q k
    · rfl
  have dropped (c : Ctx) : ({ c.landOne x with pend := (c.landOne x).pend.filter fun y => y != x } : Ctx).hasLine = c.hasLine :=
    c.landOne_hasLine x
  unfold State.landOne
  dsimp only
  split
  · rw [State.modCtx_hasLine, State.crLand_hasLine]
    · exact (State.modCtx_hasLine _ q k dropped).trans (spilled _)
    · exact fun c => c.refinish_hasLine _ _
  · exact (State.modCtx_hasLine _ q k dropped).trans (spilled _)

theorem State.finishReturn_hasLine (k : Nat) : ((s.finishReturn k).ctx q).hasLine = (s.ctx q).hasLine :=
  State.modCtx_hasLine _ q k fun c => c.finishReturn_hasLine _

theorem State.landDue_hasLine (k : Nat) : ((s.landDue k).ctx q).hasLine = (s.ctx q).hasLine := by
  unfold State.landDue
  dsimp only
  rw [State.modCtx_hasLine, State.foldl_hasLine]
  · split
    · exact s.finishReturn_hasLine q k
    · rfl
  · intro s x
    split
    · exact s.landOne_hasLine q k x
    · rfl
  · exact fun c => Ctx.foldl_hasLine Ctx.strike_hasLine _ c

theorem State.reinject_hasLine (k : Nat) : ((s.reinject k).ctx q).hasLine = (s.ctx q).hasLine := by
  unfold State.reinject
  dsimp only
  split
  · split
    · exact (State.landDue_hasLine _ q k).trans (s.finishReturn_hasLine q k)
    · rfl
  · split
    · rfl
    · rw [State.landDue_hasLine, State.modCtx_hasLine]
      exact fun _ => rfl

theorem State.phReturn_hasLine (k n : Nat) : ((s.phReturn k n).ctx q).hasLine = (s.ctx q).hasLine := by
  unfold State.phReturn
  dsimp only
  split
  · exact State.modCtx_hasLine _ q k fun _ => rfl
  · rfl

theorem State.endHold_hasLine (k : Nat) : ((s.endHold k).ctx q).hasLine = (s.ctx q).hasLine := by
  unfold State.endHold
  split
  · split
    · rfl
    · rw [State.modCtx_hasLine, State.phReturn_hasLine]
      exact fun _ => rfl
  · rfl

theorem State.phReturn_issue (k n : Nat) : (s.phReturn k n).issue = s.issue := by
  unfold State.phReturn
  dsimp only
  split <;> rfl

theorem State.endHold_issue (k : Nat) : (s.endHold k).issue = s.issue := by
  unfold State.endHold
  split
  · split
    · rfl
    · exact s.phReturn_issue k _
  · rfl

end

end Sys2Proof.Machine
end

section
/-! SUPPORT. What each branch of a step comes to: the inputs, a core's attempt, the end of the cycle (R4, R85, R182, R254). -/

namespace Sys2Proof.Machine

open Sys2Proof

/-! ## Inputs -/

theorem takeInput_head {p : Instr → Bool} {i : Instr} (h : p i = true) (l : List Instr) :
    takeInput p (i :: l) = some (i, l) := by
  simp [takeInput, h]

theorem takeInput_eq_none {p : Instr → Bool} {l : List Instr} (h : ∀ j ∈ l, p j = false) : takeInput p l = none := by
  induction l with
  | nil => rfl
  | cons i l ih =>
    obtain ⟨hi, hl⟩ := List.forall_mem_cons.1 h
    simp [takeInput, hi, ih hl]

/-- Where every input waits for the end of the cycle, none acts at once. -/
theorem takeInput_now_eq_none {l : List Instr} (last : ∀ j ∈ l, hostLast j = true) : takeInput (fun j => !hostLast j) l = none :=
  takeInput_eq_none fun j hj => by simp [last j hj]

/-- The oldest input acts at the end of a cycle where it is a peer's, or no peer's comes after it (R254). -/
theorem lastInput_cons {i : Instr} {l : List Instr} (hi : hostLast i = true)
    (h : fromPeer i = true ∨ ∀ j ∈ l, fromPeer j = false) : lastInput (i :: l) = some (i, l) := by
  unfold lastInput
  by_cases p : fromPeer i = true
  · rw [takeInput_head p]
  · have noPeer : takeInput fromPeer (i :: l) = none :=
      takeInput_eq_none (List.forall_mem_cons.2 ⟨by simpa using p, h.resolve_left p⟩)
    rw [noPeer, takeInput_head hi]

/-! ## A core's attempt -/

theorem State.frameFor_ctx (s : State) (k q : Nat) : (s.frameFor k).ctx q = s.ctx q := rfl

/-- The issue frame of a context's bundle is that context's own. -/
theorem State.frame_me (s : State) (k : Nat) :
    (((s.reinject k).frameFor k).endHold k).me = (((s.reinject k).frameFor k).endHold k).ctx k := by
  rw [State.me, State.endHold_issue]
  rfl

/-- What lands or returns as a bundle is tried leaves its line at hand. -/
theorem State.frame_hasLine (s : State) (k : Nat) : ((((s.reinject k).frameFor k).endHold k).ctx k).hasLine = (s.ctx k).hasLine := by
  rw [State.endHold_hasLine, State.frameFor_ctx, State.reinject_hasLine]

/-- An attempt of a context whose bundle is at hand, not suppressed and not held, and passes its wait and all of its checks
(R50, R84, R106, R271). -/
theorem State.attemptCtx_of_ok {s f h : State} {cid k : Nat} {pc : Word} {bytes : List Byte} {is : List (Nat × Instr)}
    (hasLine : (s.ctx cid).hasLine = true) (hf : f = ((s.reinject cid).frameFor cid).endHold cid)
    (line : f.me.line = some (pc, .bytes bytes)) (his : is = f.me.slotInstrs) (noSkip : f.me.suppressed f.issue.common = false)
    (noHold : f.held cid = false) (noWait : f.waitFails = false) (hh : h = f.seekStore is)
    (ok : leasedVerdict is ((h.startMark is).allChecks f.me.slots is) = (k, .ok)) :
    s.attemptCtx cid = .used (h.issueBundle is) := by
  have me : f.me = f.ctx cid := by rw [hf]; exact s.frame_me cid
  have fline : (f.ctx cid).hasLine = true := by rw [hf, s.frame_hasLine, hasLine]
  rw [me] at line his noSkip ok
  subst h is
  unfold State.attemptCtx
  simp only [← hf, fline, noSkip, noHold, line, noWait, ok, Bool.not_true, Bool.false_eq_true, if_false]

/-- A core that holds a context which may issue now, and whose attempt uses the core (R85). -/
theorem State.coreAttempt_of_used {s g u : State} {core cid : Nat} (hg : g = s.modCore core fun x => { x with tried := s.coreCycle core + 1 })
    (holder : (g.core core).holder = some cid) (live : (g.ctx cid).live = true) (due : (g.ctx cid).notBefore ≤ s.coreCycle core)
    (used : g.attemptCtx cid = .used u) : s.coreAttempt core = .used u.endFrame := by
  unfold State.coreAttempt
  simp only [← hg, holder, live, used, Nat.not_lt.2 due, decide_false, Bool.and_false, Bool.false_eq_true, if_false, if_true]

theorem State.issueOrGrant_of_used {s u : State} {core : Nat}
    (noGrant : isSerai (firstCtxOf core) = false ∨ ((s.firstRequests (core / 4)).serai (core / 4)).grantDue = false)
    (used : s.coreAttempt core = .used u) : s.issueOrGrant core = .next u := by
  have off : (isSerai (firstCtxOf core) && ((s.firstRequests (core / 4)).serai (core / 4)).grantDue) = false :=
    Bool.and_eq_false_iff.2 noGrant
  simp only [State.issueOrGrant, off, used, Bool.false_eq_true, if_false]

/-- A lease first asked for in this cycle is granted before a core of its serai issues (R182). -/
theorem State.issueOrGrant_of_grantDue {s : State} {core : Nat} (serai : isSerai (firstCtxOf core) = true)
    (due : ((s.firstRequests (core / 4)).serai (core / 4)).grantDue = true) :
    s.issueOrGrant core = exec (.leaseGrant (core / 4)) (s.firstRequests (core / 4)) := by
  simp only [State.issueOrGrant, serai, due, Bool.and_self, if_true]
  rfl

/-! ## The order of a step -/

theorem step_of_input {s : State} {i : Instr} {rest : List Instr} (h : s.inputs = i :: rest) (now : hostLast i = false) :
    step s = exec i { s with inputs := rest } := by
  have first : takeInput (fun j => !hostLast j) s.inputs = some (i, rest) := by rw [h, takeInput_head (by simp [now])]
  simp only [step, first]

/-- With no input but those of the end of the cycle, and no event due before the cores, the first core that may try is next. -/
theorem step_of_core {s : State} {core : Nat} (last : ∀ j ∈ s.inputs, hostLast j = true) (before : s.eventBefore = none)
    (may : s.usedCores.find? s.mayTry = some core) : step s = s.issueOrGrant core := by
  simp only [step, takeInput_now_eq_none last, before, may]

/-- With no core to try and no event due after the cores either, the cycle ends. -/
theorem step_of_quiet {s : State} (last : ∀ j ∈ s.inputs, hostLast j = true) (before : s.eventBefore = none)
    (idle : s.usedCores.find? s.mayTry = none) (after : s.eventAfter = none) : step s = endCycle s := by
  simp only [step, takeInput_now_eq_none last, before, idle, after]

theorem endCycle_of_last {s : State} {i : Instr} {rest : List Instr} (h : s.inputs = i :: rest) (last : hostLast i = true)
    (first : fromPeer i = true ∨ ∀ j ∈ rest, fromPeer j = false) : endCycle s = exec i { s with inputs := rest } := by
  simp only [endCycle, h, lastInput_cons last first]

theorem endCycle_of_none {s : State} (inputs : s.inputs = []) (acts : s.acts = []) : endCycle s = .next s.advance := by
  have noInput : lastInput s.inputs = none := by rw [inputs]; rfl
  simp only [endCycle, noInput, acts]

/-- Settles O42: `step` follows its four branches, the attempt of the holder its checks, and each slot `slotOp`. -/
theorem stepRunsTheDecodedBundle : Obligations.StepRunsTheDecodedBundle := by
  unfold Obligations.StepRunsTheDecodedBundle
  refine ⟨fun s i rest => step_of_input, ?_, ?_, ?_, fun c bytes k i h => Ctx.mem_slotInstrs_iff h k i,
    fun s i w h => exec_act_eq_runSlot h s⟩
  · intro s f g h core cid k pc bytes is inputs before may hg noGrant holder live hasLine due hf line his noSkip noHold noWait hh ok
    have used := State.attemptCtx_of_ok hasLine hf line his noSkip noHold noWait hh ok
    rw [step_of_core (by simp [inputs]) before may]
    exact State.issueOrGrant_of_used noGrant (State.coreAttempt_of_used hg holder live due used)
  · intro s core inputs before may serai due
    rw [step_of_core (by simp [inputs]) before may, State.issueOrGrant_of_grantDue serai due]
  · intro s i rest last before idle after
    rw [step_of_quiet last before idle after]
    exact ⟨fun h first => endCycle_of_last h (last i (by simp [h])) first, endCycle_of_none⟩

end Sys2Proof.Machine
end

section
/-! SUPPORT. What reset leaves: no table of the state has an entry, so each record is read at its initial value (R13, R80, R328, R333). -/

namespace Sys2Proof.Machine

open Sys2Proof

@[simp] theorem State.reset_ctx (k : Nat) : State.reset.ctx k = .idle := rfl
@[simp] theorem State.reset_queue (q : Nat) : State.reset.queue q = .closed := rfl
@[simp] theorem State.reset_serai (k : Nat) : State.reset.serai k = .fresh := rfl
@[simp] theorem State.reset_mem_get (a : Nat) : State.reset.mem.get a = 0 := rfl
@[simp] theorem State.reset_pk : State.reset.pk = .fresh := rfl
@[simp] theorem State.reset_pace : State.reset.pace = .fresh := rfl

@[simp] theorem Ctx.idle_rs (r : BitVec 6) : Ctx.idle.rs r = 0 := ite_self 0

/-- Settles O45: at every number the reset state reads an idle context, a closed queue and a serai at its first clock; the
remaining registers are fields of `PkgRegs.fresh` and `Pace.fresh`. -/
theorem resetLeaves : Obligations.ResetLeaves := by
  unfold Obligations.ResetLeaves
  have contexts : ∀ c, (State.reset.ctx c).live = false := fun c => by rw [State.reset_ctx]; rfl
  have queues : ∀ q, (State.reset.queue q).st = .closed := fun q => by rw [State.reset_queue]; rfl
  have serais : ∀ k, (State.reset.serai k).clk = 160 ∧ (State.reset.serai k).level = 0 ∧ (State.reset.serai k).lease = none :=
    fun k => by rw [State.reset_serai]; exact ⟨rfl, rfl, rfl⟩
  have scalars : ∀ j r, (State.reset.ctx j).rs r = 0 := fun j r => by rw [State.reset_ctx, Ctx.idle_rs]
  have controls : ∀ j, (State.reset.ctx j).regs.fpctl = 0 ∧ (State.reset.ctx j).regs.thand = 0 :=
    fun j => by rw [State.reset_ctx]; exact ⟨rfl, rfl⟩
  refine ⟨State.reset_memWf, State.reset_mem_get, queues, contexts, serais, rfl, rfl, ?_⟩
  rw [State.reset_pk, State.reset_pace]
  exact ⟨rfl, rfl, rfl, rfl, rfl, rfl, rfl, rfl, rfl, rfl, rfl, scalars, controls⟩

end Sys2Proof.Machine
end

section
/-! SUPPORT. What the landing of a result does to its context: its destination takes the value, FPSTAT its flags, and the rest stays as it
is, the shadows of an open region apart (R32, R54, R90, R109, R131, R247). -/

namespace Sys2Proof.Machine

open Sys2Proof

/-! ## Registers after a write (R54, R131) -/

section
variable (c : Ctx)

/-- A write of a scalar register changes the scalar registers only; that of an address register those only. -/
theorem Ctx.ws_eq (r : BitVec 6) (x : Word) : c.ws r x = { c with s := if r = 0 then c.s else c.s.set r.toNat x } := by
  unfold Ctx.ws; split <;> rfl

theorem Ctx.wa_eq (r : BitVec 5) (x : Word) : c.wa r x = { c with a := if r = 0 then c.a else c.a.set r.toNat x } := by
  unfold Ctx.wa; split <;> rfl

theorem Ctx.rs_ws_self {r : BitVec 6} (h : r ≠ 0) (x : Word) : (c.ws r x).rs r = x := by simp_all [Ctx.ws, Ctx.rs]

theorem Ctx.rs_ws_of_ne {r q : BitVec 6} (h : r ≠ q) (x : Word) : (c.ws r x).rs q = c.rs q := by
  unfold Ctx.ws
  split
  · rfl
  · simp [Ctx.rs, BitVec.toNat_inj, h.symm]

theorem Ctx.ra_wa_self {r : BitVec 5} (h : r ≠ 0) (x : Word) : (c.wa r x).ra r = x := by simp_all [Ctx.wa, Ctx.ra]

theorem Ctx.ra_wa_of_ne {r q : BitVec 5} (h : r ≠ q) (x : Word) : (c.wa r x).ra q = c.ra q := by
  unfold Ctx.wa
  split
  · rfl
  · simp [Ctx.ra, BitVec.toNat_inj, h.symm]

/-- A vector register takes the enabled bits only. -/
theorem Ctx.getLsbD_rv_wv_self (r : BitVec 10) (x lanes : VWord) {i : Nat} (h : i < 1024) :
    ((c.wv r x lanes).rv r).getLsbD i = if lanes.getLsbD i then x.getLsbD i else (c.rv r).getLsbD i := by
  cases e : lanes.getLsbD i <;> simp [Ctx.wv, Ctx.rv, BitVec.getLsbD_or, BitVec.getLsbD_and, BitVec.getLsbD_not, e, h, -BitVec.getLsbD_eq_getElem]

theorem Ctx.rv_wv_of_ne {r q : BitVec 10} (h : r ≠ q) (x lanes : VWord) : (c.wv r x lanes).rv q = c.rv q := by
  simp [Ctx.wv, Ctx.rv, BitVec.toNat_inj, h.symm]

/-! ## The destination of a result takes its value -/

/-- The context with the value of a result in its destination: a landing without its flags and without the shadows of a region. -/
def Ctx.takes (x : Result) : Ctx :=
  match x.dest with
  | .s r => c.ws r (x.value.setWidth 64)
  | .a r => c.wa r (x.value.setWidth 64)
  | .v r => c.wv r x.value x.lanes
  | .m r => { c with m := c.m.set r.toNat (x.value.setWidth 32) }
  | .stack => { c with stack := x.stack }
  | .cr _ => c

variable {x : Result}

/-- It changes scalar, address, vector and mask registers only. -/
theorem Ctx.takes_eq (x : Result) :
    ∃ s a v w m st, c.takes x = { c with s := s, a := a, v := v, vwritten := w, m := m, stack := st } := by
  unfold Ctx.takes
  split
  next r _ => exact ⟨_, _, _, _, _, _, c.ws_eq r _⟩
  next r _ => exact ⟨_, _, _, _, _, _, c.wa_eq r _⟩
  all_goals exact ⟨_, _, _, _, _, _, rfl⟩

theorem Ctx.takes_cr {i : BitVec 12} (h : x.dest = .cr i) : c.takes x = c := by simp [Ctx.takes, h]

theorem Ctx.takes_rs_self {r : BitVec 6} (h : x.dest = .s r) (hr : r ≠ 0) : (c.takes x).rs r = x.value.setWidth 64 := by
  simp only [Ctx.takes, h, c.rs_ws_self hr]

theorem Ctx.takes_rs_of_ne {q : BitVec 6} (h : x.dest ≠ .s q) : (c.takes x).rs q = c.rs q := by
  unfold Ctx.takes
  split
  next r hr => exact c.rs_ws_of_ne (fun e => h (hr.trans (congrArg _ e))) _
  next => rw [c.wa_eq]; rfl
  all_goals rfl

theorem Ctx.takes_ra_self {r : BitVec 5} (h : x.dest = .a r) (hr : r ≠ 0) : (c.takes x).ra r = x.value.setWidth 64 := by
  simp only [Ctx.takes, h, c.ra_wa_self hr]

theorem Ctx.takes_ra_of_ne {q : BitVec 5} (h : x.dest ≠ .a q) : (c.takes x).ra q = c.ra q := by
  unfold Ctx.takes
  split
  next => rw [c.ws_eq]; rfl
  next r hr => exact c.ra_wa_of_ne (fun e => h (hr.trans (congrArg _ e))) _
  all_goals rfl

theorem Ctx.takes_rv_self {r : BitVec 10} (h : x.dest = .v r) {i : Nat} (hi : i < 1024) :
    ((c.takes x).rv r).getLsbD i = if x.lanes.getLsbD i then x.value.getLsbD i else (c.rv r).getLsbD i := by
  simp only [Ctx.takes, h, c.getLsbD_rv_wv_self r x.value x.lanes hi]

theorem Ctx.takes_rv_of_ne {q : BitVec 10} (h : x.dest ≠ .v q) : (c.takes x).rv q = c.rv q := by
  unfold Ctx.takes
  split
  next => rw [c.ws_eq]; rfl
  next => rw [c.wa_eq]; rfl
  next r hr => exact c.rv_wv_of_ne (fun e => h (hr.trans (congrArg _ e))) _ _
  all_goals rfl

theorem Ctx.takes_m_self {r : BitVec 3} (h : x.dest = .m r) : (c.takes x).m.get r.toNat = x.value.setWidth 32 := by
  simp [Ctx.takes, h]

theorem Ctx.takes_m_of_ne {q : BitVec 3} (h : x.dest ≠ .m q) : (c.takes x).m.get q.toNat = c.m.get q.toNat := by
  unfold Ctx.takes
  split
  next => rw [c.ws_eq]
  next => rw [c.wa_eq]
  next => rfl
  next r hr =>
    have ne : q ≠ r := fun e => h (hr.trans (congrArg _ e.symm))
    simp [BitVec.toNat_inj, ne]
  all_goals rfl

theorem Ctx.takes_stack_self (h : x.dest = .stack) : (c.takes x).stack = x.stack := by simp [Ctx.takes, h]

theorem Ctx.takes_stack_of_ne (h : x.dest ≠ .stack) : (c.takes x).stack = c.stack := by
  unfold Ctx.takes
  split
  next => rw [c.ws_eq]
  next => rw [c.wa_eq]
  next => rfl
  next => rfl
  next hs => exact absurd hs h
  next => rfl

/-! ## A landing, the open region apart -/

/-- A context without its open region. -/
def Ctx.bare : Ctx := { c with region := none }

/-- FPSTAT has taken flags. -/
def Ctx.flagged (f : Word) : Ctx := { c with regs := { c.regs with fpstat := c.regs.fpstat ||| f } }

@[simp] theorem Ctx.recorded_bare (b : Bool) (f : Recorded → Recorded) : (c.recorded b f).bare = c.bare := by cases b <;> rfl

@[simp] theorem Ctx.orFlags_bare (f : Word) (b : Bool) : (c.orFlags f b).bare = c.bare.flagged f := Ctx.recorded_bare _ _ _

theorem Ctx.putS_bare (r : BitVec 6) (v : Word) (b : Bool) : (c.putS r v b).bare = c.bare.ws r v := by
  by_cases h : r = 0
  · simp [Ctx.putS, Ctx.ws, h]
  · simp only [Ctx.putS, Ctx.ws, h, if_false]; rfl

theorem Ctx.putA_bare (r : BitVec 5) (v : Word) (b : Bool) : (c.putA r v b).bare = c.bare.wa r v := by
  by_cases h : r = 0
  · simp [Ctx.putA, Ctx.wa, h]
  · simp only [Ctx.putA, Ctx.wa, h, if_false]; rfl

theorem Ctx.putV_bare (r : BitVec 10) (v lanes : VWord) (b : Bool) : (c.putV r v lanes b).bare = c.bare.wv r v lanes := rfl

/-- A landing writes FPSTAT and the destination, and notes shadows in the open region. -/
theorem Ctx.landOne_bare (x : Result) : (c.landOne x).bare = (c.bare.flagged x.fpFlags).takes x := by
  rw [← c.orFlags_bare x.fpFlags (c.insideRegion x)]
  unfold Ctx.landOne Ctx.takes
  dsimp only
  generalize c.orFlags x.fpFlags (c.insideRegion x) = d
  cases x.dest with
  | s r => exact d.putS_bare _ _ _
  | a r => exact d.putA_bare _ _ _
  | v r => exact d.putV_bare _ _ _ _
  | m r => exact Ctx.recorded_bare _ _ _
  | stack => exact Ctx.recorded_bare _ _ _
  | cr i => rfl

/-- A landing leaves the results that are pending, the place in the program and the control registers beside FPSTAT. -/
theorem Ctx.landOne_frame (x : Result) : (c.landOne x).regs = (c.flagged x.fpFlags).regs ∧ (c.landOne x).pend = c.pend ∧
    (c.landOne x).pc = c.pc ∧ (c.landOne x).loops = c.loops := by
  have lands := c.landOne_bare x
  obtain ⟨s, a, v, w, m, st, e⟩ := (c.bare.flagged x.fpFlags).takes_eq x
  rw [e] at lands
  exact ⟨(congrArg Ctx.regs lands :), (congrArg Ctx.pend lands :), (congrArg Ctx.pc lands :), (congrArg Ctx.loops lands :)⟩

end

/-! ## A control register as destination (R124, R126) -/

section
variable {c d : Ctx}

/-- A write of a control register changes the control registers, and the record of an open region. -/
theorem Ctx.crWrite_eq (c : Ctx) (idx : Nat) (x : Word) (b : Bool) : ∃ r g, c.crWrite idx x b = { c with regs := r, region := g } := by
  unfold Ctx.crWrite
  dsimp only
  split
  case h_19 => split <;> cases b <;> exact ⟨_, _, rfl⟩
  all_goals cases b <;> exact ⟨_, _, rfl⟩

/-- What it makes of them rests on them and on the privilege only. -/
theorem Ctx.crWrite_regs_congr (regs : c.regs = d.regs) (priv : c.priv = d.priv) (idx : Nat) (x : Word) (b : Bool) :
    (c.crWrite idx x b).regs = (d.crWrite idx x b).regs := by
  unfold Ctx.crWrite
  rw [regs, priv]
  dsimp only
  split
  case h_19 =>
    split
    · cases b <;> rfl
    · exact regs
  all_goals cases b <;> rfl

theorem Ctx.refinish_of_other {t : Nat} (h : ∀ f, c.finished = some f → f.cycle ≠ t) (idx : Nat) : c.refinish idx t = c := by
  unfold Ctx.refinish
  split
  · rfl
  next f hf => exact if_pos (h f hf)

end

end Sys2Proof.Machine
end

section
/-! SUPPORT. Posting stores leaves a context as it is, the marks of the order of its stores apart (R97, R99, R245, R256, R266). -/

namespace Sys2Proof.Machine

open Sys2Proof

/-- A context without what the posting of its stores and the commit of its region change: the marks of its stores and releases, the
entries of its shadow stack, its open region and its far loads. -/
def Ctx.flushed (c : Ctx) : Ctx := { c with lastStore := 0, release := none, shadow := [], region := none, far := [] }

section
variable (s : State) (k q : Nat)

theorem State.modCtx_flushed {f : Ctx → Ctx} (hf : ∀ c, (f c).flushed = c.flushed) : ((s.modCtx k f).ctx q).flushed = (s.ctx q).flushed := by
  rw [State.ctx_modCtx]
  split
  next h => rw [hf, h]
  next => rfl

/-- What every step of a fold keeps, the fold keeps. -/
theorem foldl_keeps {σ α β : Type} {f : σ → α → σ} (g : σ → β) (hf : ∀ s x, g (f s x) = g s) (l : List α) (s : σ) :
    g (l.foldl f s) = g s := by
  induction l generalizing s with
  | nil => rfl
  | cons x l ih => rw [List.foldl_cons, ih, hf]

theorem State.postPiece_flushed (h : Nat) (p : Piece) : ((s.postPiece k h p).ctx q).flushed = (s.ctx q).flushed :=
  State.modCtx_flushed _ k q fun _ => rfl

theorem State.spillAll_flushed : ((s.spillAll k).ctx q).flushed = (s.ctx q).flushed := by
  unfold State.spillAll
  dsimp only
  rw [State.modCtx_flushed]
  · refine foldl_keeps (fun s : State => (s.ctx q).flushed) (fun s i => ?_) _ _
    split
    · exact s.postPiece_flushed k q _ _
    · rfl
  · exact fun _ => rfl

@[simp] theorem State.spillAll_memories : (s.spillAll k).memories = s.memories :=
  foldl_keeps State.memories (fun s i => by dsimp only; split <;> rfl) _ _

@[simp] theorem State.spillAll_inputs : (s.spillAll k).inputs = s.inputs :=
  foldl_keeps State.inputs (fun s i => by dsimp only; split <;> rfl) _ _

@[simp] theorem State.spillAll_cycleOf : (s.spillAll k).cycleOf q = s.cycleOf q :=
  foldl_keeps (fun s : State => s.cycleOf q) (fun s i => by dsimp only; split <;> rfl) _ _

end

end Sys2Proof.Machine
end

section
/-! SUPPORT. The landing of the results of a context that are due, and the statement on it (R36, R90, R124, R126). -/

namespace Sys2Proof.Machine

open Sys2Proof

/-! ## The landing of one result (R54, R90, R109, R131) -/

/-- A result has left the pending ones: its flags and its value stand in the context, the value for a control register apart. -/
def Ctx.lands (c : Ctx) (x : Result) : Ctx := { c.landOne x with pend := (c.landOne x).pend.filter fun y => y != x }

section
variable (s : State) (k : Nat)

/-- The shadow stack goes to memory before an `mtc` that moves SSP lands (R99). -/
def State.spillFor (x : Result) : State :=
  if x.dest = .cr 0x008 && x.slot = 0 && maskedWrite (crMasks 8).2 (s.ctx k).regs.ssp (x.value.setWidth 64) ≠
    (s.ctx k).regs.ssp then s.spillAll k else s

/-- The landing of a result, the write of a control register apart. -/
def State.lands (x : Result) : State :=
  let s := (s.spillFor k x).modCtx k fun c => c.lands x
  { s with poison := s.poison.filter fun p => !x.cures k p }

@[simp] theorem State.spillFor_flushed (x : Result) (q : Nat) : ((s.spillFor k x).ctx q).flushed = (s.ctx q).flushed := by
  unfold State.spillFor
  split
  · exact s.spillAll_flushed k q
  · rfl

@[simp] theorem State.spillFor_memories (x : Result) : (s.spillFor k x).memories = s.memories := by
  unfold State.spillFor; split <;> simp

@[simp] theorem State.spillFor_inputs (x : Result) : (s.spillFor k x).inputs = s.inputs := by
  unfold State.spillFor; split <;> simp

@[simp] theorem State.spillFor_cycleOf (x : Result) (q : Nat) : (s.spillFor k x).cycleOf q = s.cycleOf q := by
  unfold State.spillFor; split <;> simp

@[simp] theorem State.ctx_lands (x : Result) : (s.lands k x).ctx k = ((s.spillFor k x).ctx k).lands x := by
  show ((s.spillFor k x).modCtx k fun c => c.lands x).ctx k = _
  rw [State.ctx_modCtx, if_pos rfl]

@[simp] theorem State.lands_memories (x : Result) : (s.lands k x).memories = s.memories := s.spillFor_memories k x

@[simp] theorem State.lands_inputs (x : Result) : (s.lands k x).inputs = s.inputs := s.spillFor_inputs k x

@[simp] theorem State.lands_cycleOf (x : Result) (q : Nat) : (s.lands k x).cycleOf q = s.cycleOf q := s.spillFor_cycleOf k x q

variable {x : Result}

theorem State.spillFor_of_reg (h : ∀ i, x.dest ≠ .cr i) : s.spillFor k x = s := by simp [State.spillFor, h]

theorem State.landOne_of_reg (h : ∀ i, x.dest ≠ .cr i) : s.landOne k x = s.lands k x := by
  unfold State.landOne
  dsimp only
  split
  next i hi => exact absurd hi (h i)
  next => rfl

theorem State.landOne_of_cr {i : BitVec 12} (h : x.dest = .cr i) : s.landOne k x =
    ((s.lands k x).crLand k i.toNat (x.value.setWidth 64) ((s.ctx k).insideRegion x)).modCtx k
      fun c => c.refinish i.toNat ((s.lands k x).cycleOf k) := by
  unfold State.landOne
  dsimp only
  split
  next j hj =>
    obtain rfl : j = i := Dest.cr.inj (hj.symm.trans h)
    rfl
  next hn => exact absurd h (hn i)

end

/-! ## A write of a control register that lands (R124, R126) -/

section
variable (s : State) (k idx : Nat) (v : Word) (b : Bool)

/-- What a TRESUME write links are posted stores. -/
theorem State.tresumeLink_eq : ∃ ps, s.tresumeLink k idx v = { s with posted := ps } := by
  unfold State.tresumeLink
  dsimp only
  split
  · split <;> exact ⟨_, rfl⟩
  · exact ⟨_, rfl⟩

theorem State.crLand_memories : (s.crLand k idx v b).memories = s.memories := by
  obtain ⟨ps, linked⟩ := s.tresumeLink_eq k idx v
  unfold State.crLand
  rw [linked]
  split
  · rfl
  · split
    · rfl
    · split <;> rfl

variable {idx}

theorem State.crLand_of_lt (h : idx < 0x200) : s.crLand k idx v b = s.modCtx k fun c => c.crWrite idx v b := if_pos h

theorem State.ctx_crLand_of_le (h : 0x200 ≤ idx) (q : Nat) : (s.crLand k idx v b).ctx q = s.ctx q := by
  obtain ⟨ps, linked⟩ := s.tresumeLink_eq k idx v
  unfold State.crLand
  rw [if_neg (Nat.not_lt.2 h), linked]
  split
  · rfl
  · split <;> rfl

/-- Of its context a write changes the control registers and the record of an open region. -/
theorem State.ctx_crLand_eq (idx : Nat) :
    ∃ r g, (s.crLand k idx v b).ctx k = { s.ctx k with regs := r, region := g } := by
  rcases Nat.lt_or_ge idx 0x200 with h | h
  · rw [s.crLand_of_lt k v b h, State.ctx_modCtx, if_pos rfl]
    exact Ctx.crWrite_eq _ _ _ _
  · exact ⟨_, _, s.ctx_crLand_of_le k v b h k⟩

/-- A write of a register of wider scope becomes the event of that register where the context is privileged and does not ignore it. -/
theorem State.crLand_inputs_of_le (h : 0x200 ≤ idx) : (s.crLand k idx v b).inputs =
    if (s.ctx k).priv = true ∧ ¬ (isDepot k = true ∧ 0x202 ≤ idx ∧ idx ≤ 0x205) then s.inputs ++ regEvents idx v else s.inputs := by
  have ignores : ignoresWrite k idx = true ↔ isDepot k = true ∧ 0x202 ≤ idx ∧ idx ≤ 0x205 := by simp [ignoresWrite, and_assoc]
  obtain ⟨ps, linked⟩ := s.tresumeLink_eq k idx v
  unfold State.crLand
  rw [if_neg (Nat.not_lt.2 h), linked]
  simp only [← ignores]
  by_cases hi : ignoresWrite k idx = true
  · simp [hi]
  · by_cases hp : (s.ctx k).priv = true
    · simp [hi, hp]
    · simp [hi, hp]

end

/-! ## The only result that is pending (R36, R90) -/

section
variable {c : Ctx} {x : Result} {t : Nat}

theorem Ctx.dueResults_of_lands (pend : c.pend = [x]) (due : x.due ≤ t) (cause : c.landCause x = none) : c.dueResults t = [x] := by
  simp [Ctx.dueResults, pend, due, cause]

theorem Ctx.dueResults_of_traps (pend : c.pend = [x]) (cause : c.landCause x ≠ none) : c.dueResults t = [] := by
  simp [Ctx.dueResults, pend, cause]

theorem Ctx.strikes_of_pend_nil (pend : c.pend = []) : c.strikes t = [] := by simp [Ctx.strikes, pend]

theorem Ctx.strikes_of_flagged (pend : c.pend = [x]) (due : x.due ≤ t) (struck : x.struck = none)
    (cause : c.landCause x = some .fpx ∨ c.landCause x = some .snan) : c.strikes t = [x] := by
  rcases cause with cause | cause <;> simp [Ctx.strikes, pend, due, struck, cause]

theorem Ctx.lands_pend (pend : c.pend = [x]) : (c.lands x).pend = [] := by
  obtain ⟨-, stays, -⟩ := c.landOne_frame x
  simp [Ctx.lands, stays, pend]

end

section
variable {s : State} {k : Nat} {x : Result}

theorem exec_resultLanding (s : State) (k : Nat) : exec (.resultLanding k) s = execResultLanding k s := by rfl

theorem State.returnsNow_of_none (h : (s.ctx k).returning = none) : s.returnsNow k = false := by simp [State.returnsNow, h]

/-- The only result pending lands, where it is due and raises no trap. -/
theorem State.landDue_of_lands (pend : (s.ctx k).pend = [x]) (due : x.due ≤ s.cycleOf k) (cause : (s.ctx k).landCause x = none)
    (ret : (s.ctx k).returning = none) :
    s.landDue k = (s.landOne k x).modCtx k fun c => (c.strikes (s.cycleOf k)).foldl Ctx.strike c := by
  simp [State.landDue, State.returnsNow_of_none ret, Ctx.dueResults_of_lands pend due cause, cause]

theorem exec_resultLanding_of_lands (pend : (s.ctx k).pend = [x]) (due : x.due ≤ s.cycleOf k) (cause : (s.ctx k).landCause x = none) :
    exec (.resultLanding k) s = .next (s.landDue k) := by
  rw [exec_resultLanding]
  exact if_pos (by simp [State.landReady, Ctx.dueResults_of_lands pend due cause])

/-- After it nothing is pending, and its context is as the landing leaves it. -/
theorem State.ctx_landDue_of_lands (pend : (s.ctx k).pend = [x]) (due : x.due ≤ s.cycleOf k) (cause : (s.ctx k).landCause x = none)
    (ret : (s.ctx k).returning = none) (landed : ((s.landOne k x).ctx k).pend = []) : (s.landDue k).ctx k = (s.landOne k x).ctx k := by
  rw [State.landDue_of_lands pend due cause ret, State.ctx_modCtx, if_pos rfl, Ctx.strikes_of_pend_nil landed]
  rfl

/-- The only result pending raises an enabled flag: the landing is noted. -/
theorem State.landDue_of_strikes (pend : (s.ctx k).pend = [x]) (due : x.due ≤ s.cycleOf k) (struck : x.struck = none)
    (cause : (s.ctx k).landCause x = some .fpx ∨ (s.ctx k).landCause x = some .snan) (ret : (s.ctx k).returning = none) :
    exec (.resultLanding k) s = .next (s.landDue k) ∧ (s.landDue k).memories = s.memories ∧
      (s.landDue k).ctx k = (s.ctx k).strike x := by
  have traps : (s.ctx k).landCause x ≠ none := by rcases cause with cause | cause <;> simp [cause]
  have strikes := Ctx.strikes_of_flagged pend due struck cause
  have notes : s.landDue k = s.modCtx k fun c => (c.strikes (s.cycleOf k)).foldl Ctx.strike c := by
    simp [State.landDue, State.returnsNow_of_none ret, Ctx.dueResults_of_traps pend traps]
  refine ⟨?_, by rw [notes]; rfl, by simp [notes, strikes]⟩
  rw [exec_resultLanding]
  exact if_pos (by simp [State.landReady, strikes])

end

/-! ## Each kind of landing, whole -/

section
variable {s : State} {k : Nat} {x : Result}

theorem Result.fpFlags_nil (h : x.flags = []) : x.fpFlags = 0 := by
  have clear (i : Nat) : x.flag i = 0 := by rw [Result.flag, h]; rfl
  exact foldl_keeps id (fun w i => if_neg (not_not_intro (clear i))) _ _

/-- A result for a control register that has raised no flag leaves its context as it was, until its value is written. -/
theorem Ctx.lands_cr_flushed {c : Ctx} {i : BitVec 12} (pend : c.pend = [x]) (dest : x.dest = .cr i) (flags : x.flags = []) :
    (c.lands x).flushed = ({ c with pend := [] } : Ctx).flushed := by
  have lands : (c.landOne x).bare = c.bare := by
    rw [c.landOne_bare, Ctx.takes_cr _ dest, Result.fpFlags_nil flags]
    simp [Ctx.flagged]
  calc (c.lands x).flushed = ({ (c.landOne x).bare with pend := (c.lands x).pend } : Ctx).flushed := rfl
    _ = ({ c with pend := [] } : Ctx).flushed := by rw [lands, Ctx.lands_pend pend]; rfl

/-- A register takes the value, FPSTAT the flags, and nothing else of the registers changes (R32, R54, R90, R109, R131). -/
theorem State.ctx_landDue_of_reg (pend : (s.ctx k).pend = [x]) (due : x.due ≤ s.cycleOf k) (cause : (s.ctx k).landCause x = none)
    (ret : (s.ctx k).returning = none) (dest : ∀ i, x.dest ≠ .cr i) :
    (s.landDue k).ctx k = (s.ctx k).lands x ∧ (s.landDue k).memories = s.memories := by
  have one : (s.landOne k x).ctx k = (s.ctx k).lands x := by
    rw [State.landOne_of_reg s k dest, State.ctx_lands, State.spillFor_of_reg s k dest]
  refine ⟨?_, ?_⟩
  · rw [State.ctx_landDue_of_lands pend due cause ret (by rw [one, Ctx.lands_pend pend]), one]
  · rw [State.landDue_of_lands pend due cause ret, State.modCtx_memories, State.landOne_of_reg s k dest, State.lands_memories]

/-- The write of a control register, as the landing does it. -/
theorem State.ctx_landDue_of_cr {i : BitVec 12} (pend : (s.ctx k).pend = [x]) (due : x.due ≤ s.cycleOf k)
    (cause : (s.ctx k).landCause x = none) (ret : (s.ctx k).returning = none) (dest : x.dest = .cr i) (flags : x.flags = [])
    (other : ∀ f, (s.ctx k).finished = some f → f.cycle ≠ s.cycleOf k) :
    ∃ w : State, (w.ctx k).flushed = ({ s.ctx k with pend := [] } : Ctx).flushed ∧ w.inputs = s.inputs ∧
      (s.landDue k).ctx k = (w.crLand k i.toNat (x.value.setWidth 64) ((s.ctx k).insideRegion x)).ctx k ∧
      (s.landDue k).inputs = (w.crLand k i.toNat (x.value.setWidth 64) ((s.ctx k).insideRegion x)).inputs ∧
      (s.landDue k).memories = s.memories := by
  have flushed : ((s.lands k x).ctx k).flushed = ({ s.ctx k with pend := [] } : Ctx).flushed := by
    have spill := s.spillFor_flushed k x k
    have spillPend : ((s.spillFor k x).ctx k).pend = [x] := (congrArg Ctx.pend spill :).trans pend
    rw [State.ctx_lands, Ctx.lands_cr_flushed spillPend dest flags]
    exact (congrArg (fun c : Ctx => { c with pend := [] }) spill :)
  obtain ⟨r, g, written⟩ := (s.lands k x).ctx_crLand_eq k (x.value.setWidth 64) ((s.ctx k).insideRegion x) i.toNat
  have one : (s.landOne k x).ctx k =
      ((s.lands k x).crLand k i.toNat (x.value.setWidth 64) ((s.ctx k).insideRegion x)).ctx k := by
    rw [State.landOne_of_cr s k dest, State.ctx_modCtx, if_pos rfl, State.lands_cycleOf]
    refine Ctx.refinish_of_other (fun f hf => other f ?_) _
    rw [written] at hf
    exact (congrArg Ctx.finished flushed).symm.trans hf
  have landed : ((s.landOne k x).ctx k).pend = [] := by
    rw [one, written]
    exact (congrArg Ctx.pend flushed :)
  refine ⟨s.lands k x, flushed, s.lands_inputs k x, ?_, ?_, ?_⟩
  · rw [State.ctx_landDue_of_lands pend due cause ret landed, one]
  · rw [State.landDue_of_lands pend due cause ret, State.landOne_of_cr s k dest]; rfl
  · rw [State.landDue_of_lands pend due cause ret, State.landOne_of_cr s k dest, State.modCtx_memories, State.modCtx_memories,
      State.crLand_memories, State.lands_memories]

/-- A landing that is noted writes FPSTAT, and the enables of the cycle into its result (R126, R127). -/
theorem Ctx.strike_bare {c : Ctx} (pend : c.pend = [x]) :
    (c.strike x).bare = ({ c.bare with pend := [{ x with struck := some c.regs.fpctl }] } : Ctx).flagged x.fpFlags := by
  unfold Ctx.strike
  rw [Ctx.orFlags_bare, pend]
  simp [Ctx.bare]

end

/-- Settles O57: the three kinds of landing, to a register, to a control register, and of a result that raises an enabled flag. -/
theorem resultLandsInItsDestination : Obligations.ResultLandsInItsDestination := by
  unfold Obligations.ResultLandsInItsDestination
  refine ⟨?_, ?_, ?_⟩
  · intro s k c x hc pend due cause ret dest
    subst hc
    obtain ⟨lands, memory⟩ := State.ctx_landDue_of_reg pend due cause ret dest
    obtain ⟨regs, -, pc, loops⟩ := (s.ctx k).landOne_frame x
    have takes := (s.ctx k).landOne_bare x
    refine ⟨_, _, exec_resultLanding_of_lands pend due cause, rfl, ?_⟩
    rw [lands]
    refine ⟨Ctx.lands_pend pend, sameMemory_of_memories memory, (congrArg CtxRegs.fpstat regs :), (congrArg CtxRegs.fpctl regs :), pc, loops,
      fun r h hr => (congrArg (Ctx.rs · r) takes :).trans (Ctx.takes_rs_self _ h hr),
      fun q h => (congrArg (Ctx.rs · q) takes :).trans (Ctx.takes_rs_of_ne _ h),
      fun r h hr => (congrArg (Ctx.ra · r) takes :).trans (Ctx.takes_ra_self _ h hr),
      fun q h => (congrArg (Ctx.ra · q) takes :).trans (Ctx.takes_ra_of_ne _ h),
      fun r h i hi => (congrArg (fun c : Ctx => (c.rv r).getLsbD i) takes :).trans (Ctx.takes_rv_self _ h hi),
      fun q h => (congrArg (Ctx.rv · q) takes :).trans (Ctx.takes_rv_of_ne _ h),
      fun r h => (congrArg (fun c : Ctx => c.m.get r.toNat) takes :).trans (Ctx.takes_m_self _ h),
      fun q h => (congrArg (fun c : Ctx => c.m.get q.toNat) takes :).trans (Ctx.takes_m_of_ne _ h),
      fun h => (congrArg Ctx.stack takes :).trans (Ctx.takes_stack_self _ h),
      fun h => (congrArg Ctx.stack takes :).trans (Ctx.takes_stack_of_ne _ h)⟩
  · intro s k c x i hc pend due cause ret dest flags other
    subst hc
    obtain ⟨w, flushed, inputs, ctx, inputs', memory⟩ := State.ctx_landDue_of_cr pend due cause ret dest flags other
    have regs : (w.ctx k).regs = (s.ctx k).regs := (congrArg Ctx.regs flushed :)
    have priv : (w.ctx k).priv = (s.ctx k).priv := (congrArg Ctx.priv flushed :)
    obtain ⟨r, g, written⟩ := w.ctx_crLand_eq k (x.value.setWidth 64) ((s.ctx k).insideRegion x) i.toNat
    have frame : ((s.landDue k).ctx k).pend = [] ∧ ((s.landDue k).ctx k).pc = (s.ctx k).pc ∧ ((s.landDue k).ctx k).loops = (s.ctx k).loops ∧
        ((s.landDue k).ctx k).s = (s.ctx k).s ∧ ((s.landDue k).ctx k).a = (s.ctx k).a ∧ ((s.landDue k).ctx k).v = (s.ctx k).v ∧
        ((s.landDue k).ctx k).m = (s.ctx k).m ∧ ((s.landDue k).ctx k).stack = (s.ctx k).stack := by
      rw [ctx, written]
      exact ⟨(congrArg Ctx.pend flushed :), (congrArg Ctx.pc flushed :), (congrArg Ctx.loops flushed :), (congrArg Ctx.s flushed :),
        (congrArg Ctx.a flushed :), (congrArg Ctx.v flushed :), (congrArg Ctx.m flushed :), (congrArg Ctx.stack flushed :)⟩
    obtain ⟨pend', pc, loops, s', a, v, m, stack⟩ := frame
    refine ⟨_, _, exec_resultLanding_of_lands pend due cause, rfl, pend', sameMemory_of_memories memory, pc, loops, s', a, v, m, stack,
      fun lt => ?_, fun le => ?_⟩
    · have lands := w.crLand_of_lt k (x.value.setWidth 64) ((s.ctx k).insideRegion x) lt
      refine ⟨?_, by rw [inputs', lands, State.modCtx_inputs, inputs]⟩
      rw [ctx, lands, State.ctx_modCtx, if_pos rfl]
      exact Ctx.crWrite_regs_congr regs priv _ _ _
    · refine ⟨by rw [ctx, w.ctx_crLand_of_le k _ _ le, regs], ?_⟩
      rw [inputs', w.crLand_inputs_of_le k _ _ le, inputs, priv]
  · intro s k c x hc pend due struck cause ret
    subst hc
    obtain ⟨acts, memory, strikes⟩ := State.landDue_of_strikes pend due struck cause ret
    have bare := (s.ctx k).strike_bare pend
    refine ⟨_, acts, ?_⟩
    rw [strikes]
    exact ⟨(congrArg Ctx.pend bare :), (congrArg Ctx.regs bare :), (congrArg Ctx.s bare :), (congrArg Ctx.a bare :),
      (congrArg Ctx.v bare :), (congrArg Ctx.pc bare :), sameMemory_of_memories memory⟩

end Sys2Proof.Machine
end

section
/-! SUPPORT. A trap that its own handler takes: the open region commits, the trap registers are written, and the context goes on at THAND
(R245, R366, R368). -/

namespace Sys2Proof.Machine

open Sys2Proof

/-! ## The commit of a region leaves its context (R245, R246, R257) -/

section
variable (s : State) (k q : Nat)

theorem State.releaseOf_flushed (scope : Nat) (rels : List Rel) (b : Posted → Bool) :
    (((s.releaseOf k scope rels b).2).ctx q).flushed = (s.ctx q).flushed := by
  unfold State.releaseOf
  dsimp only
  rw [State.modCtx_flushed]
  · obtain ⟨l, h⟩ := State.publish_eq { s with posted := s.posted.map fun x => if b x then { x with rel := x.rel ++ rels } else x }
      scope (coreOf k) b
    rw [h]
    rfl
  · exact fun _ => rfl

theorem State.commitOp_flushed (g : GateOp) : ((s.commitOp k g).ctx q).flushed = (s.ctx q).flushed := by
  cases g with
  | scratch side ws => rfl
  | global ea ps => exact foldl_keeps (fun t : State => (t.ctx q).flushed) (fun t p => t.postPiece_flushed k q _ p) ps s
  | give rb => rfl
  | release sc id => exact s.releaseOf_flushed k q _ _ _

theorem State.commitRegion_flushed : ((s.commitRegion k).ctx q).flushed = (s.ctx q).flushed := by
  unfold State.commitRegion
  split
  · rfl
  next r _ =>
    refine (foldl_keeps (fun t : State => (t.ctx q).flushed) (fun t g => t.commitOp_flushed k q g) r.gate _).trans ?_
    rw [State.modCtx_flushed]
    exact fun _ => rfl

end

/-! ## TCAUSE (R368) -/

section
variable (code : Nat) (land defer xfer inh : Bool) (imm : BitVec 16)

/-- The low byte is the code: every flag, and the immediate, lies above it. -/
theorem tcauseWord_code : (tcauseWord code land defer xfer imm inh).extractLsb' 0 8 = BitVec.ofNat 8 code := by
  have high : (imm.setWidth 64 <<< 16).setWidth 8 = 0#8 := by
    apply BitVec.eq_of_getLsbD_eq
    intro i hi
    simp
  change (tcauseWord code land defer xfer imm inh).setWidth 8 = _
  unfold tcauseWord
  simp only [BitVec.setWidth_or, high]
  cases land <;> cases defer <;> cases xfer <;> cases inh <;> simp

theorem tcauseWord_land : (tcauseWord code true defer xfer imm inh).getLsbD 8 = true := by simp [tcauseWord]

/-- The handler is entered with INH set. -/
theorem tcauseWord_or_inh : tcauseWord code land defer xfer imm inh ||| ((1 : Word) <<< 63) = tcauseWord code land defer xfer imm true := by
  cases inh
  · simp [tcauseWord]
  · simp [tcauseWord, BitVec.or_assoc]

theorem tcauseWord_inh : (tcauseWord code land defer xfer imm true).getLsbD 63 = true := by simp [tcauseWord]

end

/-! ## Taking it (R366) -/

/-- A trap of a cause whose values no rule leaves open, taken by the handler of its context. -/
theorem State.takeTrap_of_handler {s : State} {k : Nat} {t : TrapInfo} (target : t.cause.target = .handler) (closed : t.cause.openTval = false)
    (time : t.cause ≠ .timeout) (inh : (s.ctx k).regs.inh = false) (thand : (s.ctx k).regs.thand &&& ~~~63#64 ≠ 0)
    (outrider : isOutrider k = false) : s.takeTrap k t =
      ((s.commitRegion k).modCtx k fun c => c.trapped t (s.cycleOf k) false).modCtx k fun c => c.enterHandler (s.cycleOf k) := by
  have eccu : t.cause ≠ .eccu := by rintro h; simp [h, Cause.target] at target
  have opened : s.openTrap t = (t, s) := by simp [State.openTrap, closed, time]
  unfold State.takeTrap
  simp only [opened, eccu, if_false, inh, thand, outrider, target]
  simp

/-- What such a trap leaves in the context: the result that it holds, the trap registers, and the registers as they were. -/
theorem State.ctx_takeTrap_of_handler {s : State} {k : Nat} {t : TrapInfo} (target : t.cause.target = .handler)
    (closed : t.cause.openTval = false) (time : t.cause ≠ .timeout) (inh : (s.ctx k).regs.inh = false)
    (thand : (s.ctx k).regs.thand &&& ~~~63#64 ≠ 0) (outrider : isOutrider k = false) : ∃ d : Ctx, d.flushed = (s.ctx k).flushed ∧
      (s.takeTrap k t).ctx k = (d.trapped t (s.cycleOf k) false).enterHandler (s.cycleOf k) := by
  refine ⟨(s.commitRegion k).ctx k, s.commitRegion_flushed k k, ?_⟩
  rw [State.takeTrap_of_handler target closed time inh thand outrider]
  simp

/-- The trap registers in the handler (R366, R368). -/
theorem Ctx.enterHandler_tcause {c : Ctx} {t : TrapInfo} {n : Nat} :
    ((c.trapped t n false).enterHandler n).regs.tcause = tcauseWord t.cause.code t.land t.defer c.xfer.isSome t.imm true :=
  tcauseWord_or_inh _ _ _ _ _ _

theorem Ctx.enterHandler_inh {c : Ctx} {n : Nat} : (c.enterHandler n).regs.inh = (c.enterHandler n).regs.tcause.getLsbD 63 := rfl

/-! ## A landing that traps (R36) -/

section
variable {s : State} {k : Nat} {x : Result} {cause : Cause}

/-- LASTX of FPSTAT takes the flags of a result (R32). -/
def Ctx.lastFlags (c : Ctx) (f : Word) : Ctx :=
  { c with regs := { c.regs with fpstat := (c.regs.fpstat &&& ~~~0x3F00#64) ||| (f <<< 8) } }

theorem Ctx.lastFlags_extract (c : Ctx) (f : Word) : (c.lastFlags f).regs.fpstat.extractLsb' 8 6 = f.extractLsb' 0 6 := by
  apply BitVec.eq_of_getLsbD_eq
  intro i hi
  have mask : ∀ i < 6, (0x3F00#64).getLsbD (8 + i) = true := by decide
  have wide : 8 + i < 64 := by omega
  simp only [Ctx.lastFlags, BitVec.getLsbD_extractLsb', BitVec.getLsbD_or, BitVec.getLsbD_and, BitVec.getLsbD_not, BitVec.getLsbD_shiftLeft,
    mask i hi]
  simp [hi, wide]

theorem Ctx.trapResults_of_traps {c : Ctx} {t : Nat} (pend : c.pend = [x]) (due : x.due ≤ t) (traps : c.landCause x = some cause) :
    c.trapResults t = [x] := by
  simp [Ctx.trapResults, pend, due, traps]

theorem Ctx.not_poisoned_of_fp {c : Ctx} (traps : c.landCause x = some cause) (fp : cause = .fpx ∨ cause = .snan) : x.poisoned = false := by
  cases h : x.poisoned with
  | false => rfl
  | true =>
    have eccu : c.landCause x = some .eccu := if_pos h
    rw [eccu] at traps
    cases traps
    rcases fp with fp | fp <;> cases fp

/-- The trap of a result that has raised an enabled flag, as it is taken in cycle `t`. -/
def Ctx.fpTrap (c : Ctx) (x : Result) (cause : Cause) (t : Nat) : TrapInfo :=
  ⟨cause, c.landTval x, x.slot, x.pc, c.pc, ((t : Int) - x.issued).toNat, 0, true, false, some x⟩

theorem State.landTrap_of_fp (pend : (s.ctx k).pend = [x]) (due : x.due ≤ s.cycleOf k) (traps : (s.ctx k).landCause x = some cause)
    (fp : cause = .fpx ∨ cause = .snan) : s.landTrap k =
      (s.modCtx k fun c => ({ c with pend := c.pend.filter fun y => y != x } : Ctx).lastFlags x.fpFlags).takeTrap k
        ((s.ctx k).fpTrap x cause (s.cycleOf k)) := by
  have clean := Ctx.not_poisoned_of_fp traps fp
  unfold State.landTrap
  simp only [Ctx.trapResults_of_traps pend due traps, traps, clean]
  rcases fp with rfl | rfl <;> rfl

/-- The only result pending is due where its trap may be taken. -/
theorem State.due_of_landTrapReady (pend : (s.ctx k).pend = [x]) (ready : s.landTrapReady k = true) : x.due ≤ s.cycleOf k := by
  refine Decidable.byContradiction fun late => ?_
  simp [State.landTrapReady, Ctx.trapResults, pend, late] at ready

theorem exec_resultLanding_of_traps (notLand : s.landReady k = false) (ready : s.landTrapReady k = true) :
    exec (.resultLanding k) s = .next (s.landTrap k) := by
  rw [exec_resultLanding, execResultLanding, notLand, ready]
  rfl

end

end Sys2Proof.Machine
end

section
/-! SUPPORT. The phasers: what each event makes of the record that an operation names (R273 to R279). -/

namespace Sys2Proof.Machine

open Sys2Proof

section
variable {s : State} {o : PhOp} {p : Phaser}

/-- The record that an operation names is that of its group, or of a consignment that exists (R273). -/
def State.hasRecord (s : State) (o : PhOp) : Prop := 64 ≤ o.ph → ∃ k x, o.cons = some k ∧ s.con? k = some x

theorem State.phaserOf_setPhaser (h : s.hasRecord o) : (s.setPhaser o p).phaserOf o = p := by
  by_cases hl : o.ph < 64
  · simp [State.phaserOf, State.setPhaser, hl]
  · obtain ⟨k, x, hk, hx⟩ := h (Nat.not_lt.1 hl)
    simp [State.phaserOf, State.setPhaser, hl, hk, hx]

theorem State.setPhaser_hasRecord (h : s.hasRecord o) : (s.setPhaser o p).hasRecord o := by
  intro hl
  obtain ⟨k, x, hk, hx⟩ := h hl
  exact ⟨k, _, hk, by simp [State.setPhaser, Nat.not_lt.2 hl, hk, hx]; rfl⟩

@[simp] theorem State.setPhaser_memories : (s.setPhaser o p).memories = s.memories := by
  unfold State.setPhaser
  split
  · rfl
  · split
    · exact s.modCon_memories _ _
    · rfl

@[simp] theorem State.setPhaser_phops : (s.setPhaser o p).phops = s.phops := by
  unfold State.setPhaser
  split
  · rfl
  · split
    · exact s.modCon_phops _ _
    · rfl

@[simp] theorem State.phaserOf_dropOp (id : Nat) : (s.dropOp id).phaserOf o = s.phaserOf o := rfl
@[simp] theorem State.phaserOf_delayAfter (q : PhOp) : (s.delayAfter q).phaserOf o = s.phaserOf o := rfl
@[simp] theorem State.phaserOf_wakeOps (q : PhOp) : (s.wakeOps q).phaserOf o = s.phaserOf o := rfl

theorem State.id_of_readyOp {id : Nat} (h : s.readyOp id = some o) : o.id = id := by
  have ready := List.find?_some h
  simp only [Bool.and_eq_true, beq_iff_eq] at ready
  exact ready.1

theorem State.dropOp_phops_of_sole {id : Nat} (h : s.readyOp id = some o) (sole : s.phops = [o]) : (s.dropOp id).phops = [] := by
  simp [State.dropOp, sole, State.id_of_readyOp h]

/-! ## The test for an advance (R275) -/

theorem State.testAdvance_of_short (h : (s.phaserOf o).full = false) : s.testAdvance o = s := by simp [State.testAdvance, h]

theorem State.testAdvance_of_full (noOps : s.phops = []) (h : (s.phaserOf o).full = true) : s.testAdvance o = s.phAdvance o := by
  simp [State.testAdvance, State.moreToCount, noOps, h]

/-- A delivery leaves the records. -/
theorem State.phaserOf_deliver (q : PhOp) (n : Nat) : (s.deliver q n).phaserOf o = s.phaserOf o :=
  foldl_keeps (fun s : State => s.phaserOf o) (fun s g => by dsimp only; rfl) _ _

theorem State.phaserOf_phAdvance (h : s.hasRecord o) : (s.phAdvance o).phaserOf o = (s.phaserOf o).advanced := by
  have delivered (n : Nat) : (((s.setPhaser o (s.phaserOf o).advanced).wakeOps o).deliver o n).phaserOf o = (s.phaserOf o).advanced := by
    rw [State.phaserOf_deliver, State.phaserOf_wakeOps, State.phaserOf_setPhaser h]
  unfold State.phAdvance
  dsimp only
  split <;> exact delivered _

/-! ## Delivery (R276, R279) -/

theorem State.raiseRegs_group (q : PhOp) (g : Nat) : (s.raiseRegs q).group g = s.group g :=
  foldl_keeps (fun s : State => s.group g) (fun s r => by dsimp only; split <;> rfl) _ _

theorem State.raiseRegs_memories (q : PhOp) : (s.raiseRegs q).memories = s.memories :=
  foldl_keeps State.memories (fun s r => by dsimp only; split <;> rfl) _ _

/-! ## Arrivals (R279) -/

theorem Phaser.count_of_reg {k mode ap wp : Nat} (h : p.reg? k = some (k, mode, ap, wp)) :
    (p.count k).arr0 = (if ap = p.phase then p.arr0 + 1 else p.arr0) ∧ (p.count k).arr1 = (if ap = p.phase then p.arr1 else p.arr1 + 1) ∧
      (p.count k).phase = p.phase ∧ (p.count k).nsig = p.nsig := by
  simp [Phaser.count, h]

end

/-! ## The events -/

section
variable {s : State} {id : Nat} {o : PhOp}

/-- The record with one more registration (R277). -/
def Phaser.registered (p : Phaser) (k mode q ap : Nat) : Phaser :=
  let ap := if laterPhase p.phase ap then p.phase else ap
  { p with
    nsig := if mode = 2 then p.nsig else p.nsig + 1
    quorum := max p.quorum q
    regs := p.regs ++ [(k, mode, ap, ap)] }

theorem exec_register (ready : s.readyOp id = some o) {mode q ap : Nat} (act : o.act = .register mode q ap) :
    exec (.phaserRegistrationApply id) s =
      .next (((s.dropOp id).setPhaser o ((s.phaserOf o).registered o.cid mode q ap)).delayAfter o) := by
  show execPhaserRegistrationApply id s = _
  simp only [execPhaserRegistrationApply, ready, act]
  rfl

theorem exec_drop (ready : s.readyOp id = some o) (act : o.act = .drop) : exec (.phaserDropApply id) s =
    .next (((s.dropOp id).setPhaser o ((s.phaserOf o).withdraw o.cid)).testAdvance o) := by
  show execPhaserDropApply id s = _
  simp only [execPhaserDropApply, ready, act, if_true]

theorem exec_arrive (ready : s.readyOp id = some o) (act : o.act = .arrive) : exec (.phaserArrivalCount id) s =
    .next (((s.dropOp id).setPhaser o ((s.phaserOf o).count o.cid)).testAdvance o) := by
  show execPhaserArrivalCount id s = _
  simp only [execPhaserArrivalCount, ready, act]

theorem exec_carried (ready : s.readyOp id = some o) (act : o.act = .carried) :
    exec (.phaserArrivalCount id) s = .next ((s.dropOp id).testAdvance o) := by
  show execPhaserArrivalCount id s = _
  simp only [execPhaserArrivalCount, ready, act]

theorem exec_deliver (ready : s.readyOp id = some o) {n : Nat} (act : o.act = .deliver n) : exec (.phaseDelivery id) s =
    .next (((s.dropOp id).modGroup o.gid fun g => { g with seen := Table.put g.seen o.ph n }).raiseRegs o) := by
  show execPhaseDelivery id s = _
  simp only [execPhaseDelivery, ready, act]

end

end Sys2Proof.Machine
end

section
/-! SUPPORT. The statement on the contexts and the phasers (R36, R85, R87, R272, R275 to R279, R366). -/

namespace Sys2Proof.Machine

open Sys2Proof

/-- A landing that raises an enabled flag enters the handler with its result held (R36, R366, R368). -/
theorem State.ctx_landTrap_of_fp {s : State} {k : Nat} {x : Result} {cause : Cause} (pend : (s.ctx k).pend = [x])
    (due : x.due ≤ s.cycleOf k) (traps : (s.ctx k).landCause x = some cause) (fp : cause = .fpx ∨ cause = .snan)
    (inh : (s.ctx k).regs.inh = false) (thand : (s.ctx k).regs.thand &&& ~~~63#64 ≠ 0) (outrider : isOutrider k = false) :
    ∃ d : Ctx, d.regs = ((s.ctx k).lastFlags x.fpFlags).regs ∧ d.s = (s.ctx k).s ∧ d.v = (s.ctx k).v ∧ (s.landTrap k).ctx k =
      (d.trapped ((s.ctx k).fpTrap x cause (s.cycleOf k)) (s.cycleOf k) false).enterHandler (s.cycleOf k) := by
  rw [State.landTrap_of_fp pend due traps fp]
  generalize hf : (fun c : Ctx => ({ c with pend := c.pend.filter fun y => y != x } : Ctx).lastFlags x.fpFlags) = f
  have ctx : (s.modCtx k f).ctx k = f (s.ctx k) := by rw [State.ctx_modCtx, if_pos rfl]
  obtain ⟨d, flushed, taken⟩ := State.ctx_takeTrap_of_handler (s := s.modCtx k f) (k := k) (t := (s.ctx k).fpTrap x cause (s.cycleOf k))
    (by rcases fp with rfl | rfl <;> rfl) (by rcases fp with rfl | rfl <;> rfl) (by rcases fp with rfl | rfl <;> simp [Ctx.fpTrap])
    (by rw [ctx, ← hf]; exact inh) (by rw [ctx, ← hf]; exact thand) outrider
  rw [ctx, ← hf] at flushed
  exact ⟨d, (congrArg Ctx.regs flushed :), (congrArg Ctx.s flushed :), (congrArg Ctx.v flushed :), taken⟩

/-- At the end of its quantum the core leaves its holder, whose pending results wait in the replay buffer (R85, R87). -/
theorem exec_quantumEnd_of_ends {s : State} {core h : Nat} (holder : (s.core core).holder = some h) (ends : s.quantumOver core = true) :
    exec (.quantumEnd core) s =
      .next ((s.modCtx h fun c => c.pendToReplay (s.coreCycle core)).modCore core fun k => { k with holder := none }) := by
  show execQuantumEnd core s = _
  simp only [execQuantumEnd, holder, ends, if_true]

/-- Settles O58: a landing that traps, the end of a quantum, the two time-outs, and the five events of a phaser. -/
theorem contextAndPhaserEventsComplete : Obligations.ContextAndPhaserEventsComplete := by
  unfold Obligations.ContextAndPhaserEventsComplete
  refine ⟨?_, ?_, ?_, ?_⟩
  · intro s k c x cause hc pend notLand ready traps fp inh thand outrider
    subst hc
    obtain ⟨d, regs, hs, hv, taken⟩ :=
      State.ctx_landTrap_of_fp pend (State.due_of_landTrapReady pend ready) traps fp inh thand outrider
    refine ⟨_, _, exec_resultLanding_of_traps notLand ready, rfl, ?_⟩
    rw [taken, Ctx.enterHandler_inh, Ctx.enterHandler_tcause]
    refine ⟨rfl, rfl, tcauseWord_inh _ _ _ _ _, tcauseWord_code _ _ _ _ _ _, tcauseWord_land _ _ _ _ _, rfl, ?_, hs, hv⟩
    rw [← Ctx.lastFlags_extract (s.ctx k), ← regs]
    rfl
  · intro s core h holder ends
    refine ⟨_, exec_quantumEnd_of_ends holder ends, ?_⟩
    rw [State.core_modCore, if_pos rfl, State.ctx_modCore, State.ctx_modCtx, if_pos rfl]
    exact ⟨rfl, rfl, rfl, sameMemory_of_memories rfl⟩
  · intro s k v
    refine ⟨fun out => ?_, fun out => ?_⟩
    · show execWaitTimeout k s = _
      simp only [execWaitTimeout, out, State.timeoutTrap]
    · show execPhTimeout k s = _
      simp only [execPhTimeout, out, State.timeoutTrap]
  · intro s id o p ready hp record
    subst hp
    have kept : (s.dropOp id).hasRecord o := record
    have dropped (u : Phaser) : ((s.dropOp id).setPhaser o u).phaserOf o = u := State.phaserOf_setPhaser kept
    have memory (u : Phaser) : ((s.dropOp id).setPhaser o u).memories = s.memories := State.setPhaser_memories
    refine ⟨fun mode q ap act => ?_, fun act short => ?_, fun act mode ap wp reg => ⟨fun short => ?_, fun full sole => ?_⟩,
      fun act short => ?_, fun n act => ?_⟩
    · refine ⟨_, exec_register ready act, ?_⟩
      rw [State.phaserOf_delayAfter, dropped]
      exact ⟨rfl, rfl, rfl, rfl, rfl, sameMemory_of_memories (memory _)⟩
    · have stays := State.testAdvance_of_short ((congrArg Phaser.full (dropped _)).trans short)
      refine ⟨_, exec_drop ready act, ?_⟩
      rw [stays]
      exact ⟨dropped _, sameMemory_of_memories (memory _)⟩
    · have stays := State.testAdvance_of_short ((congrArg Phaser.full (dropped _)).trans short)
      refine ⟨_, exec_arrive ready act, ?_⟩
      rw [stays, dropped]
      exact ⟨sameMemory_of_memories (memory _), Phaser.count_of_reg reg⟩
    · have noOps : ((s.dropOp id).setPhaser o ((s.phaserOf o).count o.cid)).phops = [] :=
        State.setPhaser_phops.trans (State.dropOp_phops_of_sole ready sole)
      obtain ⟨-, -, phase, -⟩ := Phaser.count_of_reg reg
      refine ⟨_, exec_arrive ready act, ?_⟩
      rw [State.testAdvance_of_full noOps ((congrArg Phaser.full (dropped _)).trans full),
        State.phaserOf_phAdvance (State.setPhaser_hasRecord kept), dropped]
      exact ⟨congrArg (phaseAdd · 1) phase, rfl, rfl⟩
    · refine ⟨_, exec_carried ready act, ?_⟩
      rw [State.testAdvance_of_short (s := s.dropOp id) short]
      rfl
    · refine ⟨_, exec_deliver ready act, ?_, ?_⟩
      · rw [State.raiseRegs_group, State.group_modGroup, if_pos rfl, Table.find?_put, if_pos rfl]
      · exact sameMemory_of_memories (State.raiseRegs_memories _)

end Sys2Proof.Machine
end

section
/-! SUPPORT. The S slot: an instruction that performs starts one result, of the latency of its row; the second operand, moves, minima
and comparisons (R50, R56, R71, R120, R121). -/

namespace Sys2Proof.Machine

open Sys2Proof

/-! ## An S-slot instruction where it takes effect (R50, R71) -/

section
variable {s : State} {i : Instr} {sd : BitVec 6} {lat : Nat}

/-- An instruction whose effect is a scalar result starts it and does nothing else. -/
theorem aluOp_next {val : State → Word} {v : Word} (h : s.performs i) (e : val s = v) :
    aluOp i sd lat val s = .next (s.landS 0 sd v lat) := by
  subst e
  exact slotOp_performs h

theorem aluOp_ill {val : State → Word} (p : s.issue.phase = .whole) (w : i.wf = false) :
    aluOp i sd lat val s = .next (s.issueTrap 0 .illop 0) :=
  slotOp_illop p w

/-- An instruction with a floating-point result starts it, with the flags that land with it (R127). -/
theorem fpuOp_next {val : State → Nat × FpFlags} {r : Nat × FpFlags} (h : s.performs i) (e : val s = r) :
    fpuOp i sd lat val s = .next (s.landFp 0 sd (BitVec.ofNat 64 r.1) lat r.2) := by
  subst e
  exact slotOp_performs h

end

/-! ## Operands (R56, R120) -/

/-- One word above another. -/
theorem append_eq_ofNat {m n : Nat} (hi : BitVec m) (lo : BitVec n) :
    hi ++ lo = BitVec.ofNat (m + n) (hi.toNat * 2 ^ n + lo.toNat) := by
  apply BitVec.eq_of_toNat_eq
  rw [BitVec.toNat_append, BitVec.toNat_ofNat, ← Nat.shiftLeft_add_eq_or_of_lt lo.isLt, Nat.shiftLeft_eq, Nat.mod_eq_of_lt]
  rw [Nat.pow_add]
  calc hi.toNat * 2 ^ n + lo.toNat < (hi.toNat + 1) * 2 ^ n := by rw [Nat.succ_mul]; exact Nat.add_lt_add_left lo.isLt _
    _ ≤ 2 ^ m * 2 ^ n := Nat.mul_le_mul_right _ hi.isLt

section
variable {s : State} {x : SW}

theorem State.opB_of_reg (h : x.fn.getLsbD 0 = false) : s.opB x = s.me.rs x.sb := if_neg (ne_true_of_eq_false h)

theorem State.opB_of_imm (h : x.fn.getLsbD 0 = true) : s.opB x = s.immOf x := if_pos h

theorem State.toInt_immOf_of_none (h : s.issue.xim = none) : (s.immOf x).toInt = x.imm.toInt := by
  simp only [State.immOf, h]
  exact BitVec.toInt_signExtend_of_le (by decide)

theorem State.toInt_immOf_of_some {co : BitVec 24} (h : s.issue.xim = some co) :
    (s.immOf x).toInt = (BitVec.ofNat 56 (co.toNat * 2 ^ 32 + x.imm.toNat)).toInt := by
  simp only [State.immOf, h]
  rw [BitVec.toInt_signExtend_of_le (by decide), append_eq_ofNat]

end

/-- The high half from one word, the low half from another (R121). -/
theorem append_low_eq_ofNat (hi : BitVec 32) (a : Word) :
    (hi ++ a.extractLsb' 0 32 : Word) = BitVec.ofNat 64 (hi.toNat * 2 ^ 32 + a.toNat % 2 ^ 32) := by
  rw [append_eq_ofNat, BitVec.extractLsb'_toNat, Nat.shiftRight_zero]

/-- Settles O2: the operand forms, and one result of latency 1 for each instruction. -/
theorem immediateAndMoveResults : Obligations.ImmediateAndMoveResults := by
  unfold Obligations.ImmediateAndMoveResults
  refine ⟨fun s x => ⟨State.opB_of_reg, State.opB_of_imm, State.toInt_immOf_of_none, fun co => State.toInt_immOf_of_some⟩,
    fun s x => ⟨?_, ?_, ?_, ?_, ?_, ?_⟩⟩
  · exact fun h => (Eq.refl (execLi x s)).trans <| aluOp_next h rfl
  · exact fun h => (Eq.refl (execAddi x s)).trans <| aluOp_next h rfl
  · exact fun h => (Eq.refl (execLih x s)).trans <| aluOp_next h (append_low_eq_ofNat x.imm (s.opA x))
  · exact fun h => (Eq.refl (execMov x s)).trans <| aluOp_next h rfl
  · exact fun h => (Eq.refl (execS2a x s)).trans (slotOp_performs h)
  · exact fun h => (Eq.refl (execA2s x s)).trans <| aluOp_next h rfl

/-! ## Minima, maxima and comparisons (R121) -/

theorem pickMin_eq (u : Bool) (a b : Word) :
    pickMin u a b = if u then BitVec.ofNat 64 (min a.toNat b.toNat) else BitVec.ofInt 64 (min a.toInt b.toInt) := by
  cases u with
  | true =>
    have pick : pickMin true a b = if a.toNat < b.toNat then a else b := by
      simp only [pickMin, if_true, BitVec.ult, decide_eq_true_eq]
    rw [pick, if_pos rfl]
    split
    next h => rw [Nat.min_eq_left (Nat.le_of_lt h), BitVec.ofNat_toNat, BitVec.setWidth_eq]
    next h => rw [Nat.min_eq_right (Nat.not_lt.1 h), BitVec.ofNat_toNat, BitVec.setWidth_eq]
  | false =>
    have pick : pickMin false a b = if a.toInt < b.toInt then a else b := by
      simp only [pickMin, Bool.false_eq_true, if_false, BitVec.slt, decide_eq_true_eq]
    rw [pick, if_neg Bool.false_ne_true]
    split
    next h => rw [Int.min_eq_left (Int.le_of_lt h), BitVec.ofInt_toInt]
    next h => rw [Int.min_eq_right (Int.not_lt.1 h), BitVec.ofInt_toInt]

theorem pickMax_eq (u : Bool) (a b : Word) :
    pickMax u a b = if u then BitVec.ofNat 64 (max a.toNat b.toNat) else BitVec.ofInt 64 (max a.toInt b.toInt) := by
  cases u with
  | true =>
    have pick : pickMax true a b = if a.toNat < b.toNat then b else a := by
      simp only [pickMax, if_true, BitVec.ult, decide_eq_true_eq]
    rw [pick, if_pos rfl]
    split
    next h => rw [Nat.max_eq_right (Nat.le_of_lt h), BitVec.ofNat_toNat, BitVec.setWidth_eq]
    next h => rw [Nat.max_eq_left (Nat.not_lt.1 h), BitVec.ofNat_toNat, BitVec.setWidth_eq]
  | false =>
    have pick : pickMax false a b = if a.toInt < b.toInt then b else a := by
      simp only [pickMax, Bool.false_eq_true, if_false, BitVec.slt, decide_eq_true_eq]
    rw [pick, if_neg Bool.false_ne_true]
    split
    next h => rw [Int.max_eq_right (Int.le_of_lt h), BitVec.ofInt_toInt]
    next h => rw [Int.max_eq_left (Int.not_lt.1 h), BitVec.ofInt_toInt]

theorem scmpHolds_iff (cc : Nat) (a b : Word) : scmpHolds cc a b = true ↔ ccHolds cc a b := by
  unfold scmpHolds ccHolds
  split <;> simp [BitVec.slt, BitVec.sle, BitVec.ult, BitVec.ule]

/-- Settles O3: one result of latency 1 for each instruction. -/
theorem integerResults : Obligations.IntegerResults := by
  unfold Obligations.IntegerResults
  intro s x a b ha hb
  subst ha hb
  refine ⟨?_, ?_, ?_, ?_, ?_, ?_, ?_, ?_, ?_, ?_⟩
  · exact fun h => (Eq.refl (execAdd x s)).trans <| aluOp_next h rfl
  · exact fun h => (Eq.refl (execSub x s)).trans <| aluOp_next h rfl
  · exact fun h => (Eq.refl (execAnd x s)).trans <| aluOp_next h rfl
  · exact fun h => (Eq.refl (execOr x s)).trans <| aluOp_next h rfl
  · exact fun h => (Eq.refl (execXor x s)).trans <| aluOp_next h rfl
  · exact fun h => (Eq.refl (execAndn x s)).trans <| aluOp_next h rfl
  · exact fun h => (Eq.refl (execMin x s)).trans <| aluOp_next h (pickMin_eq _ _ _)
  · exact fun h => (Eq.refl (execMax x s)).trans <| aluOp_next h (pickMax_eq _ _ _)
  · exact fun h => ⟨_, (Eq.refl (execScmp x s)).trans (aluOp_next h rfl), fun c => if_pos ((scmpHolds_iff _ _ _).2 c),
      fun c => if_neg (mt (scmpHolds_iff _ _ _).1 c)⟩
  · exact fun h => (Eq.refl (execSel x s)).trans <| aluOp_next h rfl

end Sys2Proof.Machine
end

section
/-! SUPPORT. Shifts, rotations, counts of bits and bit fields of a word, in numbers or bit by bit (R121, R122). -/

namespace Sys2Proof.Machine

open Sys2Proof

/-! ## Shifts and rotations (R121, R122) -/

theorem shAmt_eq (b : Word) : shAmt b = b.toNat % 64 := by
  rw [shAmt, BitVec.extractLsb'_toNat, Nat.shiftRight_zero]

theorem shiftLeft_eq_ofNat (a : Word) (k : Nat) : a <<< k = BitVec.ofNat 64 (a.toNat * 2 ^ k) := by
  apply BitVec.eq_of_toNat_eq
  rw [BitVec.toNat_shiftLeft, BitVec.toNat_ofNat, Nat.shiftLeft_eq]

theorem shiftRight_eq_ofNat (a : Word) (k : Nat) : a >>> k = BitVec.ofNat 64 (a.toNat / 2 ^ k) := by
  rw [← Nat.shiftRight_eq_div_pow, ← BitVec.toNat_ushiftRight, BitVec.ofNat_toNat, BitVec.setWidth_eq]

theorem sshiftRight_eq_ofInt (a : Word) (k : Nat) : a.sshiftRight k = BitVec.ofInt 64 (a.toInt / 2 ^ k) := by
  rw [← BitVec.ofInt_toInt (x := a.sshiftRight k), BitVec.toInt_sshiftRight, Int.shiftRight_eq_div_pow]
  norm_cast

theorem getLsbD_rotateLeft_add (a : Word) {i k : Nat} (hi : i < 64) (hk : k < 64) :
    (a.rotateLeft k).getLsbD ((i + k) % 64) = a.getLsbD i := by
  rw [BitVec.getLsbD_rotateLeft, Nat.mod_eq_of_lt hk]
  rcases Nat.lt_or_ge (i + k) 64 with h | h
  · have low : ¬ i + k < k := by omega
    simp [Nat.mod_eq_of_lt h, low, h]
  · have wraps : (i + k) % 64 = i + k - 64 := by omega
    have low : i + k - 64 < k := by omega
    have back : 64 - k + (i + k - 64) = i := by omega
    simp [wraps, low, back]

/-! ## Counts of bits (R121) -/

theorem leadingZeros_le (n x : Nat) : leadingZeros n x ≤ n := by
  induction n with
  | zero => exact Nat.le_refl 0
  | succ n ih => unfold leadingZeros; split <;> omega

/-- The top bits that are counted are clear. -/
theorem testBit_of_lt_leadingZeros {n x i : Nat} (h : i < leadingZeros n x) : x.testBit (n - 1 - i) = false := by
  induction n generalizing i with
  | zero => exact absurd h (Nat.not_lt_zero i)
  | succ n ih =>
    unfold leadingZeros at h
    split at h
    · exact absurd h (Nat.not_lt_zero i)
    next clear =>
      cases i with
      | zero => simpa [Nat.testBit_eq_decide_div_mod_eq] using clear
      | succ i =>
        have e : n + 1 - 1 - (i + 1) = n - 1 - i := by omega
        rw [e]
        exact ih (by omega)

/-- The bit below them is set. -/
theorem testBit_leadingZeros {n x : Nat} (h : leadingZeros n x < n) : x.testBit (n - 1 - leadingZeros n x) = true := by
  induction n with
  | zero => exact absurd h (Nat.not_lt_zero _)
  | succ n ih =>
    unfold leadingZeros at h ⊢
    split
    next set => simpa [Nat.testBit_eq_decide_div_mod_eq] using set
    next clear =>
      rw [if_neg clear] at h
      have e : n + 1 - 1 - (1 + leadingZeros n x) = n - 1 - leadingZeros n x := by omega
      rw [e]
      exact ih (by omega)

theorem trailingZeros_le (n x : Nat) : trailingZeros n x ≤ n := by
  induction n generalizing x with
  | zero => exact Nat.le_refl 0
  | succ n ih =>
    have := ih (x / 2)
    unfold trailingZeros; split <;> omega

/-- The low bits that are counted are clear. -/
theorem testBit_of_lt_trailingZeros {n x i : Nat} (h : i < trailingZeros n x) : x.testBit i = false := by
  induction n generalizing x i with
  | zero => exact absurd h (Nat.not_lt_zero i)
  | succ n ih =>
    unfold trailingZeros at h
    split at h
    · exact absurd h (Nat.not_lt_zero i)
    next clear =>
      cases i with
      | zero => simpa using clear
      | succ i => rw [Nat.testBit_succ]; exact ih (by omega)

/-- The bit above them is set. -/
theorem testBit_trailingZeros {n x : Nat} (h : trailingZeros n x < n) : x.testBit (trailingZeros n x) = true := by
  induction n generalizing x with
  | zero => exact absurd h (Nat.not_lt_zero _)
  | succ n ih =>
    unfold trailingZeros at h ⊢
    split
    next set => simpa using set
    next clear =>
      rw [if_neg clear] at h
      rw [Nat.add_comm, Nat.testBit_succ]
      exact ih (by omega)

theorem popCount_eq_countP (n x : Nat) : popCount n x = (List.range n).countP fun i => x.testBit i := by
  induction n generalizing x with
  | zero => rfl
  | succ n ih =>
    have tail : (fun i => x.testBit i) ∘ Nat.succ = fun i => (x / 2).testBit i := funext fun i => Nat.testBit_succ x i
    rw [popCount, ih, List.range_succ_eq_map, List.countP_cons, List.countP_map, tail, Nat.add_comm, Nat.testBit_zero]
    rcases Nat.mod_two_eq_zero_or_one x with h | h <;> simp [h]

/-! ## Bit fields (R122) -/

/-- An integer element in a wider word: extended by its sign or by zeros (R45, R130). -/
theorem ofInt_intVal (n w : Nat) (sx : Bool) (x : Nat) :
    BitVec.ofInt n (intVal w sx x) = if sx then (BitVec.ofNat w x).signExtend n else (BitVec.ofNat w x).setWidth n := by
  cases sx with
  | false =>
    have value : intVal w false x = ((x % 2 ^ w : Nat) : Int) := rfl
    rw [value, BitVec.ofInt_natCast, ← BitVec.toNat_ofNat, BitVec.ofNat_toNat]; rfl
  | true =>
    have value : intVal w true x = (BitVec.ofNat w x).toInt := by
      rw [BitVec.toInt_eq_toNat_cond, BitVec.toNat_ofNat]
      simp only [intVal, Bool.true_and, decide_eq_true_eq]
      split <;> split <;> omega
    rw [value]; rfl

theorem getLsbD_bfxVal {a : Word} {imm : BitVec 32} (len : 0 < fieldLen imm) (sx : Bool) {i : Nat} (hi : i < 64) :
    (bfxVal a imm sx).getLsbD i =
      if i < fieldLen imm then a.getLsbD (fieldPos imm + i) else (sx && a.getLsbD (fieldPos imm + fieldLen imm - 1)) := by
  have field : BitVec.ofNat (fieldLen imm) (bitsOf a.toNat (fieldPos imm) (fieldLen imm)) =
      a.extractLsb' (fieldPos imm) (fieldLen imm) := by
    apply BitVec.eq_of_toNat_eq
    simp [bitsOf]
  have top : fieldPos imm + (fieldLen imm - 1) = fieldPos imm + fieldLen imm - 1 := by omega
  have below : fieldLen imm - 1 < fieldLen imm := Nat.sub_one_lt_of_lt len
  rw [bfxVal, ofInt_intVal, field]
  cases sx with
  | true =>
    rw [if_pos rfl, BitVec.getLsbD_signExtend, BitVec.msb_eq_getLsbD_last, BitVec.getLsbD_extractLsb', BitVec.getLsbD_extractLsb', top,
      decide_eq_true hi, decide_eq_true below, Bool.true_and, Bool.true_and]
    by_cases h : i < fieldLen imm
    · rw [if_pos h, if_pos h, decide_eq_true h, Bool.true_and]
    · rw [if_neg h, if_neg h]
  | false =>
    rw [if_neg Bool.false_ne_true, BitVec.getLsbD_setWidth, BitVec.getLsbD_extractLsb', decide_eq_true hi, Bool.true_and, Bool.false_and]
    by_cases h : i < fieldLen imm
    · rw [if_pos h, decide_eq_true h, Bool.true_and]
    · rw [if_neg h, decide_eq_false h, Bool.false_and]

theorem getLsbD_bfiVal (a b : Word) (imm : BitVec 32) {i : Nat} (hi : i < 64) :
    (bfiVal a b imm).getLsbD i =
      if fieldPos imm ≤ i ∧ i < fieldPos imm + fieldLen imm then b.getLsbD (i - fieldPos imm) else a.getLsbD i := by
  have mask : (BitVec.ofNat 64 (2 ^ fieldLen imm - 1) <<< fieldPos imm).getLsbD i =
      decide (fieldPos imm ≤ i ∧ i < fieldPos imm + fieldLen imm) := by
    rw [BitVec.getLsbD_shiftLeft, BitVec.getLsbD_ofNat, Nat.testBit_two_pow_sub_one]
    rw [Bool.eq_iff_iff]
    simp only [Bool.and_eq_true, Bool.not_eq_true', decide_eq_true_eq, decide_eq_false_iff_not]
    omega
  simp only [bfiVal, BitVec.getLsbD_or, BitVec.getLsbD_and, BitVec.getLsbD_not, mask, BitVec.getLsbD_shiftLeft]
  by_cases h : fieldPos imm ≤ i ∧ i < fieldPos imm + fieldLen imm
  · simp [h, hi]
  · simp [h, hi]

theorem shiftImmOk_of_high {x : SW} (h : x.fn.getLsbD 0 = true) (high : x.imm.extractLsb' 6 26 ≠ 0) : shiftImmOk x = false := by
  rw [shiftImmOk, h, decide_eq_false high]
  exact Bool.and_false _

theorem bitfieldOk_iff (imm : BitVec 32) : bitfieldOk imm = true ↔
    fieldLen imm ≠ 0 ∧ fieldLen imm ≤ 64 ∧ fieldPos imm + fieldLen imm ≤ 64 ∧ imm.extractLsb' 13 19 = 0 := by
  simp only [bitfieldOk, fieldLen, fieldPos, Bool.and_eq_true, decide_eq_true_eq, and_assoc]

theorem fieldLen_pos {imm : BitVec 32} (h : bitfieldOk imm = true) : 0 < fieldLen imm := by
  obtain ⟨some, -⟩ := (bitfieldOk_iff imm).1 h
  exact Nat.pos_of_ne_zero some

/-- A field of no bits, of more than 64, beyond bit 63, or with reserved bits set, is not allowed. -/
theorem bitfieldOk_eq_false {imm : BitVec 32}
    (h : fieldLen imm = 0 ∨ 64 < fieldLen imm ∨ 64 < fieldPos imm + fieldLen imm ∨ imm.extractLsb' 13 19 ≠ 0) :
    bitfieldOk imm = false := by
  rw [Bool.eq_false_iff, Ne, bitfieldOk_iff]
  rintro ⟨some, word, fits, high⟩
  rcases h with h | h | h | h
  · exact some h
  · omega
  · omega
  · exact h high

/-- Settles O4: one result of latency 1 for each instruction, and what the fields allow. -/
theorem shiftAndBitFieldResults : Obligations.ShiftAndBitFieldResults := by
  unfold Obligations.ShiftAndBitFieldResults
  refine ⟨fun s x a k ha hk => ?_, fun s x a pos len ha hpos hlen => ?_⟩
  · have amount : shAmt (s.opB x) = k := (shAmt_eq _).trans hk.symm
    subst ha
    refine ⟨fun h => ?_, fun h => ?_, fun h => ?_, fun h => ?_, fun p reg high i hi => ?_⟩
    · exact (Eq.refl (execShl x s)).trans (aluOp_next h (amount ▸ shiftLeft_eq_ofNat _ _))
    · exact (Eq.refl (execShr x s)).trans (aluOp_next h (amount ▸ shiftRight_eq_ofNat _ _))
    · exact (Eq.refl (execSra x s)).trans (aluOp_next h (amount ▸ sshiftRight_eq_ofInt _ _))
    · refine ⟨_, (Eq.refl (execRotl x s)).trans (aluOp_next h rfl), fun i hi => ?_⟩
      rw [amount]
      exact getLsbD_rotateLeft_add _ hi (by omega)
    · have ill := shiftImmOk_of_high reg high
      simp only [List.mem_cons, List.not_mem_nil, or_false] at hi
      rcases hi with rfl | rfl | rfl | rfl
      · exact (Eq.refl (execShl x s)).trans (aluOp_ill p ill)
      · exact (Eq.refl (execShr x s)).trans (aluOp_ill p ill)
      · exact (Eq.refl (execSra x s)).trans (aluOp_ill p ill)
      · exact (Eq.refl (execRotl x s)).trans (aluOp_ill p ill)
  · subst ha hpos hlen
    refine ⟨fun h => ?_, fun h => ?_, fun h => ?_, fun h => ?_, fun h => ?_, fun p bad i hi => ?_⟩
    · exact ⟨_, leadingZeros_le 64 _, (Eq.refl (execClz x s)).trans (aluOp_next h rfl),
        fun i => testBit_of_lt_leadingZeros, testBit_leadingZeros⟩
    · exact ⟨_, trailingZeros_le 64 _, (Eq.refl (execCtz x s)).trans (aluOp_next h rfl),
        fun i => testBit_of_lt_trailingZeros, testBit_trailingZeros⟩
    · exact (Eq.refl (execPopc x s)).trans (aluOp_next h (congrArg (BitVec.ofNat 64) (popCount_eq_countP 64 _)))
    · refine ⟨_, (Eq.refl (execBfx x s)).trans (aluOp_next h rfl), fun w i hi => ?_⟩
      obtain ⟨-, field⟩ := Bool.and_eq_true_iff.1 w
      exact getLsbD_bfxVal (fieldLen_pos field) _ hi
    · exact ⟨_, (Eq.refl (execBfi x s)).trans (aluOp_next h rfl), fun _ i hi => getLsbD_bfiVal _ _ _ hi⟩
    · have ill := bitfieldOk_eq_false bad
      simp only [List.mem_cons, List.not_mem_nil, or_false] at hi
      rcases hi with rfl | rfl
      · exact (Eq.refl (execBfx x s)).trans (aluOp_ill p (Bool.and_eq_false_iff.2 (.inr ill)))
      · exact (Eq.refl (execBfi x s)).trans (aluOp_ill p (Bool.and_eq_false_iff.2 (.inr ill)))

end Sys2Proof.Machine
end

section
/-! SUPPORT. Products and quotients of words, and the results of the binary64 instructions (R123, R127 to R129). -/

namespace Sys2Proof.Machine

open Sys2Proof

/-! ## Products and quotients (R123) -/

theorem mul_eq_ofNat (a b : Word) : a * b = BitVec.ofNat 64 (a.toNat * b.toNat) := by
  rw [BitVec.ofNat_mul, BitVec.ofNat_toNat, BitVec.ofNat_toNat, BitVec.setWidth_eq, BitVec.setWidth_eq]

theorem mulhVal_signed (a b : Word) : mulhVal 0 a b = BitVec.ofInt 64 (a.toInt * b.toInt / 2 ^ 64) := rfl

theorem mulhVal_unsigned (a b : Word) : mulhVal 1 a b = BitVec.ofNat 64 (a.toNat * b.toNat / 2 ^ 64) := by
  rw [← BitVec.ofInt_natCast]
  simp [mulhVal]

theorem mulhVal_mixed (a b : Word) : mulhVal 2 a b = BitVec.ofInt 64 (a.toInt * b.toNat / 2 ^ 64) := rfl

theorem divVal_zero (u : Bool) (a : Word) : divVal u a 0 = 0xFFFF_FFFF_FFFF_FFFF#64 := rfl

theorem remVal_zero (u : Bool) (a : Word) : remVal u a 0 = a := rfl

section
variable {a b : Word}

theorem toNat_divVal (h : b ≠ 0) : (divVal true a b).toNat = a.toNat / b.toNat := by
  rw [divVal, if_neg h, if_pos rfl, BitVec.toNat_udiv]

theorem toNat_remVal (h : b ≠ 0) : (remVal true a b).toNat = a.toNat % b.toNat := by
  rw [remVal, if_neg h, if_pos rfl, BitVec.toNat_umod]

/-- The signed quotient and remainder are those of the library's words. -/
theorem divVal_eq_sdiv (h : b ≠ 0) : divVal false a b = a.sdiv b := by
  apply BitVec.eq_of_toInt_eq
  rw [divVal, if_neg h, if_neg Bool.false_ne_true, BitVec.toInt_sdiv, BitVec.toInt_ofInt]

theorem remVal_eq_srem (h : b ≠ 0) : remVal false a b = a.srem b := by
  rw [remVal, if_neg h, if_neg Bool.false_ne_true, ← BitVec.toInt_srem, BitVec.ofInt_toInt]

theorem toInt_remVal (h : b ≠ 0) : (remVal false a b).toInt = a.toInt.tmod b.toInt := by
  rw [remVal_eq_srem h, BitVec.toInt_srem]

theorem eq_intMin_of_toInt (h : a.toInt = -2 ^ 63) : a = BitVec.intMin 64 := BitVec.eq_of_toInt_eq (h.trans (by decide))

theorem eq_neg_one_of_toInt (h : b.toInt = -1) : b = -1#64 := BitVec.eq_of_toInt_eq (h.trans (by decide))

/-- Every signed quotient but that of the smallest number by -1 is exact. -/
theorem toInt_divVal (h : b ≠ 0) (fits : ¬ (a.toInt = -2 ^ 63 ∧ b.toInt = -1)) :
    (divVal false a b).toInt = a.toInt.tdiv b.toInt := by
  rw [divVal_eq_sdiv h]
  refine BitVec.toInt_sdiv_of_ne_or_ne a b ?_
  by_cases min : a = BitVec.intMin 64
  · refine .inr fun neg => fits ?_
    subst min neg
    decide
  · exact .inl min

end

/-- Settles O5: one result for each instruction, of the latency of its row, and the variant of `mulh` that is not allowed. -/
theorem productAndQuotientResults : Obligations.ProductAndQuotientResults := by
  unfold Obligations.ProductAndQuotientResults
  intro s x a b ha hb
  subst ha hb
  refine ⟨fun h => ?_, fun h => ⟨fun sg => ?_, fun sg => ?_, fun sg => ?_⟩, fun p sg => ?_, fun h => ?_, fun h => ?_⟩
  · exact (Eq.refl (execMul x s)).trans (aluOp_next h (mul_eq_ofNat _ _))
  · exact (Eq.refl (execMulh x s)).trans (aluOp_next h (sg ▸ mulhVal_signed _ _))
  · exact (Eq.refl (execMulh x s)).trans (aluOp_next h (sg ▸ mulhVal_unsigned _ _))
  · exact (Eq.refl (execMulh x s)).trans (aluOp_next h (sg ▸ mulhVal_mixed _ _))
  · have ill : Instr.wf (.mulh x) = false := by simp [Instr.wf, sg]
    exact (Eq.refl (execMulh x s)).trans (aluOp_ill p ill)
  · refine ⟨_, (Eq.refl (execDiv x s)).trans (aluOp_next h rfl), fun zero => ?_, fun nz u => ?_, fun sg min neg => ?_, fun nz sg fits => ?_⟩
    · show divVal _ _ (s.opB x) = _
      rw [zero, divVal_zero]
    · rw [u]; exact toNat_divVal nz
    · rw [sg, State.opA, eq_intMin_of_toInt min, eq_neg_one_of_toInt neg]; rfl
    · rw [sg]; exact toInt_divVal nz fits
  · refine ⟨_, (Eq.refl (execRem x s)).trans (aluOp_next h rfl), fun zero => ?_, fun nz u => ?_, fun sg min neg => ?_, fun nz sg => ?_⟩
    · show remVal _ _ (s.opB x) = _
      rw [zero, remVal_zero]; rfl
    · rw [u]; exact toNat_remVal nz
    · rw [sg, State.opA, eq_intMin_of_toInt min, eq_neg_one_of_toInt neg]; rfl
    · rw [sg]; exact toInt_remVal nz

/-! ## Binary64 (R127 to R129) -/

/-- Settles O6: one result for each instruction, with its flags, of the latency of its row. -/
theorem binary64Results : Obligations.Binary64Results := by
  unfold Obligations.Binary64Results
  intro s x a b c ha hb hc
  subst ha hb hc
  refine ⟨fun i lat r row h => ?_, fun h => ⟨_, (Eq.refl (execFcmpD x s)).trans (fpuOp_next h rfl), ?_⟩, fun h => ?_⟩
  · simp only [List.mem_cons, List.not_mem_nil, or_false] at row
    rcases row with ⟨rfl, rfl, rfl⟩ | ⟨rfl, rfl, rfl⟩ | ⟨rfl, rfl, rfl⟩ | ⟨rfl, rfl, rfl⟩ | ⟨rfl, rfl, rfl⟩ | ⟨rfl, rfl, rfl⟩ |
      ⟨rfl, rfl, rfl⟩ | ⟨rfl, rfl, rfl⟩ | ⟨rfl, rfl, rfl⟩
    · exact (Eq.refl (execFaddD x s)).trans (fpuOp_next h rfl)
    · exact (Eq.refl (execFsubD x s)).trans (fpuOp_next h rfl)
    · exact (Eq.refl (execFmulD x s)).trans (fpuOp_next h rfl)
    · exact (Eq.refl (execFmaD x s)).trans (fpuOp_next h rfl)
    · exact (Eq.refl (execFdivD x s)).trans (fpuOp_next h rfl)
    · exact (Eq.refl (execFsqrtD x s)).trans (fpuOp_next h rfl)
    · exact (Eq.refl (execFminD x s)).trans (fpuOp_next h rfl)
    · exact (Eq.refl (execFmaxD x s)).trans (fpuOp_next h rfl)
    · exact (Eq.refl (execFclassD x s)).trans (fpuOp_next h rfl)
  · exact apply_ite (BitVec.ofNat 64) _ 1 0
  · refine ⟨_, _, rfl, rfl, (Eq.refl (execFcvt x s)).trans (fpuOp_next (r := (_, _)) h rfl)⟩

end Sys2Proof.Machine
end

section
/-! SUPPORT. Moves to and from control registers, and what a write of each one leaves (R124, R126). -/

namespace Sys2Proof.Machine

open Sys2Proof

/-! ## The checks of `mfc` and `mtc` (R72, R124, R322) -/

section
variable {s : State} {idx : Nat}

/-- An index below 0x800 is open to every context, the others to privileged ones (R72). -/
theorem State.index_open (reach : idx < 0x800 ∨ s.me.priv = true) : ¬ (decide (0x800 ≤ idx) && !s.me.priv) = true := by
  rcases reach with h | h
  · simp [Nat.not_le.2 h]
  · simp [h]

theorem State.idxVerdict_ok (reach : idx < 0x800 ∨ s.me.priv = true) {v : Word} (view : s.crView s.issue.cid idx = some v) :
    s.idxVerdict idx = .ok := by
  rw [State.idxVerdict, if_neg (State.index_open reach), view]
  rfl

theorem State.idxVerdict_priv (high : 0x800 ≤ idx) (unpriv : s.me.priv = false) : s.idxVerdict idx = .trap .priv 0 :=
  if_pos (by simp [high, unpriv])

theorem State.idxVerdict_illop (reach : idx < 0x800 ∨ s.me.priv = true) (view : s.crView s.issue.cid idx = none) :
    s.idxVerdict idx = .trap .illop 0 := by
  rw [State.idxVerdict, if_neg (State.index_open reach), view]
  rfl

/-- A write of another register than XLINV and PREEMPT waits for nothing (R232, R357). -/
theorem State.busyVerdict_ok_of_lt (h : idx < 0x800) : s.busyVerdict idx = .ok := by
  have xlinv : idx ≠ 0x810 := by omega
  have preempt : idx ≠ 0x815 := by omega
  simp [State.busyVerdict, xlinv, preempt]

theorem State.busyVerdict_ok (xlinv : idx = 0x810 → s.pk.xlBusy = none) (preempt : idx = 0x815 → s.preemptBusy = false)
    (first : idx = 0x810 ∨ idx = 0x815 → ∀ p ∈ s.me.pend, p.dest ≠ .cr (BitVec.ofNat 12 idx)) : s.busyVerdict idx = .ok := by
  by_cases h : idx = 0x810 ∨ idx = 0x815
  · have mine : (s.me.pend.any fun p => p.dest == .cr (BitVec.ofNat 12 idx)) = false := by simpa using first h
    rw [State.busyVerdict, mine]
    refine if_neg ?_
    rcases h with rfl | rfl
    · simp [xlinv]
    · simp [preempt]
  · obtain ⟨nx, np⟩ := not_or.1 h
    simp [State.busyVerdict, nx, np]

theorem ignoresWrite_iff (cid idx : Nat) : ignoresWrite cid idx = true ↔ isDepot cid = true ∧ 0x202 ≤ idx ∧ idx ≤ 0x205 := by
  simp [ignoresWrite, and_assoc]

theorem State.rwpVerdict_ok {x : Word} (h : s.me.priv = true ∨ (isDepot s.issue.cid = true ∧ 0x202 ≤ idx ∧ idx ≤ 0x205) ∨
    (x ^^^ s.crContents s.issue.cid idx) &&& (crMasks idx).2 = 0) : s.rwpVerdict idx x = .ok := by
  rw [← ignoresWrite_iff] at h
  refine if_neg ?_
  rcases h with h | h | h <;> simp [h]

theorem State.rwpVerdict_priv {x : Word} (unpriv : s.me.priv = false)
    (taken : ¬ (isDepot s.issue.cid = true ∧ 0x202 ≤ idx ∧ idx ≤ 0x205))
    (changes : (x ^^^ s.crContents s.issue.cid idx) &&& (crMasks idx).2 ≠ 0) : s.rwpVerdict idx x = .trap .priv 0 := by
  rw [← ignoresWrite_iff, Bool.not_eq_true] at taken
  exact if_pos (by simpa [unpriv, taken] using changes)

end

/-! ## The two instructions (R124, R126) -/

section
variable {s : State} {x : SW}

theorem exec_mfc_of_ok (p : s.issue.phase = .whole) (w : Instr.wf (.mfc x) = true) (ok : s.idxVerdict (SWidx x) = .ok) {v : Word}
    (view : s.crView s.issue.cid (SWidx x) = some v) : exec (.mfc x) s = .next (s.landS 0 x.sd v 2) := by
  refine (Eq.refl (execMfc x s)).trans ((slotOp_whole p ((slotVerdict_ok w).trans ok)).trans ?_)
  rw [view]; rfl

theorem exec_mfc_of_trap (p : s.issue.phase = .whole) (w : Instr.wf (.mfc x) = true) {c : Cause}
    (bad : s.idxVerdict (SWidx x) = .trap c 0) : exec (.mfc x) s = .next (s.issueTrap 0 c 0) :=
  (Eq.refl (execMfc x s)).trans (slotOp_trap p ((slotVerdict_ok w).trans bad))

theorem exec_mtc_of_ok (p : s.issue.phase = .whole) (w : Instr.wf (.mtc x) = true) (idx : s.idxVerdict (SWidx x) = .ok)
    (busy : s.busyVerdict (SWidx x) = .ok) (rwp : s.rwpVerdict (SWidx x) (s.me.rs x.sa) = .ok) :
    exec (.mtc x) s = .next (s.landCr 0 (BitVec.ofNat 12 (SWidx x)) (s.me.rs x.sa) 2) :=
  (Eq.refl (execMtc x s)).trans
    (slotOp_whole p ((slotVerdict_ok w).trans (Verdict.both_eq_ok.2 ⟨Verdict.both_eq_ok.2 ⟨idx, busy⟩, rwp⟩)))

theorem exec_mtc_of_trap (p : s.issue.phase = .whole) (w : Instr.wf (.mtc x) = true) {c : Cause}
    (bad : s.idxVerdict (SWidx x) = .trap c 0) : exec (.mtc x) s = .next (s.issueTrap 0 c 0) := by
  refine (Eq.refl (execMtc x s)).trans (slotOp_trap p ((slotVerdict_ok w).trans ?_))
  rw [bad]; rfl

theorem exec_mtc_of_rwp (p : s.issue.phase = .whole) (w : Instr.wf (.mtc x) = true) (idx : s.idxVerdict (SWidx x) = .ok)
    (busy : s.busyVerdict (SWidx x) = .ok) {c : Cause} (bad : s.rwpVerdict (SWidx x) (s.me.rs x.sa) = .trap c 0) :
    exec (.mtc x) s = .next (s.issueTrap 0 c 0) := by
  refine (Eq.refl (execMtc x s)).trans (slotOp_trap p ((slotVerdict_ok w).trans ?_))
  rw [idx, busy]
  exact bad

end

/-! ## Writes that land (R7, R31, R37, R82, R97, R125, R126, R201, R368) -/

section
variable (c : Ctx) (x : Word) (b : Bool)

@[simp] theorem Ctx.recorded_regs (f : Recorded → Recorded) : (c.recorded b f).regs = c.regs := by cases b <;> rfl

theorem maskedWrite_all (old : Word) : maskedWrite (BitVec.allOnes 64 ||| 0) old x = x := by
  have every : BitVec.allOnes 64 ||| 0 = BitVec.allOnes 64 := BitVec.or_zero
  rw [maskedWrite, every, BitVec.not_allOnes, BitVec.and_zero, BitVec.zero_or, BitVec.and_allOnes]

/-- TSHAPE0 to TSHAPE15 take the whole value (R201). -/
theorem Ctx.crWrite_tshape_regs {k : Nat} (h : k < 16) :
    (c.crWrite (0x040 + k) x b).regs = { c.regs with tshape := c.regs.tshape.set k x } := by
  have shape : (decide (0x040 ≤ 0x040 + k) && decide (0x040 + k ≤ 0x04F)) = true :=
    Bool.and_eq_true_iff.2 ⟨decide_eq_true (Nat.le_add_right _ _), decide_eq_true (by omega)⟩
  unfold Ctx.crWrite
  dsimp only
  split
  case h_19 =>
    rw [if_pos shape, Ctx.recorded_regs, Nat.add_sub_cancel_left]
  all_goals omega

end

/-- Settles O13: the two instructions where they complete and where they trap, and the register that each write changes. -/
theorem controlRegisterMovesAndWrites : Obligations.ControlRegisterMovesAndWrites := by
  unfold Obligations.ControlRegisterMovesAndWrites
  refine ⟨fun s x idx v hidx p => ?_, fun c x inside put hput => ?_⟩
  · subst hidx
    refine ⟨fun w reach view => ?_, fun w reach view field xlinv preempt first => ?_, fun i hi w high unpriv => ?_,
      fun i hi w reach view => ?_, fun w low unpriv view taken changes => ?_⟩
    · exact exec_mfc_of_ok p w (State.idxVerdict_ok reach view) view
    · exact exec_mtc_of_ok p w (State.idxVerdict_ok reach view) (State.busyVerdict_ok xlinv preempt first) (State.rwpVerdict_ok field)
    · have bad := State.idxVerdict_priv high unpriv
      simp only [List.mem_cons, List.not_mem_nil, or_false] at hi
      rcases hi with rfl | rfl
      · exact exec_mfc_of_trap p w bad
      · exact exec_mtc_of_trap p w bad
    · have bad := State.idxVerdict_illop reach view
      simp only [List.mem_cons, List.not_mem_nil, or_false] at hi
      rcases hi with rfl | rfl
      · exact exec_mfc_of_trap p w bad
      · exact exec_mtc_of_trap p w bad
    · exact exec_mtc_of_rwp p w (State.idxVerdict_ok (.inl low) view) (State.busyVerdict_ok_of_lt low)
        (State.rwpVerdict_priv unpriv taken changes)
  · subst hput
    refine ⟨fun idx r row => ?_, fun k hk => c.crWrite_tshape_regs x inside hk, fun idx => ?_, fun idx hi => ?_⟩
    · simp only [List.mem_cons, List.not_mem_nil, or_false] at row
      rcases row with ⟨rfl, rfl⟩ | ⟨rfl, rfl⟩ | ⟨rfl, rfl⟩ | ⟨rfl, rfl⟩ | ⟨rfl, rfl⟩ | ⟨rfl, rfl⟩ | ⟨rfl, rfl⟩ | ⟨rfl, rfl⟩ | ⟨rfl, rfl⟩ |
        ⟨rfl, rfl⟩ | ⟨rfl, rfl⟩ | ⟨rfl, rfl⟩ | ⟨rfl, rfl⟩ | ⟨rfl, rfl⟩ | ⟨rfl, rfl⟩ | ⟨rfl, rfl⟩ | ⟨rfl, rfl⟩ | ⟨rfl, rfl⟩
      · cases inside <;> rfl
      · cases inside <;> rfl
      · cases inside <;> rfl
      · rfl
      · exact congrArg (fun v => { c.regs with skips := v }) (maskedWrite_all x _)
      · exact congrArg (fun v => { c.regs with planesDone := v }) (maskedWrite_all x _)
      · exact congrArg (fun v => { c.regs with planesSkipped := v }) (maskedWrite_all x _)
      · cases inside <;> rfl
      · rfl
      · rfl
      · rfl
      · exact congrArg (fun v => { c.regs with tval := v }) (maskedWrite_all x _)
      · rfl
      · rfl
      · rfl
      · rfl
      · exact congrArg (fun v => { c.regs with tscr0 := v }) (maskedWrite_all x _)
      · exact congrArg (fun v => { c.regs with tscr1 := v }) (maskedWrite_all x _)

    · obtain ⟨r, g, written⟩ := c.crWrite_eq idx x inside
      rw [written]
      exact ⟨rfl, rfl, rfl, rfl, rfl, rfl⟩
    · simp only [List.mem_cons, List.not_mem_nil, or_false] at hi
      rcases hi with rfl | rfl | rfl | rfl | rfl | rfl | rfl | rfl <;> rfl

end Sys2Proof.Machine
end

section
/-! SUPPORT. The comparison of registers with their shadows (R117, R118). -/

namespace Sys2Proof.Machine

open Sys2Proof

/-! ## Elements and lanes as bits (R59, R130) -/

theorem elem_eq_extractLsb' (v : VWord) (w e : Nat) : elem v w e = (v.extractLsb' (w * e) w).toNat := by
  rw [elem, BitVec.extractLsb'_toNat]

/-- An element of a difference is zero just where the elements agree. -/
theorem elem_xor_eq_zero_iff (u v : VWord) (w e : Nat) : elem (u ^^^ v) w e = 0 ↔ elem u w e = elem v w e := by
  have zero (x : BitVec w) : x.toNat = 0 ↔ x = 0#w := by rw [← BitVec.toNat_inj, BitVec.toNat_ofNat, Nat.zero_mod]
  rw [elem_eq_extractLsb', elem_eq_extractLsb', elem_eq_extractLsb', BitVec.extractLsb'_xor, zero, BitVec.xor_eq_zero_iff,
    BitVec.toNat_inj]

theorem getLsbD_one_shiftLeft {n i : Nat} (hi : i < n) (k : Nat) : ((1 : BitVec n) <<< k).getLsbD i = decide (k = i) := by
  refine (BitVec.getLsbD_twoPow k i).trans ?_
  by_cases e : k = i
  · simp [e, hi]
  · simp [e]

/-- The bits of a mask to which a fold adds bit `f k` for each `k` with a property. -/
theorem getLsbD_foldl_or_iff {α : Type} {n i : Nat} (hi : i < n) (p : α → Prop) [DecidablePred p] (f : α → Nat) (l : List α) (m : BitVec n) :
    (l.foldl (fun m k => if p k then m ||| ((1 : BitVec n) <<< f k) else m) m).getLsbD i = true ↔
      m.getLsbD i = true ∨ ∃ k ∈ l, p k ∧ f k = i := by
  induction l generalizing m with
  | nil => simp
  | cons k l ih =>
    have step : (if p k then m ||| ((1 : BitVec n) <<< f k) else m).getLsbD i = true ↔ m.getLsbD i = true ∨ p k ∧ f k = i := by
      by_cases h : p k
      · rw [if_pos h, BitVec.getLsbD_or, getLsbD_one_shiftLeft hi, Bool.or_eq_true, decide_eq_true_eq, and_iff_right h]
      · rw [if_neg h, or_iff_left fun both => h both.1]
    rw [List.foldl_cons, ih, step, or_assoc]
    simp only [List.mem_cons, exists_eq_or_imp]

/-! ## The registers and their shadows (R117, R118) -/

section
variable {c : Ctx}

/-- Where no register of the range differs from its shadow there is no first difference. -/
theorem firstDiff_of_same {n first : Nat} (same : ∀ k, first ≤ k → k < first + n → c.v.get k = c.v.get (k + 512)) :
    firstDiff c n first = none := by
  induction n generalizing first with
  | zero => rfl
  | succ n ih =>
    rw [firstDiff, if_neg (not_not_intro (same first (Nat.le_refl _) (by omega)))]
    exact ih fun k above below => same k (by omega) (by omega)

theorem firstDiff_of_lowest {n first k : Nat} (above : first ≤ k) (below : k < first + n) (differs : c.v.get k ≠ c.v.get (k + 512))
    (lowest : ∀ j, first ≤ j → j < k → c.v.get j = c.v.get (j + 512)) : firstDiff c n first = some k := by
  induction n generalizing first with
  | zero => omega
  | succ n ih =>
    rcases Nat.eq_or_lt_of_le above with rfl | later
    · rw [firstDiff, if_pos differs]
    · rw [firstDiff, if_neg (not_not_intro (lowest first (Nat.le_refl _) later))]
      exact ih later (by omega) fun j above below => lowest j (by omega) below

/-- Below the lanes stands the number of the register. -/
theorem toNat_lanes_append (lanes : Mask) {k : Nat} (h : k < 1024) :
    (lanes ++ BitVec.ofNat 32 k : Word).toNat = lanes.toNat * 2 ^ 32 + k := by
  rw [append_eq_ofNat, BitVec.toNat_ofNat, BitVec.toNat_ofNat, Nat.mod_eq_of_lt (Nat.lt_trans h (by decide))]
  exact Nat.mod_eq_of_lt (by omega)

theorem dupTval_register (c : Ctx) {k : Nat} (h : k < 1024) : ((dupTval c k).extractLsb' 0 10).toNat = k := by
  have value : (dupTval c k).toNat = _ := toNat_lanes_append _ h
  rw [BitVec.extractLsb'_toNat, value, Nat.shiftRight_zero]
  omega

theorem dupTval_reserved (c : Ctx) {k : Nat} (h : k < 1024) : (dupTval c k).extractLsb' 10 22 = 0 := by
  have value : (dupTval c k).toNat = _ := toNat_lanes_append _ h
  apply BitVec.eq_of_toNat_eq
  rw [BitVec.extractLsb'_toNat, value, Nat.shiftRight_eq_div_pow]
  show _ = 0
  omega

theorem dupTval_lane (c : Ctx) (k : Nat) {i : Nat} (h : i < 32) :
    (dupTval c k).getLsbD (32 + i) = decide (elem (c.v.get k) 32 i ≠ elem (c.v.get (k + 512)) 32 i) := by
  unfold dupTval
  dsimp only
  rw [BitVec.getLsbD_append, if_neg (by omega), Nat.add_sub_cancel_left, Bool.eq_iff_iff, getLsbD_foldl_or_iff h]
  simp [h, elem_xor_eq_zero_iff]

end

section
variable {s : State} {x : YW}

theorem exec_dupcmp_of_off (p : s.issue.phase = .whole) (w : Instr.wf (.dupcmp x) = true) (off : s.me.regs.dup = false) :
    exec (.dupcmp x) s = .next s := by
  refine (Eq.refl (execDupcmp x s)).trans (slotOp_whole p ((slotVerdict_ok w).trans ?_))
  exact if_neg (ne_true_of_eq_false off)

theorem exec_dupcmp_of_same (p : s.issue.phase = .whole) (w : Instr.wf (.dupcmp x) = true)
    (same : firstDiff s.me (dupCount x) (dupFirst x) = none) : exec (.dupcmp x) s = .next s := by
  refine (Eq.refl (execDupcmp x s)).trans (slotOp_whole p ((slotVerdict_ok w).trans ?_))
  rw [same]
  exact ite_self _

theorem exec_dupcmp_of_diff (p : s.issue.phase = .whole) (w : Instr.wf (.dupcmp x) = true) (on : s.me.regs.dup = true) {k : Nat}
    (diff : firstDiff s.me (dupCount x) (dupFirst x) = some k) :
    exec (.dupcmp x) s = .next (s.issueTrap 7 .softerr (dupTval s.me k)) := by
  refine (Eq.refl (execDupcmp x s)).trans (slotOp_trap p ((slotVerdict_ok w).trans ?_))
  rw [on, diff]
  rfl

/-- The range of a `dupcmp` with legal fields lies in v0 to v511. -/
theorem dupcmp_range (w : Instr.wf (.dupcmp x) = true) : dupFirst x + dupCount x ≤ 512 := by
  simp only [Instr.wf, Bool.and_eq_true, decide_eq_true_eq] at w
  obtain ⟨⟨-, range⟩, -⟩ := w
  exact range

end

/-- Settles O33: the bundle goes on where nothing differs, and else traps on the lowest difference. -/
theorem dupcmpResults : Obligations.DupcmpResults := by
  unfold Obligations.DupcmpResults
  intro s x first count hfirst hcount p w
  subst hfirst hcount
  refine ⟨exec_dupcmp_of_off p w, fun same => exec_dupcmp_of_same p w (firstDiff_of_same same),
    fun k on above below differs lowest => ?_⟩
  have small : k < 1024 := Nat.lt_trans (Nat.lt_of_lt_of_le below (dupcmp_range w)) (by decide)
  exact ⟨_, exec_dupcmp_of_diff p w on (firstDiff_of_lowest above below differs lowest), dupTval_register _ small,
    dupTval_reserved _ small, fun i => dupTval_lane _ _⟩

end Sys2Proof.Machine
end

section
/-! SUPPORT. Vector registers element by element: what a vector built from elements holds, the lanes that a mask enables, and the landing
masks of the flags that elements raise (R35, R59, R130, R131). -/

namespace Sys2Proof.Machine

open Sys2Proof

/-! ## Elements of a register (R130) -/

theorem elem_lt (v : VWord) (w e : Nat) : elem v w e < 2 ^ w := Nat.mod_lt _ (Nat.two_pow_pos w)

theorem testBit_elem (v : VWord) (w e b : Nat) : (elem v w e).testBit b = (decide (b < w) && v.getLsbD (w * e + b)) := by
  rw [elem, Nat.testBit_mod_two_pow, Nat.testBit_shiftRight, BitVec.getLsbD]

/-- An element of the register lies within its 1,024 bits. -/
theorem elem_in_register {w e : Nat} (h : e < 1024 / w) : w * (e + 1) ≤ 1024 :=
  Nat.le_trans (Nat.mul_le_mul_left w h) (Nat.mul_div_le 1024 w)

theorem ofElems_shiftRight_mod (w : Nat) (l : List Nat) (e : Nat) :
    (ofElems w l >>> (w * e)) % 2 ^ w = ((l[e]?).getD 0) % 2 ^ w := by
  induction l generalizing e with
  | nil => simp [ofElems]
  | cons x xs ih =>
    have low : x % 2 ^ w < 2 ^ w := Nat.mod_lt _ (Nat.two_pow_pos w)
    cases e with
    | zero => simp [ofElems]
    | succ e =>
      rw [ofElems, Nat.mul_succ, Nat.add_comm (w * e), Nat.shiftRight_add, Nat.shiftRight_eq_div_pow _ w,
        Nat.add_mul_div_left _ _ (Nat.two_pow_pos w), Nat.div_eq_of_lt low, Nat.zero_add, ih, List.getElem?_cons_succ]

/-- The elements of a vector that a list gives; those beyond the list are zero. -/
theorem elem_ofElems {w e : Nat} (l : List Nat) (h : e < 1024 / w) :
    elem (BitVec.ofNat 1024 (ofElems w l)) w e = ((l[e]?).getD 0) % 2 ^ w := by
  rw [← ofElems_shiftRight_mod]
  have fits := elem_in_register h
  rw [Nat.mul_succ] at fits
  apply Nat.eq_of_testBit_eq
  intro b
  rw [testBit_elem, Nat.testBit_mod_two_pow, Nat.testBit_shiftRight, BitVec.getLsbD_ofNat]
  by_cases hb : b < w
  · have inside : w * e + b < 1024 := by omega
    simp [hb, inside]
  · simp [hb]

theorem elem_ofElems_map {w n e : Nat} (f : Nat → Nat) (h : e < 1024 / w) (he : e < n) :
    elem (BitVec.ofNat 1024 (ofElems w ((List.range n).map f))) w e = f e % 2 ^ w := by
  rw [elem_ofElems _ h, List.getElem?_map, List.getElem?_range he]
  rfl

/-- The elements of a vector from the values of results that carry flags. -/
theorem elem_ofElems_fst {w n e : Nat} (f : Nat → Nat × FpFlags) (h : e < 1024 / w) (he : e < n) :
    elem (BitVec.ofNat 1024 (ofElems w (((List.range n).map f).map (·.1)))) w e = (f e).1 % 2 ^ w := by
  rw [List.map_map, elem_ofElems_map _ h he]
  rfl

theorem elem_buildV {w e : Nat} (f : Nat → Nat) (h : e < 1024 / w) : elem (buildV w f) w e = f e % 2 ^ w := elem_ofElems_map f h h

/-! ## Lanes (R59, R131) -/

/-- The bits that a result replaces are those of the elements that the mask makes active and `also` admits. -/
theorem getLsbD_laneBits {w e b : Nat} (m : Mask) (also : Nat → Bool) (he : e < 1024 / w) (hb : b < w) :
    (laneBits w m also).getLsbD (w * e + b) = (m.getLsbD (e * w / 32) && also e) := by
  have bit := testBit_elem (laneBits w m also) w e b
  rw [laneBits, elem_buildV _ he, Nat.testBit_mod_two_pow, decide_eq_true hb, Bool.true_and, Bool.true_and] at bit
  rw [laneBits, ← bit]
  change (if (m.getLsbD (e * w / 32) && also e) = true then 2 ^ w - 1 else 0).testBit b = _
  cases m.getLsbD (e * w / 32) && also e with
  | true => rw [if_pos rfl, Nat.testBit_two_pow_sub_one, decide_eq_true hb]
  | false => rw [if_neg Bool.false_ne_true, Nat.zero_testBit]

theorem lanesAre_laneBits (w : Nat) (m : Mask) : lanesAre w m (laneBits w m fun _ => true) := fun e he b hb => by
  rw [getLsbD_laneBits m _ he hb, Bool.and_true]

/-! ## Flags (R35, R132) -/

/-- Landing mask `k` has bit `g` just where an element that `g` governs raises flag `k`. -/
theorem getLsbD_elemFlags (w : Nat) (fs : List FpFlags) {k g : Nat} (hk : k < 6) (hg : g < 32) :
    (((elemFlags w fs)[k]?).getD 0).getLsbD g = true ↔
      ∃ e < fs.length, e * w / 32 = g ∧ ((fs[e]?).getD 0).getLsbD k = true := by
  unfold elemFlags
  dsimp only
  split
  next quiet =>
    have clear {e : Nat} (he : e < fs.length) : (fs[e]?).getD 0 = 0 := by
      rw [List.getElem?_eq_getElem he]
      exact of_decide_eq_true (List.all_eq_true.1 quiet _ (List.getElem_mem he))
    refine iff_of_false (by simp) ?_
    rintro ⟨e, he, -, raised⟩
    rw [clear he] at raised
    simp at raised
  next =>
    rw [List.getElem?_map, List.getElem?_range hk, Option.map_some, Option.getD_some,
      getLsbD_foldl_or_iff hg (fun e => ((fs[e]?).getD 0).getLsbD k = true) (govBit w)]
    simp only [BitVec.ofNat_eq_ofNat, BitVec.getLsbD_zero, Bool.false_eq_true, false_or, List.mem_range, govBit]
    exact exists_congr fun e => and_congr_right fun _ => And.comm

/-- The landing masks of the flags of `n` elements, by a function that gives the flags of each. -/
theorem getLsbD_elemFlags_map (w n : Nat) (f : Nat → FpFlags) {k g : Nat} (hk : k < 6) (hg : g < 32) :
    (((elemFlags w ((List.range n).map f))[k]?).getD 0).getLsbD g = true ↔
      ∃ e < n, e * w / 32 = g ∧ (f e).getLsbD k = true := by
  rw [getLsbD_elemFlags w _ hk hg, List.length_map, List.length_range]
  refine exists_congr fun e => and_congr_right fun he => ?_
  rw [List.getElem?_map, List.getElem?_range he]
  rfl

/-- At width 32 element `g` alone raises bit `g`. -/
theorem getLsbD_elemFlags_lanes (n : Nat) (f : Nat → FpFlags) {k g : Nat} (hk : k < 6) (hg : g < 32) :
    (((elemFlags 32 ((List.range n).map f))[k]?).getD 0).getLsbD g = true ↔ g < n ∧ (f g).getLsbD k = true := by
  have governs (e : Nat) : e * 32 / 32 = e := Nat.mul_div_cancel e (by decide)
  rw [getLsbD_elemFlags_map 32 n f hk hg]
  constructor
  · rintro ⟨e, he, place, raised⟩
    obtain rfl : e = g := (governs e).symm.trans place
    exact ⟨he, raised⟩
  · rintro ⟨inside, raised⟩
    exact ⟨g, inside, governs g, raised⟩

theorem activeFlags_map (w n : Nat) (m : Mask) (f : Nat → Nat × FpFlags) :
    activeFlags w m ((List.range n).map f) = (List.range n).map fun e => if m.getLsbD (e * w / 32) then (f e).2 else 0 := by
  unfold activeFlags
  rw [List.length_map, List.length_range]
  refine List.map_congr_left fun e he => ?_
  rw [List.getElem?_map, List.getElem?_range (List.mem_range.1 he)]
  rfl

theorem getLsbD_ite_zero {n k : Nat} (c : Prop) [Decidable c] (x : BitVec n) :
    (if c then x else 0).getLsbD k = true ↔ c ∧ x.getLsbD k = true := by
  split <;> simp [*]

/-- Flags of the active elements alone. -/
theorem getLsbD_elemFlags_active (w n : Nat) (m : Mask) (f : Nat → FpFlags) {k g : Nat} (hk : k < 6) (hg : g < 32) :
    (((elemFlags w ((List.range n).map fun e => if m.getLsbD (e * w / 32) then f e else 0))[k]?).getD 0).getLsbD g = true ↔
      ∃ e < n, e * w / 32 = g ∧ m.getLsbD g = true ∧ (f e).getLsbD k = true := by
  rw [getLsbD_elemFlags_map w _ _ hk hg]
  refine exists_congr fun e => and_congr_right fun _ => and_congr_right fun governs => ?_
  rw [getLsbD_ite_zero, governs]

theorem flagsAre_elemFlags (w : Nat) (m : Mask) (f : Nat → FpFlags) :
    flagsAre w m (elemFlags w ((List.range (1024 / w)).map fun e => if m.getLsbD (e * w / 32) then f e else 0)) f :=
  fun _ hk _ hg => getLsbD_elemFlags_active w _ m f hk hg

end Sys2Proof.Machine
end

section
/-! SUPPORT. Integer vector instructions: each element of the result modulo a power of two (R133 to R135). -/

namespace Sys2Proof.Machine

open Sys2Proof

/-! ## Codes and values of elements, modulo the width (R45, R134) -/

theorem natCast_two_pow (w : Nat) : ((2 ^ w : Nat) : Int) = 2 ^ w := Int.natCast_pow 2 w

theorem natCast_emod_two_pow (x w : Nat) : ((x % 2 ^ w : Nat) : Int) = (x : Int) % 2 ^ w := by
  rw [Int.natCast_emod, natCast_two_pow]

theorem intCode_eq_emod (w : Nat) (z : Int) : (intCode w z : Int) = z % 2 ^ w := by
  have positive : ((2 ^ w : Nat) : Int) ≠ 0 := Int.natCast_ne_zero.2 (Nat.ne_of_gt (Nat.two_pow_pos w))
  rw [intCode, Int.toNat_of_nonneg (Int.emod_nonneg _ positive), natCast_two_pow]

/-- An integer and its code agree modulo the width. -/
theorem intCode_emod (w : Nat) (z : Int) : (intCode w z : Int) % 2 ^ w = z % 2 ^ w := by
  rw [intCode_eq_emod, Int.emod_emod]

/-- A code and its value agree modulo the width, whatever the signedness. -/
theorem intVal_emod (w : Nat) (sx : Bool) (x : Nat) : intVal w sx x % 2 ^ w = (x : Int) % 2 ^ w := by
  unfold intVal
  dsimp only
  split
  · rw [natCast_emod_two_pow, natCast_two_pow, Int.sub_emod_right, Int.emod_emod]
  · rw [natCast_emod_two_pow, Int.emod_emod]

/-- All ones is −1. -/
theorem allOnes_emod (w : Nat) : ((2 ^ w - 1 : Nat) : Int) % 2 ^ w = -1 % 2 ^ w := by
  have value : ((2 ^ w - 1 : Nat) : Int) = -1 + 2 ^ w := by
    have positive := Nat.two_pow_pos w
    have cast := natCast_two_pow w
    omega
  rw [value, Int.add_emod_right]

/-- Inverting the top bit adds it, modulo the width. -/
theorem xor_signBit_emod {w : Nat} (hw : 0 < w) (a : Nat) :
    ((a ^^^ 2 ^ (w - 1) : Nat) : Int) % 2 ^ w = ((a : Int) + 2 ^ (w - 1)) % 2 ^ w := by
  have codes : (a ^^^ 2 ^ (w - 1)) % 2 ^ w = (2 ^ (w - 1) + a) % 2 ^ w := by
    apply Nat.eq_of_testBit_eq
    intro i
    rw [Nat.testBit_mod_two_pow, Nat.testBit_mod_two_pow, Nat.testBit_xor, Nat.testBit_two_pow]
    rcases Nat.lt_trichotomy i (w - 1) with below | rfl | above
    · rw [Nat.testBit_two_pow_add_gt below, decide_eq_false (Nat.ne_of_gt below), Bool.xor_false]
    · rw [Nat.testBit_two_pow_add_eq, decide_eq_true rfl, Bool.xor_true]
    · have outside : ¬ i < w := by omega
      rw [decide_eq_false outside, Bool.false_and, Bool.false_and]
  rw [← natCast_emod_two_pow, codes, natCast_emod_two_pow, Int.natCast_add, natCast_two_pow, Int.add_comm]

/-- Leading zeros by the place of the highest bit set (R133). -/
theorem leadingZeros_eq {w x : Nat} (h : x < 2 ^ w) : (leadingZeros w x : Int) = if x = 0 then (w : Int) else w - 1 - Nat.log2 x := by
  induction w with
  | zero =>
    obtain rfl : x = 0 := by omega
    rfl
  | succ n ih =>
    rw [leadingZeros]
    by_cases top : x < 2 ^ n
    · have rest := ih top
      rw [Nat.div_eq_of_lt top, if_neg (by decide)]
      split at rest
      next zero => rw [if_pos zero]; omega
      next nonzero => rw [if_neg nonzero]; omega
    · have positive := Nat.two_pow_pos n
      have nonzero : x ≠ 0 := by omega
      have place : Nat.log2 x = n := (Nat.log2_eq_iff nonzero).2 ⟨Nat.not_lt.1 top, h⟩
      have one : x / 2 ^ n = 1 := Nat.div_eq_of_lt_le (by omega) (by rw [Nat.pow_succ] at h; omega)
      rw [one, if_pos rfl, if_neg nonzero, place]
      omega

theorem elemWidth_pos (ty : BitVec 4) : 0 < elemWidth ty := by revert ty; decide

/-! ## A vector instruction without flags (R50, R131) -/

section
variable {s : State} {i : Instr} {x : VW} {lat : Nat}

theorem vecOp_performs (h : s.performs i) (g : State → Nat → Nat) : vecOp i x lat g s = .next (s.landV (vslot x) x.vd
    (buildV (elemWidth x.ty) (g s)) (laneBits (elemWidth x.ty) (s.me.mkMask x.sel) fun _ => true) lat []) := by
  unfold vecOp
  rw [slotOp_performs h]

/-- Where it takes effect it starts one result, on the active lanes, whose elements are known modulo the width. -/
theorem vecOp_results {g : State → Nat → Nat} {f : Nat → Int} (h : s.performs i) (run : exec i s = vecOp i x lat g s)
    (value : ∀ e, (g s e : Int) % 2 ^ elemWidth x.ty = f e % 2 ^ elemWidth x.ty) :
    ∃ v lanes, exec i s = .next (s.landV (vslot x) x.vd v lanes lat []) ∧ elemsAre (elemWidth x.ty) v f ∧
      lanesAre (elemWidth x.ty) (s.me.mkMask x.sel) lanes := by
  refine ⟨_, _, run.trans (vecOp_performs h g), fun e he => ?_, lanesAre_laneBits _ _⟩
  rw [elem_buildV _ he, natCast_emod_two_pow, value e]

/-- Where each element is stated as a natural number. -/
theorem vecOp_results_nat {g : State → Nat → Nat} {f : Nat → Nat} (h : s.performs i) (run : exec i s = vecOp i x lat g s)
    (value : ∀ e, g s e = f e) :
    ∃ v lanes, exec i s = .next (s.landV (vslot x) x.vd v lanes lat []) ∧ elemsAre (elemWidth x.ty) v (fun e => (f e : Int)) ∧
      lanesAre (elemWidth x.ty) (s.me.mkMask x.sel) lanes :=
  vecOp_results (f := fun e => (f e : Int)) h run fun e => by rw [value e]

end

/-! ## The values of each kind (R134, R135) -/

section
variable (ty : BitVec 4) (a b c : Nat)

theorem elInt_emod : elInt ty a % 2 ^ elemWidth ty = (a : Int) % 2 ^ elemWidth ty := intVal_emod _ _ _

theorem satVal_emod (sat : Bool) (z : Int) : (satVal ty sat z : Int) % 2 ^ elemWidth ty =
    (if sat then max (typeMin (elemWidth ty) (elemSigned ty)) (min (typeMax (elemWidth ty) (elemSigned ty)) z) else z)
      % 2 ^ elemWidth ty := intCode_emod _ _

theorem pickMin_emod : ((if elInt ty a ≤ elInt ty b then a else b : Nat) : Int) % 2 ^ elemWidth ty =
    min (elInt ty a) (elInt ty b) % 2 ^ elemWidth ty := by
  split
  next le => rw [Int.min_eq_left le, elInt_emod]
  next gt => rw [Int.min_eq_right (Int.le_of_lt (Int.not_le.1 gt)), elInt_emod]

theorem pickMax_emod : ((if elInt ty a ≤ elInt ty b then b else a : Nat) : Int) % 2 ^ elemWidth ty =
    max (elInt ty a) (elInt ty b) % 2 ^ elemWidth ty := by
  split
  next le => rw [Int.max_eq_right le, elInt_emod]
  next gt => rw [Int.max_eq_left (Int.le_of_lt (Int.not_le.1 gt)), elInt_emod]

theorem abs_emod :
    ((if elemFp ty then a % 2 ^ (elemWidth ty - 1) else intCode (elemWidth ty) (elInt ty a).natAbs : Nat) : Int) % 2 ^ elemWidth ty =
      (if elemFp ty then ((a % 2 ^ (elemWidth ty - 1) : Nat) : Int) else ((elInt ty a).natAbs : Int)) % 2 ^ elemWidth ty := by
  cases elemFp ty with
  | true => rfl
  | false => exact intCode_emod _ _

theorem neg_emod :
    ((if elemFp ty then a ^^^ 2 ^ (elemWidth ty - 1) else intCode (elemWidth ty) (-(elInt ty a)) : Nat) : Int) % 2 ^ elemWidth ty =
      (if elemFp ty then (a : Int) + 2 ^ (elemWidth ty - 1) else -elInt ty a) % 2 ^ elemWidth ty := by
  cases elemFp ty with
  | true => exact xor_signBit_emod (elemWidth_pos ty) a
  | false => exact intCode_emod _ _

theorem truth_emod (w : Nat) (p : Bool) :
    ((if p then 2 ^ w - 1 else 0 : Nat) : Int) % 2 ^ w = (if p then -1 else 0) % 2 ^ w := by
  cases p with
  | true => exact allOnes_emod w
  | false => rfl

theorem mul_emod_elInt : ((a * b : Nat) : Int) % 2 ^ elemWidth ty = elInt ty a * elInt ty b % 2 ^ elemWidth ty := by
  rw [Int.natCast_mul, Int.mul_emod, ← elInt_emod, ← elInt_emod, ← Int.mul_emod]

theorem madd_emod_elInt : ((a * b + c : Nat) : Int) % 2 ^ elemWidth ty = (elInt ty a * elInt ty b + c) % 2 ^ elemWidth ty := by
  rw [Int.natCast_add, Int.add_emod, mul_emod_elInt, ← Int.add_emod]

theorem intCode_div_emod (w k : Nat) (z : Int) : (intCode w (z / (2 ^ k : Nat)) : Int) % 2 ^ w = z / 2 ^ k % 2 ^ w := by
  rw [intCode_emod, natCast_two_pow]

end

/-- The amount of a vector shift (R134). -/
theorem State.vshAmt_eq (s : State) (x : VW) (e : Nat) :
    s.vshAmt x e = if x.fn.getLsbD 0 then x.fn.toNat / 2 % 64 else s.elB x (elemWidth x.ty) e % elemWidth x.ty := by
  rw [State.vshAmt, BitVec.extractLsb'_toNat, Nat.shiftRight_eq_div_pow, Nat.pow_one]

/-- Settles O7: one result for each instruction, of the latency of its row, element by element. -/
theorem vectorIntegerResults : Obligations.VectorIntegerResults := by
  unfold Obligations.VectorIntegerResults
  constructor
  · intro s x w a b c A B sat hw ha hb hc hA hB hsat i lat f row h
    subst hw ha hb hc hA hB hsat
    simp only [List.mem_cons, List.not_mem_nil, or_false] at row
    rcases row with ⟨rfl, rfl, rfl⟩ | ⟨rfl, rfl, rfl⟩ | ⟨rfl, rfl, rfl⟩ | ⟨rfl, rfl, rfl⟩ | ⟨rfl, rfl, rfl⟩ | ⟨rfl, rfl, rfl⟩ |
      ⟨rfl, rfl, rfl⟩ | ⟨rfl, rfl, rfl⟩ | ⟨rfl, rfl, rfl⟩ | ⟨rfl, rfl, rfl⟩ | ⟨rfl, rfl, rfl⟩ | ⟨rfl, rfl, rfl⟩ | ⟨rfl, rfl, rfl⟩ |
      ⟨rfl, rfl, rfl⟩ | ⟨rfl, rfl, rfl⟩ | ⟨rfl, rfl, rfl⟩ | ⟨rfl, rfl, rfl⟩ | ⟨rfl, rfl, rfl⟩ | ⟨rfl, rfl, rfl⟩ | ⟨rfl, rfl, rfl⟩ |
      ⟨rfl, rfl, rfl⟩ | ⟨rfl, rfl, rfl⟩ | ⟨rfl, rfl, rfl⟩
    · exact vecOp_results h (Eq.refl (execVadd x s)) fun e => satVal_emod _ _ _
    · exact vecOp_results h (Eq.refl (execVsub x s)) fun e => satVal_emod _ _ _
    · exact vecOp_results_nat h (Eq.refl (execVand x s)) fun e => rfl
    · exact vecOp_results_nat h (Eq.refl (execVor x s)) fun e => rfl
    · exact vecOp_results_nat h (Eq.refl (execVxor x s)) fun e => rfl
    · exact vecOp_results h (Eq.refl (execVmin x s)) fun e => pickMin_emod _ _ _
    · exact vecOp_results h (Eq.refl (execVmax x s)) fun e => pickMax_emod _ _ _
    · exact vecOp_results h (Eq.refl (execVabs x s)) fun e => abs_emod _ _
    · exact vecOp_results h (Eq.refl (execVneg x s)) fun e => neg_emod _ _
    · exact vecOp_results h (Eq.refl (execVcmp x s)) fun e => truth_emod _ _
    · exact vecOp_results h (Eq.refl (execVsel x s)) fun e => by rw [apply_ite Nat.cast]
    · exact vecOp_results h (Eq.refl (execVclz x s)) fun e => congrArg (· % _) (leadingZeros_eq (elem_lt _ _ _))
    · exact vecOp_results_nat h (Eq.refl (execVpopc x s)) fun e => popCount_eq_countP _ _
    · exact vecOp_results_nat h (Eq.refl (execVidx x s)) fun e => rfl
    · exact vecOp_results_nat h (Eq.refl (execVmov x s)) fun e => rfl
    · exact vecOp_results_nat h (Eq.refl (execVsplat x s)) fun e => rfl
    · exact vecOp_results h (Eq.refl (execVmul x s)) fun e => mul_emod_elInt _ _ _
    · exact vecOp_results h (Eq.refl (execVmulh x s)) fun e => intCode_div_emod _ _ _
    · exact vecOp_results h (Eq.refl (execVmadd x s)) fun e => madd_emod_elInt _ _ _ _
    · exact vecOp_results h (Eq.refl (execVperm x s)) fun e => by rw [apply_ite Nat.cast]; rfl
    · exact vecOp_results_nat h (Eq.refl (execVrot x s)) fun e => rfl
    · exact vecOp_results h (Eq.refl (execVext x s)) fun e => by rw [apply_ite Nat.cast]
    · exact vecOp_results_nat h (Eq.refl (execVfclass x s)) fun e => rfl
  · intro s x w a k hw ha hk i f row h
    subst hw ha hk
    simp only [List.mem_cons, List.not_mem_nil, or_false] at row
    simp only [← State.vshAmt_eq] at row
    rcases row with ⟨rfl, rfl⟩ | ⟨rfl, rfl⟩ | ⟨rfl, rfl⟩
    · refine vecOp_results h (Eq.refl (execVshl x s)) fun e => ?_
      rw [Nat.shiftLeft_eq, Int.natCast_mul, natCast_two_pow]
    · refine vecOp_results h (Eq.refl (execVshr x s)) fun e => ?_
      rw [Nat.shiftRight_eq_div_pow, Int.natCast_ediv, natCast_two_pow]
    · exact vecOp_results h (Eq.refl (execVsra x s)) fun e => intCode_div_emod _ _ _

end Sys2Proof.Machine
end

section
/-! SUPPORT. Floating-point vector instructions and conversions: values and flags by element (R136 to R139, R142). -/

namespace Sys2Proof.Machine

open Sys2Proof

section
variable {s : State} {i : Instr} {x : VW} {lat : Nat}

theorem vecFp_performs (h : s.performs i) (g : State → Nat → Nat × FpFlags) : vecFp i x lat g s = .next (s.landV (vslot x) x.vd
    (BitVec.ofNat 1024 (ofElems (elemWidth x.ty) (((List.range (1024 / elemWidth x.ty)).map (g s)).map (·.1))))
    (laneBits (elemWidth x.ty) (s.me.mkMask x.sel) fun _ => true) lat
    (elemFlags (elemWidth x.ty) (activeFlags (elemWidth x.ty) (s.me.mkMask x.sel) ((List.range (1024 / elemWidth x.ty)).map (g s))))) := by
  unfold vecFp
  rw [slotOp_performs h]

/-- Where it takes effect it starts one result, on the active lanes, with the flags of the active elements. -/
theorem vecFp_results {g : State → Nat → Nat × FpFlags} {f : Nat → Nat × FpFlags} (h : s.performs i)
    (run : exec i s = vecFp i x lat g s) (value : g s = f) :
    ∃ v lanes fl, exec i s = .next (s.landV (vslot x) x.vd v lanes lat fl) ∧ elemsAre (elemWidth x.ty) v (fun e => (f e).1) ∧
      lanesAre (elemWidth x.ty) (s.me.mkMask x.sel) lanes ∧ flagsAre (elemWidth x.ty) (s.me.mkMask x.sel) fl (fun e => (f e).2) := by
  subst value
  refine ⟨_, _, _, run.trans (vecFp_performs h g), fun e he => ?_, lanesAre_laneBits _ _, ?_⟩
  · rw [elem_ofElems_fst _ he he, natCast_emod_two_pow]
  · rw [activeFlags_map]
    exact flagsAre_elemFlags _ _ _

end

/-- The element type that `vmxpack` and `vmxunpack` name (R58, R141). -/
theorem mxType_eq (fn : BitVec 8) : (fn.extractLsb' 0 3).toNat = fn.toNat % 8 := by
  rw [BitVec.extractLsb'_toNat, Nat.shiftRight_zero]

/-- Settles O8: one result for each instruction, with the flags of the active elements, of the latency of its row. -/
theorem vectorFloatResults : Obligations.VectorFloatResults := by
  unfold Obligations.VectorFloatResults
  intro s x w F a b A B C hw hF ha hb hA hB hC i lat f row h
  subst hw hF ha hb hA hB hC
  simp only [List.mem_cons, List.not_mem_nil, or_false] at row
  rcases row with ⟨rfl, rfl, rfl⟩ | ⟨rfl, rfl, rfl⟩ | ⟨rfl, rfl, rfl⟩ | ⟨rfl, rfl, rfl⟩ | ⟨rfl, rfl, rfl⟩ | ⟨rfl, rfl, rfl⟩ |
    ⟨rfl, rfl, rfl⟩ | ⟨rfl, rfl, rfl⟩ | ⟨rfl, rfl, rfl⟩ | ⟨rfl, rfl, rfl⟩ | ⟨rfl, rfl, rfl⟩ | ⟨rfl, rfl, rfl⟩
  · exact vecFp_results h (Eq.refl (execVfadd x s)) rfl
  · exact vecFp_results h (Eq.refl (execVfsub x s)) rfl
  · exact vecFp_results h (Eq.refl (execVfmin x s)) rfl
  · exact vecFp_results h (Eq.refl (execVfmax x s)) rfl
  · exact vecFp_results h (Eq.refl (execVfcmp x s)) rfl
  · exact vecFp_results h (Eq.refl (execVfmul x s)) rfl
  · exact vecFp_results h (Eq.refl (execVfma x s)) rfl
  · exact vecFp_results h (Eq.refl (execVfms x s)) rfl
  · exact vecFp_results h (Eq.refl (execVfnma x s)) rfl
  · exact vecFp_results h (Eq.refl (execVfdiv x s)) rfl
  · exact vecFp_results h (Eq.refl (execVfsqrt x s)) rfl
  · rw [← mxType_eq]
    exact vecFp_results h (Eq.refl (execVmxunpack x s)) rfl

/-! ## Conversions between widths (R138, R139) -/

/-- Element `e` of the target is of part `p`: every element of a widening, those of the part in a narrowing (R138). -/
def inPart (wS wT p e : Nat) : Bool :=
  decide (wS < wT) || (decide (p * (1024 / wS) ≤ e) && decide (e < p * (1024 / wS) + 1024 / wS))

/-- What a conversion gives element `e` of the target: zero without flags outside the part. -/
def partElem (wS wT p : Nat) (conv : Nat → Nat × FpFlags) (e : Nat) : Nat × FpFlags := if inPart wS wT p e then conv e else (0, 0)

section
variable {wS wT p e : Nat} (conv : Nat → Nat × FpFlags)

theorem inPart_iff : inPart wS wT p e = true ↔ wS < wT ∨ (p * (1024 / wS) ≤ e ∧ e < p * (1024 / wS) + 1024 / wS) := by
  simp [inPart]

theorem partElem_of_widening (h : wS < wT) : partElem wS wT p conv e = conv e := if_pos (inPart_iff.2 (.inl h))

theorem partElem_add (h : e < 1024 / wS) : partElem wS wT p conv (p * (1024 / wS) + e) = conv (p * (1024 / wS) + e) :=
  if_pos (inPart_iff.2 (.inr ⟨Nat.le_add_right _ _, Nat.add_lt_add_left h _⟩))

theorem getLsbD_partElem_flags {k : Nat} : (partElem wS wT p conv e).2.getLsbD k = true ↔
    (wS < wT ∨ (p * (1024 / wS) ≤ e ∧ e < p * (1024 / wS) + 1024 / wS)) ∧ (conv e).2.getLsbD k = true := by
  rw [partElem, apply_ite Prod.snd, ← inPart_iff]
  exact getLsbD_ite_zero _ _

end

/-- What a `vcvt` that takes effect starts, in terms of its source type, its part and its conversions. -/
theorem exec_vcvt {s : State} {x : VW} {src : BitVec 4} {p : Nat} {conv : Nat → Nat × FpFlags} (hsrc : src = x.fn.extractLsb' 3 4)
    (hp : p = (x.fn.extractLsb' 0 3).toNat)
    (hconv : conv = fun e => convElem s.rm src x.ty (elem (s.me.rv x.va) (elemWidth src)
      (if elemWidth src < elemWidth x.ty then p * (1024 / elemWidth x.ty) + e else e - p * (1024 / elemWidth src))))
    (h : s.performs (.vcvt x)) :
    exec (.vcvt x) s =
      let rs := (List.range (1024 / elemWidth x.ty)).map (partElem (elemWidth src) (elemWidth x.ty) p conv)
      .next (s.landV (vslot x) x.vd (BitVec.ofNat 1024 (ofElems (elemWidth x.ty) (rs.map (·.1))))
        (laneBits (elemWidth x.ty) (s.me.mkMask x.sel) (inPart (elemWidth src) (elemWidth x.ty) p)) 3
        (elemFlags (elemWidth x.ty) (activeFlags (elemWidth x.ty) (s.me.mkMask x.sel) rs))) := by
  subst hsrc hp hconv
  exact (Eq.refl (execVcvt x s)).trans (slotOp_performs h)

/-- Settles O9: the elements of the part take their conversions, with the flags of those that are active. -/
theorem vectorConversionResults : Obligations.VectorConversionResults := by
  unfold Obligations.VectorConversionResults
  intro s x src p wS wT conv hsrc hp hS hT hconv h
  subst hS hT
  refine ⟨_, _, _, exec_vcvt hsrc hp hconv h, fun widens e he => ?_, fun _ e he inside => ?_, fun k hk g hg => ?_,
    fun e he b hb => getLsbD_laneBits _ _ he hb⟩
  · rw [elem_ofElems_fst _ he he, partElem_of_widening conv widens]
  · rw [elem_ofElems_fst _ inside inside, partElem_add conv he]
  · rw [activeFlags_map, getLsbD_elemFlags_active _ _ _ _ hk hg]
    simp only [getLsbD_partElem_flags]

end Sys2Proof.Machine
end

section
/-! SUPPORT. Reductions and scans: the combination of the active elements in ascending order (R143). -/

namespace Sys2Proof.Machine

open Sys2Proof

/-! ## One step and the whole fold (R143) -/

/-- The step of an active element: the first enters, each later one is combined. -/
def foldStep (op : Nat) (ty : BitVec 4) (rm : BitVec 2) (acc : Option Nat) (x : Nat) : Nat × FpFlags :=
  match acc with
  | none => firstAcc ty x
  | some y => combine op ty rm y x

theorem scanElems_cons_active (op : Nat) (ty : BitVec 4) (rm : BitVec 2) (acc : Option Nat) (x : Nat) (rest : List (Nat × Bool)) :
    scanElems op ty rm acc ((x, true) :: rest) =
      foldStep op ty rm acc x :: scanElems op ty rm (some (foldStep op ty rm acc x).1) rest := by
  cases acc <;> rfl

theorem scanElems_cons_idle (op : Nat) (ty : BitVec 4) (rm : BitVec 2) (acc : Option Nat) (x : Nat) (rest : List (Nat × Bool)) :
    scanElems op ty rm acc ((x, false) :: rest) = (acc.getD 0, 0) :: scanElems op ty rm acc rest := rfl

section
variable {op : Nat} {ty : BitVec 4} {rm : BitVec 2} {a : Nat → Nat} {active : Nat → Bool} {acc : Nat → Option Nat}

/-- A scan gives each element the fold after it, and an active one the flags of its step. -/
theorem scanElems_range' (n : Nat) {i : Nat} (steps : ∀ e, i ≤ e → e < i + n →
      acc (e + 1) = if active e = true then some (foldStep op ty rm (acc e) (a e)).1 else acc e) :
    scanElems op ty rm (acc i) ((List.range' i n).map fun e => (a e, active e)) =
      (List.range' i n).map fun e => ((acc (e + 1)).getD 0, if active e = true then (foldStep op ty rm (acc e) (a e)).2 else 0) := by
  induction n generalizing i with
  | zero => rfl
  | succ n ih =>
    have tail := ih (i := i + 1) fun e above below => steps e (by omega) (by omega)
    have head := steps i (Nat.le_refl i) (by omega)
    rw [List.range'_succ, List.map_cons, List.map_cons, ← tail, head]
    cases active i with
    | true => rw [scanElems_cons_active]; rfl
    | false => rw [scanElems_cons_idle]; rfl

theorem scanElems_range {n : Nat} (start : acc 0 = none)
    (steps : ∀ e < n, acc (e + 1) = if active e = true then some (foldStep op ty rm (acc e) (a e)).1 else acc e) :
    scanElems op ty rm none ((List.range n).map fun e => (a e, active e)) =
      (List.range n).map fun e => ((acc (e + 1)).getD 0, if active e = true then (foldStep op ty rm (acc e) (a e)).2 else 0) := by
  rw [List.range_eq_range', ← start]
  exact scanElems_range' n fun e _ below => steps e (by omega)

end

theorem getLast?_range_map {α : Type} {n : Nat} (pos : 0 < n) (f : Nat → α) : ((List.range n).map f).getLast? = some (f (n - 1)) := by
  rw [List.getLast?_map, List.getLast?_range, if_neg (Nat.ne_of_gt pos), Option.map_some]

/-! ## The instructions (R143) -/

section
variable {s : State} {x : VW}

theorem State.activeElems_any : (s.activeElems x).any (·.2) = true ↔
    ∃ e < 1024 / elemWidth x.ty, (s.me.mkMask x.sel).getLsbD (e * elemWidth x.ty / 32) = true := by
  simp [State.activeElems, govBit]

theorem State.activeElems_idle (idle : ∀ e < 1024 / elemWidth x.ty, (s.me.mkMask x.sel).getLsbD (e * elemWidth x.ty / 32) = false) :
    ¬ (s.activeElems x).any (·.2) = true := by
  rw [State.activeElems_any]
  rintro ⟨e, he, active⟩
  exact Bool.false_ne_true ((idle e he).symm.trans active)

theorem exec_vred_of_idle (h : s.performs (.vred x))
    (idle : ∀ e < 1024 / elemWidth x.ty, (s.me.mkMask x.sel).getLsbD (e * elemWidth x.ty / 32) = false) :
    exec (.vred x) s = .next s :=
  (Eq.refl (execVred x s)).trans ((slotOp_performs h).trans (congrArg _ (if_neg (State.activeElems_idle idle))))

theorem exec_vscan_of_idle (h : s.performs (.vscan x))
    (idle : ∀ e < 1024 / elemWidth x.ty, (s.me.mkMask x.sel).getLsbD (e * elemWidth x.ty / 32) = false) :
    exec (.vscan x) s = .next s :=
  (Eq.refl (execVscan x s)).trans ((slotOp_performs h).trans (congrArg _ (if_neg (State.activeElems_idle idle))))

/-- The operation code of a reduction (R143). -/
theorem redOp_eq {fn : BitVec 8} {op : Nat} (h : fn.toNat = op) (small : op < 16) : (fn.extractLsb' 0 4).toNat = op := by
  rw [BitVec.extractLsb'_toNat, Nat.shiftRight_zero, h]
  exact Nat.mod_eq_of_lt small

variable {op : Nat} {acc : Nat → Option Nat}
  (steps : ∀ e < 1024 / elemWidth x.ty, acc (e + 1) = if (s.me.mkMask x.sel).getLsbD (e * elemWidth x.ty / 32) = true then
    some (foldStep op x.ty s.rm (acc e) (s.elA x (elemWidth x.ty) e)).1 else acc e)
  (start : acc 0 = none) (code : (x.fn.extractLsb' 0 4).toNat = op)
  (on : ∃ e < 1024 / elemWidth x.ty, (s.me.mkMask x.sel).getLsbD (e * elemWidth x.ty / 32) = true)

include steps start code

/-- The scan of the elements of a register, by the fold. -/
theorem State.scanElems_activeElems : scanElems (x.fn.extractLsb' 0 4).toNat x.ty s.rm none (s.activeElems x) =
    (List.range (1024 / elemWidth x.ty)).map fun e => ((acc (e + 1)).getD 0,
      if (s.me.mkMask x.sel).getLsbD (e * elemWidth x.ty / 32) = true then
        (foldStep op x.ty s.rm (acc e) (s.elA x (elemWidth x.ty) e)).2 else 0) := by
  rw [code]
  exact scanElems_range start steps

/-- The flags that a reduction raises are those of the steps. -/
theorem State.scanElems_flags : flagsAre (elemWidth x.ty) (s.me.mkMask x.sel)
    (elemFlags (elemWidth x.ty) ((scanElems (x.fn.extractLsb' 0 4).toNat x.ty s.rm none (s.activeElems x)).map (·.2)))
    (fun e => (foldStep op x.ty s.rm (acc e) (s.elA x (elemWidth x.ty) e)).2) := by
  rw [State.scanElems_activeElems steps start code, List.map_map]
  exact flagsAre_elemFlags _ _ _

include on

theorem vred_results (h : s.performs (.vred x)) : ∃ v lanes f, exec (.vred x) s = .next (s.landV (vslot x) x.vd v lanes 8 f) ∧
    lanesAre (elemWidth x.ty) (s.me.mkMask x.sel) lanes ∧
    flagsAre (elemWidth x.ty) (s.me.mkMask x.sel) f (fun e => (foldStep op x.ty s.rm (acc e) (s.elA x (elemWidth x.ty) e)).2) ∧
    ∀ e < 1024 / elemWidth x.ty, elem v (elemWidth x.ty) e = ((acc (1024 / elemWidth x.ty)).getD 0) % 2 ^ elemWidth x.ty := by
  refine ⟨_, _, _, (Eq.refl (execVred x s)).trans ((slotOp_performs h).trans (congrArg _ (if_pos (State.activeElems_any.2 on)))),
    lanesAre_laneBits _ _, State.scanElems_flags steps start code, fun e he => ?_⟩
  have pos : 0 < 1024 / elemWidth x.ty := Nat.zero_lt_of_lt he
  rw [elem_buildV _ he, State.scanElems_activeElems steps start code, getLast?_range_map pos, Nat.sub_add_cancel pos]
  rfl

theorem vscan_results (h : s.performs (.vscan x)) : ∃ v lanes f, exec (.vscan x) s = .next (s.landV (vslot x) x.vd v lanes 10 f) ∧
    lanesAre (elemWidth x.ty) (s.me.mkMask x.sel) lanes ∧
    flagsAre (elemWidth x.ty) (s.me.mkMask x.sel) f (fun e => (foldStep op x.ty s.rm (acc e) (s.elA x (elemWidth x.ty) e)).2) ∧
    ∀ e < 1024 / elemWidth x.ty, elem v (elemWidth x.ty) e = ((acc (e + 1)).getD 0) % 2 ^ elemWidth x.ty := by
  refine ⟨_, _, _, (Eq.refl (execVscan x s)).trans ((slotOp_performs h).trans (congrArg _ (if_pos (State.activeElems_any.2 on)))),
    lanesAre_laneBits _ _, State.scanElems_flags steps start code, fun e he => ?_⟩
  rw [State.scanElems_activeElems steps start code, elem_ofElems_fst _ he he]

end

end Sys2Proof.Machine
end

section
/-! SUPPORT. Packed blocks in their register, and the hash of sixteen sums (R43, R140, R141, R146). -/

namespace Sys2Proof.Machine

open Sys2Proof

/-! ## The bytes of packed blocks (R140, R141) -/

theorem packBlock_length (t : MxType) (xs : List Fp) : (packBlock t xs).elems.length = xs.length := by
  unfold packBlock
  dsimp only
  split <;> simp only [List.length_map]

theorem mxBytes_length (t : MxType) {es : List Nat} (h : es.length = 32) : (mxBytes t es).length = 32 := by
  unfold mxBytes
  split
  · simp
  · exact h

/-- E2M1 elements stand two to a byte. -/
theorem mxBytes_pair (es : List Nat) {i : Nat} (h : i < 16) :
    ((mxBytes 4 es)[i]?).getD 0 = (es[2 * i]?).getD 0 + 16 * (es[2 * i + 1]?).getD 0 := by
  rw [mxBytes, if_pos rfl, List.getElem?_append_left (by simpa using h), List.getElem?_map, List.getElem?_range h]
  rfl

theorem mxBytes_clear (es : List Nat) {i : Nat} (h : i < 16) : ((mxBytes 4 es)[16 + i]?).getD 0 = 0 := by
  rw [mxBytes, if_pos rfl, List.getElem?_append_right (by simp), List.getElem?_replicate]
  simp [h]

/-- The bytes of a register of two blocks: the elements of each, then their scales. -/
def mxRegister (elems : Nat → List Nat) (scale : Nat → Nat) : List Nat := elems 0 ++ elems 1 ++ [scale 0, scale 1]

section
variable {elems : Nat → List Nat} {scale : Nat → Nat} {b i : Nat} (len : ∀ b, (elems b).length = 32)
include len

theorem mxRegister_elems (hb : b < 2) (hi : i < 32) : (mxRegister elems scale)[32 * b + i]? = (elems b)[i]? := by
  unfold mxRegister
  obtain rfl | rfl : b = 0 ∨ b = 1 := by omega
  · rw [List.append_assoc, List.getElem?_append_left (by rw [len]; omega), Nat.mul_zero, Nat.zero_add]
  · rw [List.append_assoc, List.getElem?_append_right (by rw [len]; omega), List.getElem?_append_left (by rw [len, len]; omega), len,
      Nat.mul_one, Nat.add_sub_cancel_left]

theorem mxRegister_scale (hb : b < 2) : (mxRegister elems scale)[64 + b]? = some (scale b) := by
  have low : (elems 0 ++ elems 1).length = 64 := by rw [List.length_append, len, len]
  rw [mxRegister, List.getElem?_append_right (by omega), low, Nat.add_sub_cancel_left]
  obtain rfl | rfl : b = 0 ∨ b = 1 := by omega
  · rfl
  · rfl

theorem mxRegister_rest : (mxRegister elems scale)[66 + i]? = none := by
  apply List.getElem?_eq_none
  simp only [mxRegister, List.length_append, len, List.length_cons, List.length_nil]
  omega

end

/-- The element bytes of block `b` where `nb` blocks are packed. -/
def packedBytes (t : MxType) (nb : Nat) (blk : Nat → MxBlock) (b : Nat) : List Nat :=
  if b < nb then mxBytes t (blk b).elems else List.replicate 32 0

/-- The scale byte of block `b` where `nb` blocks are packed. -/
def packedScale (nb : Nat) (blk : Nat → MxBlock) (b : Nat) : Nat := if b < nb then (blk b).scale else 0

section
variable {t nb : Nat} {blk : Nat → MxBlock}

theorem packedBytes_length (full : ∀ b, (blk b).elems.length = 32) (b : Nat) : (packedBytes t nb blk b).length = 32 := by
  unfold packedBytes
  split
  · exact mxBytes_length t (full b)
  · exact List.length_replicate

/-- The register of `nb` packed blocks. -/
def packedV (t : MxType) (nb : Nat) (blk : Nat → MxBlock) : VWord :=
  BitVec.ofNat 1024 (ofElems 8 (mxRegister (packedBytes t nb blk) (packedScale nb blk)))

section
variable (full : ∀ b, (blk b).elems.length = 32) {b i : Nat}
include full

theorem elem_packedV (hb : b < 2) (hi : i < 32) :
    elem (packedV t nb blk) 8 (32 * b + i) = (((packedBytes t nb blk b)[i]?).getD 0) % 2 ^ 8 := by
  rw [packedV, elem_ofElems _ (by omega), mxRegister_elems (packedBytes_length full) hb hi]

theorem elem_packedV_scale (hb : b < 2) : elem (packedV t nb blk) 8 (64 + b) = packedScale nb blk b % 2 ^ 8 := by
  rw [packedV, elem_ofElems _ (by omega), mxRegister_scale (packedBytes_length full) hb, Option.getD_some]

theorem elem_packedV_rest (hi : i < 62) : elem (packedV t nb blk) 8 (66 + i) = 0 := by
  rw [packedV, elem_ofElems _ (by omega), mxRegister_rest (packedBytes_length full), Option.getD_none, Nat.zero_mod]

end

/-- What a `vmxpack` that takes effect starts. -/
theorem exec_vmxpack {s : State} {x : VW} (ht : t = x.fn.toNat % 8) (hnb : nb = if x.ty = 11#4 then 2 else 1)
    (hblk : blk = fun b => packBlock t ((List.range 32).map fun i => Fp.ofBits (fmtOf x.ty) (s.elA x (elemWidth x.ty) (32 * b + i))))
    (h : s.performs (.vmxpack x)) :
    exec (.vmxpack x) s = .next (s.landV (vslot x) x.vd (packedV t nb blk) (BitVec.allOnes 1024) 6
      (elemFlags 32 ((List.range nb).map fun b => (blk b).flags))) := by
  rw [← mxType_eq] at ht
  have run := (Eq.refl (execVmxpack x s)).trans (slotOp_performs h)
  refine Eq.trans run ?_
  subst ht hblk
  by_cases two : x.ty = 11#4
  · rw [if_pos two] at hnb
    subst hnb
    simp only [if_pos two]
    rfl
  · rw [if_neg two] at hnb
    subst hnb
    simp only [if_neg two]
    rfl

end

/-! ## The hash (R146) -/

theorem dot32_map (rm : BitVec 2) (p q : Nat → Nat) (l : List Nat) (acc : Nat) :
    dot32 rm (l.map fun i => (p i, q i)) acc =
      l.foldl (fun y i => (fpFma fmt32 rm false false (Fp.ofBits fmt32 (p i)) (Fp.ofBits fmt32 (q i)) (Fp.ofBits fmt32 y)).1) acc := by
  induction l generalizing acc with
  | nil => rfl
  | cons i l ih => exact ih _

section
variable (p : Nat → Bool)

theorem sum_bits_lt (n : Nat) : ((List.range n).map fun j => if p j = true then 2 ^ j else 0).sum < 2 ^ n := by
  induction n with
  | zero => exact Nat.one_pos
  | succ n ih =>
    rw [List.range_succ, List.map_append, List.sum_append, List.map_singleton, List.sum_singleton, Nat.pow_succ]
    split <;> omega

/-- A sum of distinct powers of two has just their bits. -/
theorem testBit_sum_bits (n i : Nat) :
    ((List.range n).map fun j => if p j = true then 2 ^ j else 0).sum.testBit i = (decide (i < n) && p i) := by
  induction n with
  | zero => simp
  | succ n ih =>
    have low := sum_bits_lt p n
    have bit : (if p n = true then 2 ^ n else 0) = 2 ^ n * (p n).toNat := by cases p n <;> simp
    rw [List.range_succ, List.map_append, List.sum_append, List.map_singleton, List.sum_singleton, bit, Nat.add_comm,
      Nat.testBit_two_pow_mul_add _ low]
    split
    next below => rw [ih, decide_eq_true below, decide_eq_true (Nat.lt_succ_of_lt below)]
    next above =>
      rw [Nat.testBit_bool_toNat]
      by_cases place : i = n
      · simp [place]
      · have higher : i - n ≠ 0 := by omega
        have outside : ¬ i < n + 1 := by omega
        simp [higher, outside]

end

/-- What a `vhash.srp` that takes effect starts, by its sixteen sums. -/
theorem exec_vhashSrp {s : State} {x : VW} {total : Nat → Nat} (htotal : total = fun j => (List.range 32).foldl (fun y i =>
      (fpFma fmt32 s.rm false false (Fp.ofBits fmt32 (elem (s.me.rv x.va) 32 i))
        (Fp.ofBits fmt32 (elem (s.me.rv (BitVec.ofNat 10 (x.vb.toNat + j))) 32 i)) (Fp.ofBits fmt32 y)).1) 0)
    (h : s.performs (.vhashSrp x)) :
    exec (.vhashSrp x) s = .next (s.landV (vslot x) x.vd
      (buildV 32 fun _ => ((List.range 16).map fun j => if abovePlusZero (total j) = true then 2 ^ j else 0).sum)
      (laneBits 32 (BitVec.allOnes 32) fun e => e == (x.fn.extractLsb' 0 5).toNat) 12 []) := by
  subst htotal
  simp only [← dot32_map]
  exact (Eq.refl (execVhashSrp x s)).trans (slotOp_performs h)

theorem vhashSrp_lane {e b l : Nat} (he : e < 32) (hb : b < 32) :
    (laneBits 32 (BitVec.allOnes 32) fun e => e == l).getLsbD (32 * e + b) = decide (e = l) := by
  rw [getLsbD_laneBits _ _ he hb, Nat.mul_div_cancel _ (by decide), BitVec.getLsbD_allOnes, decide_eq_true he, Bool.true_and]
  rfl

/-! ## The statement on the cross-lane instructions -/

/-- Settles O10: reductions and scans by the fold over the active elements, packed blocks byte by byte, the hash bit by bit. -/
theorem crossLaneResults : Obligations.CrossLaneResults := by
  unfold Obligations.CrossLaneResults
  intro s x w m a hw hm ha
  subst hw hm ha
  refine ⟨exec_vred_of_idle, exec_vscan_of_idle, fun op comb acc fl row start steps hfl on code => ?_, fun h => ?_,
    fun t nb blk ht hnb hblk h => ?_, fun total htotal h => ?_⟩
  · have known : comb = combine op x.ty s.rm ∧ op < 16 := by
      simp only [List.mem_cons, List.not_mem_nil, or_false] at row
      rcases row with ⟨rfl, rfl⟩ | ⟨rfl, rfl⟩ | ⟨rfl, rfl⟩ | ⟨rfl, rfl⟩ | ⟨rfl, rfl⟩ | ⟨rfl, rfl⟩ | ⟨rfl, rfl⟩ | ⟨rfl, rfl⟩ | ⟨rfl, rfl⟩ <;>
        exact ⟨rfl, by decide⟩
    obtain ⟨rfl, small⟩ := known
    have folds : ∀ e < 1024 / elemWidth x.ty, acc (e + 1) =
        if (s.me.mkMask x.sel).getLsbD (e * elemWidth x.ty / 32) = true then
          some (foldStep op x.ty s.rm (acc e) (s.elA x (elemWidth x.ty) e)).1 else acc e := fun e he => by
      rw [steps e he]
      cases acc e <;> rfl
    have raised : fl = fun e => (foldStep op x.ty s.rm (acc e) (s.elA x (elemWidth x.ty) e)).2 :=
      hfl.trans (funext fun e => by cases acc e <;> rfl)
    subst raised
    exact ⟨vred_results folds start (redOp_eq code small) on, vscan_results folds start (redOp_eq code small) on⟩
  · exact ⟨_, (Eq.refl (execV2s x s)).trans (slotOp_performs h), rfl⟩
  · have full (b : Nat) : (blk b).elems.length = 32 := by rw [hblk, packBlock_length, List.length_map, List.length_range]
    have two : nb ≤ 2 := by rw [hnb]; split <;> decide
    refine ⟨_, _, exec_vmxpack ht hnb hblk h, fun b hb => ⟨?_, fun other i hi => ?_, fun e2m1 i hi => ⟨?_, ?_⟩⟩,
      fun one => ⟨?_, fun i hi => ?_⟩, fun i hi => elem_packedV_rest full hi, fun k hk g hg => ?_⟩
    · rw [elem_packedV_scale full (by omega), packedScale, if_pos hb]
    · rw [elem_packedV full (by omega) hi, packedBytes, if_pos hb, mxBytes, if_neg other]
    · rw [Nat.add_assoc, elem_packedV full (by omega) (by omega), packedBytes, if_pos hb, e2m1, mxBytes_clear _ hi, Nat.zero_mod]
    · rw [elem_packedV full (by omega) (by omega), packedBytes, if_pos hb, e2m1, mxBytes_pair _ hi]
    · rw [elem_packedV_scale (b := 1) full (by decide), packedScale, if_neg (by omega), Nat.zero_mod]
    · rw [elem_packedV (b := 1) full (by decide) hi, packedBytes, if_neg (by omega), List.getElem?_replicate, if_pos hi,
        Option.getD_some, Nat.zero_mod]
    · exact getLsbD_elemFlags_lanes nb _ hk hg
  · refine ⟨_, _, exec_vhashSrp htotal h, fun e he j hj => ?_, fun e he b hb => vhashSrp_lane he hb⟩
    rw [elem_buildV _ he, Nat.testBit_mod_two_pow, decide_eq_true hj, Bool.true_and, testBit_sum_bits fun j => abovePlusZero (total j)]

end Sys2Proof.Machine
end

section
/-! SUPPORT. The commands of the C slot where every check passes: each pushes one command that carries its operands (R162, R282, R287, R307,
R355, R396). -/

namespace Sys2Proof.Machine

open Sys2Proof

/-! ## Fields of an operand -/

/-- The low field of an operand that lies below it is the operand. -/
theorem wbits_zero_of_lt {d : Word} {len : Nat} (h : d.toNat < 2 ^ len) : wbits d 0 len = d.toNat := by
  rw [wbits, bitsOf, Nat.shiftRight_zero, Nat.mod_eq_of_lt h]

/-- A field above an operand is zero. -/
theorem wbits_of_lt {d : Word} {lo : Nat} (len : Nat) (h : d.toNat < 2 ^ lo) : wbits d lo len = 0 := by
  rw [wbits, bitsOf, Nat.shiftRight_eq_div_pow, Nat.div_eq_of_lt h, Nat.zero_mod]

theorem wbits_zero_eq_mod (d : Word) (len : Nat) : wbits d 0 len = d.toNat % 2 ^ len := by rw [wbits, bitsOf, Nat.shiftRight_zero]

/-! ## The checks of a command (R64, R84, R237, R287) -/

section
variable {s : State}

theorem State.roomVerdict_ok {q : QueueId} (h : s.hasRoom q) : s.roomVerdict q = .ok := by
  rw [State.roomVerdict, queueFull_eq_false.2 h, if_neg Bool.false_ne_true]

theorem State.descVerdict_ok {a : Word} (aligned : a.toNat % 128 = 0) (bound : a.toNat + 128 ≤ s.myGroup.spLim) : s.descVerdict a = .ok := by
  rw [State.descVerdict, if_neg (Classical.not_not.2 aligned)]
  exact if_neg (Nat.not_lt.2 bound)

theorem State.fqVerdict_ok {slot : Nat} (h : s.farRoom slot) : s.fqVerdict slot = .ok := if_neg (Nat.not_le.2 h)

theorem need_ok {b : Bool} (h : b = true) : need b = .ok := if_pos h

/-- The checks that the drover, collective and launch commands share, in their order. -/
theorem State.commandVerdict_ok {b : Bool} {a : Word} {tail : BitVec 24} {q : QueueId} (legal : b = true) (desc : s.descVerdict a = .ok)
    (tailOk : s.tailOk tail) (room : s.hasRoom q) :
    (((need b).both (s.descVerdict a)).both (s.tailVerdict tail)).both (s.roomVerdict q) = .ok := by
  simp only [need_ok legal, desc, tailVerdict_ok.2 tailOk, State.roomVerdict_ok room, Verdict.ok_both]

/-- An instruction issued by itself whose fields and conditions are good takes effect (R50, R53). -/
theorem slotOp_of_ok {i : Instr} {slot : Nat} {v : State → Verdict} {f : State → State} (p : s.issue.phase = .whole) (w : i.wf = true)
    (ok : v s = .ok) : slotOp slot i v f s = .next (f s) :=
  slotOp_runs (.inr ⟨p, w⟩) ok

variable {x : CW}

/-- A drover command (R287). -/
theorem droverOp_pushes {i : Instr} {kind : Nat} (p : s.issue.phase = .whole) (w : i.wf = true) (desc : s.descVerdict (s.me.ra x.ca) = .ok)
    (tail : s.tailOk x.tail) (small : (s.me.rs x.cs).toNat < 2 ^ 32) (depot : isDepot s.issue.cid = true → x.ci.extractLsb' 0 2 = 0)
    (room : s.hasRoom (.drover (s.droverOf x))) : droverOp kind i x s = .next (s.push (.drover (s.droverOf x)) x.tail
      (.drover kind (s.me.ra x.ca).toNat (s.me.rs x.cs).toNat) 0) := by
  have legal : (wbits (s.me.rs x.cs) 32 32 == 0 && (!isDepot s.issue.cid || x.ci.extractLsb' 0 2 == 0)) = true := by
    rw [wbits_of_lt 32 small]
    cases h : isDepot s.issue.cid with
    | false => rfl
    | true => simpa using depot h
  rw [droverOp, slotOp_of_ok p w (State.commandVerdict_ok legal desc tail room), wbits_zero_of_lt small]

/-- A collective command (R396). -/
theorem collOp_pushes {i : Instr} {mode : Nat} (p : s.issue.phase = .whole) (w : i.wf = true) (desc : s.descVerdict (s.me.ra x.ca) = .ok)
    (tail : s.tailOk x.tail) (serai : isDepot s.issue.cid = false) (room : s.hasRoom (.coll (dieOf s.issue.cid))) :
    collOp mode i x s = .next (s.push (.coll (dieOf s.issue.cid)) x.tail (.coll mode (s.me.ra x.ca).toNat) 0) :=
  slotOp_of_ok p w (State.commandVerdict_ok (by rw [serai]; rfl) desc tail room)

/-- The checks of a step-cache command (R307). -/
theorem State.scVerdict_ok {step vq : Bool} (desc : s.descVerdict (s.me.ra x.ca) = .ok) (tail : s.tailOk x.tail)
    (serai : isDepot s.issue.cid = false) (room : s.hasRoom (.step (seraiOf s.issue.cid)))
    (small : step = true → (s.me.rs x.cs).toNat < 2 ^ 32) (far : vq = true → s.farRoom 6) : s.scVerdict x step vq = .ok := by
  have legal : (!isDepot s.issue.cid && (!step || wbits (s.me.rs x.cs) 32 32 == 0)) = true := by
    rw [serai]
    cases step with
    | false => rfl
    | true => simp [wbits_of_lt 32 (small rfl)]
  have queue : (if vq = true then s.fqVerdict 6 else .ok) = .ok := by
    split
    next h => exact State.fqVerdict_ok (far h)
    next => rfl
  simp only [State.scVerdict, need_ok legal, desc, queue, tailVerdict_ok.2 tail, State.roomVerdict_ok room, Verdict.ok_both]

/-- The slot of a verdict entry is the last that pushes one: it joins the far-load queue at the end (R237, R307). -/
theorem FarKind.slot_le_verdict (k : FarKind) : k.slot ≤ FarKind.verdict.slot := by cases k <;> decide

/-- An entry put behind all that meet the test joins the list at its end. -/
theorem takeWhile_append_cons_dropWhile {α : Type} {p : α → Bool} {l : List α} (e : α) (all : ∀ x ∈ l, p x = true) :
    l.takeWhile p ++ e :: l.dropWhile p = l ++ [e] := by
  induction l with
  | nil => rfl
  | cons x l ih =>
    have passes : p x = true := all x (.head _)
    rw [List.takeWhile_cons_of_pos passes, List.dropWhile_cons_of_pos passes, List.cons_append, ih fun y hy => all y (.tail _ hy), List.cons_append]

theorem State.putFar_verdict {e : FarEntry} (h : e.kind = .verdict) : (s.putFar e).me.far = s.me.far ++ [e] := by
  have all : ∀ x ∈ s.me.far, (decide (x.id < s.issue.first) || decide (x.kind.slot ≤ e.kind.slot)) = true := fun x _ => by
    rw [h, decide_eq_true x.kind.slot_le_verdict, Bool.or_true]
  simp only [State.putFar, State.me_modMe]
  exact takeWhile_append_cons_dropWhile e all

/-- The far-load entry of a probe that asks for its verdict (R307). -/
def State.verdictEntry (s : State) : FarEntry :=
  { id := s.nextId, kind := .verdict, ea := 0, size := 8, signed := false, data := .waiting, held := false, order := s.me.order, due := 0,
    value := none, pc := s.issue.pc, arrive := 0, left := 0, own := [], src := [] }

theorem State.pushStep_putFar {kind : Nat} {v : Option Nat} (e : FarEntry) : (s.putFar e).pushStep kind x v =
    (s.putFar e).push (.step (seraiOf s.issue.cid)) x.tail (.step kind (s.me.ra x.ca).toNat (wbits (s.me.rs x.cs) 0 32) v) 0 := by
  unfold State.pushStep
  simp only [State.putFar, State.me_modMe]
  rfl

theorem exec_scProbe_verdict (p : s.issue.phase = .whole) (w : Instr.wf (.scProbe x) = true) (ok : s.scVerdict x true true = .ok)
    (vq : x.ci.getLsbD 0 = true) : exec (.scProbe x) s = .next ((s.fresh.putFar s.verdictEntry).push (.step (seraiOf s.issue.cid)) x.tail
      (.step 0 (s.me.ra x.ca).toNat (wbits (s.me.rs x.cs) 0 32) (some s.nextId)) 0) := by
  refine (Eq.refl (execScProbe x s)).trans ?_
  rw [execScProbe, slotOp_of_ok p w (by rw [vq]; exact ok), if_pos vq]
  exact congrArg Host.Outcome.next (State.pushStep_putFar (s := s.fresh) s.verdictEntry)

/-- A probe that asks for its verdict adds an entry to the far-load queue and pushes one command that names it (R307). -/
theorem scProbe_verdict_result (p : s.issue.phase = .whole) (w : Instr.wf (.scProbe x) = true) (ok : s.scVerdict x true true = .ok)
    (vq : x.ci.getLsbD 0 = true) : ∃ (t : State) (e : FarEntry) (c : Cmd), exec (.scProbe x) s = .next t ∧ t.me.far = s.me.far ++ [e] ∧
      e.kind = .verdict ∧ t.cmds = s.cmds ++ [c] ∧
      c.op = .step 0 (s.me.ra x.ca).toNat (wbits (s.me.rs x.cs) 0 32) (some e.id) := by
  obtain ⟨c, l, pushed, -, -, -, op, -⟩ := (s.fresh.putFar s.verdictEntry).push_eq (.step (seraiOf s.issue.cid)) x.tail
    (.step 0 (s.me.ra x.ca).toNat (wbits (s.me.rs x.cs) 0 32) (some s.nextId)) 0
  refine ⟨_, s.verdictEntry, c, exec_scProbe_verdict p w ok vq, ?_, rfl, ?_, op⟩
  · rw [State.push_me]
    exact State.putFar_verdict (s := s.fresh) rfl
  · rw [pushed]
    rfl

/-- A set-up of a relay buffer pushes its command and notes what the buffer becomes (R162). -/
theorem exec_rlyInit {d : Word} {n : Nat} (hd : d = s.me.rs x.cs) (hn : n = (x.ci.extractLsb' 0 4).toNat) (p : s.issue.phase = .whole)
    (w : Instr.wf (.rlyInit x) = true) (small : d.toNat < 2 ^ 37) (lines : rlySlot d % 128 = 0) (least : 128 ≤ rlySlot d)
    (most : rlySlot d ≤ 2 ^ 20) (positive : 1 ≤ rlyCount d) (few : rlyCount d ≤ 4096) (declared : n < s.myGroup.nrelays)
    (aligned : (s.me.ra x.ca).toNat % 128 = 0) (bound : (s.me.ra x.ca).toNat + rlySlot d * rlyCount d ≤ s.myGroup.spLim)
    (tail : s.tailOk x.tail) (room : s.hasRoom (.relay (seraiOf s.issue.cid))) : exec (.rlyInit x) s =
      .next ((s.push (.relay (seraiOf s.issue.cid)) x.tail (.relayInit n (s.me.ra x.ca).toNat (rlySlot d) (rlyCount d)) 0).modRelay
        s.me.gid n fun r => { r with init := some ((s.me.ra x.ca).toNat, rlySlot d, rlyCount d) }) := by
  subst hd hn
  refine (Eq.refl (execRlyInit x s)).trans ?_
  rw [execRlyInit, slotOp_of_ok p w]
  · simp only [State.push_me]
    rfl
  · refine Verdict.both_eq_ok.2
      ⟨firstFail_ok fun y hy => ?_, Verdict.both_eq_ok.2 ⟨tailVerdict_ok.2 tail, State.roomVerdict_ok room⟩⟩
    simp only [List.mem_cons, List.not_mem_nil, or_false] at hy
    rcases hy with rfl | rfl | rfl | rfl
    · have most : rlySlot (s.me.rs x.cs) ≤ 1048576 := most
      have positive : rlyCount (s.me.rs x.cs) ≠ 0 := Nat.ne_of_gt positive
      simp [lines, least, most, positive, few, wbits_of_lt 27 small]
    · exact decide_eq_false (Nat.not_le.2 declared)
    · exact decide_eq_false (Classical.not_not.2 aligned)
    · exact decide_eq_false (Nat.not_lt.2 bound)

/-- A drain that arrives at no phaser (R282). -/
theorem exec_drain (p : s.issue.phase = .whole) (w : Instr.wf (.drain x) = true) (plain : x.ci.getLsbD 12 = false)
    (tail : s.tailOk x.tail) (room : s.hasRoom (.drain s.issue.cid)) : exec (.drain x) s = .next (s.push (.drain s.issue.cid) x.tail
      (.drain (x.ci.extractLsb' 0 8).toNat (x.ci.extractLsb' 8 3).toNat (x.ci.getLsbD 11) none false) 0) := by
  have noArrival : drainArrives x = none := by rw [drainArrives, plain]; rfl
  refine (Eq.refl (execDrain x s)).trans ?_
  rw [execDrain, slotOp_of_ok p w]
  · simp only [noArrival]
  · simp only [noArrival, tailVerdict_ok.2 tail, State.roomVerdict_ok room, Verdict.ok_both]

end

/-- Settles O26: the checks of each command pass, and it pushes what it has read at issue. -/
theorem engineCommandsPush : Obligations.EngineCommandsPush := by
  unfold Obligations.EngineCommandsPush
  intro s x a d ha hd p tail
  subst ha hd
  refine ⟨fun aligned bound => ?_, fun w plain room => exec_drain p w plain tail room, fun w room => ?_,
    fun w small lines least most positive few declared aligned bound room => ?_⟩
  · have desc := State.descVerdict_ok aligned bound
    refine ⟨fun kind i row w small depot room => ?_, fun serai room => ⟨fun w small => ?_, fun w => ?_, fun w small quiet => ?_,
      fun w small vq far => ?_⟩, fun mode i row w serai room => ?_, fun w small room => ?_⟩
    · have run : exec i s = droverOp kind i x s := by
        simp only [List.mem_cons, List.not_mem_nil, or_false] at row
        rcases row with ⟨rfl, rfl⟩ | ⟨rfl, rfl⟩ | ⟨rfl, rfl⟩ | ⟨rfl, rfl⟩ | ⟨rfl, rfl⟩ <;> rfl
      rw [run, droverOp_pushes p w desc tail small depot room]
    · refine (Eq.refl (execScCommit x s)).trans ?_
      rw [execScCommit, slotOp_of_ok p w (State.scVerdict_ok (vq := false) desc tail serai room (fun _ => small) nofun), State.pushStep,
        wbits_zero_of_lt small]
    · refine (Eq.refl (execScDrop x s)).trans ?_
      rw [execScDrop, slotOp_of_ok p w (State.scVerdict_ok (step := false) (vq := false) desc tail serai room nofun nofun), State.pushStep,
        wbits_zero_eq_mod]
    · refine (Eq.refl (execScProbe x s)).trans ?_
      rw [execScProbe, slotOp_of_ok p w (State.scVerdict_ok desc tail serai room (fun _ => small) (by rw [quiet]; nofun)), quiet,
        if_neg Bool.false_ne_true, State.pushStep, wbits_zero_of_lt small]
    · have probe := scProbe_verdict_result p w (State.scVerdict_ok desc tail serai room (fun _ => small) fun _ => far) vq
      rwa [wbits_zero_of_lt small] at probe
    · have run : exec i s = collOp mode i x s := by
        simp only [List.mem_cons, List.not_mem_nil, or_false] at row
        rcases row with ⟨rfl, rfl⟩ | ⟨rfl, rfl⟩ | ⟨rfl, rfl⟩ | ⟨rfl, rfl⟩ <;> rfl
      rw [run, collOp_pushes p w desc tail serai room]
    · have legal : (wbits (s.me.rs x.cs) 13 51 == 0) = true := by rw [wbits_of_lt 51 small]; rfl
      refine (Eq.refl (execLaunch x s)).trans ?_
      rw [execLaunch, slotOp_of_ok p w (State.commandVerdict_ok legal desc tail room), wbits_zero_of_lt small]
  · refine (Eq.refl (execLtrig x s)).trans ?_
    rw [execLtrig, slotOp_of_ok p w]
    rw [tailVerdict_ok.2 tail, State.roomVerdict_ok room, Verdict.ok_both]
  · obtain ⟨c, l, pushed, -, queue, tailed, op, -⟩ := s.push_eq (.relay (seraiOf s.issue.cid)) x.tail (.relayInit (x.ci.extractLsb' 0 4).toNat
      (s.me.ra x.ca).toNat (rlySlot (s.me.rs x.cs)) (rlyCount (s.me.rs x.cs))) 0
    refine ⟨_, c, exec_rlyInit rfl rfl p w small lines least most positive few declared aligned bound tail room, ?_, queue, op, tailed⟩
    rw [pushed]
    rfl

end Sys2Proof.Machine
end

section
/-! SUPPORT. What a load makes of bytes: a number bit by bit, its extension to a word, and the elements of a vector (R2, R130, R157). -/

namespace Sys2Proof.Machine

open Sys2Proof

/-! ## Bytes of a number (R2) -/

/-- Bit `i` of a number lies in byte `i / 8`, the lowest first (R2). -/
theorem testBit_leNat (l : List Byte) (i : Nat) : (leNat l).testBit i = ((l[i / 8]?).getD 0).getLsbD (i % 8) := by
  induction l generalizing i with
  | nil => simp [leNat]
  | cons b l ih =>
    have number : leNat (b :: l) = 2 ^ 8 * leNat l + b.toNat := Nat.add_comm _ _
    rw [number, Nat.testBit_two_pow_mul_add _ b.isLt]
    split
    next low => rw [Nat.div_eq_of_lt low, Nat.mod_eq_of_lt low]; rfl
    next high =>
      have above : i / 8 = (i - 8) / 8 + 1 := by omega
      have same : (i - 8) % 8 = i % 8 := by omega
      rw [ih, above, List.getElem?_cons_succ, same]

/-- Bit `i` of the number that stored bytes make. -/
theorem testBit_leNat_bytes (m : Store 8) (a : Nat) {n i : Nat} (h : i < 8 * n) :
    (leNat (m.bytes a n)).testBit i = (m.get (a + i / 8)).getLsbD (i % 8) := by
  rw [testBit_leNat, Store.bytes_get m (by omega), Option.getD_some]

/-- A number read as an integer of `w` bits is that of the word of `w` bits. -/
theorem intVal_true (w y : Nat) : intVal w true y = (BitVec.ofNat w y).toInt := by
  rw [BitVec.toInt_eq_toNat_cond, BitVec.toNat_ofNat, intVal]
  by_cases h : 2 ^ w ≤ 2 * (y % 2 ^ w)
  · simp [h, Nat.not_lt.2 h]
  · simp [h, Nat.not_le.1 h]

/-- The bits of a number of `w` bits that is extended to a word by its sign or by zeros (R157). -/
theorem getLsbD_ofInt_intVal {w : Nat} (pos : 0 < w) (sx : Bool) (y : Nat) {i : Nat} (hi : i < 64) :
    (BitVec.ofInt 64 (intVal w sx y)).getLsbD i = if i < w then y.testBit i else (sx && y.testBit (w - 1)) := by
  cases sx with
  | true =>
    have extended : BitVec.ofInt 64 (intVal w true y) = (BitVec.ofNat w y).signExtend 64 := by rw [intVal_true]; rfl
    have sign : (BitVec.ofNat w y).msb = y.testBit (w - 1) := by
      rw [BitVec.msb_eq_getLsbD_last, BitVec.getLsbD_ofNat, decide_eq_true (Nat.sub_one_lt_of_lt pos), Bool.true_and]
    rw [extended, BitVec.getLsbD_signExtend, decide_eq_true hi, Bool.true_and, Bool.true_and, sign, BitVec.getLsbD_ofNat]
    split
    next h => rw [decide_eq_true h, Bool.true_and]
    next => rfl
  | false =>
    have zeros : BitVec.ofInt 64 (intVal w false y) = BitVec.ofNat 64 (y % 2 ^ w) := BitVec.ofInt_natCast 64 _
    rw [zeros, BitVec.getLsbD_ofNat, decide_eq_true hi, Bool.true_and, Nat.testBit_mod_two_pow]
    split
    next h => rw [decide_eq_true h, Bool.true_and]
    next h => rw [decide_eq_false h]; rfl

/-! ## Elements of a vector (R130) -/

/-- Byte `i` of a vector that is made of bytes. -/
theorem extractLsb'_vOfBytes {bs : List Byte} {i : Nat} (h : i < 128) : (vOfBytes bs).extractLsb' (8 * i) 8 = (bs[i]?).getD 0 := by
  apply BitVec.eq_of_getLsbD_eq
  intro b hb
  have place : 8 * i + b < 1024 := by omega
  have byte : (8 * i + b) / 8 = i := by omega
  have bit : (8 * i + b) % 8 = b := by omega
  rw [BitVec.getLsbD_extractLsb', decide_eq_true hb, Bool.true_and, vOfBytes, BitVec.getLsbD_ofNat, decide_eq_true place, Bool.true_and,
    testBit_leNat, byte, bit]

/-- Of pieces of one length, joined, entry `j` of piece `e`. -/
theorem getElem?_flatten_of_length {α : Type} {n : Nat} {f : Nat → List α} (len : ∀ e, (f e).length = n) {m e j : Nat} (he : e < m) (hj : j < n) :
    (((List.range m).map f).flatten)[n * e + j]? = (f e)[j]? := by
  induction m with
  | zero => exact absurd he (Nat.not_lt_zero e)
  | succ m ih =>
    have total : (((List.range m).map f).flatten).length = n * m := by
      have pieces : List.length ∘ f = fun _ => n := funext len
      rw [List.length_flatten, List.map_map, pieces, List.map_const', List.length_range, List.sum_replicate_nat, Nat.mul_comm]
    rw [List.range_succ, List.map_append, List.flatten_append, List.getElem?_append, total, List.map_singleton, List.flatten_singleton]
    rcases Nat.lt_succ_iff_lt_or_eq.1 he with below | rfl
    · have inside : n * e + j < n * m := by
        calc n * e + j < n * (e + 1) := by rw [Nat.mul_succ]; exact Nat.add_lt_add_left hj _
          _ ≤ n * m := Nat.mul_le_mul_left n below
      rw [if_pos inside, ih below]
    · rw [if_neg (by omega), Nat.add_sub_cancel_left]

/-- Element `e` of a vector that is made of pieces of the element's size (R158). -/
theorem elem_vOfBytes_flatten {n : Nat} {f : Nat → List Byte} (len : ∀ e, (f e).length = n) {e : Nat} (he : e < 128 / n) :
    elem (vOfBytes ((List.range (128 / n)).map f).flatten) (8 * n) e = leNat (f e) := by
  have count : 1024 / (8 * n) = 128 / n := Nat.mul_div_mul_left 128 n (Nat.succ_pos 7)
  have room : 8 * n * (e + 1) ≤ 1024 := elem_in_register (count.symm ▸ he)
  apply Nat.eq_of_testBit_eq
  intro b
  rw [testBit_elem, testBit_leNat (f e)]
  by_cases inside : b < 8 * n
  · have place : 8 * n * e + b < 1024 := by rw [Nat.mul_succ] at room; omega
    have byte : (8 * n * e + b) / 8 = n * e + b / 8 := by rw [Nat.mul_assoc, Nat.mul_add_div (Nat.succ_pos 7)]
    have bit : (8 * n * e + b) % 8 = b % 8 := by rw [Nat.mul_assoc, Nat.mul_add_mod]
    rw [decide_eq_true inside, Bool.true_and, vOfBytes, BitVec.getLsbD_ofNat, decide_eq_true place, Bool.true_and, testBit_leNat, byte, bit,
      getElem?_flatten_of_length len he (by omega)]
  · have beyond : (f e)[b / 8]? = none := List.getElem?_eq_none (by rw [len]; omega)
    simp [inside, beyond]

end Sys2Proof.Machine
end

section
/-! SUPPORT. The statement on the loads of the scratchpad (R155, R157 to R159). -/

namespace Sys2Proof.Machine

open Sys2Proof

/-! ## What a load reads (R155) -/

section
variable {s : State} {cid : Nat} {side : Bool}

/-- The stores of other contexts in the cycle do not show. -/
theorem latePad_of_others {gid : Nat} {l : List Late} (m : Store 8) (h : ∀ x ∈ l, x.cid ≠ cid) : latePad cid gid side l m = m := by
  induction l with
  | nil => rfl
  | cons x l ih =>
    have other : x.cid ≠ cid := h x (.head _)
    simpa [latePad, other] using ih fun y hy => h y (.tail _ hy)

theorem Ctx.gate_of_none {c : Ctx} (h : c.region = none) : c.gate = [] := by rw [Ctx.gate, h]

/-- With no region open a load sees the stores of its own context in the cycle over the storage (R155). -/
theorem State.padRead_of_none (h : (s.ctx cid).region = none) (a n : Nat) : s.padRead cid side a n =
    (latePad cid (s.ctx cid).gid side s.late ((s.group (s.ctx cid).gid).pad side)).bytes a n := by
  rw [State.padRead, Ctx.gate_of_none h]
  rfl

/-- With no region open and no store of its own in the cycle it reads the storage as it stands (R155). -/
theorem State.padRead_of_others (h : (s.ctx cid).region = none) (others : ∀ x ∈ s.late, x.cid ≠ cid) (a n : Nat) :
    s.padRead cid side a n = ((s.group (s.ctx cid).gid).pad side).bytes a n := by
  rw [State.padRead_of_none h, latePad_of_others _ others]

@[simp] theorem State.padRead_length (a n : Nat) : (s.padRead cid side a n).length = n := Store.bytes_length _ _ _

end

/-! ## Loads where their checks pass (R158, R159) -/

section
variable {s : State} {x : LW}

@[simp] theorem State.poisonLast_false (a : Word) : s.poisonLast false a = s := rfl

theorem State.padVerdict_ok {side : Bool} {a : Word} {n al : Nat} (h : s.padOk side a n al) : s.padVerdict side a n al = .ok := by
  obtain ⟨aligned, bound⟩ := h
  rw [State.padVerdict, if_neg (Classical.not_not.2 aligned), if_neg (Nat.not_lt.2 bound)]

theorem State.padsVerdict_ok {n : Nat} {l : List Word} (h : ∀ a ∈ l, s.padOk false a n n) : s.padsVerdict n l = .ok := by
  induction l with
  | nil => rfl
  | cons a l ih => exact Verdict.both_eq_ok.2 ⟨State.padVerdict_ok (h a (.head _)), ih fun b hb => h b (.tail _ hb)⟩

/-- A scalar load (R157, R158). -/
theorem exec_ld (p : s.issue.phase = .whole) (w : Instr.wf (.ld x) = true)
    (ok : s.padOk (LWside x) (s.ea x) (accBytes x.fn) (accBytes x.fn))
    (clean : s.padPoisoned s.me.gid (LWside x) (s.ea x).toNat (accBytes x.fn) = false) : exec (.ld x) s =
      .next (s.landS 4 (x.dr.extractLsb' 0 6) (BitVec.ofInt 64 (intVal (8 * accBytes x.fn) (x.fn.getLsbD 2)
        (leNat (s.padRead s.issue.cid (LWside x) (s.ea x).toNat (accBytes x.fn))))) 6) := by
  refine (Eq.refl (execLd x s)).trans ?_
  rw [execLd, slotOp_of_ok p w (State.padVerdict_ok ok)]
  simp only [clean, Bool.false_and, State.poisonLast_false]

/-- A contiguous vector load (R158). -/
theorem exec_vld (p : s.issue.phase = .whole) (w : Instr.wf (.vld x) = true) (ok : s.padOk false (s.ea x) 128 4)
    (clean : s.padPoisoned s.me.gid false (s.ea x).toNat 128 = false) : exec (.vld x) s =
      .next (s.landV 4 x.dr (vOfBytes (s.padRead s.issue.cid false (s.ea x).toNat 128)) (BitVec.allOnes 1024) 8 []) := by
  refine (Eq.refl (execVld x s)).trans ?_
  rw [execVld, slotOp_of_ok p w (State.padVerdict_ok ok)]
  simp only [clean, State.poisonLast_false, State.landLoad]

/-- The elements that a load by elements joins to its vector (R158, R159). -/
def State.loadedElems (s : State) (n : Nat) (at_ : Nat → Word) : VWord :=
  vOfBytes ((List.range (128 / n)).map fun e => s.padRead s.issue.cid false (at_ e).toNat n).flatten

theorem loadElems_of_clean {at_ : Nat → Word}
    (clean : ∀ e < 128 / accBytes x.fn, s.padPoisoned s.me.gid false (at_ e).toNat (accBytes x.fn) = false) :
    loadElems x ((accElems (accBytes x.fn)).map at_) s =
      s.landV 4 x.dr (s.loadedElems (accBytes x.fn) at_) (BitVec.allOnes 1024) 12 [] := by
  have noPoison : (((accElems (accBytes x.fn)).map at_).find? fun a => s.padPoisoned s.me.gid false a.toNat (accBytes x.fn)) = none := by
    simpa [accElems] using clean
  simp only [loadElems, noPoison, Option.isSome_none, State.poisonLast_false, State.landLoad, List.map_map]
  rfl

theorem State.padsVerdict_elems_ok {at_ : Nat → Word} {n : Nat} (ok : ∀ e < 128 / n, s.padOk false (at_ e) n n) :
    s.padsVerdict n ((accElems n).map at_) = .ok := by
  refine State.padsVerdict_ok fun a ha => ?_
  obtain ⟨e, he, rfl⟩ := List.mem_map.1 ha
  exact ok e (List.mem_range.1 he)

/-- An access by elements that is aligned, within the bound and free of poison at every address. -/
def State.elemsOk (s : State) (n : Nat) (at_ : Nat → Word) : Prop :=
  ∀ e < 128 / n, s.padOk false (at_ e) n n ∧ s.padPoisoned s.me.gid false (at_ e).toNat n = false

/-- A strided vector load (R158). -/
theorem exec_vlds (p : s.issue.phase = .whole) (w : Instr.wf (.vlds x) = true) (ok : s.elemsOk (accBytes x.fn) (s.eaStride x)) :
    exec (.vlds x) s = .next (s.landV 4 x.dr (s.loadedElems (accBytes x.fn) (s.eaStride x)) (BitVec.allOnes 1024) 12 []) := by
  refine (Eq.refl (execVlds x s)).trans ?_
  rw [execVlds, slotOp_of_ok p w (State.padsVerdict_elems_ok fun e he => (ok e he).1), State.strideAddrs,
    loadElems_of_clean fun e he => (ok e he).2]

/-- The address of element `e` of an indexed access (R159). -/
def State.eaIndex (s : State) (x : LW) (e : Nat) : Word :=
  s.me.ra x.ab + (BitVec.ofNat 64 (elem (s.me.rv (x.off.extractLsb' 0 10)) (8 * accBytes x.fn) e) <<< x.sc.toNat) +
    (x.off.extractLsb' 10 14).signExtend 64

theorem State.indexAddrs_eq : s.indexAddrs x = (accElems (accBytes x.fn)).map (s.eaIndex x) := rfl

/-- An indexed vector load (R159). -/
theorem exec_vldx (p : s.issue.phase = .whole) (w : Instr.wf (.vldx x) = true) (ok : s.elemsOk (accBytes x.fn) (s.eaIndex x)) :
    exec (.vldx x) s = .next (s.landV 4 x.dr (s.loadedElems (accBytes x.fn) (s.eaIndex x)) (BitVec.allOnes 1024) 12 []) := by
  refine (Eq.refl (execVldx x s)).trans ?_
  rw [execVldx, slotOp_of_ok p w (State.padsVerdict_elems_ok fun e he => (ok e he).1), State.indexAddrs_eq,
    loadElems_of_clean fun e he => (ok e he).2]

/-- Element `e` holds the bytes at its own address (R155, R158, R159). -/
theorem State.elem_loadedElems (h : s.me.region = none) (others : ∀ l ∈ s.late, l.cid ≠ s.issue.cid) {n : Nat} {at_ : Nat → Word} :
    ∀ e < 128 / n, elem (s.loadedElems n at_) (8 * n) e = leNat (s.myGroup.sp.bytes (at_ e).toNat n) := by
  intro e he
  rw [State.loadedElems, elem_vOfBytes_flatten (fun e => State.padRead_length _ _) he, State.padRead_of_others h others]
  rfl

/-- The word that a scalar load starts holds the bytes of its storage, extended by sign or zeros (R2, R155, R157). -/
theorem State.getLsbD_loadedWord (h : s.me.region = none) (others : ∀ l ∈ s.late, l.cid ≠ s.issue.cid) (side sx : Bool) (a : Nat) {n : Nat}
    (pos : 0 < n) : ∀ i < 64, (BitVec.ofInt 64 (intVal (8 * n) sx (leNat (s.padRead s.issue.cid side a n)))).getLsbD i =
      if i < 8 * n then ((s.myGroup.pad side).get (a + i / 8)).getLsbD (i % 8)
      else (sx && ((s.myGroup.pad side).get (a + n - 1)).getLsbD 7) := by
  intro i hi
  have top : a + (8 * n - 1) / 8 = a + n - 1 ∧ (8 * n - 1) % 8 = 7 := by omega
  have stored : s.padRead s.issue.cid side a n = (s.myGroup.pad side).bytes a n := State.padRead_of_others h others a n
  rw [getLsbD_ofInt_intVal (by omega) sx _ hi, stored, testBit_leNat_bytes _ _ (show 8 * n - 1 < 8 * n by omega), top.1, top.2]
  split
  next low => rw [testBit_leNat_bytes _ _ low]
  next => rfl

end

/-- Settles O14: each load completes with the bytes that it reads, which are those of the storage with no region open and no store of its
own context in the cycle. -/
theorem scratchLoadResults : Obligations.ScratchLoadResults := by
  unfold Obligations.ScratchLoadResults
  refine ⟨fun s x n side a hn hside ha p => ?_, fun s x n hn p => ?_⟩
  · subst hn hside ha
    refine ⟨fun w ok clean => ⟨_, exec_ld p w ok clean, fun h others => ?_⟩,
      fun w ok clean => ⟨_, exec_vld p w ok clean, fun h others i hi => ?_⟩⟩
    · exact State.getLsbD_loadedWord h others _ _ _ (Nat.two_pow_pos _)
    · rw [extractLsb'_vOfBytes hi, State.padRead_of_others h others, Store.bytes_get _ hi]
      rfl
  · subst hn
    refine ⟨fun w ok => ⟨_, exec_vlds p w ok, fun h others => State.elem_loadedElems h others⟩, fun at_ hat w ok => ?_⟩
    subst hat
    exact ⟨_, exec_vldx p w ok, fun h others => State.elem_loadedElems h others⟩

end Sys2Proof.Machine
end

section
/-! SUPPORT. The stores of the scratchpad: where they wait, and what the end of the cycle makes of them (R155, R158, R246). -/

namespace Sys2Proof.Machine

open Sys2Proof

/-! ## Stores where their checks pass (R158, R246) -/

section
variable {s : State} {x : LW}

theorem State.gateVerdict_ok (h : s.gateRoom) : s.gateVerdict = .ok := by
  unfold State.gateVerdict
  split
  next r opened => exact if_neg (Nat.not_le.2 (h r opened))
  next => rfl

/-- With no region open a scratchpad store waits for the end of the cycle (R155, R246). -/
theorem State.gateOrDo_scratch_of_none {side : Bool} {ws : List (Nat × List Byte)} (h : s.me.region = none) : s.gateOrDo (.scratch side ws) =
    { s with late := s.late ++ ws.map fun w => ⟨s.issue.cid, s.me.gid, side, w.1, w.2⟩ } := by
  simp only [State.gateOrDo, h]
  rfl

/-- With a region open an operation waits in its gate (R246). -/
theorem State.gateOrDo_of_some {op : GateOp} {r : Region} (h : s.me.region = some r) :
    s.gateOrDo op = s.modMe fun c => { c with region := some { r with gate := r.gate ++ [op] } } := by
  simp only [State.gateOrDo, h]

theorem exec_st (p : s.issue.phase = .whole) (w : Instr.wf (.st x) = true)
    (ok : s.padOk (LWside x) (s.ea x) (accBytes x.fn) (accBytes x.fn)) (room : s.gateRoom) : exec (.st x) s = .next
      (s.gateOrDo (.scratch (LWside x) [((s.ea x).toNat, natLe (accBytes x.fn) (s.me.rs (x.dr.extractLsb' 0 6)).toNat)])) := by
  refine (Eq.refl (execSt x s)).trans ?_
  rw [execSt, slotOp_of_ok p w (Verdict.both_eq_ok.2 ⟨State.padVerdict_ok ok, State.gateVerdict_ok room⟩)]

theorem exec_vst (p : s.issue.phase = .whole) (w : Instr.wf (.vst x) = true) (ok : s.padOk false (s.ea x) 128 4) (room : s.gateRoom) :
    exec (.vst x) s = .next (s.gateOrDo (.scratch false [((s.ea x).toNat, natLe 128 (s.me.rv x.dr).toNat)])) := by
  refine (Eq.refl (execVst x s)).trans ?_
  rw [execVst, slotOp_of_ok p w (Verdict.both_eq_ok.2 ⟨State.padVerdict_ok ok, State.gateVerdict_ok room⟩)]
  rfl

theorem exec_vsts (p : s.issue.phase = .whole) (w : Instr.wf (.vsts x) = true)
    (ok : ∀ e < 128 / accBytes x.fn, s.padOk false (s.eaStride x e) (accBytes x.fn) (accBytes x.fn)) (room : s.gateRoom) :
    exec (.vsts x) s = .next (s.gateOrDo (.scratch false ((List.range (128 / accBytes x.fn)).map fun e =>
      ((s.eaStride x e).toNat, natLe (accBytes x.fn) (elem (s.me.rv x.dr) (8 * accBytes x.fn) e))))) := by
  have addr : ∀ e ∈ List.range (128 / accBytes x.fn), ((s.strideAddrs x)[e]?).getD 0 = s.eaStride x e := fun e he => by
    simp [State.strideAddrs, accElems, List.mem_range.1 he]
  refine (Eq.refl (execVsts x s)).trans ?_
  rw [execVsts, slotOp_of_ok p w (Verdict.both_eq_ok.2 ⟨State.padsVerdict_elems_ok ok, State.gateVerdict_ok room⟩), storeElems]
  exact congrArg (fun ws => Host.Outcome.next (s.gateOrDo (.scratch false ws))) (List.map_congr_left fun e he => by rw [addr e he])

theorem exec_vstx (p : s.issue.phase = .whole) (w : Instr.wf (.vstx x) = true)
    (ok : ∀ a ∈ s.indexAddrs x, s.padOk false a (accBytes x.fn) (accBytes x.fn)) (room : s.gateRoom) :
    exec (.vstx x) s = .next (s.gateOrDo (.scratch false ((List.range (128 / accBytes x.fn)).map fun e =>
      (((s.indexAddrs x)[e]?.getD 0).toNat, natLe (accBytes x.fn) (elem (s.me.rv x.dr) (8 * accBytes x.fn) e))))) := by
  refine (Eq.refl (execVstx x s)).trans ?_
  rw [execVstx, slotOp_of_ok p w (Verdict.both_eq_ok.2 ⟨State.padsVerdict_ok ok, State.gateVerdict_ok room⟩)]
  rfl

end

/-! ## The end of the cycle (R155, R162) -/

theorem find?_map_snd {α β : Type} (f : α → β) (t : Table α) (k : Nat) :
    Table.find? (t.map fun e => (e.1, f e.2)) k = (Table.find? t k).map f := by
  induction t with
  | nil => rfl
  | cons e t ih =>
    rw [List.map_cons, Table.find?, Table.find?, ih]
    split <;> rfl

section
variable (s : State)

theorem State.maskSteps_groups : s.maskSteps.groups = s.groups := by unfold State.maskSteps; split <;> rfl

theorem State.maskSteps_late : s.maskSteps.late = s.late := by unfold State.maskSteps; split <;> rfl

theorem settle_groups (l : List Posted) (s : State) : (settle l s).2.groups = s.groups := by
  induction l generalizing s with
  | nil => rfl
  | cons p l ih =>
    unfold settle
    split
    · split
      · refine (ih _).trans ?_
        unfold State.setBacking
        split <;> rfl
      · rfl
    · exact ih s

theorem State.settleAll_groups : s.settleAll.groups = s.groups := settle_groups s.posted s

theorem State.refreshLeases_groups : s.refreshLeases.groups = s.groups :=
  foldl_keeps State.groups (fun s k => by split <;> rfl) _ s

theorem State.noteHold_groups (s : State) (cid : Nat) : (s.noteHold cid).groups = s.groups := by
  unfold State.noteHold
  dsimp only
  split
  · rfl
  · split
    · rfl
    · split <;> rfl

theorem State.noteHolds_groups : s.noteHolds.groups = s.groups := foldl_keeps State.groups State.noteHold_groups _ s

/-- The passing of a base cycle leaves of the stores' effect what the flush makes (R155). -/
theorem State.advance_groups : s.advance.groups = s.maskSteps.flushLate.groups := by
  unfold State.advance
  dsimp only
  rw [State.noteHolds_groups]
  exact (State.refreshLeases_groups _).trans (State.settleAll_groups _)

/-- The scratchpad of a group after a write of scratchpad bytes. -/
theorem State.padWrite_sp (g a h : Nat) (data : List Byte) : ((s.padWrite g false a data).group h).sp =
    if h = g then (s.group g).sp.setBytes a data else (s.group h).sp := by
  rw [State.padWrite, State.group_modGroup]
  split <;> rfl

/-- The set-ups of relay buffers leave the scratchpads (R162). -/
theorem State.setUps_sp (h : Nat) : (({ s with groups := s.groups.map fun g => (g.1, { g.2 with relays := g.2.relays.map Relay.setUp }) } :
    State).group h).sp = (s.group h).sp := by
  have mapped := find?_map_snd (fun g : Group => { g with relays := g.relays.map Relay.setUp }) s.groups h
  refine (congrArg (fun g : Option Group => (g.getD .empty).sp) mapped).trans ?_
  rw [State.group]
  cases Table.find? s.groups h <;> rfl

variable {s} {cid g a : Nat} {data : List Byte}

theorem State.flushLate_sp (h : Nat) (single : s.late = [⟨cid, g, false, a, data⟩]) : (s.flushLate.group h).sp =
    if h = g then (s.group g).sp.setBytes a data else (s.group h).sp := by
  have written := State.padWrite_sp { s with late := [] } g a h data
  unfold State.flushLate
  simp only [single, List.mergeSort_singleton, List.foldl_cons, List.foldl_nil]
  split
  · exact (State.setUps_sp _ h).trans written
  · exact written

theorem State.advance_sp (h : Nat) (single : s.late = [⟨cid, g, false, a, data⟩]) : (s.advance.group h).sp =
    if h = g then (s.group g).sp.setBytes a data else (s.group h).sp := by
  have same (k : Nat) : s.maskSteps.group k = s.group k := by simp only [State.group, State.maskSteps_groups]
  have flushed := State.flushLate_sp h (s.maskSteps_late.trans single)
  rw [same, same] at flushed
  rw [← flushed, State.group, State.advance_groups]
  rfl

end

/-- Settles O15: a store waits for the end of the cycle or in the gate, and the end of the cycle writes what waits. -/
theorem scratchStoreResults : Obligations.ScratchStoreResults := by
  unfold Obligations.ScratchStoreResults
  refine ⟨fun s x n i side ws hn p w room row => ?_, fun s cid g a data single => ⟨fun k => ?_, fun h other k => ?_, fun mine closed k => ?_,
    fun c k other closed => ?_⟩⟩
  · have run : exec i s = .next (s.gateOrDo (.scratch side ws)) := by
      subst hn
      rcases row with ⟨rfl, rfl, ok, rfl⟩ | ⟨rfl, rfl, ok, rfl⟩ | ⟨rfl, rfl, ok, rfl⟩ | ⟨rfl, rfl, ok, rfl⟩
      · exact exec_st p w ok room
      · exact exec_vst p w ok room
      · exact exec_vsts p w ok room
      · exact exec_vstx p w ok room
    exact ⟨fun closed => by rw [run, State.gateOrDo_scratch_of_none closed], fun r opened => by rw [run, State.gateOrDo_of_some opened]⟩
  · rw [State.advance_sp g single, if_pos rfl, Store.get_setBytes]
  · rw [State.advance_sp h single, if_neg other]
  · rw [State.padRead_of_none closed, single, mine, ← Store.get_setBytes]
    simp [latePad, Group.pad, Store.bytes]
  · have others : ∀ l ∈ s.late, l.cid ≠ c := by simp [single, other.symm]
    rw [State.padRead_of_others closed others]
    rfl

end Sys2Proof.Machine
end

section
/-! SUPPORT. The slots of a relay buffer: which slot is the oldest that a context holds, which the next that is filled, and which a release
frees (R161, R163, R164). -/

namespace Sys2Proof.Machine

open Sys2Proof

/-! ## The release of given slots (R164) -/

section
variable {sl : List SlotState} {cycle n first q : Nat}

theorem releaseSlots_of_given {m : Nat} (h : ∃ c o, sl[first % n]? = some (.taken c o true)) :
    releaseSlots cycle (m + 1) first n sl = releaseSlots cycle m (first + 1) n (sl.set (first % n) (.freed cycle)) := by
  obtain ⟨c, o, h⟩ := h
  simp only [releaseSlots, h]

/-- A slot that a release passes over: free already. -/
def SlotState.idle (x : SlotState) : Prop := x = .free ∨ ∃ c, x = .freed c

/-- A slot at which a release ends: held, FILLED or filling. -/
def SlotState.stops (x : SlotState) : Prop := x ≠ .free ∧ (∀ c, x ≠ .freed c) ∧ ∀ c o, x ≠ .taken c o true

theorem releaseSlots_of_idle {m : Nat} {x : SlotState} (h : sl[first % n]? = some x) (idle : x.idle) :
    releaseSlots cycle (m + 1) first n sl = releaseSlots cycle m (first + 1) n sl := by
  rcases idle with rfl | ⟨c, rfl⟩ <;> simp only [releaseSlots, h]

theorem releaseSlots_of_stops {m : Nat} {x : SlotState} (h : sl[first % n]? = some x) (stops : x.stops) :
    releaseSlots cycle m first n sl = sl := by
  obtain ⟨notFree, notFreed, notGiven⟩ := stops
  cases m with
  | zero => rfl
  | succ m =>
    unfold releaseSlots
    rw [h]
    split
    next c o e => exact absurd (Option.some.inj e) (notGiven c o)
    next e => exact absurd (Option.some.inj e) notFree
    next c e => exact absurd (Option.some.inj e) (notFreed c)
    next => rfl

/-- A slot is given, idle, or one that ends a release. -/
theorem SlotState.cases_release (x : SlotState) : (∃ c o, x = .taken c o true) ∨ x.idle ∨ x.stops := by
  cases x with
  | free => exact .inr (.inl (.inl rfl))
  | freed c => exact .inr (.inl (.inr ⟨c, rfl⟩))
  | taken c o given =>
    cases given with
    | true => exact .inl ⟨c, o, rfl⟩
    | false => exact .inr (.inr ⟨nofun, nofun, nofun⟩)
  | _ => exact .inr (.inr ⟨nofun, nofun, nofun⟩)

/-- A release changes given slots alone. -/
theorem releaseSlots_of_not_given (h : ∀ c o, sl[q]? ≠ some (.taken c o true)) (m : Nat) : (releaseSlots cycle m first n sl)[q]? = sl[q]? := by
  induction m generalizing first sl with
  | zero => rfl
  | succ m ih =>
    cases slot : sl[first % n]? with
    | none => simp only [releaseSlots, slot]
    | some x =>
      rcases x.cases_release with ⟨c, o, rfl⟩ | idle | stops
      · have other : first % n ≠ q := by rintro rfl; exact h c o slot
        have kept : (sl.set (first % n) (.freed cycle))[q]? = sl[q]? := List.getElem?_set_ne other
        rw [releaseSlots_of_given ⟨c, o, slot⟩, ih (by rwa [kept]), kept]
      · rw [releaseSlots_of_idle slot idle, ih h]
      · rw [releaseSlots_of_stops slot stops]

/-- A release ends at a slot, or goes on behind it with no other slot changed. -/
theorem releaseSlots_succ (m : Nat) : releaseSlots cycle (m + 1) first n sl = sl ∨
    ∃ sl', releaseSlots cycle (m + 1) first n sl = releaseSlots cycle m (first + 1) n sl' ∧ ∀ q, q ≠ first % n → sl'[q]? = sl[q]? := by
  cases slot : sl[first % n]? with
  | none => exact .inl (by simp only [releaseSlots, slot])
  | some x =>
    rcases x.cases_release with ⟨c, o, rfl⟩ | idle | stops
    · exact .inr ⟨_, releaseSlots_of_given ⟨c, o, slot⟩, fun q other => List.getElem?_set_ne other.symm⟩
    · exact .inr ⟨_, releaseSlots_of_idle slot idle, fun q _ => rfl⟩
    · exact .inl (releaseSlots_of_stops slot stops)

/-- Two places within one turn of the ring are different ones. -/
theorem ring_ne {j : Nat} (h : j + 1 < n) : (first + 1 + j) % n ≠ first % n := by
  intro same
  have turn : (first + 1 + j - first) % n = 0 := Nat.sub_mod_eq_zero_of_mod_eq same
  have steps : first + 1 + j - first = j + 1 := by omega
  rw [steps, Nat.mod_eq_of_lt h] at turn
  exact absurd turn (Nat.succ_ne_zero j)

theorem ring_succ (first j : Nat) : first + (j + 1) = first + 1 + j := by omega

/-- No slot is freed from one that ends the release on. -/
theorem releaseSlots_behind {m j k : Nat} (jk : j ≤ k) (km : k < m) (mn : m ≤ n) {x : SlotState} (h : sl[(first + j) % n]? = some x)
    (stops : x.stops) : (releaseSlots cycle m first n sl)[(first + k) % n]? = sl[(first + k) % n]? := by
  induction m generalizing first sl j k with
  | zero => exact absurd km (Nat.not_lt_zero k)
  | succ m ih =>
    cases j with
    | zero => rw [releaseSlots_of_stops (first := first) h stops]
    | succ j =>
      obtain ⟨k, rfl⟩ : ∃ l, k = l + 1 := ⟨k - 1, by omega⟩
      rw [ring_succ first j] at h
      rw [ring_succ first k]
      rcases releaseSlots_succ (sl := sl) (cycle := cycle) (n := n) (first := first) m with ends | ⟨sl', goes, kept⟩
      · rw [ends]
      · rw [goes, ← kept _ (ring_ne (by omega))]
        exact ih (by omega) (by omega) (by omega) ((kept _ (ring_ne (by omega))).trans h)

/-- A given slot is freed where every slot before it is given or idle. -/
theorem releaseSlots_reached {m k : Nat} (km : k < m) (mn : m ≤ n)
    (before : ∀ j ≤ k, ∃ x, sl[(first + j) % n]? = some x ∧ (x.idle ∨ ∃ c o, x = .taken c o true))
    (given : ∃ c o, sl[(first + k) % n]? = some (.taken c o true)) :
    (releaseSlots cycle m first n sl)[(first + k) % n]? = some (.freed cycle) := by
  induction m generalizing first sl k with
  | zero => exact absurd km (Nat.not_lt_zero k)
  | succ m ih =>
    cases k with
    | zero =>
      have place : first % n < sl.length := by
        obtain ⟨c, o, given⟩ := given
        exact (List.getElem?_eq_some_iff.1 given).1
      have freed : (sl.set (first % n) (.freed cycle))[first % n]? = some (.freed cycle) := by rw [List.getElem?_set_self place]
      rw [releaseSlots_of_given (first := first) given]
      exact (releaseSlots_of_not_given (by rw [Nat.add_zero, freed]; nofun) m).trans freed
    | succ k =>
      have rest (sl' : List SlotState) (kept : ∀ q, q ≠ first % n → sl'[q]? = sl[q]?) :
          (releaseSlots cycle m (first + 1) n sl')[(first + 1 + k) % n]? = some (.freed cycle) := by
        refine ih (by omega) (by omega) (fun j jk => ?_) ?_
        · rw [kept _ (ring_ne (by omega)), ← ring_succ]
          exact before (j + 1) (by omega)
        · rw [kept _ (ring_ne (by omega)), ← ring_succ]
          exact given
      obtain ⟨x, slot, passes⟩ := before 0 (Nat.zero_le _)
      rw [ring_succ first k]
      rcases passes with idle | ⟨c, o, rfl⟩
      · rw [releaseSlots_of_idle (first := first) slot idle]
        exact rest sl fun q _ => rfl
      · rw [releaseSlots_of_given (first := first) ⟨c, o, slot⟩]
        exact rest _ fun q other => List.getElem?_set_ne other.symm

end

/-! ## The slot that is given back (R164) -/

section
variable {cid o j k : Nat} {l : List SlotState} {x : SlotState}

/-- A slot that no context holds is passed over. -/
theorem oldestHeld_cons_of_not_held (h : ∀ c o, x ≠ SlotState.taken c o false) : oldestHeld cid (x :: l) k = oldestHeld cid l (k + 1) := by
  cases x with
  | taken c o given =>
    cases given with
    | true => rfl
    | false => exact absurd rfl (h c o)
  | _ => rfl

/-- Of a held slot and the oldest behind it the older is found, the first where the orders agree. -/
theorem oldestHeld_cons_of_held (c p : Nat) : oldestHeld cid (.taken c p false :: l) k =
    match oldestHeld cid l (k + 1) with
    | some (o', j) => if c = cid && p ≤ o' then some (p, k) else some (o', j)
    | none => if c = cid then some (p, k) else none := rfl

/-- What is found is a slot that the context holds. -/
theorem oldestHeld_mem (h : oldestHeld cid l k = some (o, j)) : ∃ i : Nat, l[i]? = some (.taken cid o false) := by
  induction l generalizing k with
  | nil => cases h
  | cons x l ih =>
    have behind (h : oldestHeld cid l (k + 1) = some (o, j)) : ∃ i : Nat, (x :: l)[i]? = some (.taken cid o false) := by
      obtain ⟨i, slot⟩ := ih h
      exact ⟨i + 1, slot⟩
    by_cases held : ∃ c p, x = .taken c p false
    · obtain ⟨c, p, rfl⟩ := held
      rw [oldestHeld_cons_of_held] at h
      split at h
      next o' j' found =>
        split at h
        next older =>
          cases h
          obtain ⟨rfl, -⟩ : c = cid ∧ o ≤ o' := by simpa using older
          exact ⟨0, rfl⟩
        next =>
          cases h
          exact behind found
      next found =>
        split at h
        next mine =>
          cases h
          subst mine
          exact ⟨0, rfl⟩
        next => cases h
    · exact behind ((oldestHeld_cons_of_not_held fun c p e => held ⟨c, p, e⟩).symm.trans h)

/-- A slot that a context holds and has not given is found with its order, where each other one it holds was taken later. -/
theorem oldestHeld_of_oldest {i : Nat} (held : l[i]? = some (.taken cid o false))
    (later : ∀ j p, l[j]? = some (.taken cid p false) → j = i ∨ o < p) : oldestHeld cid l k = some (o, k + i) := by
  induction l generalizing k i with
  | nil => cases held
  | cons x l ih =>
    cases i with
    | zero =>
      obtain rfl : x = .taken cid o false := Option.some.inj held
      rw [oldestHeld_cons_of_held]
      split
      next o' j' found =>
        obtain ⟨i, slot⟩ := oldestHeld_mem found
        have younger : o < o' := (later (i + 1) o' slot).resolve_left (Nat.succ_ne_zero i)
        simp [Nat.le_of_lt younger]
      next => simp
    | succ i =>
      have found : oldestHeld cid l (k + 1) = some (o, k + 1 + i) :=
        ih held fun j p slot => (later (j + 1) p slot).imp_left Nat.succ.inj
      by_cases other : ∃ c p, x = .taken c p false
      · obtain ⟨c, p, rfl⟩ := other
        have younger : ¬ (c = cid ∧ p ≤ o) := by
          rintro ⟨rfl, older⟩
          exact absurd ((later 0 p rfl).resolve_left (Nat.succ_ne_zero i).symm) (Nat.not_lt.2 older)
        rw [oldestHeld_cons_of_held, found, ring_succ k i]
        simp [younger]
      · rw [oldestHeld_cons_of_not_held fun c p e => other ⟨c, p, e⟩, found, ring_succ k i]

/-- A give gives back the oldest slot that the context holds, and the given slots are released from the release point on (R164). -/
theorem Relay.giveBack_of_oldest {r : Relay} {i cycle : Nat} (held : r.slots[i]? = some (.taken cid o false))
    (later : ∀ j p, r.slots[j]? = some (.taken cid p false) → j = i ∨ o < p) : r.giveBack cid cycle =
      { r with slots := releaseSlots cycle r.count r.scanFrom r.count (r.slots.set i (.taken cid o true)) } := by
  have found : oldestHeld cid r.slots 0 = some (o, i) := by
    have found := oldestHeld_of_oldest (k := 0) held later
    rwa [Nat.zero_add] at found
  simp only [Relay.giveBack, found]

end

/-! ## Runs of the ring order (R161, R163) -/

/-- The run of numbers from `a` up for which `p` holds. -/
theorem takeWhile_range'_length (p : Nat → Bool) (a n : Nat) : ((List.range' a n).takeWhile p).length ≤ n ∧
    (∀ j < ((List.range' a n).takeWhile p).length, p (a + j) = true) ∧
    (((List.range' a n).takeWhile p).length < n → p (a + ((List.range' a n).takeWhile p).length) = false) := by
  induction n generalizing a with
  | zero => exact ⟨Nat.le_refl 0, fun j hj => absurd hj (Nat.not_lt_zero j), fun h => absurd h (Nat.not_lt_zero 0)⟩
  | succ n ih =>
    rw [List.range'_succ]
    cases pa : p a with
    | false => simp [pa]
    | true =>
      obtain ⟨short, run, ends⟩ := ih (a + 1)
      rw [List.takeWhile_cons, pa, if_pos rfl, List.length_cons]
      refine ⟨Nat.succ_le_succ short, fun j hj => ?_, fun h => ?_⟩
      · cases j with
        | zero => exact pa
        | succ j => rw [ring_succ]; exact run j (Nat.lt_of_succ_lt_succ hj)
      · rw [ring_succ]
        exact ends (Nat.lt_of_succ_lt_succ h)

theorem SlotState.isFilling_iff {x : Option SlotState} : (x.map SlotState.isFilling).getD false = true ↔ ∃ id, x = some (.filling id) := by
  cases x with
  | none => simp
  | some x => cases x <;> simp [SlotState.isFilling]

/-- The release point lies behind the run of slots from the fill index on that are being filled (R161, R164). -/
theorem Relay.scanFrom_eq (r : Relay) : ∃ m ≤ r.count, r.scanFrom = r.fill + m ∧
    (∀ j < m, ∃ id, r.slots[(r.fill + j) % r.count]? = some (.filling id)) ∧
    (m < r.count → ∀ id, r.slots[(r.fill + m) % r.count]? ≠ some (.filling id)) := by
  obtain ⟨short, run, ends⟩ :=
    takeWhile_range'_length (fun i => (r.slots[(r.fill + i) % r.count]?.map SlotState.isFilling).getD false) 0 r.count
  simp only [← List.range_eq_range', Nat.zero_add] at short run ends
  refine ⟨_, short, rfl, fun j hj => SlotState.isFilling_iff.1 (run j hj), fun h id filling => ?_⟩
  exact Bool.false_ne_true ((ends h).symm.trans (SlotState.isFilling_iff.2 ⟨id, filling⟩))

/-! ## The slot that a take finds (R161, R163) -/

section
variable {r : Relay} {c k cycle : Nat}

/-- The first FILLED slot from the take index on is the next (R163). -/
theorem Relay.nextFilled_of_first {i : Nat} (hi : i < r.count) (hk : k = (r.take + i) % r.count) (slot : r.slots[k]? = some (.filled c))
    (first : ∀ j < i, ∀ d, r.slots[(r.take + j) % r.count]? ≠ some (.filled d)) : r.nextFilled = some (k, c) := by
  subst hk
  have parts : List.range r.count = List.range i ++ i :: List.range' (i + 1) (r.count - (i + 1)) := by
    rw [List.range_eq_range', List.range_eq_range', ← List.range'_succ, show r.count - (i + 1) + 1 = r.count - i by omega]
    have joined := List.range'_append_1 (s := 0) (m := i) (n := r.count - i)
    rw [Nat.zero_add, Nat.add_sub_cancel' (Nat.le_of_lt hi)] at joined
    exact joined.symm
  refine List.findSome?_eq_some_iff.2 ⟨_, i, _, parts, by simp only [slot], fun j hj => ?_⟩
  split
  next d filled => exact absurd filled (first j (List.mem_range.1 hj) d)
  next => rfl

theorem Relay.takeable_of_nextFilled (idle : r.running = false) (found : r.nextFilled = some (k, c)) (earlier : c < cycle) :
    r.takeable cycle = some k := by
  simp [Relay.takeable, idle, found, earlier]

/-- With no slot FILLED there is none to take (R163). -/
theorem Relay.takeable_of_not_filled (h : ∀ c, .filled c ∉ r.slots) : r.takeable cycle = none := by
  have found : r.nextFilled = none := by
    refine List.findSome?_eq_none_iff.2 fun j _ => ?_
    split
    next d filled => exact absurd (List.mem_of_getElem? filled) (h d)
    next => rfl
  simp [Relay.takeable, found]

end

end Sys2Proof.Machine
end

section
/-! SUPPORT. The statement on the takes and gives of relay slots (R160, R163, R164). -/

namespace Sys2Proof.Machine

open Sys2Proof

section
variable {s : State} {x : LW} {r : Relay}

/-- The buffer that an L or T word names. -/
def LWrb (x : LW) : Nat := (x.fn.extractLsb' 0 4).toNat

theorem State.relay_eq {n : Nat} (h : s.myGroup.relays[n]? = some r) : s.relay n = r := by rw [State.relay, h]; rfl

theorem State.relayVerdict_ok {n : Nat} (declared : n < s.myGroup.nrelays) (h : s.myGroup.relays[n]? = some r) (ready : r.ready = true) :
    s.relayVerdict n = .ok := by
  simp [State.relayVerdict, Nat.not_le.2 declared, State.relay_eq h, ready]

theorem State.relayVerdict_trap {n : Nat} (h : s.myGroup.nrelays ≤ n ∨ ∀ r, s.myGroup.relays[n]? = some r → r.ready = false) :
    s.relayVerdict n = .trap .access (BitVec.ofNat 64 n) := by
  refine if_pos ?_
  rcases h with undeclared | unready
  · simp [undeclared]
  · have notReady : (s.relay n).ready = false := by
      rw [State.relay]
      cases e : s.myGroup.relays[n]? with
      | none => rfl
      | some r => exact unready r e
    simp [notReady]

/-! ## A take (R163) -/

/-- The buffer with slot `k` taken by a context under an identity (R163). -/
def Relay.taken (r : Relay) (k cid id : Nat) : Relay := { r with slots := r.slots.set k (.taken cid id false), take := (k + 1) % r.count }

/-- The result that a take starts: the address of slot `k` (R163). -/
def State.slotLanded (s : State) (x : LW) (r : Relay) (k : Nat) : State :=
  s.landA 4 (x.dr.extractLsb' 0 5) (BitVec.ofNat 64 (r.base + k * r.slot)) 2

/-- The state after a take of slot `k` of a buffer: the result started, the slot taken, and the take noted in an open region (R163, R166). -/
def State.takes (s : State) (x : LW) (r : Relay) (k : Nat) : State :=
  let t := s.slotLanded x r k
  let t := t.modRelay t.me.gid (LWrb x) fun r => r.taken k t.issue.cid t.nextId
  ({ t with nextId := t.nextId + 1 } : State).modMe fun c =>
    { c with region := c.region.map fun g => { g with takes := g.takes ++ [(LWrb x, k, t.nextId)] } }

/-- The checks of a take (R163). -/
def State.takeVerdict (x : LW) (s : State) : Verdict :=
  (s.relayVerdict (LWrb x)).both (if (s.relay (LWrb x)).canTake s.myCycle || x.fn.getLsbD 4 then .ok else .block)

/-- The effect of a take: of a slot, or all ones where there is none to take (R163). -/
def State.takeEffect (x : LW) (s : State) : State :=
  match (s.relay (LWrb x)).takeable s.myCycle with
  | some k => s.takes x (s.relay (LWrb x)) k
  | none => s.landA 4 (x.dr.extractLsb' 0 5) (BitVec.allOnes 64) 2

theorem exec_rlyTake : exec (.rlyTake x) s = slotOp 4 (.rlyTake x) (State.takeVerdict x) (State.takeEffect x) s := Eq.refl (execRlyTake x s)

theorem exec_rlyTake_of_trap (p : s.issue.phase = .whole) (w : Instr.wf (.rlyTake x) = true) {c : Cause} {tv : Word}
    (trap : s.relayVerdict (LWrb x) = .trap c tv) : exec (.rlyTake x) s = .next (s.issueTrap 4 c tv) := by
  have failed : s.takeVerdict x = .trap c tv := by rw [State.takeVerdict, Verdict.both_of_ne _ (by rw [trap]; nofun), trap]
  rw [exec_rlyTake, slotOp_trap p ((slotVerdict_ok w).trans failed)]

theorem exec_rlyTake_of_some {k : Nat} (p : s.issue.phase = .whole) (w : Instr.wf (.rlyTake x) = true) (ok : s.relayVerdict (LWrb x) = .ok)
    (hr : s.relay (LWrb x) = r) (slot : r.takeable s.myCycle = some k) : exec (.rlyTake x) s = .next (s.takes x r k) := by
  subst hr
  have passes : s.takeVerdict x = .ok := by simp [State.takeVerdict, ok, Relay.canTake, slot]
  simp only [exec_rlyTake, slotOp_of_ok p w passes, State.takeEffect, slot]

/-- With no slot to take a take lands all ones where it tries, and else blocks (R163). -/
theorem exec_rlyTake_of_none (p : s.issue.phase = .whole) (w : Instr.wf (.rlyTake x) = true) (ok : s.relayVerdict (LWrb x) = .ok)
    (hr : s.relay (LWrb x) = r) (noSlot : r.takeable s.myCycle = none) : exec (.rlyTake x) s =
      .next (if x.fn.getLsbD 4 then s.landA 4 (x.dr.extractLsb' 0 5) (BitVec.allOnes 64) 2 else s) := by
  subst hr
  cases tries : x.fn.getLsbD 4 with
  | true =>
    have passes : s.takeVerdict x = .ok := by simp [State.takeVerdict, ok, tries]
    simp only [exec_rlyTake, slotOp_of_ok p w passes, State.takeEffect, noSlot, if_true]
  | false =>
    have blocks : s.takeVerdict x = .block := by
      simp only [State.takeVerdict, ok, Verdict.ok_both, Relay.canTake, noSlot, tries]
      rfl
    rw [exec_rlyTake, slotOp_waits p (.inl ((slotVerdict_ok w).trans blocks)), if_neg Bool.false_ne_true]

theorem State.landA_frame (slot : Nat) (d : BitVec 5) (v : Word) (lat : Nat) : (s.landA slot d v lat).issue = s.issue ∧
    (s.landA slot d v lat).nextId = s.nextId ∧ (s.landA slot d v lat).groups = s.groups ∧ (s.landA slot d v lat).me.gid = s.me.gid := by
  rcases s.landA_cases slot d v lat with ⟨-, h⟩ | ⟨-, h⟩
  · rw [h]
    exact ⟨rfl, rfl, rfl, rfl⟩
  · obtain ⟨res, me⟩ := s.startResult_me slot (.a d) (v.setWidth 1024) 0 [] lat []
    rw [h, me]
    exact ⟨rfl, rfl, rfl, rfl⟩

theorem State.takes_pend (k : Nat) : (s.takes x r k).me.pend = (s.slotLanded x r k).me.pend := by
  unfold State.takes
  rw [State.me_modMe]
  rfl

theorem State.modRelay_relays {g n : Nat} (f : Relay → Relay) (h : (s.group g).relays[n]? = some r) :
    ((s.modRelay g n f).group g).relays[n]? = some (f r) := by
  rw [State.modRelay, State.group_modGroup, if_pos rfl, List.getElem?_modify, h]
  simp

theorem State.takes_groups (k : Nat) : (s.takes x r k).groups = ((s.slotLanded x r k).modRelay (s.slotLanded x r k).me.gid (LWrb x) fun y =>
    y.taken k (s.slotLanded x r k).issue.cid (s.slotLanded x r k).nextId).groups := rfl

/-- A take marks the slot as taken by the context (R163). -/
theorem State.takes_relay {k : Nat} (h : s.myGroup.relays[LWrb x]? = some r) :
    ((s.takes x r k).group s.me.gid).relays[LWrb x]? = some (r.taken k s.issue.cid s.nextId) := by
  obtain ⟨issue, nextId, groups, gid⟩ : (s.slotLanded x r k).issue = s.issue ∧ (s.slotLanded x r k).nextId = s.nextId ∧
    (s.slotLanded x r k).groups = s.groups ∧ (s.slotLanded x r k).me.gid = s.me.gid := State.landA_frame _ _ _ _
  have same : (s.slotLanded x r k).group s.me.gid = s.myGroup := by rw [State.group, groups]; rfl
  rw [State.group, State.takes_groups, ← State.group, gid, State.modRelay_relays _ (same.symm ▸ h), issue, nextId]

/-! ## A give (R164) -/

/-- The checks of a give (R164, R246). -/
def State.giveVerdict (x : LW) (s : State) : Verdict :=
  ((s.relayVerdict (LWrb x)).both (if (s.relay (LWrb x)).heldBy s.issue.cid ≤ s.me.gatedGives (LWrb x) then
    .trap .access (BitVec.ofNat 64 (LWrb x)) else .ok)).both s.gateVerdict

theorem exec_rlyGive : exec (.rlyGive x) s = slotOp 5 (.rlyGive x) (State.giveVerdict x) (fun s => s.gateOrDo (.give (LWrb x))) s :=
  Eq.refl (execRlyGive x s)

theorem exec_rlyGive_of_trap (p : s.issue.phase = .whole) (w : Instr.wf (.rlyGive x) = true) {c : Cause} {tv : Word}
    (trap : s.relayVerdict (LWrb x) = .trap c tv) : exec (.rlyGive x) s = .next (s.issueTrap 5 c tv) := by
  have failed : s.giveVerdict x = .trap c tv := by simp only [State.giveVerdict, trap, Verdict.both]
  rw [exec_rlyGive, slotOp_trap p ((slotVerdict_ok w).trans failed)]

theorem Ctx.gatedGives_of_none {c : Ctx} (h : c.region = none) (n : Nat) : c.gatedGives n = 0 := by rw [Ctx.gatedGives, Ctx.gate_of_none h]; rfl

/-- A give of a held slot with no region open gives it back at once (R164). -/
theorem exec_rlyGive_of_held (p : s.issue.phase = .whole) (w : Instr.wf (.rlyGive x) = true) (ok : s.relayVerdict (LWrb x) = .ok)
    (hr : s.relay (LWrb x) = r) (closed : s.me.region = none) (held : 0 < r.heldBy s.issue.cid) :
    exec (.rlyGive x) s = .next (s.modRelay s.me.gid (LWrb x) fun r => r.giveBack s.issue.cid s.myCycle) := by
  have gate : s.gateVerdict = .ok := by simp only [State.gateVerdict, closed]
  have passes : s.giveVerdict x = .ok := by
    simp [State.giveVerdict, ok, hr, Ctx.gatedGives_of_none closed, gate, Nat.ne_of_gt held]
  rw [exec_rlyGive, slotOp_of_ok p w passes]
  simp only [State.gateOrDo, closed]
  rfl

/-- A give traps where the context holds no slot (R164; DESIGN CHOICE, log 91). -/
theorem exec_rlyGive_of_not_held (p : s.issue.phase = .whole) (w : Instr.wf (.rlyGive x) = true) (ok : s.relayVerdict (LWrb x) = .ok)
    (hr : s.relay (LWrb x) = r) (noSlot : r.heldBy s.issue.cid = 0) :
    exec (.rlyGive x) s = .next (s.issueTrap 5 .access (BitVec.ofNat 64 (LWrb x))) := by
  have failed : s.giveVerdict x = .trap .access (BitVec.ofNat 64 (LWrb x)) := by
    simp [State.giveVerdict, ok, hr, noSlot, Verdict.both]
  rw [exec_rlyGive, slotOp_trap p ((slotVerdict_ok w).trans failed)]

end

/-- Settles O17: takes and gives by the slot that they find, and the release by induction on the slots that it comes to. -/
theorem relayTakeAndGiveResults : Obligations.RelayTakeAndGiveResults := by
  unfold Obligations.RelayTakeAndGiveResults
  refine ⟨fun s x n hn p bad => ?_, fun r cid cycle i o => Relay.giveBack_of_oldest,
    fun sl n first cycle k len hk => ⟨fun before given => ?_, ?_⟩,
    Relay.scanFrom_eq, fun s x n r hn p declared hr ready => ?_⟩
  · subst hn
    have trap := State.relayVerdict_trap bad
    exact ⟨fun w => exec_rlyTake_of_trap p w trap, fun w => exec_rlyGive_of_trap p w trap⟩
  · refine releaseSlots_reached hk (Nat.le_refl n) (fun j hj => ?_) given
    obtain ⟨x, slot, passes⟩ := before j hj
    exact ⟨x, slot, by rwa [SlotState.idle, or_assoc]⟩
  · rintro (⟨j, hj, x, slot, stops⟩ | notGiven)
    · exact releaseSlots_behind hj hk (Nat.le_refl n) slot stops
    · exact releaseSlots_of_not_given notGiven n
  · subst hn
    have ok := State.relayVerdict_ok declared hr ready
    have buffer := State.relay_eq hr
    refine ⟨fun i k c w idle hi hk slot earlier first => ?_, fun w idle noSlot tries => ?_, fun w idle noSlot blocks => ?_,
      fun w closed held => exec_rlyGive_of_held p w ok buffer closed held, fun w closed noSlot => exec_rlyGive_of_not_held p w ok buffer noSlot⟩
    · have found := Relay.takeable_of_nextFilled idle (Relay.nextFilled_of_first hi hk slot first) earlier
      exact ⟨_, exec_rlyTake_of_some p w ok buffer found, State.takes_pend k, _, State.takes_relay hr, rfl, rfl⟩
    · rw [exec_rlyTake_of_none p w ok buffer (Relay.takeable_of_not_filled noSlot), if_pos tries]
      rfl
    · rw [exec_rlyTake_of_none p w ok buffer (Relay.takeable_of_not_filled noSlot), blocks, if_neg Bool.false_ne_true]

end Sys2Proof.Machine
end

section
/-! SUPPORT. What a command's start and its end do, whichever unit it belongs to (R65, R162, R257, R269). -/

namespace Sys2Proof.Machine

open Sys2Proof

section
variable {s : State} {c : Cmd}

theorem State.tailAcquire_eq : ∃ l, s.tailAcquire c = { s with posted := l } := by
  unfold State.tailAcquire
  split
  · exact ⟨s.posted, rfl⟩
  · exact s.publish_eq _ _ _

@[simp] theorem State.tailTake_cmds : (s.tailTake c).cmds = s.cmds := by unfold State.tailTake; split <;> rfl

@[simp] theorem State.tailTake_memories : (s.tailTake c).memories = s.memories := by unfold State.tailTake; split <;> rfl

/-- What a tail takes depends on the semaphores alone. -/
theorem State.tailTake_groups_congr {t : State} (h : t.groups = s.groups) : (t.tailTake c).groups = (s.tailTake c).groups := by
  have moved : (t.tailTake c).groups = (({ s with groups := t.groups } : State).tailTake c).groups := by
    unfold State.tailTake
    split <;> rfl
  rw [moved, h]

/-- The command as its start leaves it, from what its unit makes of it. -/
def Cmd.startedAt (n : Nat) (f : Cmd → Cmd) (x : Cmd) : Cmd := { f x with start := some n }

/-- A start changes its own command, takes its tail, and leaves the memories (R65). -/
theorem State.startCmd_cmds (f : Cmd → Cmd) : cmdChanged s (s.startCmd c f) c.id (Cmd.startedAt (s.unitCycle c.queue) f) := by
  obtain ⟨l, acquired⟩ := s.tailAcquire_eq (c := c)
  rw [cmdChanged, State.startCmd, State.cmds_modCmd, State.tailTake_cmds, acquired]
  rfl

theorem State.startCmd_groups (f : Cmd → Cmd) : (s.startCmd c f).groups = (s.tailTake c).groups := by
  obtain ⟨l, acquired⟩ := s.tailAcquire_eq (c := c)
  exact State.tailTake_groups_congr (by rw [acquired])

@[simp] theorem State.startCmd_memories (f : Cmd → Cmd) : (s.startCmd c f).memories = s.memories := by
  obtain ⟨l, acquired⟩ := s.tailAcquire_eq (c := c)
  rw [State.startCmd, State.modCmd_memories, State.tailTake_memories, acquired]
  rfl

/-! ## The end of a command (R64, R65) -/

theorem State.endCmd_cmds : (s.endCmd c).cmds = s.cmds.filter fun x => x.id != c.id := by
  unfold State.endCmd State.signal
  split <;> rfl

theorem State.endCmd_groups_of_silent (h : tailInc c.tail = 0) : (s.endCmd c).groups = s.groups := by
  rw [State.endCmd, State.signal, if_pos h]
  rfl

theorem State.endCmd_groups_of_signal (h : tailInc c.tail ≠ 0) :
    (s.endCmd c).groups = (s.semChange c.gid (coreOf c.cid) (tailSS c.tail) (tailInc c.tail)).groups := by
  rw [State.endCmd, State.signal, if_neg h]
  rfl

end

end Sys2Proof.Machine
end

section
/-! SUPPORT. The events of the lease and of the array (R182, R183, R198 to R200). -/

namespace Sys2Proof.Machine

open Sys2Proof

section
variable {s : State} {k : Nat} {c : Cmd}

/-! ## The lease -/

/-- The serai as a grant to a request leaves it (R182, R183). -/
def Serai.granted (z : Serai) (q : LeaseReq) (now : Nat) : Serai :=
  { z with
    lease := some ⟨q.cid, if q.resume then q.budget else 0, q.prio, now⟩
    lastHolder := some q.cid
    reqs := (z.reqs.filter fun x => x.cid != q.cid).map fun x => { x with passed := x.passed + 1 } }

/-- A grant leaves no request of its holder. -/
theorem Serai.granted_reqs (z : Serai) (q : LeaseReq) (now : Nat) : ∀ r ∈ (z.granted q now).reqs, r.cid ≠ q.cid := by
  intro r hr
  obtain ⟨x, hx, rfl⟩ := List.mem_map.1 hr
  simpa using (List.mem_filter.1 hx).2

theorem exec_leaseGrant {q : LeaseReq} (winner : (s.serai k).winner = some q) (due : (s.serai k).grantDue = true) :
    ∃ t, exec (.leaseGrant k) s = .next t ∧ t.serai k = (s.serai k).granted q s.now ∧ t.memories = s.memories := by
  have granted : (s.modSerai k fun z => z.granted q s.now).serai k = (s.serai k).granted q s.now := by rw [State.serai_modSerai, if_pos rfl]
  have run : exec (.leaseGrant k) s = .next (if q.resume then (s.modSerai k fun z => z.granted q s.now).modCtx q.cid fun c =>
      { c with leaseWanted := none } else s.modSerai k fun z => z.granted q s.now) := by
    show execLeaseGrant k s = _
    simp only [execLeaseGrant, winner, due, Bool.not_true, Bool.false_eq_true, if_false]
    rfl
  refine ⟨_, run, ?_, ?_⟩ <;> split
  · exact granted
  · exact granted
  · rfl
  · rfl

theorem exec_leaseIdleExpiry (idle : s.leaseIdle k = true) : exec (.leaseIdleExpiry k) s = .next (s.dropLease k) := by
  show execLeaseIdleExpiry k s = _
  rw [execLeaseIdleExpiry, if_pos idle]

/-! ## The array (R198 to R200) -/

theorem exec_arrayCommandStart (h : s.arrayStart? k = some c) : exec (.arrayCommandStart k) s = .next (s.startCmd c fun x => s.arrayLatch x) := by
  show execArrayCommandStart k s = _
  simp only [execArrayCommandStart, h]

theorem exec_arrayUpdateBegin (h : s.updateBegin? k = some c) : exec (.arrayUpdateBegin k) s =
    .next (s.modCmd c.id fun x => { x with updating := true, due := s.unitCycle c.queue + 12 }) := by
  show execArrayUpdateBegin k s = _
  simp only [execArrayUpdateBegin, h]

/-- A read after entries are cleared. -/
theorem get_clear {w : Nat} (m : Store w) (p : Nat → Bool) (a : Nat) : (m.clear p).get a = if p a then 0 else m.get a := by
  induction m with
  | nil => simp [Store.clear]
  | cons e m ih =>
    obtain ⟨b, v⟩ := e
    unfold Store.clear at ih ⊢
    rw [List.filter_cons]
    by_cases same : a = b
    · subst same
      cases pa : p a with
      | true => simp only [Bool.not_true, Bool.false_eq_true, if_false, ih, pa, if_true]
      | false => simp [Store.get]
    · cases p b <;> simp [Store.get, same, ih]

/-- The words of the tile store after an `mzero` (R198). -/
theorem get_zeroRegion (ts : Store 32) (pos e : Word) (a : Nat) : (zeroRegion ts pos e).get a =
    if posRow pos ≤ a / 1024 ∧ a / 1024 < posRow pos + extRows e ∧ posCol pos ≤ a % 1024 ∧ a % 1024 < posCol pos + extWords e then 0
    else ts.get a := by
  simp only [zeroRegion, get_clear, Bool.and_eq_true, decide_eq_true_eq, and_assoc]

/-- The state in which the completion of an `mzero` leaves the words that it clears and their poison (R198, R372). -/
def State.zeroed (s : State) (c : Cmd) (pos e : Word) : State :=
  let t := s.modGroup c.gid fun g => { g with ts := zeroRegion g.ts pos e }
  let t := { t with poison := t.poison.filter fun x => match x with
    | .tileStore g k => !(g == c.gid && ((zeroRegion [(k, 1#32)] pos e).isEmpty))
    | _ => true }
  t.modCtx c.cid fun x => x.completed false c.number 0 (tailSignal c.tail) (s.unitCycle c.queue)

theorem exec_arrayCommandComplete_zero {pos e : Word} (done : s.arrayDone? k = some c) (op : c.op = .zero pos e) :
    exec (.arrayCommandComplete k) s = .next ((s.zeroed c pos e).endCmd c) := by
  show execArrayCommandComplete k s = _
  simp only [execArrayCommandComplete, done, op]
  rfl

theorem State.group_zeroed (pos e : Word) : ((s.zeroed c pos e).group c.gid).ts = zeroRegion (s.group c.gid).ts pos e := by
  have cleared := s.group_modGroup c.gid (fun g => { g with ts := zeroRegion g.ts pos e }) c.gid
  rw [if_pos rfl] at cleared
  exact congrArg Group.ts cleared

/-- A product leaves in poison alone what poison makes of it (R372). -/
theorem State.poisonProduct_eq (p : Prod) : ∃ l, s.poisonProduct c p = { s with poison := l } := by
  unfold State.poisonProduct
  split
  · exact ⟨s.poison, rfl⟩
  · exact ⟨_, rfl⟩

/-- The state in which the completion of a product leaves its outputs, its counts and its flags (R189 to R192, R201, R202). -/
def State.multiplied (s : State) (c : Cmd) (p : Prod) : State :=
  let run := p.kind ≠ 1 || c.present.any id
  let out := p.update c.latA c.latB c.present (s.group c.gid).ts
  let sums := p.planeSums c.latB run
  let cycle := s.unitCycle c.queue
  ((s.poisonProduct c p).modGroup c.gid fun g => { g with ts := out.1 }).modCtx c.cid fun x =>
    (x.countPlanes sums.1 sums.2 cycle).completed false c.number (if run then out.2 else 0) (tailSignal c.tail) cycle

theorem exec_arrayCommandComplete_product {kind ta tb : Nat} {pos w shA shB : Word} (done : s.arrayDone? k = some c)
    (op : c.op = .product kind ta tb pos w shA shB) :
    exec (.arrayCommandComplete k) s = .next ((s.multiplied c ⟨kind, pos, w, shA, shB⟩).endCmd c) := by
  show execArrayCommandComplete k s = _
  simp only [execArrayCommandComplete, done, op]
  rfl

theorem State.multiplied_frame (p : Prod) : (s.multiplied c p).cmds = s.cmds ∧ (s.multiplied c p).memories = s.memories ∧
    ((s.multiplied c p).group c.gid).ts = (p.update c.latA c.latB c.present (s.group c.gid).ts).1 := by
  obtain ⟨l, poisoned⟩ := s.poisonProduct_eq (c := c) p
  rw [State.multiplied, poisoned]
  refine ⟨rfl, rfl, ?_⟩
  rw [State.group_modCtx, State.group_modGroup, if_pos rfl]

theorem exec_mfreeMarkerSignal (h : s.markerDue? k = some c) : exec (.mfreeMarkerSignal k) s = .next (s.endCmd c) := by
  show execMfreeMarkerSignal k s = _
  simp only [execMfreeMarkerSignal, h]

end

end Sys2Proof.Machine
end

section
/-! SUPPORT. The events of tiles, of tile-store copies and of the set-up of relay buffers (R162, R174 to R177, R211 to R221). -/

namespace Sys2Proof.Machine

open Sys2Proof

section
variable {s : State} {k : Nat} {c : Cmd}

/-! ## Tiles (R174, R177) -/

theorem exec_tileCommandStart {tc : TileCmd} (op : c.op.tile? = some tc) (h : s.tileStart? k = some c) : exec (.tileCommandStart k) s =
    .next (s.startCmd c fun x => { x with due := s.unitCycle c.queue + tc.cycles }) := by
  show execTileCommandStart k s = _
  simp only [execTileCommandStart, h, op]

theorem exec_tileCommandComplete {tc : TileCmd} (op : c.op.tile? = some tc) (h : s.dueIn (.tile k) = some c) :
    exec (.tileCommandComplete k) s = .next ((s.tileWork c tc).endCmd c) := by
  show execTileCommandComplete k s = _
  simp only [execTileCommandComplete, h, op]

/-! ## Copies (R211, R218 to R221) -/

theorem exec_tsCopyStart (h : s.copyStart? k = some c) : exec (.tsCopyStart k) s =
    .next (s.startCmd c fun x => { x with occ := s.unitCycle c.queue + 2 }) := by
  show execTsCopyStart k s = _
  simp only [execTsCopyStart, h]

theorem State.tsstRow_cmds (cc : CopyCmd) (q : Nat) : (s.tsstRow c cc q).1.cmds = s.cmds := rfl

theorem State.tsldRow_cmds (cc : CopyCmd) (q : Nat) : (s.tsldRow c cc q).1.cmds = s.cmds := by
  unfold State.tsldRow
  dsimp only
  cases cc.prune with
  | true =>
    refine foldl_keeps State.cmds ?_ _ _
    exact fun t b => rfl
  | false =>
    refine foldl_keeps State.cmds ?_ _ _
    exact fun t b => rfl

/-- What a beat makes of its copy: one more beat done, by the cycle, and the flags of the row that it ends (R218 to R220). -/
def Cmd.beaten (cycle : Nat) (f : BitVec 8) (x : Cmd) : Cmd :=
  { x with work := x.work + 1, occ := cycle + 1, due := cycle + 9, flags := x.flags ||| f }

theorem State.makeBeat_cmds (cc : CopyCmd) : ∃ f, cmdChanged s (s.makeBeat c cc) c.id (Cmd.beaten (s.unitCycle c.queue) f) := by
  unfold State.makeBeat
  dsimp only
  split
  · split
    · exact ⟨_, congrArg _ (s.tsstRow_cmds cc _)⟩
    · exact ⟨_, congrArg _ (s.tsldRow_cmds cc _)⟩
  · exact ⟨0, rfl⟩

theorem exec_tsCopyBeat {cc : CopyCmd} (h : s.beat? k = some (c, cc)) : exec (.tsCopyBeat k) s = .next (s.makeBeat c cc) := by
  show execTsCopyBeat k s = _
  simp only [execTsCopyBeat, h]

/-- The update phases that claim a bank of the beat are held for this cycle (R221). -/
def State.heldUpdates (s : State) (k : Nat) (c : Cmd) (cc : CopyCmd) : State :=
  { s with cmds := s.cmds.map fun a => if ((s.claimers k c cc).map (·.id)).contains a.id then { a with due := a.due + 1 } else a }

theorem exec_tsCopyYield {cc : CopyCmd} (h : s.yield? k = some (c, cc)) :
    exec (.tsCopyYield k) s = .next ((s.heldUpdates k c cc).makeBeat c cc) := by
  show execTsCopyYield k s = _
  simp only [execTsCopyYield, h]
  rfl

theorem exec_tsCopyComplete (h : s.copyDone? k = some c) : exec (.tsCopyComplete k) s = .next ((s.modCtx c.cid fun x =>
    x.completed true c.number c.flags (tailSignal c.tail) (s.unitCycle c.queue)).endCmd c) := by
  show execTsCopyComplete k s = _
  simp only [execTsCopyComplete, h]

/-! ## Relay buffers (R162) -/

variable {rb a b n : Nat}

/-- The commands that feed a buffer end at their next chunk boundary (R160, R300). -/
def State.cutOff (s : State) (gid rb : Nat) : State :=
  { s with cmds := s.cmds.map fun (x : Cmd) =>
      if ((s.cmds.filter (s.feeds gid rb)).map (·.id)).contains x.id then { x with verdict := 6 } else x }

theorem exec_rlyInitStart (op : c.op = .relayInit rb a b n) (h : s.relayStart? k = some c) : exec (.rlyInitStart k) s =
    .next ((s.cutOff c.gid rb).startCmd c fun x => { x with due := s.unitCycle c.queue + 3 }) := by
  show execRlyInitStart k s = _
  simp only [execRlyInitStart, h, op]
  rfl

/-- Another set-up of the buffer stands in a queue (R162). -/
def State.moreSetUps (s : State) (c : Cmd) (rb : Nat) : Bool :=
  s.cmds.any fun x => x.id != c.id && x.gid == c.gid && (match x.op with | .relayInit n _ _ _ => n == rb | _ => false)

theorem State.moreSetUps_iff : s.moreSetUps c rb = true ↔
    ∃ x ∈ s.cmds, x.id ≠ c.id ∧ x.gid = c.gid ∧ ∃ a b n, x.op = .relayInit rb a b n := by
  have named (op : CmdOp) : (match op with | .relayInit n _ _ _ => n == rb | _ => false) = true ↔ ∃ a b n, op = .relayInit rb a b n := by
    cases op <;> simp
  simp only [State.moreSetUps, List.any_eq_true, Bool.and_eq_true, bne_iff_ne, beq_iff_eq, named, and_assoc]

theorem exec_rlyInitComplete (op : c.op = .relayInit rb a b n) (h : s.dueIn (.relay k) = some c) : exec (.rlyInitComplete k) s =
    .next ((s.modRelay c.gid rb fun r => { r with running := s.moreSetUps c rb }).endCmd c) := by
  show execRlyInitComplete k s = _
  simp only [execRlyInitComplete, h, op]
  rfl

/-- A buffer after the completion of its set-up knows whether another stands (R162). -/
theorem State.relay_running {r : Relay} {m : Bool} {g : Nat}
    (h : ((s.modRelay g rb fun r => { r with running := m }).group g).relays[rb]? = some r) : r.running = m := by
  rw [State.modRelay, State.group_modGroup, if_pos rfl, List.getElem?_modify] at h
  obtain ⟨x, -, rfl⟩ := Option.map_eq_some_iff.1 h
  simp

end

/-- Settles O59: each event does what its command's queue, tail and work say. -/
theorem arrayAndTileEventsComplete : Obligations.ArrayAndTileEventsComplete := by
  unfold Obligations.ArrayAndTileEventsComplete
  refine ⟨?_, ?_, ?_, ?_, ?_, fun s k c => exec_mfreeMarkerSignal,
    fun s c => ⟨State.endCmd_cmds, State.endCmd_groups_of_silent, State.endCmd_groups_of_signal⟩, ?_, ?_, ?_, ?_, ?_, ?_⟩
  · intro s k q winner due
    obtain ⟨t, run, granted, memories⟩ := exec_leaseGrant winner due
    exact ⟨t, _, run, by rw [granted]; rfl, rfl, rfl, by rw [granted]; rfl, by rw [granted]; exact Serai.granted_reqs _ q _,
      sameMemory_of_memories memories⟩
  · intro s k idle
    refine ⟨_, exec_leaseIdleExpiry idle, ?_⟩
    rw [State.dropLease, State.serai_modSerai, if_pos rfl]
    exact ⟨rfl, rfl, rfl⟩
  · intro s k c starts
    exact ⟨_, _, exec_arrayCommandStart starts, State.startCmd_cmds _, fun x => rfl, State.startCmd_groups _,
      sameMemory_of_memories (State.startCmd_memories _)⟩
  · intro s k c begins
    exact ⟨_, _, exec_arrayUpdateBegin begins, rfl, fun x => ⟨rfl, rfl⟩, rfl⟩
  · intro s k c done
    refine ⟨fun pos e op => ⟨_, exec_arrayCommandComplete_zero done op, rfl, sameMemory_of_memories rfl, fun a => ?_⟩,
      fun kind ta tb pos w shA shB op => ?_⟩
    · rw [State.group_zeroed, get_zeroRegion]
    · obtain ⟨cmds, memories, ts⟩ := s.multiplied_frame (c := c) ⟨kind, pos, w, shA, shB⟩
      exact ⟨_, exec_arrayCommandComplete_product done op, cmds, sameMemory_of_memories memories, ts⟩
  · intro s k c tc op
    refine ⟨fun starts => ⟨_, _, exec_tileCommandStart op starts, State.startCmd_cmds _, State.startCmd_groups _, fun x => ⟨rfl, ?_⟩⟩,
      exec_tileCommandComplete op⟩
    exact (Nat.add_assoc _ _ _).symm
  · intro s k c starts
    exact ⟨_, _, exec_tsCopyStart starts, State.startCmd_cmds _, fun x => ⟨rfl, rfl⟩, State.startCmd_groups _⟩
  · intro s k c cc beats
    obtain ⟨f, cmds⟩ := s.makeBeat_cmds (c := c) cc
    exact ⟨_, _, exec_tsCopyBeat beats, cmds, fun x => ⟨rfl, rfl, rfl⟩⟩
  · intro s k c cc yields
    exact ⟨_, exec_tsCopyYield yields, sameMemory_of_memories rfl, rfl, rfl⟩
  · intro s k c done
    refine ⟨_, exec_tsCopyComplete done, rfl, rfl, ?_⟩
    rw [State.ctx_modCtx, if_pos rfl]
  · intro s k c rb a b n op
    refine ⟨fun starts => ⟨_, exec_rlyInitStart op starts, 
      (State.startCmd_groups _).trans (State.tailTake_groups_congr rfl), sameMemory_of_memories (State.startCmd_memories _),
      fun x hx own => ?_⟩, fun due => ⟨_, exec_rlyInitComplete op due, rfl, fun r hr => ?_⟩⟩
    · rw [State.startCmd_cmds (s := s.cutOff c.gid rb) (c := c)] at hx
      obtain ⟨y, -, rfl⟩ := List.mem_map.1 hx
      split at own
      next mine => rw [if_pos mine]; exact ⟨rfl, rfl⟩
      next other => exact absurd own other
    · rw [State.relay_running hr, State.moreSetUps_iff]

end Sys2Proof.Machine
end

section
/-! SUPPORT. The checks that the instructions of the M slot share: the room of a queue, the lease, the kind of core (R84, R178, R182, R321). -/

namespace Sys2Proof.Machine

open Sys2Proof

section
variable {s : State} {i : Instr} {slot : Nat} {v : State → Verdict} {f : State → State} {c : Cause} {tv : Word} {n : Nat}

/-! ## Verdicts that fail -/

@[simp] theorem Verdict.trap_both (w : Verdict) : (Verdict.trap c tv).both w = .trap c tv := rfl

@[simp] theorem accessCode_both (w : Verdict) : (accessCode n).both w = accessCode n := rfl

/-- An instruction issued by itself whose fields are good and whose conditions trap takes that trap (R50, R53). -/
theorem slotOp_of_trap (p : s.issue.phase = .whole) (w : i.wf = true) (trap : v s = .trap c tv) :
    slotOp slot i v f s = .next (s.issueTrap slot c tv) :=
  slotOp_trap p ((slotVerdict_ok w).trans trap)

/-- Where the conditions trap with ILLOP, the instruction does so whether its fields are good or not (R53). -/
theorem slotOp_of_illop (p : s.issue.phase = .whole) (illop : v s = .trap .illop 0) :
    slotOp slot i v f s = .next (s.issueTrap slot .illop 0) := by
  cases w : i.wf with
  | false => exact slotOp_illop p w
  | true => exact slotOp_of_trap p w illop

/-! ## Room in a queue (R84) -/

theorem State.roomVerdict_full {q : QueueId} (full : ¬ s.hasRoom q) : s.roomVerdict q = .block := by
  have isFull : s.queueFull q = true := by
    rw [← Bool.not_eq_false]
    exact mt queueFull_eq_false.1 full
  rw [State.roomVerdict, if_pos isFull]

/-- An instruction whose other conditions are good blocks at a full queue. -/
theorem slotOp_of_full {q : QueueId} (p : s.issue.phase = .whole) (w : i.wf = true) (rest : v s = s.roomVerdict q)
    (full : ¬ s.hasRoom q) : slotOp slot i v f s = .next s :=
  slotOp_waits p (.inl ((slotVerdict_ok w).trans (rest.trans (State.roomVerdict_full full))))

/-- An instruction whose other conditions are good takes effect where its queue has room. -/
theorem slotOp_of_room {q : QueueId} (p : s.issue.phase = .whole) (w : i.wf = true) (rest : v s = s.roomVerdict q)
    (room : s.hasRoom q) : slotOp slot i v f s = .next (f s) :=
  slotOp_of_ok p w (rest.trans (State.roomVerdict_ok room))

/-! ## The kind of core (R321) -/

theorem State.notDepot_ok (h : isDepot s.issue.cid = false) : s.notDepot = .ok := by
  rw [State.notDepot, h, if_neg Bool.false_ne_true]

theorem State.notDepot_trap (h : isDepot s.issue.cid = true) : s.notDepot = .trap .illop 0 := if_pos h

theorem State.seraiOnly_ok (h : isSerai s.issue.cid = true) : s.seraiOnly = .ok := if_pos h

/-- A depot core lies in no serai. -/
theorem isSerai_of_isDepot {cid : Nat} (h : isDepot cid = true) : isSerai cid = false := by
  rw [isDepot, Bool.and_eq_true, decide_eq_true_iff] at h
  exact decide_eq_false (Nat.not_lt.2 h.1)

theorem State.seraiOnly_trap (h : isDepot s.issue.cid = true) : s.seraiOnly = .trap .illop 0 := by
  rw [State.seraiOnly, isSerai_of_isDepot h, if_neg Bool.false_ne_true]

/-! ## The lease (R178, R182) -/

/-- A context that the lease of its serai does not name holds none, and no grant awaits its `mlease`. -/
theorem State.lease_of_not_holder (other : ∀ l, (s.serai (seraiOf s.issue.cid)).lease = some l → l.holder ≠ s.issue.cid) :
    s.holdsLease = false ∧ s.leaseGranted = false := by
  rw [State.holdsLease, State.leaseGranted, State.myLease]
  cases h : (s.serai (seraiOf s.issue.cid)).lease with
  | none => exact ⟨Bool.and_false _, rfl⟩
  | some l => simp [other l h]

/-- A context that the lease names holds it once there is a budget, and before that a grant awaits its `mlease`. -/
theorem State.lease_of_holder {l : Lease} (serai : isSerai s.issue.cid = true)
    (h : (s.serai (seraiOf s.issue.cid)).lease = some l) (own : l.holder = s.issue.cid) :
    (s.holdsLease = true ↔ 0 < l.budget) ∧ (s.leaseGranted = true ↔ l.budget = 0) := by
  simp [State.holdsLease, State.leaseGranted, State.myLease, h, own, serai]

theorem State.leaseVerdict_trap (free : s.holdsLease = false) : s.leaseVerdict = accessCode 1 := by
  rw [State.leaseVerdict, free, if_neg Bool.false_ne_true]

end

end Sys2Proof.Machine
end

section
/-! SUPPORT. The statement on `mlease` and `mfree` (R179, R180, R182). -/

namespace Sys2Proof.Machine

open Sys2Proof

section
variable {s : State} {x : MW} {k : Nat}

/-! ## `mlease` (R179, R182) -/

/-- The checks of an `mlease`. -/
def State.mleaseVerdict (s : State) : Verdict :=
  s.seraiOnly.both (if s.holdsLease then accessCode 2 else if s.leaseGranted then .ok else .block)

/-- The lease that an `mlease` takes: its own budget and priority, idle since now. -/
def State.takeLease (s : State) (x : MW) : State :=
  s.modSerai (seraiOf s.issue.cid) fun y => { y with lease := some ⟨s.issue.cid, leaseBudget x, leasePrio x, s.now⟩ }

theorem exec_mlease : exec (.mlease x) s = slotOp 3 (.mlease x) State.mleaseVerdict (fun s => s.takeLease x) s := Eq.refl (execMlease x s)

theorem State.mleaseVerdict_held (serai : isSerai s.issue.cid = true) (held : s.holdsLease = true) : s.mleaseVerdict = accessCode 2 := by
  rw [State.mleaseVerdict, State.seraiOnly_ok serai, Verdict.ok_both, if_pos held]

theorem State.mleaseVerdict_free (serai : isSerai s.issue.cid = true) (free : s.holdsLease = false) :
    s.mleaseVerdict = if s.leaseGranted then .ok else .block := by
  rw [State.mleaseVerdict, State.seraiOnly_ok serai, Verdict.ok_both, free, if_neg Bool.false_ne_true]

theorem exec_mlease_of_held (p : s.issue.phase = .whole) (w : Instr.wf (.mlease x) = true) (serai : isSerai s.issue.cid = true)
    (held : s.holdsLease = true) : exec (.mlease x) s = .next (s.issueTrap 3 .access 2) := by
  rw [exec_mlease, slotOp_of_trap p w (State.mleaseVerdict_held serai held)]
  rfl

theorem exec_mlease_of_granted (p : s.issue.phase = .whole) (w : Instr.wf (.mlease x) = true) (serai : isSerai s.issue.cid = true)
    (free : s.holdsLease = false) (granted : s.leaseGranted = true) : exec (.mlease x) s = .next (s.takeLease x) := by
  rw [exec_mlease, slotOp_of_ok p w ((State.mleaseVerdict_free serai free).trans (if_pos granted))]

theorem exec_mlease_of_ungranted (p : s.issue.phase = .whole) (w : Instr.wf (.mlease x) = true) (serai : isSerai s.issue.cid = true)
    (free : s.holdsLease = false) (ungranted : s.leaseGranted = false) : exec (.mlease x) s = .next s := by
  have blocks : s.mleaseVerdict = .block := by rw [State.mleaseVerdict_free serai free, ungranted, if_neg Bool.false_ne_true]
  rw [exec_mlease, slotOp_waits p (.inl ((slotVerdict_ok w).trans blocks))]

/-! ## `mfree` (R180) -/

/-- The checks of an `mfree`: only one that signals needs room for its marker. -/
def State.mfreeVerdict (s : State) (x : MW) : Verdict :=
  ((s.seraiOnly.both (if s.holdsLease then .ok else accessCode 3)).both (s.tailVerdict x.tail)).both
    (if tailInc x.tail = 0 then .ok else s.roomVerdict (.array (seraiOf s.issue.cid)))

/-- The effect of an `mfree`: the lease ends, and where the tail signals, a marker is pushed. -/
def State.freeLease (s : State) (x : MW) : State :=
  let t := s.dropLease (seraiOf s.issue.cid)
  if tailInc x.tail = 0 then t else t.push (.array (seraiOf s.issue.cid)) x.tail .marker 0

theorem exec_mfree : exec (.mfree x) s = slotOp 3 (.mfree x) (fun s => s.mfreeVerdict x) (fun s => s.freeLease x) s :=
  Eq.refl (execMfree x s)

theorem exec_mfree_of_free (p : s.issue.phase = .whole) (w : Instr.wf (.mfree x) = true) (serai : isSerai s.issue.cid = true)
    (free : s.holdsLease = false) : exec (.mfree x) s = .next (s.issueTrap 3 .access 3) := by
  have trap : s.mfreeVerdict x = accessCode 3 := by
    simp only [State.mfreeVerdict, State.seraiOnly_ok serai, free, Bool.false_eq_true, if_false, Verdict.ok_both, accessCode_both]
  rw [exec_mfree, slotOp_of_trap p w trap]
  rfl

theorem State.mfreeVerdict_held (serai : isSerai s.issue.cid = true) (held : s.holdsLease = true) (tail : s.tailOk x.tail) :
    s.mfreeVerdict x = if tailInc x.tail = 0 then .ok else s.roomVerdict (.array (seraiOf s.issue.cid)) := by
  simp only [State.mfreeVerdict, State.seraiOnly_ok serai, if_pos held, tailVerdict_ok.2 tail, Verdict.ok_both]

theorem State.dropLease_lease : ((s.dropLease k).serai k).lease = none := by rw [State.dropLease, State.serai_modSerai, if_pos rfl]

/-- An `mfree` that signals leaves no lease, and its marker at the end of the array's queue. -/
theorem State.freeLease_of_signal (signals : tailInc x.tail ≠ 0) : ∃ c : Cmd, ((s.freeLease x).serai (seraiOf s.issue.cid)).lease = none ∧
    (s.freeLease x).cmds = s.cmds ++ [c] ∧ c.op = .marker ∧ c.queue = .array (seraiOf s.issue.cid) ∧ c.tail = x.tail := by
  obtain ⟨c, l, pushed, -, queue, tail, op, -⟩ :=
    (s.dropLease (seraiOf s.issue.cid)).push_eq (.array (seraiOf s.issue.cid)) x.tail .marker 0
  have freed : s.freeLease x = _ := (if_neg signals).trans pushed
  rw [freed]
  exact ⟨c, State.dropLease_lease, rfl, op, queue, tail⟩

end

/-- Settles O21: `mlease` and `mfree` by what the lease of the serai says of the context. -/
theorem leaseInstructions : Obligations.LeaseInstructions := by
  unfold Obligations.LeaseInstructions
  refine ⟨fun s x serai p other => ?_, fun s x k l hk serai p lease own => ?_⟩
  · obtain ⟨free, ungranted⟩ := State.lease_of_not_holder other
    exact ⟨fun w => exec_mlease_of_ungranted p w serai free ungranted, fun w => exec_mfree_of_free p w serai free⟩
  · subst hk
    obtain ⟨holds, granted⟩ := State.lease_of_holder serai lease own
    have free (empty : l.budget = 0) : s.holdsLease = false := by
      rw [← Bool.not_eq_true, holds, empty]
      exact Nat.lt_irrefl 0
    refine ⟨fun w empty => exec_mlease_of_granted p w serai (free empty) (granted.2 empty),
      fun w budget => exec_mlease_of_held p w serai (holds.2 budget), fun w budget silent tail => ?_, fun w budget signals tail room => ?_,
      fun w budget signals tail full => ?_, fun w empty => exec_mfree_of_free p w serai (free empty)⟩
    · have ok := (State.mfreeVerdict_held serai (holds.2 budget) tail).trans (if_pos silent)
      refine ⟨s.dropLease (seraiOf s.issue.cid), ?_, State.dropLease_lease, rfl, rfl, rfl⟩
      rw [exec_mfree, slotOp_of_ok p w ok, State.freeLease, if_pos silent]
    · have rest := (State.mfreeVerdict_held serai (holds.2 budget) tail).trans (if_neg signals)
      obtain ⟨c, freed⟩ := s.freeLease_of_signal signals
      exact ⟨_, c, exec_mfree.trans (slotOp_of_room p w rest room), freed⟩
    · have rest := (State.mfreeVerdict_held serai (holds.2 budget) tail).trans (if_neg signals)
      rw [exec_mfree, slotOp_of_full p w rest full]

end Sys2Proof.Machine
end

section
/-! SUPPORT. The statement on `tld` and `tst` (R168, R172, R175). -/

namespace Sys2Proof.Machine

open Sys2Proof

section
variable {s : State} {x : MW}

theorem exec_tld : exec (.tld x) s = slotOp 3 (.tld x) (fun s => s.tileVerdict x) (fun s => s.pushTile x false) s := Eq.refl (execTld x s)

theorem exec_tst : exec (.tst x) s = slotOp 3 (.tst x) (fun s => s.tileVerdict x) (fun s => s.pushTile x true) s := Eq.refl (execTst x s)

theorem State.tregVerdict_ok {n : Nat} (h : n < s.me.ntregs) : s.tregVerdict n = .ok := if_neg (Nat.not_le.2 h)

/-- The rows of a tile command pass where each is aligned and within the bound, by induction on the rows left from row `j` on. -/
theorem tileRows_ok {lim len : Nat} {base stride : Word} (n j : Nat) (rows : ∀ q, j ≤ q → q < j + n →
    (tileAt base stride q).toNat % 16 = 0 ∧ (tileAt base stride q).toNat + len ≤ lim) : tileRows lim len base stride n j = .ok := by
  induction n generalizing j with
  | zero => rfl
  | succ n ih =>
    obtain ⟨aligned, bound⟩ := rows j (Nat.le_refl j) (by omega)
    rw [tileRows, if_neg (Classical.not_not.2 aligned), if_neg (Nat.not_lt.2 bound)]
    exact ih (j + 1) fun q _ below => rows q (by omega) (by omega)

/-- Where every other check of a tile command passes, the room of its queue decides (R84, R168, R172, R175). -/
theorem State.tileVerdict_eq_room (core : isDepot s.issue.cid = false) (register : x.ta.toNat < s.me.ntregs)
    (shape : shapeOk (s.shape x.ta.toNat) = true) (scales : x.flags.getLsbD 0 = true → shType (s.shape x.ta.toNat) < 6)
    (rows : ∀ q < shExt (s.shape x.ta.toNat), (tileAt (s.me.ra x.ar) (s.me.rs x.sp) q).toNat % 16 = 0 ∧
      (tileAt (s.me.ra x.ar) (s.me.rs x.sp) q).toNat + tileLen (s.shape x.ta.toNat) ≤ s.myGroup.spLim)
    (tail : s.tailOk x.tail) : s.tileVerdict x = s.roomVerdict (.tile (coreOf s.issue.cid)) := by
  have legal : (shapeOk (s.shape x.ta.toNat) && !(x.flags.getLsbD 0 && decide (6 ≤ shType (s.shape x.ta.toNat)))) = true := by
    cases sc : x.flags.getLsbD 0 with
    | false => simp [shape]
    | true => simp [shape, Nat.not_le.2 (scales sc)]
  have inside := tileRows_ok (lim := (s.group s.me.gid).spLim) (shExt (s.shape x.ta.toNat)) 0 fun q _ below => rows q (by omega)
  simp only [State.tileVerdict, State.notDepot_ok core, State.tregVerdict_ok register, if_pos legal, tileCount, inside,
    tailVerdict_ok.2 tail, Verdict.ok_both]

end

/-- Settles O22: the checks come down to the room of the queue, which decides between the push and the block. -/
theorem tileCommandsPush : Obligations.TileCommandsPush := by
  unfold Obligations.TileCommandsPush
  intro s x sh hsh p core register shape scales rows tail
  subst hsh
  have rest : s.tileVerdict x = s.roomVerdict (.tile (coreOf s.issue.cid)) :=
    State.tileVerdict_eq_room core register shape scales rows tail
  refine ⟨fun full i row w => ?_, fun room => ⟨fun w => ?_, fun w => ?_⟩⟩
  · simp only [List.mem_cons, List.not_mem_nil, or_false] at row
    rcases row with rfl | rfl
    · exact exec_tld.trans (slotOp_of_full p w rest full)
    · exact exec_tst.trans (slotOp_of_full p w rest full)
  · exact exec_tld.trans (slotOp_of_room p w rest room)
  · exact exec_tst.trans (slotOp_of_room p w rest room)

end Sys2Proof.Machine
end

section
/-! SUPPORT. The checks of the array commands, the tile-store copies and the phaser instructions where their unit may not act, and the
statement on them (R178, R194, R277, R321). -/

namespace Sys2Proof.Machine

open Sys2Proof

/-! ## The M slot (R178, R194, R321) -/

section
variable {s : State} {x : MW}

theorem exec_product : exec (.mma x) s = slotOp 3 (.mma x) (fun s => s.productVerdict 0 x) (fun s => s.pushProduct 0 x) s ∧
    exec (.mmaBs x) s = slotOp 3 (.mmaBs x) (fun s => s.productVerdict 1 x) (fun s => s.pushProduct 1 x) s ∧
    exec (.mmaNm x) s = slotOp 3 (.mmaNm x) (fun s => s.productVerdict 2 x) (fun s => s.pushProduct 2 x) s :=
  ⟨Eq.refl (execMma x s), Eq.refl (execMmaBs x s), Eq.refl (execMmaNm x s)⟩

/-- The checks of an `mzero` (R194, R198). -/
def State.zeroVerdict (s : State) (x : MW) : Verdict :=
  let e := s.me.rs x.sp
  ((((s.notDepot.both s.leaseVerdict).both (s.posVerdict (s.me.ra x.ar) (extRows e) (extWords e) true false)).both
    (if wbits e 18 46 = 0 then .ok else .trap .pcwbad e)).both (s.tailVerdict x.tail)).both
      (s.roomVerdict (.array (seraiOf s.issue.cid)))

theorem exec_mzero : exec (.mzero x) s =
    slotOp 3 (.mzero x) (fun s => s.zeroVerdict x) (fun s => s.pushArray x (.zero (s.me.ra x.ar) (s.me.rs x.sp))) s :=
  Eq.refl (execMzero x s)

theorem exec_copy : exec (.tsld x) s = slotOp 3 (.tsld x) (fun s => s.copyVerdict x false) (fun s => s.pushCopy x false) s ∧
    exec (.tsst x) s = slotOp 3 (.tsst x) (fun s => s.copyVerdict x true) (fun s => s.pushCopy x true) s :=
  ⟨Eq.refl (execTsld x s), Eq.refl (execTsst x s)⟩

/-- The core and the lease come before any operand of a product command (R194). -/
theorem State.productVerdict_trap {kind : Nat} {c : Cause} {tv : Word} (first : s.notDepot.both s.leaseVerdict = .trap c tv) :
    s.productVerdict kind x = .trap c tv := by
  simp only [State.productVerdict, first, Verdict.trap_both]

/-- The core and the lease come before any operand of an `mzero` (R194). -/
theorem State.zeroVerdict_trap {c : Cause} {tv : Word} (first : s.notDepot.both s.leaseVerdict = .trap c tv) :
    s.zeroVerdict x = .trap c tv := by
  simp only [State.zeroVerdict, first, Verdict.trap_both]

/-- An array command of a context without the lease (R178, R194). -/
theorem exec_array_of_free {i : Instr} (row : i ∈ [Instr.mma x, .mmaBs x, .mmaNm x, .mzero x]) (p : s.issue.phase = .whole)
    (w : i.wf = true) (core : isDepot s.issue.cid = false) (free : s.holdsLease = false) :
    exec i s = .next (s.issueTrap 3 .access 1) := by
  have first : s.notDepot.both s.leaseVerdict = accessCode 1 := by
    rw [State.notDepot_ok core, Verdict.ok_both, State.leaseVerdict_trap free]
  obtain ⟨mma, mmaBs, mmaNm⟩ := exec_product (s := s) (x := x)
  simp only [List.mem_cons, List.not_mem_nil, or_false] at row
  rcases row with rfl | rfl | rfl | rfl
  · exact mma.trans (slotOp_of_trap p w (State.productVerdict_trap first))
  · exact mmaBs.trans (slotOp_of_trap p w (State.productVerdict_trap first))
  · exact mmaNm.trans (slotOp_of_trap p w (State.productVerdict_trap first))
  · exact exec_mzero.trans (slotOp_of_trap p w (State.zeroVerdict_trap first))

theorem State.tileVerdict_depot (depot : isDepot s.issue.cid = true) : s.tileVerdict x = .trap .illop 0 := by
  simp only [State.tileVerdict, State.notDepot_trap depot, Verdict.trap_both]

theorem State.copyVerdict_depot {store : Bool} (depot : isDepot s.issue.cid = true) : s.copyVerdict x store = .trap .illop 0 := by
  simp only [State.copyVerdict, firstFail, if_pos depot, Verdict.trap_both]

theorem State.mleaseVerdict_depot (depot : isDepot s.issue.cid = true) : s.mleaseVerdict = .trap .illop 0 := by
  rw [State.mleaseVerdict, State.seraiOnly_trap depot, Verdict.trap_both]

theorem State.mfreeVerdict_depot (depot : isDepot s.issue.cid = true) : s.mfreeVerdict x = .trap .illop 0 := by
  simp only [State.mfreeVerdict, State.seraiOnly_trap depot, Verdict.trap_both]

/-- A depot core has no unit of the M slot (R321). -/
theorem exec_matrix_of_depot {i : Instr}
    (row : i ∈ [Instr.mlease x, .mfree x, .tld x, .tst x, .mma x, .mmaBs x, .mmaNm x, .mzero x, .tsld x, .tsst x])
    (p : s.issue.phase = .whole) (depot : isDepot s.issue.cid = true) : exec i s = .next (s.issueTrap 3 .illop 0) := by
  have first : s.notDepot.both s.leaseVerdict = .trap .illop 0 := by rw [State.notDepot_trap depot, Verdict.trap_both]
  obtain ⟨mma, mmaBs, mmaNm⟩ := exec_product (s := s) (x := x)
  obtain ⟨tsld, tsst⟩ := exec_copy (s := s) (x := x)
  simp only [List.mem_cons, List.not_mem_nil, or_false] at row
  rcases row with rfl | rfl | rfl | rfl | rfl | rfl | rfl | rfl | rfl | rfl
  · exact exec_mlease.trans (slotOp_of_illop p (State.mleaseVerdict_depot depot))
  · exact exec_mfree.trans (slotOp_of_illop p (State.mfreeVerdict_depot depot))
  · exact exec_tld.trans (slotOp_of_illop p (State.tileVerdict_depot depot))
  · exact exec_tst.trans (slotOp_of_illop p (State.tileVerdict_depot depot))
  · exact mma.trans (slotOp_of_illop p (State.productVerdict_trap first))
  · exact mmaBs.trans (slotOp_of_illop p (State.productVerdict_trap first))
  · exact mmaNm.trans (slotOp_of_illop p (State.productVerdict_trap first))
  · exact exec_mzero.trans (slotOp_of_illop p (State.zeroVerdict_trap first))
  · exact tsld.trans (slotOp_of_illop p (State.copyVerdict_depot depot))
  · exact tsst.trans (slotOp_of_illop p (State.copyVerdict_depot depot))

end

/-! ## Phasers (R273, R277, R278) -/

section
variable {s : State} {x : YW} {n : Nat} {r : PhReg} {i : Instr}

theorem State.phName_ok (named : s.phNamed n) : s.phName n = .ok := by
  obtain ⟨near, far⟩ := named
  refine if_neg ?_
  simp only [Bool.or_eq_true, Bool.and_eq_true, decide_eq_true_eq, Bool.not_eq_true', not_or, not_and]
  exact ⟨fun h => by simp [near h], fun h => Nat.not_le.2 (far h)⟩

/-- The check that the context is registered (R277). -/
def State.dropVerdict (s : State) (n : Nat) : Verdict := (s.phName n).both (if (s.me.phReg? n).isSome then .ok else accessCode 8)

/-- The checks of a `ph.arw`: those of an arrival, and that the registration waits (R278). -/
def State.arwVerdict (s : State) (n : Nat) : Verdict :=
  (s.arriveVerdict n).both (match s.me.phReg? n with | some r => if r.mode = 1 then accessCode 9 else .ok | none => .ok)

/-- The effect of a `ph.reg`: an entry in the parcel's table from the phase that its group sees, and the operation at the phaser (R277). -/
def State.phRegister (s : State) (x : YW) : State :=
  let p := s.phSeen s.me.gid (YWph x)
  let mode := (x.co.extractLsb' 10 2).toNat
  (s.sendPh s.issue.cid (YWph x) (.register mode (x.co.extractLsb' 12 10).toNat p) (s.phStart s.issue.cid + s.phCount (YWph x)) false).modMe
    fun c => { c with phregs := c.phregs ++ [⟨YWph x, mode, p, p⟩] }

theorem exec_phReg : exec (.phReg x) s = slotOp 7 (.phReg x) (fun s => s.regVerdict (YWph x)) (fun s => s.phRegister x) s :=
  Eq.refl (execPhReg x s)

theorem exec_phDrop : exec (.phDrop x) s = slotOp 7 (.phDrop x) (fun s => s.dropVerdict (YWph x))
    (fun s => s.phLeave s.issue.cid (YWph x) (s.phStart s.issue.cid + s.phCount (YWph x))) s :=
  Eq.refl (execPhDrop x s)

theorem exec_phArr : exec (.phArr x) s = slotOp 7 (.phArr x) (fun s => s.arriveVerdict (YWph x)) (fun s => s.arrive (YWph x)) s :=
  Eq.refl (execPhArr x s)

theorem exec_phWait : exec (.phWait x) s =
    slotOp 7 (.phWait x) (fun s => s.phWaitVerdict (YWph x)) (fun s => s.phReturn s.issue.cid (YWph x)) s :=
  Eq.refl (execPhWait x s)

theorem exec_phArw : exec (.phArw x) s = slotOp 7 (.phArw x) (fun s => s.arwVerdict (YWph x))
    (fun s => (s.arrive (YWph x)).modMe fun c => { c with phWait := c.phWait ++ [(YWph x, YWphTicks x, c.regs.inh)] }) s :=
  Eq.refl (execPhArw x s)

/-- Without a registration a parcel may neither leave nor arrive nor wait. -/
theorem State.phVerdicts_of_none (named : s.phNamed n) (unregistered : s.me.phReg? n = none) :
    s.dropVerdict n = accessCode 8 ∧ s.arriveVerdict n = accessCode 8 ∧ s.phWaitVerdict n = accessCode 8 := by
  refine ⟨?_, ?_, ?_⟩
  · simp only [State.dropVerdict, State.phName_ok named, unregistered, Verdict.ok_both, Option.isSome_none, Bool.false_eq_true, if_false]
  · simp only [State.arriveVerdict, State.phName_ok named, unregistered, Verdict.ok_both]
  · simp only [State.phWaitVerdict, State.phName_ok named, unregistered, Verdict.ok_both]

theorem State.regVerdict_eq (named : s.phNamed n) : s.regVerdict n =
    if (s.me.phReg? n).isSome then accessCode 7 else if 8 ≤ s.me.phregs.length then accessCode 0xC else .ok := by
  rw [State.regVerdict, State.phName_ok named, Verdict.ok_both]

theorem State.arriveVerdict_eq (named : s.phNamed n) (reg : s.me.phReg? n = some r) : s.arriveVerdict n =
    if r.mode = 2 then accessCode 9 else if r.ap = phaseAdd (s.phSeen s.me.gid n) 2 then accessCode 0xA else .ok := by
  simp only [State.arriveVerdict, State.phName_ok named, reg, Verdict.ok_both]

theorem State.phWaitVerdict_eq (named : s.phNamed n) (reg : s.me.phReg? n = some r) : s.phWaitVerdict n =
    if r.mode = 1 then accessCode 9 else if r.mode = 3 && r.wp = r.ap then accessCode 0xB
    else if s.phEnded s.issue.cid n then .ok else .block := by
  simp only [State.phWaitVerdict, State.phName_ok named, reg, Verdict.ok_both]

/-- The checks of an arrival come first in both instructions that arrive (R277, R278). -/
theorem exec_arrival_of_trap {c : Cause} {tv : Word} (row : i ∈ [Instr.phArr x, .phArw x]) (p : s.issue.phase = .whole) (w : i.wf = true)
    (trap : s.arriveVerdict (YWph x) = .trap c tv) : exec i s = .next (s.issueTrap 7 c tv) := by
  simp only [List.mem_cons, List.not_mem_nil, or_false] at row
  rcases row with rfl | rfl
  · exact exec_phArr.trans (slotOp_of_trap p w trap)
  · have arw : s.arwVerdict (YWph x) = .trap c tv := by rw [State.arwVerdict, trap, Verdict.trap_both]
    exact exec_phArw.trans (slotOp_of_trap p w arw)

/-- The instructions that need a registration trap without one (R277). -/
theorem exec_phaser_of_none (row : i ∈ [Instr.phDrop x, .phArr x, .phWait x, .phArw x]) (p : s.issue.phase = .whole) (w : i.wf = true)
    (named : s.phNamed (YWph x)) (unregistered : s.me.phReg? (YWph x) = none) : exec i s = .next (s.issueTrap 7 .access 0x8) := by
  obtain ⟨drop, arrive, wait⟩ := State.phVerdicts_of_none named unregistered
  simp only [List.mem_cons, List.not_mem_nil, or_false] at row
  rcases row with rfl | rfl | rfl | rfl
  · exact exec_phDrop.trans (slotOp_of_trap p w drop)
  · exact exec_arrival_of_trap (.head _) p w arrive
  · exact exec_phWait.trans (slotOp_of_trap p w wait)
  · exact exec_arrival_of_trap (.tail _ (.head _)) p w arrive

end

/-- Settles O24: the lease before the operands, the core before the lease, and the checks of each phaser instruction in their order. -/
theorem unitTraps : Obligations.UnitTraps := by
  unfold Obligations.UnitTraps
  refine ⟨fun s x p core other i row w => exec_array_of_free row p w core (State.lease_of_not_holder other).1,
    fun s x p depot i row => exec_matrix_of_depot row p depot, fun s x n hn p named => ?_⟩
  obtain rfl : n = YWph x := hn
  refine ⟨fun i row w unregistered => exec_phaser_of_none row p w named unregistered, fun r w reg => ?_, fun w unregistered full => ?_,
    fun r reg => ?_⟩
  · have twice : s.regVerdict (YWph x) = accessCode 7 := by rw [State.regVerdict_eq named, reg, Option.isSome_some, if_pos rfl]
    exact exec_phReg.trans (slotOp_of_trap p w twice)
  · have noEntry : s.regVerdict (YWph x) = accessCode 0xC := by
      rw [State.regVerdict_eq named, unregistered, Option.isSome_none, if_neg Bool.false_ne_true, if_pos full]
    exact exec_phReg.trans (slotOp_of_trap p w noEntry)
  · have arrives := State.arriveVerdict_eq named reg
    have waits := State.phWaitVerdict_eq named reg
    refine ⟨fun i row w mode => exec_arrival_of_trap row p w (arrives.trans (if_pos mode)), fun i row w mode ahead => ?_,
      fun w mode => exec_phWait.trans (slotOp_of_trap p w (waits.trans (if_pos mode))), fun w mode equal => ?_⟩
    · exact exec_arrival_of_trap row p w (arrives.trans ((if_neg mode).trans (if_pos ahead)))
    · have forbidden : s.phWaitVerdict (YWph x) = accessCode 0xB := by simp [waits, mode, equal]
      exact exec_phWait.trans (slotOp_of_trap p w forbidden)

end Sys2Proof.Machine
end

section
/-! SUPPORT. What an array command does at its issue, its checks and its effect on the lease, and the statement on it (R179, R184 to R186,
R194 to R198). -/

namespace Sys2Proof.Machine

open Sys2Proof

/-! ## What a push leaves as it is, and whose command it appends (R64) -/

section
variable {s : State} {q : QueueId} {tail : BitVec 24} {op : CmdOp} {n : Nat} {c : Cmd}

@[simp] theorem State.push_issue : (s.push q tail op n).issue = s.issue := by
  obtain ⟨c, l, pushed, -⟩ := s.push_eq q tail op n
  rw [pushed]

@[simp] theorem State.push_now : (s.push q tail op n).now = s.now := by
  obtain ⟨c, l, pushed, -⟩ := s.push_eq q tail op n
  rw [pushed]

@[simp] theorem State.push_mem : (s.push q tail op n).mem = s.mem := (State.memories_eq (s.push_memories q tail op n)).1

@[simp] theorem State.push_serai (k : Nat) : (s.push q tail op n).serai k = s.serai k := by
  rw [State.serai, State.serai, State.push_serais, State.push_now]

/-- The command that a push appends is one of the context under issue. -/
theorem State.push_cid (pushed : (s.push q tail op n).cmds = s.cmds ++ [c]) : c.cid = s.issue.cid := by
  obtain ⟨l, published⟩ := s.publish_eq q.scope (coreOf s.issue.cid)
    (fun x => (s.posted.map fun x => (x.id, x.before s s.issue.cid)).contains (x.id, true))
  unfold State.push at pushed
  dsimp only at pushed
  split at pushed
  · obtain rfl := List.singleton_inj.1 (List.append_cancel_left pushed)
    rfl
  · rw [published] at pushed
    obtain rfl := List.singleton_inj.1 (List.append_cancel_left pushed)
    rfl

end

section
variable {s : State} {x : MW} {l : Lease} {op : CmdOp} {kind rows words : Nat} {p : Word} {high odd : Bool}

/-! ## The lease's budget (R179) -/

/-- Spending changes the serai's lease: no context, no command and no byte of memory. -/
theorem State.spend_frame (s : State) : s.spend.me = s.me ∧ s.spend.cmds = s.cmds ∧ s.spend.mem = s.mem := by
  unfold State.spend
  split
  · split <;> exact ⟨rfl, rfl, rfl⟩
  · exact ⟨rfl, rfl, rfl⟩

/-- The last of the budget ends the lease. -/
theorem State.spend_last (lease : s.myLease = some l) (last : l.budget = 1) : (s.spend.serai (seraiOf s.issue.cid)).lease = none := by
  have ends : s.spend = s.dropLease (seraiOf s.issue.cid) := by
    simp only [State.spend, lease]
    rw [if_pos (Nat.le_of_eq last)]
  rw [ends, State.dropLease_lease]

/-- A budget that outlasts the push is lower by one, and the lease is idle since now. -/
theorem State.spend_more (lease : s.myLease = some l) (more : 1 < l.budget) :
    (s.spend.serai (seraiOf s.issue.cid)).lease = some { l with budget := l.budget - 1, idle := s.now } := by
  simp only [State.spend, lease]
  rw [if_neg (Nat.not_le.2 more), State.serai_modSerai, if_pos rfl]

/-! ## The effect of an array command (R178, R179, R202) -/

/-- The state with an array command at the end of its queue and counted, before the lease pays for it. -/
def State.countArray (s : State) (x : MW) (op : CmdOp) : State :=
  (s.push (.array (seraiOf s.issue.cid)) x.tail op s.me.arrayPushed).modMe fun c => { c with arrayPushed := c.arrayPushed + 1 }

theorem State.pushArray_eq (s : State) (x : MW) (op : CmdOp) : s.pushArray x op = (s.countArray x op).spend := rfl

@[simp] theorem State.countArray_issue : (s.countArray x op).issue = s.issue := by rw [State.countArray, State.modMe_issue, State.push_issue]

@[simp] theorem State.countArray_now : (s.countArray x op).now = s.now := by rw [State.countArray, State.modMe_now, State.push_now]

@[simp] theorem State.countArray_mem : (s.countArray x op).mem = s.mem := by rw [State.countArray, State.modMe_mem, State.push_mem]

theorem State.countArray_me : (s.countArray x op).me = { s.me with arrayPushed := s.me.arrayPushed + 1 } := by
  rw [State.countArray, State.me_modMe, State.push_me]

@[simp] theorem State.countArray_myLease : (s.countArray x op).myLease = s.myLease := by
  rw [State.myLease, State.myLease, State.countArray_issue, State.countArray, State.modMe, State.serai_modCtx, State.push_serai]

/-- The command that stands at the end of the queue carries what the instruction gives it and the count before it. -/
theorem State.countArray_cmds (s : State) (x : MW) (op : CmdOp) : ∃ c : Cmd, (s.countArray x op).cmds = s.cmds ++ [c] ∧ c.op = op ∧
    c.queue = .array (seraiOf s.issue.cid) ∧ c.tail = x.tail ∧ c.number = s.me.arrayPushed ∧ c.cid = s.issue.cid := by
  obtain ⟨c, posted, pushed, -, queue, tail, hop, number⟩ :=
    s.push_eq (.array (seraiOf s.issue.cid)) x.tail op s.me.arrayPushed
  have appended := congrArg State.cmds pushed
  exact ⟨c, appended, hop, queue, tail, number, State.push_cid appended⟩

/-- An array command is pushed and counted, and spends one of the lease's budget. -/
theorem State.pushArray_effect (x : MW) (op : CmdOp) (lease : s.myLease = some l) : ∃ c : Cmd,
    (s.pushArray x op).cmds = s.cmds ++ [c] ∧ c.op = op ∧ c.queue = .array (seraiOf s.issue.cid) ∧ c.tail = x.tail ∧
    c.number = s.me.arrayPushed ∧ c.cid = s.issue.cid ∧ (s.pushArray x op).me.arrayPushed = s.me.arrayPushed + 1 ∧
    (s.pushArray x op).mem = s.mem ∧ (l.budget = 1 → ((s.pushArray x op).serai (seraiOf s.issue.cid)).lease = none) ∧
    (1 < l.budget → ((s.pushArray x op).serai (seraiOf s.issue.cid)).lease =
      some { l with budget := l.budget - 1, idle := s.now }) := by
  obtain ⟨c, appended, hop, queue, tail, number, cid⟩ := s.countArray_cmds x op
  have paid : (s.countArray x op).myLease = some l := State.countArray_myLease.trans lease
  have last := State.spend_last paid
  have more := State.spend_more paid
  rw [State.countArray_issue] at last more
  rw [State.countArray_now] at more
  obtain ⟨me, cmds, mem⟩ := (s.countArray x op).spend_frame
  rw [State.pushArray_eq, me, cmds, mem, State.countArray_me, State.countArray_mem]
  exact ⟨c, appended, hop, queue, tail, number, cid, rfl, rfl, last, more⟩

/-! ## The checks of an array command (R178, R185, R186, R194, R198) -/

/-- The holder of a lease with a budget passes the checks of the core and the lease. -/
theorem State.arrayVerdict_ok (serai : isSerai s.issue.cid = true) (lease : (s.serai (seraiOf s.issue.cid)).lease = some l)
    (own : l.holder = s.issue.cid) (budget : 0 < l.budget) : s.notDepot.both s.leaseVerdict = .ok := by
  have core : isDepot s.issue.cid = false :=
    Bool.eq_false_iff.2 fun depot => Bool.false_ne_true ((isSerai_of_isDepot depot).symm.trans serai)
  rw [State.notDepot_ok core, Verdict.ok_both, State.leaseVerdict, if_pos ((State.lease_of_holder serai lease own).1.2 budget)]

/-- A position word without high bits whose outputs lie in the tile store passes its check (R186). -/
theorem State.posVerdict_ok (small : high = true → p.toNat < 2 ^ 20) (below : posRow p + rows ≤ s.myGroup.tsLim)
    (within : posCol p + words ≤ 1024) (even : odd = true → posCol p % 2 = 0) : s.posVerdict p rows words high odd = .ok := by
  have noHigh : high = true → wbits p 20 44 = 0 := fun h => wbits_of_lt 44 (small h)
  have inside : ¬ (s.group s.me.gid).tsLim < posRow p + rows := Nat.not_lt.2 below
  have placed : ¬ (high && decide (wbits p 20 44 ≠ 0) || decide ((s.group s.me.gid).tsLim < posRow p + rows) ||
      decide (1024 < posCol p + words)) = true := by
    simpa [inside, within] using noHigh
  have aligned : ¬ (odd && decide (posCol p % 2 = 1)) = true := by simpa using even
  rw [State.posVerdict, if_neg placed, if_neg aligned]

/-- Where every other check of a product command passes, the room of its queue decides (R84, R194). -/
theorem State.productVerdict_eq_room (first : s.notDepot.both s.leaseVerdict = .ok) (regA : x.ta.toNat < s.me.ntregs)
    (regB : x.tb.toNat < s.me.ntregs)
    (shapes : (shapeOk (s.shape x.ta.toNat) && shRole (s.shape x.ta.toNat) == 0 && shapeOk (s.shape x.tb.toNat) &&
      shRole (s.shape x.tb.toNat) == 1) = true)
    (sameK : shK (s.shape x.ta.toNat) = shK (s.shape x.tb.toNat)) (sparseK : kind = 2 → shK (s.shape x.ta.toNat) = 32)
    (pcw : pcwOk kind (s.me.rs x.sp) (s.shape x.ta.toNat) (s.shape x.tb.toNat) = true)
    (pos : s.posVerdict (s.me.ra x.ar) (shExt (s.shape x.ta.toNat))
      (accWords (pcwAcc (s.me.rs x.sp)) * shExt (s.shape x.tb.toNat)) (kind != 1) (pcwAcc (s.me.rs x.sp) == 2) = .ok)
    (tail : s.tailOk x.tail) : s.productVerdict kind x = s.roomVerdict (.array (seraiOf s.issue.cid)) := by
  have depths : ¬ (shK (s.shape x.ta.toNat) ≠ shK (s.shape x.tb.toNat) || (kind = 2 && shK (s.shape x.ta.toNat) ≠ 32)) = true := by
    rw [← sameK]
    simpa using sparseK
  simp only [State.productVerdict, first, State.tregVerdict_ok regA, State.tregVerdict_ok regB, if_pos shapes, if_neg depths, if_pos pcw,
    pos, tailVerdict_ok.2 tail, Verdict.ok_both]

/-- Where every other check of an `mzero` passes, the room of its queue decides (R84, R194, R198). -/
theorem State.zeroVerdict_eq_room (first : s.notDepot.both s.leaseVerdict = .ok)
    (pos : s.posVerdict (s.me.ra x.ar) (extRows (s.me.rs x.sp)) (extWords (s.me.rs x.sp)) true false = .ok)
    (small : (s.me.rs x.sp).toNat < 2 ^ 18) (tail : s.tailOk x.tail) :
    s.zeroVerdict x = s.roomVerdict (.array (seraiOf s.issue.cid)) := by
  simp only [State.zeroVerdict, first, pos, if_pos (wbits_of_lt 46 small), tailVerdict_ok.2 tail, Verdict.ok_both]

/-- The three product commands differ in their kind (R194). -/
theorem exec_product_of_kind {i : Instr} (row : (kind, i) ∈ [(0, Instr.mma x), (1, .mmaBs x), (2, .mmaNm x)]) :
    exec i s = slotOp 3 i (fun s => s.productVerdict kind x) (fun s => s.pushProduct kind x) s := by
  obtain ⟨mma, mmaBs, mmaNm⟩ := exec_product (s := s) (x := x)
  simp only [List.mem_cons, List.not_mem_nil, or_false] at row
  rcases row with ⟨rfl, rfl⟩ | ⟨rfl, rfl⟩ | ⟨rfl, rfl⟩
  · exact mma
  · exact mmaBs
  · exact mmaNm

end

/-- Settles O23: the checks come down to the room of the queue, and the push spends one of the budget. -/
theorem arrayCommandsPush : Obligations.ArrayCommandsPush := by
  unfold Obligations.ArrayCommandsPush
  intro s x k l hk serai phase lease own budget tail
  subst hk
  have first := State.arrayVerdict_ok serai lease own budget
  refine ⟨fun kind i shA shB p w row wf hA hB hp hw regA regB okA roleA okB roleB sameK sparseK pcw small below within even => ?_,
    fun p e hp he wf small below within smallExt => ?_⟩
  · subst hA hB hp hw
    have pos := State.posVerdict_ok (high := kind != 1) (odd := pcwAcc (s.me.rs x.sp) == 2) (fun h => small (by simpa using h)) below within
      (fun h => even (by simpa using h))
    have rest := State.productVerdict_eq_room first regA regB (by simp [okA, roleA, okB, roleB]) sameK sparseK pcw pos tail
    refine ⟨fun full => (exec_product_of_kind row).trans (slotOp_of_full phase wf rest full), fun room => ?_⟩
    obtain ⟨c, effect⟩ := State.pushArray_effect x (.product kind x.ta.toNat x.tb.toNat (s.me.ra x.ar) (s.me.rs x.sp)
      (s.shape x.ta.toNat) (s.shape x.tb.toNat)) lease
    exact ⟨_, c, (exec_product_of_kind row).trans (slotOp_of_room phase wf rest room), effect⟩
  · subst hp he
    have rows : extRows (s.me.rs x.sp) = (s.me.rs x.sp).toNat % 2 ^ 8 + 1 := by rw [extRows, wbits_zero_eq_mod]
    have words : extWords (s.me.rs x.sp) = (s.me.rs x.sp).toNat / 2 ^ 8 % 2 ^ 10 + 1 := by
      rw [extWords, wbits, bitsOf, Nat.shiftRight_eq_div_pow]
    have pos := State.posVerdict_ok (high := true) (odd := false) (fun _ => small) (rows ▸ below) (words ▸ within) nofun
    have rest := State.zeroVerdict_eq_room first pos smallExt tail
    refine ⟨fun full => exec_mzero.trans (slotOp_of_full phase wf rest full), fun room => ?_⟩
    obtain ⟨c, effect⟩ := State.pushArray_effect x (.zero (s.me.ra x.ar) (s.me.rs x.sp)) lease
    exact ⟨_, c, exec_mzero.trans (slotOp_of_room phase wf rest room), effect⟩

end Sys2Proof.Machine
end

section
/-! SUPPORT. What a tile-store copy is checked for at its issue, and the statement on it (R211 to R217). -/

namespace Sys2Proof.Machine

open Sys2Proof

/-! ## The limits of a copy (R214 to R217) -/

/-- A descriptor whose format the copy may take and whose elements fill the blocks and the groups of the format (R215). -/
structure CopyFormat (d : Word) (store prune : Bool) (span : Nat) : Prop where
  high : d.toNat < 2 ^ 44
  stores : store = true → cpFmt d = 0 ∨ cpFmt d = 1 ∨ cpFmt d = 8
  loads : store = false → cpFmt d ≤ 8 ∧ (cpFmt d = 8 → prune = false)
  pairs : cpFmt d = 8 → cpWords d % 2 = 0
  blocks : cpMx d = true → prune = false → cpE d % 32 = 0
  groups : prune = true → cpE d % span = 0 ∧ (cpMx d = true → cpKept d true % 32 = 0)

/-- A copy that lies within `tsLim` rows of the tile store, with its position and its stride aligned (R214, R215). -/
structure CopyPlace (tsLim : Nat) (p d : Word) : Prop where
  rows : posRow p + cpRows d ≤ tsLim
  words : posCol p + cpWords d ≤ 1024
  pair : cpFmt d = 8 → posCol p % 2 = 0
  offset : cpOff p % 16 = 0
  stride : cpStride d % 16 = 0

/-- The data of row `q`, its scales, in the side bank, and its metadata lie within a scratchpad of `lim` bytes (R215 to R217). -/
structure CopyRowFits (lim : Nat) (p d : Word) (prune : Bool) (q : Nat) : Prop where
  data : cpOff p + q * cpStride d + cpLen d prune ≤ lim
  scales : cpMx d = true → ∀ b < cpKept d prune / 32, (cpOff p + q * cpStride d + cpBlock d * b) / 16 < lim / 16
  metadata : prune = true → cpMd p + q * cpMdLen d + cpMdLen d ≤ lim

/-! ## The checks of a copy (R215) -/

section
variable {s : State} {x : MW} {store : Bool}

/-- The rows of a copy pass where each fits, by induction on the rows left from row `j` on. -/
theorem copyRows_ok {lim : Nat} {p d : Word} {prune : Bool} (n j : Nat)
    (rows : ∀ q, j ≤ q → q < j + n → CopyRowFits lim p d prune q) : copyRows lim p d prune n j = .ok := by
  induction n generalizing j with
  | zero => rfl
  | succ n ih =>
    obtain ⟨data, scales, metadata⟩ := rows j (Nat.le_refl j) (by omega)
    have noSide : (if cpMx d then (List.range (cpKept d prune / 32)).map fun b => (cpOff p + j * cpStride d + cpBlock d * b) / 16
        else []).find? (fun y => decide (lim / 16 < y + 1)) = none := by
      rw [List.find?_eq_none]
      intro y inSide
      split at inSide
      next mx =>
        obtain ⟨b, below, rfl⟩ := List.mem_map.1 inSide
        have := scales mx b (List.mem_range.1 below)
        simp only [decide_eq_true_eq]
        omega
      next => exact absurd inSide List.not_mem_nil
    have inMetadata : ¬ (prune && decide (lim < cpMd p + j * cpMdLen d + cpMdLen d)) = true := by simpa using metadata
    simp only [copyRows, if_neg (Nat.not_lt.2 data), noSide, if_neg inMetadata]
    exact ih (j + 1) fun q _ below => rows q (by omega) (by omega)

/-- Where every other check of a copy passes, the room of its queue decides (R84, R215). -/
theorem State.copyVerdict_eq_room (core : isDepot s.issue.cid = false)
    (format : CopyFormat (s.me.rs x.sp) store (x.flags.getLsbD 0) (if x.flags.getLsbD 1 then 8 else 4))
    (place : CopyPlace s.myGroup.tsLim (s.me.ra x.ar) (s.me.rs x.sp))
    (rows : ∀ q < cpRows (s.me.rs x.sp), CopyRowFits s.myGroup.spLim (s.me.ra x.ar) (s.me.rs x.sp) (x.flags.getLsbD 0) q)
    (tail : s.tailOk x.tail) : s.copyVerdict x store = s.roomVerdict (.copy (seraiOf s.issue.cid)) := by
  have inside := copyRows_ok (lim := (s.group s.me.gid).spLim) (cpRows (s.me.rs x.sp)) 0 fun q _ below => rows q (by omega)
  unfold State.copyVerdict
  dsimp only
  rw [firstFail_ok, inside, tailVerdict_ok.2 tail, Verdict.ok_both, Verdict.ok_both, Verdict.ok_both]
  simp only [List.forall_mem_cons, List.not_mem_nil, false_implies, implies_true, and_true]
  refine ⟨core, ?high, ?formats, ?pairs, ?blocks, ?groups, ?bounds, ?aligned⟩
  case high => simpa using wbits_of_lt 20 format.high
  case formats =>
    cases store with
    | false => simpa using format.loads rfl
    | true => rcases format.stores rfl with fmt | fmt | fmt <;> simp [fmt]
  case pairs => simpa using format.pairs
  case blocks => simpa using format.blocks
  case groups => simpa using format.groups
  case bounds => simpa using ⟨place.rows, place.words⟩
  case aligned => simpa [place.offset, place.stride] using place.pair

/-! ## The effect of a copy (R219) -/

/-- A copy stands as one command at the end of its queue, and the context has counted it; no byte of memory changes. -/
theorem State.pushCopy_effect (s : State) (x : MW) (store : Bool) : ∃ c : Cmd, (s.pushCopy x store).cmds = s.cmds ++ [c] ∧
    c.queue = .copy (seraiOf s.issue.cid) ∧
    c.op = .copy store (s.me.ra x.ar) (s.me.rs x.sp) (x.flags.getLsbD 0) (x.flags.getLsbD 1) ∧ c.number = s.me.copyPushed ∧
    (s.pushCopy x store).me.copyPushed = s.me.copyPushed + 1 ∧ (s.pushCopy x store).mem = s.mem := by
  obtain ⟨c, posted, pushed, -, queue, -, op, number⟩ := s.push_eq (.copy (seraiOf s.issue.cid)) x.tail
    (.copy store (s.me.ra x.ar) (s.me.rs x.sp) (x.flags.getLsbD 0) (x.flags.getLsbD 1)) s.me.copyPushed
  refine ⟨c, congrArg State.cmds pushed, queue, op, number, ?_, ?_⟩
  · rw [State.pushCopy, State.me_modMe, State.push_me]
  · rw [State.pushCopy, State.modMe_mem, State.push_mem]

/-- The two copies differ in their direction (R213). -/
theorem exec_copy_of_store {i : Instr} (row : (store, i) ∈ [(false, Instr.tsld x), (true, .tsst x)]) :
    exec i s = slotOp 3 i (fun s => s.copyVerdict x store) (fun s => s.pushCopy x store) s := by
  obtain ⟨tsld, tsst⟩ := exec_copy (s := s) (x := x)
  simp only [List.mem_cons, List.not_mem_nil, or_false] at row
  rcases row with ⟨rfl, rfl⟩ | ⟨rfl, rfl⟩
  · exact tsld
  · exact tsst

end

/-- Settles O25: the checks come down to the room of the queue, which decides between the push and the block. -/
theorem tileStoreCopiesPush : Obligations.TileStoreCopiesPush := by
  unfold Obligations.TileStoreCopiesPush
  intro s x p d prune hp hd hprune phase core high pairs blocks groups below within pair offset stride rows tail store i row wf stores loads
  subst hp hd hprune
  have fits : ∀ q < cpRows (s.me.rs x.sp), CopyRowFits s.myGroup.spLim (s.me.ra x.ar) (s.me.rs x.sp) (x.flags.getLsbD 0) q := fun q hq =>
    have ⟨data, scales, metadata⟩ := rows q hq
    ⟨data, scales, metadata⟩
  have rest : s.copyVerdict x store = s.roomVerdict (.copy (seraiOf s.issue.cid)) :=
    State.copyVerdict_eq_room core ⟨high, stores, loads, pairs, blocks, groups⟩ ⟨below, within, pair, offset, stride⟩ fits tail
  refine ⟨fun full => (exec_copy_of_store row).trans (slotOp_of_full phase wf rest full), fun room => ?_⟩
  obtain ⟨c, effect⟩ := s.pushCopy_effect x store
  exact ⟨_, c, (exec_copy_of_store row).trans (slotOp_of_room phase wf rest room), effect⟩

end Sys2Proof.Machine
end

section
/-! SUPPORT. Frame lemmas of the memories: operations of the state that write none of its five stores, in the order of the model's files. -/

namespace Sys2Proof.Machine

open Sys2Proof

@[simp] theorem State.ite_memories (c : Prop) [Decidable c] (s t : State) :
    (if c then s else t).memories = if c then s.memories else t.memories := apply_ite State.memories c s t

/-- `State.foldl_memories` as a rule of `simp`. -/
@[simp] theorem State.memories_foldl {α : Type} (f : State → α → State) (hf : ∀ s x, (f s x).memories = s.memories) (l : List α) (s : State) :
    (l.foldl f s).memories = s.memories := State.foldl_memories f hf l s

/-- A state written out that takes its stores from another has its memories. -/
@[simp] theorem State.mk_memories (s : State) (now tick : Nat) (issue : Issue) (inputs : List Instr) (outbox : List Out) (free nextId : Nat)
    (ctxs : List (Nat × Ctx)) (cores : List (Nat × Core)) (groups : List (Nat × Group)) (serais : List (Nat × Serai)) (cmds : List Cmd)
    (acts : List OutsideAct) (semWrites : List SemWrite) (posted : List Posted) (late : List Late) (atomics : List AtomicReq)
    (phops : List PhOp) (cons : List (Nat × Cons)) (queues : List (Nat × Queue)) (replays : List Replay) (steps : List (Nat × List SCEntry))
    (faultsOut : List FaultRec) (eventsOut : List EventRec) (flits : List (Nat × Flit)) (lastServed lastSelect : List (Nat × Nat))
    (lastPower lastWindow lastRound lastBeat : Nat) (pk : PkgRegs) (pace : Pace) (tmons : List (Nat × Tmon)) (poison : List Place)
    (flash : List Byte) (flashBad : Bool) (rejoins : List Rejoin) (freeRelayGen : Nat) :
    (⟨now, tick, issue, inputs, outbox, free, nextId, ctxs, cores, groups, serais, cmds, s.mem, s.hostMem, s.hostMem1, acts, semWrites,
      s.peerMem, posted, late, atomics, phops, cons, queues, replays, steps, faultsOut, eventsOut, flits, lastServed, lastSelect, lastPower,
      lastWindow, lastRound, lastBeat, pk, pace, tmons, poison, flash, flashBad, s.staging, rejoins, freeRelayGen⟩ : State).memories =
      s.memories := rfl

section
variable (s : State)

/-! ### Viewers, acquires and counts -/

@[simp] theorem State.showTo_memories (cid : Nat) (p : Posted → Bool) : (s.showTo cid p).memories = s.memories := rfl

@[simp] theorem State.acquire_memories (cid : Nat) (p : Posted → Bool) : (s.acquire cid p).memories = s.memories := rfl

@[simp] theorem State.leaveCore_memories (cid : Nat) : (s.leaveCore cid).memories = s.memories := rfl

@[simp] theorem State.acquirePhase_memories (cid owner n ph : Nat) : (s.acquirePhase cid owner n ph).memories = s.memories := rfl

@[simp] theorem State.acquireSignal_memories (cid n : Nat) : (s.acquireSignal cid n).memories = s.memories := rfl

@[simp] theorem State.acquireFence_memories (cid scope : Nat) : (s.acquireFence cid scope).memories = s.memories := rfl

@[simp] theorem State.toll_memories (die : Nat) (parts : List (PAddr × Nat)) : (s.toll die parts).memories = s.memories := by
  simp [State.toll]

/-! ### Regions, traps and semaphore notes -/

@[simp] theorem State.commitOp_memories (cid : Nat) (g : GateOp) : (s.commitOp cid g).memories = s.memories := by
  cases g with
  | global ea ps => exact State.foldl_memories _ (fun _ _ => by rfl) _ _
  | _ => simp [State.commitOp]

@[simp] theorem State.commitRegion_memories (cid : Nat) : (s.commitRegion cid).memories = s.memories := by
  unfold State.commitRegion
  split <;> simp

@[simp] theorem State.mark_memories (cid : Nat) : (s.mark cid).memories = s.memories := by simp [State.mark]

@[simp] theorem State.takeTrap_memories (cid : Nat) (t : TrapInfo) : (s.takeTrap cid t).memories = s.memories := by
  unfold State.takeTrap
  dsimp only
  (repeat' split) <;> simp

@[simp] theorem State.issueTrap_memories (slot : Nat) (cause : Cause) (tval : Word) :
    (s.issueTrap slot cause tval).memories = s.memories := by
  simp [State.issueTrap]

@[simp] theorem State.noteSem_memories (cid : Nat) (set : Bool) (n id : Nat) : (s.noteSem cid set n id).memories = s.memories := rfl

@[simp] theorem State.semNote_memories (cid n : Nat) : (s.semNote cid n).memories = s.memories := rfl

/-! ### The gate and the scratchpad -/

@[simp] theorem State.gateOrDo_memories (g : GateOp) : (s.gateOrDo g).memories = s.memories := by
  unfold State.gateOrDo
  split <;> simp

@[simp] theorem State.poisonLast_memories (b : Bool) (a : Word) : (s.poisonLast b a).memories = s.memories := by
  simp [State.poisonLast]

@[simp] theorem State.landLoad_memories (x : LW) (bs : List Byte) (lat : Nat) : (s.landLoad x bs lat).memories = s.memories := rfl

/-! ### Far loads, atomics and fences -/

@[simp] theorem State.putFar_memories (e : FarEntry) : (s.putFar e).memories = s.memories := rfl

@[simp] theorem State.pushFar_memories (kind : FarKind) (ea : Word) (n : Nat) (signed : Bool) :
    (s.pushFar kind ea n signed).memories = s.memories :=
  rfl

@[simp] theorem State.noteSources_memories : s.noteSources.memories = s.memories := by
  unfold State.noteSources
  split <;> simp

@[simp] theorem State.sendAmo_memories (op : Nat) (x : LW) : (s.sendAmo op x).memories = s.memories := by
  unfold State.sendAmo
  dsimp only
  split <;> simp

@[simp] theorem State.holdOwn_memories (cid first done : Nat) : (s.holdOwn cid first done).memories = s.memories := rfl

@[simp] theorem State.gateMark_memories (cid : Nat) : (s.gateMark cid).memories = s.memories := rfl

@[simp] theorem State.fenceRelease_memories (x : LW) : (s.fenceRelease x).memories = s.memories := by
  unfold State.fenceRelease
  split <;> simp

@[simp] theorem State.fenceAcquire_memories (x : LW) : (s.fenceAcquire x).memories = s.memories := rfl

/-! ### Waits and phasers of a context -/

@[simp] theorem State.waitTake_memories (x : YW) : (s.waitTake x).memories = s.memories := by simp [State.waitTake]

@[simp] theorem State.sendPh_memories (cid n : Nat) (act : PhAct) (due : Nat) (held : Bool) :
    (s.sendPh cid n act due held).memories = s.memories :=
  rfl

@[simp] theorem State.phLeave_memories (cid n due : Nat) : (s.phLeave cid n due).memories = s.memories := rfl

@[simp] theorem State.arrive_memories (n : Nat) : (s.arrive n).memories = s.memories := by
  unfold State.arrive
  exact s.releaseOf_memories _ _ _ _

@[simp] theorem State.phReturn_memories (cid n : Nat) : (s.phReturn cid n).memories = s.memories := by
  unfold State.phReturn
  dsimp only
  split <;> simp

/-! ### Transfers, loops and links -/

@[simp] theorem State.goTo_memories (t : Word) : (s.goTo t).memories = s.memories := rfl

@[simp] theorem State.fallThrough_memories : s.fallThrough.memories = s.memories := rfl

@[simp] theorem State.branchTo_memories (t : Word) : (s.branchTo t).memories = s.memories := rfl

@[simp] theorem State.setLoop_memories (n : Nat) : (s.setLoop n).memories = s.memories := by simp [State.setLoop]

@[simp] theorem State.dropAll_memories (cid : Nat) : (s.dropAll cid).memories = s.memories :=
  State.foldl_memories _ (fun _ _ => by rfl) _ _

@[simp] theorem State.silencePace_memories : s.silencePace.memories = s.memories := rfl

/-! ### Commands of the matrix units -/

@[simp] theorem State.dropLease_memories (k : Nat) : (s.dropLease k).memories = s.memories := rfl

@[simp] theorem State.pushTile_memories (x : MW) (store : Bool) : (s.pushTile x store).memories = s.memories := by
  simp [State.pushTile]

@[simp] theorem State.spend_memories : s.spend.memories = s.memories := by
  unfold State.spend
  split <;> simp

@[simp] theorem State.pushArray_memories (x : MW) (op : CmdOp) : (s.pushArray x op).memories = s.memories := by simp [State.pushArray]

@[simp] theorem State.pushProduct_memories (kind : Nat) (x : MW) : (s.pushProduct kind x).memories = s.memories := by
  simp [State.pushProduct]

@[simp] theorem State.pushCopy_memories (x : MW) (store : Bool) : (s.pushCopy x store).memories = s.memories := by
  simp [State.pushCopy]

/-! ### Leases, signals and completions -/

@[simp] theorem State.signal_memories (c : Cmd) : (s.signal c).memories = s.memories := by simp [State.signal]

@[simp] theorem State.endCmd_memories (c : Cmd) : (s.endCmd c).memories = s.memories := by simp [State.endCmd]

@[simp] theorem State.askAgain_memories (cid : Nat) : (s.askAgain cid).memories = s.memories := by
  unfold State.askAgain
  split <;> simp

/-! ### Products -/

@[simp] theorem State.poisonProduct_memories (c : Cmd) (p : Prod) : (s.poisonProduct c p).memories = s.memories := by
  simp [State.poisonProduct]

/-! ### Clocks, paces and engines -/

@[simp] theorem State.pushStep_memories (kind : Nat) (x : CW) (verdict : Option Nat) :
    (s.pushStep kind x verdict).memories = s.memories := by
  simp [State.pushStep]

/-! ### Announcements -/

@[simp] theorem State.setClk_memories (k c : Nat) : (s.setClk k c).memories = s.memories := rfl

@[simp] theorem State.lowerClocks_memories : s.lowerClocks.memories = s.memories := by simp [State.lowerClocks]

@[simp] theorem State.paceAll_memories (m : PaceMsg) : (s.paceAll m).memories = s.memories :=
  State.foldl_memories _ (fun _ _ => by rfl) _ _

@[simp] theorem State.announce_memories (lim : Nat) (emerg : Bool) : (s.announce lim emerg).memories = s.memories := by
  unfold State.announce
  dsimp only
  split <;> simp

@[simp] theorem State.emergency_memories (lim : Nat) : (s.emergency lim).memories = s.memories := by simp [State.emergency]

/-! ### Landing results -/

@[simp] theorem State.landOne_memories (cid : Nat) (x : Result) : (s.landOne cid x).memories = s.memories := by
  unfold State.landOne
  dsimp only
  split <;> split <;> simp [State.crLand_memories]

@[simp] theorem State.finishReturn_memories (cid : Nat) : (s.finishReturn cid).memories = s.memories := rfl

@[simp] theorem State.landDue_memories (cid : Nat) : (s.landDue cid).memories = s.memories := by simp [State.landDue]

@[simp] theorem State.landTrap_memories (cid : Nat) : (s.landTrap cid).memories = s.memories := by
  unfold State.landTrap
  dsimp only
  (repeat' split) <;> simp

/-! ### The frame of a bundle -/

@[simp] theorem State.fetchToll_memories (cid : Nat) : (s.fetchToll cid).memories = s.memories := by
  unfold State.fetchToll
  dsimp only
  (repeat' split) <;> simp

@[simp] theorem State.frameFor_memories (cid : Nat) : (s.frameFor cid).memories = s.memories := rfl

@[simp] theorem State.endHold_memories (cid : Nat) : (s.endHold cid).memories = s.memories := by
  unfold State.endHold
  split <;> simp

@[simp] theorem State.seekStore_memories (is : List (Nat × Instr)) : (s.seekStore is).memories = s.memories := by
  unfold State.seekStore
  (repeat' split) <;> simp

@[simp] theorem State.timeoutTrap_memories (cid : Nat) (tval : Nat) : (s.timeoutTrap cid tval).memories = s.memories := by
  simp [State.timeoutTrap]

@[simp] theorem State.noteHold_memories (cid : Nat) : (s.noteHold cid).memories = s.memories := by simp [State.noteHold]

@[simp] theorem State.noteHolds_memories : s.noteHolds.memories = s.memories := by simp [State.noteHolds]

/-! ### Far entries, publications -/

@[simp] theorem State.modFar_memories (cid entry : Nat) (f : FarEntry → FarEntry) : (s.modFar cid entry f).memories = s.memories := rfl

@[simp] theorem State.farRead_memories (cid : Nat) (e : FarEntry) (ps : List (PAddr × Nat)) :
    (s.farRead cid e ps).memories = s.memories := by
  simp [State.farRead]

@[simp] theorem State.resendFar_memories (cid seq : Nat) : (s.resendFar cid seq).memories = s.memories := by simp [State.resendFar]

@[simp] theorem State.applyHeld_memories (cid : Nat) : (s.applyHeld cid).memories = s.memories := by simp [State.applyHeld]

@[simp] theorem State.letLeave_memories (cid : Nat) : (s.letLeave cid).memories = s.memories := rfl

@[simp] theorem State.publishAsked_memories (cid : Nat) : (s.publishAsked cid).memories = s.memories := by simp [State.publishAsked]

@[simp] theorem State.publishElement_memories (core : Nat) (p : PAddr) (n : Nat) : (s.publishElement core p n).memories = s.memories := by
  simp [State.publishElement]

@[simp] theorem State.tollPeer_memories (req : PeerReq) : (s.tollPeer req).memories = s.memories := by
  unfold State.tollPeer
  (repeat' split) <;> simp

/-! ### Tile-store copies -/

@[simp] theorem State.tldRow_memories (c : Cmd) (t : TileCmd) (q : Nat) : (s.tldRow c t q).memories = s.memories := rfl

@[simp] theorem State.tstRow_memories (c : Cmd) (t : TileCmd) (q : Nat) : (s.tstRow c t q).memories = s.memories := by
  simp [State.tstRow]

@[simp] theorem State.tileWork_memories (c : Cmd) (t : TileCmd) : (s.tileWork c t).memories = s.memories := by simp [State.tileWork]

@[simp] theorem State.tsstRow_memories (c : Cmd) (k : CopyCmd) (q : Nat) : (s.tsstRow c k q).1.memories = s.memories := rfl

@[simp] theorem State.tsldRow_memories (c : Cmd) (k : CopyCmd) (q : Nat) : (s.tsldRow c k q).1.memories = s.memories := by
  unfold State.tsldRow
  dsimp only
  split
  · exact (State.foldl_memories _ (fun _ _ => by rfl) _ _).trans rfl
  · exact (State.foldl_memories _ (fun _ _ => by rfl) _ _).trans rfl

@[simp] theorem State.makeBeat_memories (c : Cmd) (k : CopyCmd) : (s.makeBeat c k).memories = s.memories := by
  unfold State.makeBeat
  dsimp only
  split
  · split
    · simp
    · simp
  · simp

/-! ### Drovers -/

@[simp] theorem State.putBytes_memories (cid : Nat) (t : Aim) (bs : List DByte) : (s.putBytes cid t bs).memories = s.memories := by
  unfold State.putBytes
  split <;> simp

@[simp] theorem State.putBits_memories (cid pos w v : Nat) (bad : Bool) : (s.putBits cid pos w v bad).memories = s.memories := rfl

@[simp] theorem State.putElem_memories (cid : Nat) (p : ElemPut) : (s.putElem cid p).memories = s.memories := by
  unfold State.putElem
  split
  · exact State.foldl_memories _ (fun _ _ => by simp) _ _
  · simp

@[simp] theorem State.putStream_memories (cid g : Nat) (r : Relay) (slotWise : Bool) (p : Plan) :
    (s.putStream cid g r slotWise p).memories = s.memories := by
  simp [State.putStream]

@[simp] theorem State.commitChunk_memories (c : Cmd) (v : Drv) (p : Plan) (relay : Option (Nat × Nat × Relay × List Nat)) :
    (s.commitChunk c v p relay).memories = s.memories := by
  unfold State.commitChunk
  split <;> simp

/-! ### Step caches and drains -/

@[simp] theorem State.modDir_memories (die : Nat) (f : List SCEntry → List SCEntry) : (s.modDir die f).memories = s.memories := rfl

@[simp] theorem State.modEntry_memories (c : Cmd) (f : SCEntry → SCEntry) : (s.modEntry c f).memories = s.memories := rfl

@[simp] theorem State.dropEntry_memories (c : Cmd) : (s.dropEntry c).memories = s.memories := rfl

@[simp] theorem State.scToll_memories (c : Cmd) (rs : List DRange) : (s.scToll c rs).memories = s.memories := by simp [State.scToll]

@[simp] theorem State.scDecide_memories (c : Cmd) (verdict : Nat) (metric : Nat) (fault : Option (Nat × Nat × Nat)) (due : Nat) :
    (s.scDecide c verdict metric fault due).memories = s.memories :=
  rfl

@[simp] theorem State.unlock_memories (c : Cmd) : (s.unlock c).memories = s.memories := rfl

@[simp] theorem State.scWrite_memories (c : Cmd) (space a : Nat) (bs : List DByte) : (s.scWrite c space a bs).memories = s.memories := by
  simp [State.scWrite]

@[simp] theorem State.hit_memories (c : Cmd) (e : SCEntry) : (s.hit c e).memories = s.memories := by simp [State.hit]

@[simp] theorem State.switchEntry_memories (c : Cmd) : (s.switchEntry c).memories = s.memories := by simp [State.switchEntry]

@[simp] theorem State.scEffect_memories (c : Cmd) : (s.scEffect c).memories = s.memories := by
  unfold State.scEffect
  (repeat' split) <;> simp

/-! ### Queues -/

@[simp] theorem State.drainSignals_memories (c : Cmd) : (s.drainSignals c).memories = s.memories := by simp [State.drainSignals]

@[simp] theorem State.drainEnds_memories (c : Cmd) : (s.drainEnds c).memories = s.memories := by
  unfold State.drainEnds
  dsimp only
  (repeat' split) <;> simp

@[simp] theorem State.failReplay_memories (anchor : Nat) : (s.failReplay anchor).memories = s.memories := by simp [State.failReplay]

@[simp] theorem State.launchEnds_memories (c : Cmd) (seq lstat : Nat) : (s.launchEnds c seq lstat).memories = s.memories := by
  simp [State.launchEnds]

/-! ### Consignments -/

@[simp] theorem State.addCons_memories (x : Cons) : (s.addCons x).memories = s.memories := rfl

@[simp] theorem State.publishAll_memories (k : Nat) : (s.publishAll k).memories = s.memories := by simp [State.publishAll]

@[simp] theorem State.returnUnits_memories (k : Nat) : (s.returnUnits k).memories = s.memories := rfl

@[simp] theorem State.returnAll_memories (k : Nat) : (s.returnAll k).memories = s.memories := rfl

/-! ### Phasers -/

@[simp] theorem State.deliver_memories (o : PhOp) (phase : Nat) : (s.deliver o phase).memories = s.memories :=
  State.foldl_memories _ (fun _ _ => by rfl) _ _

@[simp] theorem State.wakeOps_memories (o : PhOp) : (s.wakeOps o).memories = s.memories := rfl

@[simp] theorem State.phAdvance_memories (o : PhOp) : (s.phAdvance o).memories = s.memories := by simp [State.phAdvance]

@[simp] theorem State.testAdvance_memories (o : PhOp) : (s.testAdvance o).memories = s.memories := by simp [State.testAdvance]

@[simp] theorem State.dropOp_memories (id : Nat) : (s.dropOp id).memories = s.memories := rfl

@[simp] theorem State.delayAfter_memories (o : PhOp) : (s.delayAfter o).memories = s.memories := rfl

/-! ### Placing of groups -/

@[simp] theorem State.renameCtx_memories (old new : Nat) : (s.renameCtx old new).memories = s.memories := rfl

@[simp] theorem State.vacate_memories (cid : Nat) : (s.vacate cid).memories = s.memories := by simp [State.vacate]

@[simp] theorem State.tableWrite_memories (gid a : Nat) (data : List Byte) : (s.tableWrite gid a data).memories = s.memories := rfl

@[simp] theorem State.writeHandles_memories (gid : Nat) : (s.writeHandles gid).memories = s.memories := by
  unfold State.writeHandles
  dsimp only
  split
  · rfl
  · split
    · rfl
    · exact State.foldl_memories _ (fun _ _ => State.foldl_memories _ (fun _ _ => by rfl) _ _) _ _

@[simp] theorem State.writeTable_memories (gid : Nat) (k : Packet) (d : Nat) : (s.writeTable gid k d).memories = s.memories :=
  (State.foldl_memories _ (fun _ _ => State.writeHandles_memories _ _) _ _).trans rfl

@[simp] theorem State.showPhases_memories (gid : Nat) : (s.showPhases gid).memories = s.memories := rfl

@[simp] theorem State.bindDepot_memories (k : Nat) (x : Cons) (qg : Nat) (d : Nat × Nat) :
    (s.bindDepot k x qg d).memories = s.memories := by
  simp [State.bindDepot]

@[simp] theorem State.raiseAll_memories (gid : Nat) : (s.raiseAll gid).memories = s.memories :=
  State.foldl_memories _ (fun _ _ => State.raiseRegs_memories _) _ _

@[simp] theorem State.seatParcels_memories (k : Nat) (x : Cons) (sg gid : Nat) (seats : List Nat) :
    (s.seatParcels k x sg gid seats).memories = s.memories := by
  simp [State.seatParcels]

@[simp] theorem State.fixQuarter_memories (k qg : Nat) (p : Spot) : (s.fixQuarter k qg p).memories = s.memories := by
  simp [State.fixQuarter]

@[simp] theorem State.moveRelays_memories (gid unit : Nat) (rs : List Relay) : (s.moveRelays gid unit rs).memories = s.memories := rfl

@[simp] theorem State.reclaimRelays_memories (serai : Nat) (phys : List Nat) : (s.reclaimRelays serai phys).memories = s.memories :=
  State.foldl_memories _ (fun _ _ => by rfl) _ _

@[simp] theorem State.placeNew_memories (k : Nat) (x : Cons) (sg : Nat) (p : Spot) : (s.placeNew k x sg p).memories = s.memories := by
  simp [State.placeNew]

@[simp] theorem State.moveCores_memories (gid : Nat) (l : List (Nat × Nat)) : (s.moveCores gid l).memories = s.memories := rfl

@[simp] theorem State.seatSaved_memories (old new : Nat) : (s.seatSaved old new).memories = s.memories := by simp [State.seatSaved]

@[simp] theorem State.requeue_memories (gid : Nat) : (s.requeue gid).memories = s.memories := rfl

@[simp] theorem State.returnDepot_memories (x : Cons) (gid : Nat) (d : Nat) : (s.returnDepot x gid d).memories = s.memories := by
  simp [State.returnDepot]

@[simp] theorem State.placeSaved_memories (k : Nat) (x : Cons) (gid : Nat) (p : Spot) : (s.placeSaved k x gid p).memories = s.memories := by
  unfold State.placeSaved
  dsimp only
  simp only [State.modCon_memories, State.writeHandles_memories, State.raiseAll_memories, State.showPhases_memories, State.fixQuarter_memories]
  refine (State.foldl_memories _ (fun _ _ => by simp) _ _).trans ?_
  refine (State.modGroup_memories _ _ _).trans ((State.foldl_memories _ (fun _ _ => by split <;> simp) _ _).trans ?_)
  simp

@[simp] theorem State.copyChunk_memories (gid : Nat) (x : Cons) (b : List Byte) : (s.copyChunk gid x b).memories = s.memories := rfl

@[simp] theorem State.startCtx_memories (cid : Nat) : (s.startCtx cid).memories = s.memories := by simp [State.startCtx]

@[simp] theorem State.acquireTrigger_memories (cid k : Nat) : (s.acquireTrigger cid k).memories = s.memories := rfl

/-! ### Suspends and rejoins -/

@[simp] theorem State.actionBegins_memories (ks : List Nat) (op : Nat) : (s.actionBegins ks op).memories = s.memories := rfl

@[simp] theorem State.release_memories (k : Nat) : (s.release k).memories = s.memories := by simp [State.release]

@[simp] theorem State.saveCtx_memories (cid : Nat) : (s.saveCtx cid).memories = s.memories := by simp [State.saveCtx]

@[simp] theorem State.noteRejoin_memories (cid : Nat) (trap : Bool) : (s.noteRejoin cid trap).memories = s.memories := rfl

@[simp] theorem State.dropRejoin_memories (cid : Nat) (trap : Bool) : (s.dropRejoin cid trap).memories = s.memories := rfl

@[simp] theorem State.unpark_memories (cid : Nat) : (s.unpark cid).memories = s.memories := by simp [State.unpark]

/-! ### Power -/

@[simp] theorem State.charge_memories (serai i : Nat) : (s.charge serai i).memories = s.memories :=
  State.foldl_memories _ (fun _ _ => by split <;> simp) _ _

@[simp] theorem State.lowerCap_memories (serai : Nat) : (s.lowerCap serai).memories = s.memories := by simp [State.lowerCap]

/-! ### The package -/

@[simp] theorem State.poisonPlace_memories (p : Place) : (s.poisonPlace p).memories = s.memories := by
  unfold State.poisonPlace
  (repeat' split) <;> simp

@[simp] theorem State.alertRises_memories (i : Nat) (old : Bool) : (s.alertRises i old).memories = s.memories := by
  simp [State.alertRises]

/-! ### Ports -/

@[simp] theorem State.configWrite_memories (port : Nat) (reg : CfgReg) (v : Nat) : (s.configWrite port reg v).memories = s.memories :=
  rfl

/-! ### Collective engines -/

@[simp] theorem State.colFlags_memories (c : Cmd) (f : FpFlags) : (s.colFlags c f).memories = s.memories := rfl

@[simp] theorem State.sendFlit_memories (c : Cmd) (f : Flit) : (s.sendFlit c f).memories = s.memories := by simp [State.sendFlit]

@[simp] theorem State.colFinal_memories (c : Cmd) (f : Flit) : (s.colFinal c f).memories = s.memories := rfl

@[simp] theorem State.colInject_memories (c : Cmd) : (s.colInject c).memories = s.memories := by
  unfold State.colInject
  split <;> simp

@[simp] theorem State.colPartial_memories (c : Cmd) (f : Flit) : (s.colPartial c f).memories = s.memories := by simp [State.colPartial]

@[simp] theorem State.colTake_memories (c : Cmd) (f : Flit) : (s.colTake c f).memories = s.memories := by simp [State.colTake]

@[simp] theorem State.colWrite_memories (c : Cmd) : (s.colWrite c).memories = s.memories := by simp [State.colWrite]

/-! ### Issuing -/

@[simp] theorem State.sequence_memories (transfer : Bool) : (s.sequence transfer).memories = s.memories := by
  unfold State.sequence
  dsimp only
  split <;> simp

@[simp] theorem State.coreIssues_memories (cid : Nat) : (s.coreIssues cid).memories = s.memories := rfl

@[simp] theorem State.coreHolds_memories (cid : Nat) (wait : Bool) : (s.coreHolds cid wait).memories = s.memories := rfl

@[simp] theorem State.coreLeaves_memories (cid : Nat) : (s.coreLeaves cid).memories = s.memories := rfl

@[simp] theorem State.observes_memories (is : List (Nat × Instr)) : (s.observes is).memories = s.memories := by
  unfold State.observes
  split <;> simp

@[simp] theorem State.skipBundle_memories : s.skipBundle.memories = s.memories := by simp [State.skipBundle]

@[simp] theorem State.reinject_memories (cid : Nat) : (s.reinject cid).memories = s.memories := by simp [State.reinject]

@[simp] theorem State.bundleTrap_memories (slot : Nat) (c : Cause) (tval : Word) : (s.bundleTrap slot c tval).memories = s.memories := by
  unfold State.bundleTrap
  dsimp only
  (repeat' split) <;> simp

@[simp] theorem State.noteWait_memories (is : List (Nat × Instr)) : (s.noteWait is).memories = s.memories := by simp [State.noteWait]

@[simp] theorem State.noteRequest_memories (is : List (Nat × Instr)) (vs : List (Nat × Verdict)) :
    (s.noteRequest is vs).memories = s.memories := by
  unfold State.noteRequest
  split <;> simp

@[simp] theorem State.endFrame_memories : s.endFrame.memories = s.memories := rfl

/-! ### First requests -/

@[simp] theorem State.firstRequests_memories (serai : Nat) : (s.firstRequests serai).memories = s.memories := by
  simp [State.firstRequests]

end

end Sys2Proof.Machine
end

section
/-! SUPPORT. The canonical form of the memories (log 2): operations of the state that write memory keep it. -/

namespace Sys2Proof.Machine

open Sys2Proof

/-- The five stores of a state, each in canonical form. -/
def canonical (m : Store 8 × Store 8 × Store 8 × Store 8 × Store 8) : Bool :=
  m.1.wf && m.2.1.wf && m.2.2.1.wf && m.2.2.2.1.wf && m.2.2.2.2.wf

theorem State.memWf_eq (s : State) : s.memWf = canonical s.memories := rfl

section
variable {s : State}

@[simp] theorem State.writeHome_canonical (h : canonical s.memories = true) (mt a : Nat) (d : List Byte) :
    canonical (s.writeHome mt a d).memories = true := State.writeHome_memWf h mt a d

@[simp] theorem State.settleAll_canonical (h : canonical s.memories = true) : canonical s.settleAll.memories = true :=
  State.settleAll_memWf h

@[simp] theorem State.takeSeq_canonical (h : canonical s.memories = true) (asid : Nat) : canonical (s.takeSeq asid).2.memories = true :=
  State.takeSeq_memWf h asid

@[simp] theorem State.takeFault_canonical (h : canonical s.memories = true) (k kind : Nat) (a : Word) (l : Nat) :
    canonical (s.takeFault k kind a l).memories = true := State.takeFault_memWf h k kind a l

theorem State.foldl_canonical {α : Type} (f : State → α → State)
    (hf : ∀ s x, canonical s.memories = true → canonical (f s x).memories = true) (l : List α) (h : canonical s.memories = true) : canonical (l.foldl f s).memories = true := State.foldl_memWf f hf l h

@[simp] theorem State.enqueue_canonical (h : canonical s.memories = true) (asid base prod size entry : Nat) (b : List Byte) :
    canonical (s.enqueue asid base prod size entry b).memories = true := by simp [State.enqueue, h]

@[simp] theorem State.evPut_canonical (h : canonical s.memories = true) (asid : Nat) (b : List Byte) :
    canonical (s.evPut asid b).memories = true := by simp [State.evPut, h]

@[simp] theorem State.farAbsent_canonical (h : canonical s.memories = true) (cid : Nat) (e : FarEntry) (va level : Nat) :
    canonical (s.farAbsent cid e va level).memories = true := by simp [State.farAbsent, h]

@[simp] theorem State.engineFault_canonical (h : canonical s.memories = true) (c : Cmd) (kind va level : Nat) (w : Bool) (a b d : Nat) :
    canonical (s.engineFault c kind va level w a b d).2.memories = true := by simp [State.engineFault, h]

@[simp] theorem State.chunkFail_canonical (h : canonical s.memories = true) (c : Cmd) (v : Drv) (f : DFail) :
    canonical (s.chunkFail c v f).1.memories = true := by
  cases f <;> simp [State.chunkFail, State.takeFree, h]

@[simp] theorem State.scFail_canonical (h : canonical s.memories = true) (c : Cmd) (f : DFail × Bool) :
    canonical (s.scFail c f).1.memories = true := by
  obtain ⟨f, b⟩ := f
  cases f <;> simp [State.scFail, h]

@[simp] theorem State.colFail_canonical (h : canonical s.memories = true) (c : Cmd) (f : DFail) :
    canonical (s.colFail c f).1.memories = true := by
  cases f <;> simp [State.colFail, h]

theorem State.asidWrite_canonical {u : State} (h : canonical s.memories = true) {die asid va : Nat} {bs : List Byte}
    (w : s.asidWrite die asid va bs = .ok u) : canonical u.memories = true := by
  unfold State.asidWrite at w
  split at w
  · cases w
    exact State.foldl_canonical _ (fun _ _ g => State.writeHome_canonical g _ _ _) _ h
  · cases w

@[simp] theorem State.asidPut_canonical (h : canonical s.memories = true) (die asid va : Nat) (bs : List Byte) :
    canonical (s.asidPut die asid va bs).memories = true := by
  unfold State.asidPut
  split
  · exact State.asidWrite_canonical h ‹_›
  · exact h

@[simp] theorem State.eventAdd_canonical (h : canonical s.memories = true) (die asid va inc : Nat) :
    canonical (s.eventAdd die asid va inc).memories = true := by
  unfold State.eventAdd
  split <;> simp [h]

@[simp] theorem State.statusWrite_canonical (h : canonical s.memories = true) (q off : Nat) (bs : List Byte) :
    canonical (s.statusWrite q off bs).memories = true := by
  unfold State.statusWrite
  split <;> simp [h]

@[simp] theorem State.queueError_canonical (h : canonical s.memories = true) (q err found addr : Nat) :
    canonical (s.queueError q err found addr).memories = true := by
  unfold State.queueError
  split <;> simp [h]

@[simp] theorem State.closeQueue_canonical (h : canonical s.memories = true) (q : Nat) : canonical (s.closeQueue q).memories = true := by
  unfold State.closeQueue
  split <;> simp [h]

@[simp] theorem State.killQueue_canonical (h : canonical s.memories = true) (q : Nat) : canonical (s.killQueue q).memories = true :=
  State.foldl_canonical _ (fun _ _ g => by simp [g]) _ (State.closeQueue_canonical h q)

@[simp] theorem State.packetDone_canonical (h : canonical s.memories = true) (q seq : Nat) :
    canonical (s.packetDone q seq).memories = true := by
  unfold State.packetDone
  dsimp only
  split <;> simp [h]

@[simp] theorem State.consume_canonical (h : canonical s.memories = true) (q : Nat) : canonical (s.consume q).memories = true := by
  simp [State.consume, h]

/-- The state that an attempt to write leaves, whether it succeeds or fails. -/
def reached {ε : Type} : Except (ε × State) State → State
  | .ok u => u
  | .error e => e.2

theorem State.patches_canonical (h : canonical s.memories = true) (die asid block plen : Nat) (l : List Byte) (n : Nat) :
    canonical (reached (s.patches die asid block plen l n)).memories = true := by
  induction n generalizing s l with
  | zero => exact h
  | succ n ih =>
    unfold State.patches
    dsimp only
    split
    · exact h
    · split
      · exact h
      · exact ih (State.asidWrite_canonical h ‹_›) _

theorem State.fillBlock_canonical (h : canonical s.memories = true) (die asid params block plen list count : Nat) :
    canonical (reached (s.fillBlock die asid params block plen list count)).memories = true := by
  unfold State.fillBlock
  split
  · split
    · exact State.patches_canonical (State.asidWrite_canonical h ‹_›) _ _ _ _ _ _
    · exact h
  · exact h
  · exact h

@[simp] theorem State.replayEnds_canonical (h : canonical s.memories = true) (q status reason : Nat) :
    canonical (s.replayEnds q status reason).memories = true := by simp [State.replayEnds, h]

@[simp] theorem State.replayStarts_canonical (h : canonical s.memories = true) (q : Nat) (o : List Byte) (object : Word) (block params : Nat) :
    canonical (s.replayStarts q o object block params).memories = true := by simp [State.replayStarts, h]

@[simp] theorem State.afterRecord_canonical (h : canonical s.memories = true) (k : Nat) (x : Cons) :
    canonical (s.afterRecord k x).memories = true := by
  unfold State.afterRecord
  split <;> simp [h]

@[simp] theorem State.addSums_canonical (h : canonical s.memories = true) (a : Nat) (x : Cons) :
    canonical (s.addSums a x).memories = true := by simp [State.addSums, h]

@[simp] theorem State.hostWrite_canonical (h : canonical s.memories = true) (a : Nat) (d : List Byte) :
    canonical (s.hostWrite a d).memories = true := by simp [State.hostWrite, h]

@[simp] theorem State.enterBody_canonical (h : canonical s.memories = true) : canonical s.enterBody.memories = true := by
  simp [State.enterBody, h]

@[simp] theorem State.rebooted_canonical (h : canonical s.memories = true) : canonical s.rebooted.memories = true := by
  have settled : ∀ u : State, canonical u.memories = true → canonical u.settleAll.memories = true := fun _ => State.settleAll_canonical
  have m := settled _ (show canonical (State.memories { s with
      now := s.now + 1, ctxs := [],
      posted := (s.posted.filter fun p => !p.pub.isEmpty).map fun p =>
        { p with performed := true, wait := 0, pub := p.pub ++ [(7, p.core)] } }) = true
    from h)
  obtain ⟨m0, m1, m2, m3, -⟩ := State.memWf_iff.1 m
  exact State.memWf_iff.2 ⟨m0, m1, m2, m3, rfl⟩

@[simp] theorem State.outside_canonical (h : canonical s.memories = true) (a : OutsideAct) : canonical (s.outside a).memories = true := by
  cases a <;> simp [State.outside, h]

@[simp] theorem State.bundleFault_canonical (h : canonical s.memories = true) (cid kind : Nat) (a : Word) (l : Nat) :
    canonical (s.bundleFault cid kind a l).memories = true := by
  unfold State.bundleFault
  split
  · simp [h]
  · split <;> simp [h]

@[simp] theorem State.advance_canonical (h : canonical s.memories = true) : canonical s.advance.memories = true := by
  simp [State.advance, h]
end

end Sys2Proof.Machine
end

section
/-! SUPPORT. Instructions and events keep the canonical form of the memories (log 2). -/

namespace Sys2Proof.Machine

open Sys2Proof

/-- A meaning keeps the canonical form: the state that it answers has it where the state before has. -/
def Keeps (s : State) (r : Res) : Prop := ∀ t, r = .next t → canonical s.memories = true → canonical t.memories = true

section
variable {s t u : State} {r : Res}

@[simp] theorem keeps_next : Keeps s (.next t) ↔ (canonical s.memories = true → canonical t.memories = true) := by simp [Keeps]

@[simp] theorem keeps_refused (x : Refusal) : Keeps s (.refused x) := by simp [Keeps]

theorem keeps_slotOp {slot : Nat} {i : Instr} {v : State → Verdict} {f : State → State}
    (h : canonical s.memories = true → canonical (f s).memories = true) : Keeps s (slotOp slot i v f s) :=
  fun _ e w => slotOp_memWf e w (h w)

theorem Keeps.of_memories (h : t.memories = s.memories) (k : Keeps t r) : Keeps s r := fun u e w => k u e (by rwa [h])
end

/-- A slot instruction whose effect leaves the memories as they are keeps the canonical form. -/
theorem keeps_slotOp_of_memories {s : State} {slot : Nat} {i : Instr} {v : State → Verdict} {f : State → State}
    (h : (f s).memories = s.memories) : Keeps s (slotOp slot i v f s) := keeps_slotOp (by rw [h]; exact id)

section
variable (s : State)

theorem vecOp_keeps (i : Instr) (x : VW) (lat : Nat) (f : State → Nat → Nat) : Keeps s (vecOp i x lat f s) := by
  unfold vecOp
  exact keeps_slotOp_of_memories (by simp)

theorem vecFp_keeps (i : Instr) (x : VW) (lat : Nat) (f : State → Nat → Nat × FpFlags) : Keeps s (vecFp i x lat f s) := by
  unfold vecFp
  exact keeps_slotOp_of_memories (by simp)

theorem State.postEvent_keeps (asid kind : Nat) (n : String) : Keeps s (s.postEvent asid kind n) := by
  unfold State.postEvent
  split
  · split <;> simp +contextual
  · simp

theorem State.tollPost_keeps (asid : Nat) (b : List Byte) : Keeps s (s.tollPost asid b) := by
  unfold State.tollPost
  split <;> simp +contextual

theorem execTollCount_keeps (frame slot times : Nat) : Keeps s (execTollCount frame slot times s) := by
  unfold execTollCount
  dsimp only
  split
  · simp
  · split
    · simp
    · split
      · exact fun t e w => State.tollPost_keeps _ _ _ t e (by simp [w])
      · simp +contextual

@[simp] theorem State.amoAt_memories (id cid op : Nat) (p : PAddr) (n : Nat) (sg : Bool) (b cmp : Word) :
    (s.amoAt id cid op p n sg b cmp).2.memories = s.memories := by simp [State.amoAt]

theorem execAtomicPerform_keeps (id : Nat) : Keeps s (execAtomicPerform id s) := by
  unfold execAtomicPerform
  split
  · simp
  · dsimp only
    split <;> simp

theorem State.probePoint_keeps (c : Cmd) : Keeps s (s.probePoint c) := by
  unfold State.probePoint
  dsimp only
  (repeat' split) <;> simp +contextual

theorem State.commitPoint_keeps (c : Cmd) : Keeps s (s.commitPoint c) := by
  unfold State.commitPoint
  dsimp only
  (repeat' split) <;> simp +contextual

theorem execScDirectoryPoint_keeps (k : Nat) : Keeps s (execScDirectoryPoint k s) := by
  unfold execScDirectoryPoint
  split
  · simp
  · simp
  · split
    · exact s.probePoint_keeps _
    · exact s.commitPoint_keeps _
    · simp

theorem execQueueClose_keeps (q : Nat) : Keeps s (execQueueClose q s) := keeps_next.2 fun w => State.closeQueue_canonical w q

theorem execQueueKill_keeps (q : Nat) : Keeps s (execQueueKill q s) := keeps_next.2 fun w => State.killQueue_canonical w q

theorem execLaunchComplete_keeps (u : Nat) : Keeps s (execLaunchComplete u s) := by
  unfold execLaunchComplete
  split
  · simp
  · dsimp only
    split
    · simp
    · split
      · simp
      · intro t e w
        cases e
        simp only [State.launchEnds_memories]
        refine State.writeHome_canonical ?_ _ _ _
        refine State.foldl_canonical _ (fun _ _ g => by simp [g]) _ w

theorem execEvsigPacket_keeps (q : Nat) : Keeps s (execEvsigPacket q s) := by
  unfold execEvsigPacket
  split
  · exact keeps_next.2 fun w => State.packetDone_canonical (State.consume_canonical (by simp [w]) _) _ _
  · simp

theorem State.fillBlock_ok_canonical {s u : State} (w : canonical s.memories = true) {die asid params block plen list count : Nat}
    (h : s.fillBlock die asid params block plen list count = .ok u) : canonical u.memories = true := by
  have := State.fillBlock_canonical w die asid params block plen list count
  rwa [h] at this

theorem State.fillBlock_error_canonical {s u : State} (w : canonical s.memories = true) {die asid params block plen list count : Nat}
    {e : Option DFail} (h : s.fillBlock die asid params block plen list count = .error (e, u)) : canonical u.memories = true := by
  have := State.fillBlock_canonical w die asid params block plen list count
  rwa [h] at this

theorem State.graphStep_keeps (q : Nat) (b : List Byte) {r : Res} (h : s.graphStep q b = some r) : Keeps s r := by
  unfold State.graphStep at h
  dsimp only at h
  split at h
  · cases h; simp +contextual
  · split at h
    · cases h; simp +contextual
    · split at h
      · cases h
      · split at h <;> cases h <;> refine keeps_next.2 fun w => ?_
        · exact State.replayStarts_canonical (State.fillBlock_ok_canonical w ‹_›) _ _ _ _ _
        · exact State.replayEnds_canonical (State.fillBlock_error_canonical w ‹_›) _ _ _
        · exact State.replayEnds_canonical (State.fillBlock_error_canonical w ‹_›) _ _ _

theorem execGraphPacket_keeps (q : Nat) : Keeps s (execGraphPacket q s) := by
  unfold execGraphPacket
  split
  · cases h : s.graphStep q _ with
    | none => simp
    | some r => exact s.graphStep_keeps q _ h
  · simp

theorem execCompletionRecordWrite_keeps (k : Nat) : Keeps s (execCompletionRecordWrite k s) := by
  unfold execCompletionRecordWrite
  split
  · simp
  · split
    · simp
    · split
      · simp +contextual
      · dsimp only
        split
        · simp +contextual
        · intro t e w
          cases e
          have := State.asidWrite_canonical w ‹_›
          simp [this]

theorem execPhaseDelivery_keeps (op : Nat) : Keeps s (execPhaseDelivery op s) := by
  unfold execPhaseDelivery
  split
  · split <;> simp [State.raiseRegs_memories]
  · simp

theorem State.placeGang_memories (k : Nat) (x : Cons) (n sg : Nat) {t : State} (h : s.placeGang k x n sg = some t) : t.memories = s.memories := by
  induction n generalizing s sg with
  | zero => cases h; rfl
  | succ n ih =>
    unfold State.placeGang at h
    split at h
    · cases h
    · split at h
      · exact (ih _ _ h).trans (by simp)
      · cases h

theorem State.tryPlace_memories (k : Nat) {t : State} (h : s.tryPlace k = some t) : t.memories = s.memories := by
  unfold State.tryPlace at h
  split at h
  · cases h
  · split at h
    · cases h
    · split at h
      · obtain ⟨p, -, rfl⟩ := Option.map_eq_some_iff.1 h
        simp
      · exact s.placeGang_memories _ _ _ _ h

theorem State.tryPlace_getD_memories (k : Nat) : ((s.tryPlace k).getD s).memories = s.memories := by
  cases h : s.tryPlace k with
  | none => rfl
  | some t => exact s.tryPlace_memories k h

theorem execSchedulerSelection_keeps (die : Nat) : Keeps s (execSchedulerSelection die s) := by
  unfold execSchedulerSelection
  dsimp only
  split
  · simp
  · split
    · simp
    · refine keeps_next.2 fun w => ?_
      rw [State.modQueue_memories, State.mk_memories]
      refine State.foldl_canonical _ (fun _ _ g => by split <;> simp [g]) _ ?_
      rwa [State.tryPlace_getD_memories]

theorem State.startFails_keeps (gid cid : Nat) (e : DFail) : Keeps s (s.startFails gid cid e) := by
  unfold State.startFails
  split
  · simp +contextual
  · rw [keeps_next]
    split <;> simp

theorem execScratchImageCopyDone_keeps (g : Nat) : Keeps s (execScratchImageCopyDone g s) := by
  unfold execScratchImageCopyDone
  split
  · simp
  · split
    · simp
    · dsimp only
      split
      · simp
      · split
        · exact s.startFails_keeps _ _ _
        · simp

theorem execGroupStart_keeps (g : Nat) : Keeps s (execGroupStart g s) := by
  unfold execGroupStart
  split
  · simp
  · split
    · simp
    · split
      · exact s.startFails_keeps _ _ _
      · dsimp only
        rw [keeps_next, State.foldl_memories _ (fun _ _ => by simp), State.modGroup_memories]
        split
        · rw [State.foldl_memories _ (fun _ _ => by simp), State.foldl_memories _ (fun _ _ => by simp)]; exact id
        · rw [State.foldl_memories _ (fun _ _ => by simp)]; exact id

theorem execSuspendSaveComplete_keeps (k : Nat) : Keeps s (execSuspendSaveComplete k s) := by
  unfold execSuspendSaveComplete
  split
  · simp
  · dsimp only
    have ite (c : Prop) [Decidable c] (u : State) : (if c then u.release k else u).memories = u.memories := by split <;> simp
    rw [keeps_next, ite, State.modPk_memories, State.modCon_memories, State.foldl_memories _ (fun _ _ => by split <;> simp),
      State.foldl_memories _ (fun _ _ => by simp), State.foldl_memories _ (fun _ _ => by simp)]
    exact id

theorem State.stagingAccess_keeps (a : HostAccess) : Keeps s (s.stagingAccess a) := by
  unfold State.stagingAccess
  split
  · split <;> simp
  · split
    · intro t e w
      cases e
      obtain ⟨m0, m1, m2, m3, m4⟩ := State.memWf_iff.1 w
      exact State.memWf_iff (s := { s with staging := _ }).2 ⟨m0, m1, m2, m3, Store.wf_setBytes m4 _ _⟩
    · simp

theorem execHostBar2Access_keeps (a : HostAccess) : Keeps s (execHostBar2Access a s) := by
  unfold execHostBar2Access
  split
  · simp
  · split
    · simp
    · split
      · exact s.stagingAccess_keeps a
      · (repeat' split) <;> simp +contextual

theorem execFunctionLevelReset_keeps (p : Nat) : Keeps s (execFunctionLevelReset p s) :=
  keeps_next.2 fun w => (State.foldl_canonical _ (fun _ _ g => State.killQueue_canonical g _) _ w)

theorem execBootReboot_keeps : Keeps s (execBootReboot s) := keeps_next.2 State.rebooted_canonical

theorem State.respond_keeps (port code : Nat) (said : List Byte) (f : SpdmLog → SpdmLog) : Keeps s (s.respond port code said f) := by
  simp [State.respond]

theorem State.spdm_keeps (port : Nat) {r : Res} (h : Keeps s r) : Keeps s (s.spdm port r) := by
  unfold State.spdm
  split
  · exact h
  · exact s.respond_keeps _ _ _ _

theorem State.signedReply_keeps (port code p1 p2 : Nat) (purpose : String) (before said context : List Byte) (f : SpdmLog → SpdmLog) :
    Keeps s (s.signedReply port code p1 p2 purpose before said context f) := by
  simp [State.signedReply, State.reply, State.respond]

theorem execChallenge_keeps (port slot : Nat) (ask : SpdmAsk) : Keeps s (execChallenge port slot ask s) := by
  refine s.spdm_keeps port ?_
  split
  · exact s.respond_keeps _ _ _ _
  · exact s.signedReply_keeps _ _ _ _ _ _ _ _ _

theorem execGetMeasurements_keeps (port index : Nat) (signed : Bool) (ask : SpdmAsk) :
    Keeps s (execGetMeasurements port index signed ask s) := by
  refine s.spdm_keeps port ?_
  split
  · exact s.respond_keeps _ _ _ _
  · split
    · exact s.signedReply_keeps _ _ _ _ _ _ _ _ _
    · exact Keeps.of_memories (by simp) (State.respond_keeps _ _ _ _ _)

theorem execGetCertificate_keeps (port slot offset length : Nat) : Keeps s (execGetCertificate port slot offset length s) := by
  refine s.spdm_keeps port ?_
  split <;> exact s.respond_keeps _ _ _ _

theorem execGetVersion_keeps (port : Nat) : Keeps s (execGetVersion port s) := s.spdm_keeps _ (s.respond_keeps _ _ _ _)

theorem execGetCapabilities_keeps (req : SpdmReq) : Keeps s (execGetCapabilities req s) := s.spdm_keeps _ (s.respond_keeps _ _ _ _)

theorem execNegotiateAlgorithms_keeps (req : SpdmReq) : Keeps s (execNegotiateAlgorithms req s) := s.spdm_keeps _ (s.respond_keeps _ _ _ _)

theorem execGetDigests_keeps (port : Nat) : Keeps s (execGetDigests port s) := s.spdm_keeps _ (s.respond_keeps _ _ _ _)

theorem execSpdmUnsupportedRequest_keeps (port code : Nat) : Keeps s (execSpdmUnsupportedRequest port code s) :=
  s.spdm_keeps _ (s.respond_keeps _ _ _ _)

theorem State.hear_keeps (m : PaceMsg) (join : Bool) (f : Pace → Pace) : Keeps s (s.hear m join f) := by
  unfold State.hear
  split <;> simp

end

/-- Whatever an instruction or an event answers keeps the canonical form: what has a word writes none of the five stores by itself. -/
theorem exec_keeps (i : Instr) (s : State) : Keeps s (exec i s) := by
  cases i with
  | nop slot body | hint slot code body | add x | sub x | and x | or x | xor x | andn x | shl x | shr x | sra x | rotl x | min x
  | max x | scmp x | sel x | li x | lih x | addi x | mov x | clz x | ctz x | popc x | bfx x | bfi x | s2a x | a2s x | mul x | mulh x
  | div x | rem x | mfc x | mtc x | faddD x | fsubD x | fmulD x | fmaD x | fdivD x | fsqrtD x | fminD x | fmaxD x | fcmpD x | fclassD x
  | fcvt x | vcvt x | vmxpack x | vred x | vscan x | v2s x | vhashSrp x | mpush x | minv x | mpop x | mand x | mor x | mcnt x
  | mlease x | mfree x | tld x | tst x | mma x | mmaBs x | mmaNm x | mzero x | tsld x | tsst x | ld x | vld x | ldf x | vldf x | popf x
  | vpopf x | st x | vst x | rlyGive x | stg x | vstg x | amoAdd x | amoMin x | amoMax x | amoAnd x | amoOr x | amoXor x | amoSwap x
  | amoCas x | amoFadd x | fenceAcq x | fenceRel x | fenceAr x | rlyInit x | cpLin x | cpTen x | cpGat x | cpSct x | cpFill x
  | scProbe x | scCommit x | scDrop x | colRedRoot x | colRedAll x | colRedScat x | colGat x | launch x | ltrig x | br x | bz x | bnz x
  | bmNone x | bmAny x | jmp x | call x | ret x | loopImm x | loopReg x | loopx x | yield x | xim x | mark x | wait x | semAdd x
  | semSet x | semRd x | phReg x | phDrop x | phArr x | phWait x | phArw x | dupcmp x | trap x | sys x | eret x | paceAnn x
  | paceAnnE x | paceJoin x | paceLeave x =>
    simp only [exec, execNop, execHint, execAdd, execSub, execAnd, execOr, execXor, execAndn, execShl, execShr, execSra, execRotl,
      execMin, execMax, execScmp, execSel, execLi, execLih, execAddi, execMov, execClz, execCtz, execPopc, execBfx, execBfi, execS2a,
      execA2s, execMul, execMulh, execDiv, execRem, execMfc, execMtc, execFaddD, execFsubD, execFmulD, execFmaD, execFdivD, execFsqrtD,
      execFminD, execFmaxD, execFcmpD, execFclassD, execFcvt, execVcvt, execVmxpack, execVred, execVscan, execV2s, execVhashSrp,
      execMpush, execMinv, execMpop, execMand, execMor, execMcnt, execMlease, execMfree, execTld, execTst, execMma, execMmaBs,
      execMmaNm, execMzero, execTsld, execTsst, execLd, execVld, execLdf, execVldf, execPopf, execVpopf, execSt, execVst, execRlyGive,
      execStg, execVstg, execAmoAdd, execAmoMin, execAmoMax, execAmoAnd, execAmoOr, execAmoXor, execAmoSwap, execAmoCas, execAmoFadd,
      execFenceAcq, execFenceRel, execFenceAr, execRlyInit, execCpLin, execCpTen, execCpGat, execCpSct, execCpFill, execScProbe,
      execScCommit, execScDrop, execColRedRoot, execColRedAll, execColRedScat, execColGat, execLaunch, execLtrig, execBr, execBz,
      execBnz, execBmNone, execBmAny, execJmp, execCall, execRet, execLoopImm, execLoopReg, execLoopx, execYield, execXim, execMark,
      execWait, execSemAdd, execSemSet, execSemRd, execPhReg, execPhDrop, execPhArr, execPhWait, execPhArw, execDupcmp, execTrap,
      execSys, execEret, execPaceAnn, execPaceAnnE, execPaceJoin, execPaceLeave, aluOp, fpuOp, branchOp, amoOp, collOp, droverOp]
    refine keeps_slotOp_of_memories ?_
    simp
  | vadd x | vsub x | vand x | vor x | vxor x | vshl x | vshr x | vsra x | vmin x | vmax x | vabs x | vneg x | vcmp x | vsel x | vclz x
  | vpopc x | vidx x | vmov x | vsplat x | vmul x | vmulh x | vmadd x | vfadd x | vfsub x | vfmin x | vfmax x | vfcmp x | vfmul x
  | vfma x | vfms x | vfnma x | vfdiv x | vfsqrt x | vfclass x | vmxunpack x | vperm x | vrot x | vext x =>
    simp only [exec, execVadd, execVsub, execVand, execVor, execVxor, execVshl, execVshr, execVsra, execVmin, execVmax, execVabs,
      execVneg, execVcmp, execVsel, execVclz, execVpopc, execVidx, execVmov, execVsplat, execVmul, execVmulh, execVmadd, execVfadd,
      execVfsub, execVfmin, execVfmax, execVfcmp, execVfmul, execVfma, execVfms, execVfnma, execVfdiv, execVfsqrt, execVfclass,
      execVmxunpack, execVperm, execVrot, execVext, vecOp_keeps, vecFp_keeps]
  | vlds x | vldx x | vsts x | vstx x =>
    simp only [exec, execVlds, execVldx, execVsts, execVstx]
    refine keeps_slotOp_of_memories ?_
    simp [loadElems, storeElems]
  | rlyTake x | drain x | halt x =>
    simp only [exec, execRlyTake, execDrain, execHalt]
    refine keeps_slotOp_of_memories ?_
    (repeat' split) <;> simp
  | annReceive msg | hbReceive msg | joinReceive msg | welcomeReceive msg | leaveReceive msg => exact s.hear_keeps _ _ _
  | trapEventPost asid | parkEventPost asid => exact s.postEvent_keeps _ _ _
  | colFlitReceive die flit | queueOpen queue | queueDoorbell queue prod | preemptSuspend queue seq | preemptKill queue seq
  | preemptRelease queue seq | resume seq asid | tresumeResume unit who asid | tresumeAbort unit who asid | xlinv value
  | errcntWrite value | errcnt2Write value | merrClear value | qpartWrite value | pwinWrite value | fllsetWrite value
  | throttleWrite value | controlRegisterWrite index value | bootFlash | hostBar0Access access | correctableError hbm times
  | uncorrectableError place | tempSample die temp | hbmTempSample stack temp | linkTraining pkg tick | peerRequestTimeout id
  | peerMemoryRequest req | pcieCorrectableError port | resultLanding cid | quantumEnd core | leaseGrant serai | leaseIdleExpiry serai
  | arrayCommandStart serai | arrayUpdateBegin serai | arrayCommandComplete serai | mfreeMarkerSignal serai | tileCommandStart core
  | tileCommandComplete core | tsCopyStart serai | tsCopyBeat serai | tsCopyYield serai | tsCopyComplete serai | rlyInitStart serai
  | rlyInitComplete serai | droverCommandStart drover | droverChunkCommit drover | chunkTagWrite drover | droverCommandComplete drover
  | drainStart cid | drainComplete cid | scCommandStart serai | scCommandComplete serai | colCommandStart die | colCommandComplete die
  | colTimeout die | pageWalkComplete cid entry | faultQueueWrite asid | farLoadArrival cid entry | storePublicationDone cid
  | shadowStackSpillFill cid | phaserRegistrationApply op | phaserDropApply op | phaserArrivalCount op | phTimeout cid
  | waitTimeout cid | powerInterval | overdrawWindow | overdrawCapRise serai | clockRaise serai | consignmentComplete cons
  | watchdogExpiry cons | queueClosed queue | packetFetch queue | launchPacket queue | waitseqPacket queue | evwaitPacket queue
  | eventObjectPoll queue | contextFreeze cid | groupRejoin cid | contextRejoin cid | xlinvDone | powerOn | msixMessage port vector
  | roundBoundary | heartbeatSend | welcomeSend pkg | peerSilent pkg | peerDeparted pkg | membershipLapse | launchCommandStart unit
  | bundleFetch cid | globalStorePerform id =>
    simp only [exec, execColFlitReceive, execQueueOpen, execQueueDoorbell, execPreemptSuspend, execPreemptKill, execPreemptRelease,
      execResume, execTresumeResume, execTresumeAbort, execXlinv, execErrcntWrite, execErrcnt2Write, execMerrClear, execQpartWrite,
      execPwinWrite, execFllsetWrite, execThrottleWrite, execControlRegisterWrite, execBootFlash, execHostBar0Access,
      execCorrectableError, execUncorrectableError, execTempSample, execHbmTempSample, execLinkTraining, execPeerRequestTimeout,
      execPeerMemoryRequest, execPcieCorrectableError, execResultLanding, execQuantumEnd, execLeaseGrant, execLeaseIdleExpiry,
      execArrayCommandStart, execArrayUpdateBegin, execArrayCommandComplete, execMfreeMarkerSignal, execTileCommandStart,
      execTileCommandComplete, execTsCopyStart, execTsCopyBeat, execTsCopyYield, execTsCopyComplete, execRlyInitStart,
      execRlyInitComplete, execDroverCommandStart, execDroverChunkCommit, execChunkTagWrite, execDroverCommandComplete, execDrainStart,
      execDrainComplete, execScCommandStart, execScCommandComplete, execColCommandStart, execColCommandComplete, execColTimeout,
      execPageWalkComplete, execFaultQueueWrite, execFarLoadArrival, execStorePublicationDone, execShadowStackSpillFill,
      execPhaserRegistrationApply, execPhaserDropApply, execPhaserArrivalCount, execPhTimeout, execWaitTimeout, execPowerInterval,
      execOverdrawWindow, execOverdrawCapRise, execClockRaise, execConsignmentComplete, execWatchdogExpiry, execQueueClosed,
      execPacketFetch, execLaunchPacket, execWaitseqPacket, execEvwaitPacket, execEventObjectPoll, execContextFreeze, execGroupRejoin,
      execContextRejoin, execXlinvDone, execPowerOn, execMsixMessage, execRoundBoundary, execHeartbeatSend, execWelcomeSend,
      execPeerSilent, execPeerDeparted, execMembershipLapse, execLaunchCommandStart, execBundleFetch, execGlobalStorePerform,
      State.releaseAs]
    (repeat' split) <;> simp +contextual
  | tollCount frame slot times => exact execTollCount_keeps s frame slot times
  | queueClose queue => exact execQueueClose_keeps s queue
  | queueKill queue => exact execQueueKill_keeps s queue
  | bootReboot => exact execBootReboot_keeps s
  | hostBar2Access access => exact execHostBar2Access_keeps s access
  | functionLevelReset port => exact execFunctionLevelReset_keeps s port
  | getVersion port => exact execGetVersion_keeps s port
  | getCapabilities req => exact execGetCapabilities_keeps s req
  | negotiateAlgorithms req => exact execNegotiateAlgorithms_keeps s req
  | getDigests port => exact execGetDigests_keeps s port
  | getCertificate port slot offset length => exact execGetCertificate_keeps s port slot offset length
  | challenge port slot ask => exact execChallenge_keeps s port slot ask
  | getMeasurements port index signed ask => exact execGetMeasurements_keeps s port index signed ask
  | spdmUnsupportedRequest port code => exact execSpdmUnsupportedRequest_keeps s port code
  | scDirectoryPoint serai => exact execScDirectoryPoint_keeps s serai
  | launchComplete unit => exact execLaunchComplete_keeps s unit
  | atomicPerform id => exact execAtomicPerform_keeps s id
  | phaseDelivery op => exact execPhaseDelivery_keeps s op
  | schedulerSelection die => exact execSchedulerSelection_keeps s die
  | scratchImageCopyDone gid => exact execScratchImageCopyDone_keeps s gid
  | groupStart gid => exact execGroupStart_keeps s gid
  | completionRecordWrite cons => exact execCompletionRecordWrite_keeps s cons
  | evsigPacket queue => exact execEvsigPacket_keeps s queue
  | graphPacket queue => exact execGraphPacket_keeps s queue
  | suspendSaveComplete cons => exact execSuspendSaveComplete_keeps s cons

end Sys2Proof.Machine
end

section
/-! SUPPORT. A step keeps the canonical form of the memories (log 2): the issue of a bundle, a core's attempt, and the questions for the next
event. -/

namespace Sys2Proof.Machine

open Sys2Proof

section
variable {s : State}

theorem State.runSlot_canonical (h : canonical s.memories = true) (i : Instr) : canonical (s.runSlot i).memories = true := by
  unfold State.runSlot
  split
  · exact exec_keeps i { s with issue := { s.issue with phase := .act } } _ ‹_› h
  · exact h

theorem State.runSlots_canonical (h : canonical s.memories = true) (is : List (Nat × Instr)) (ks : List Nat) :
    canonical (s.runSlots is ks).memories = true := by
  refine State.foldl_canonical _ (fun s k g => ?_) ks h
  split
  · exact State.runSlot_canonical g _
  · exact g

theorem State.startMark_canonical (h : canonical s.memories = true) (is : List (Nat × Instr)) : canonical (s.startMark is).memories = true := by
  unfold State.startMark
  split
  · exact State.runSlot_canonical h _
  · split <;> simp [h]

theorem State.issueBundle_canonical (h : canonical s.memories = true) (is : List (Nat × Instr)) :
    canonical (s.issueBundle is).memories = true := by
  have started := State.startMark_canonical (s := s.coreIssues s.issue.cid) (by simp [h]) is
  unfold State.issueBundle
  extract_lets cid ends s0 s1 s2 s3 s4 s5 isEret s6 s7 s8
  have h2 : canonical s2.memories = true := by simp only [s2]; split <;> simpa using started
  have h3 : canonical s3.memories = true := by simp only [s3]; split <;> simp [h2]
  have h8 : canonical s8.memories = true := by
    have h4 := State.runSlots_canonical h3 is (actOrder is)
    simp only [s8, s7, s6, s5, s4]
    (repeat' split) <;> simpa using h4
  split
  · exact State.runSlots_canonical (by exact h8) is [7]
  · exact h8

/-- The state that an attempt of a context or of a core leaves. -/
def Attempt.state : Attempt → State
  | .blocked t => t
  | .used t => t

theorem State.badLine_canonical (h : canonical s.memories = true) (cid : Nat) (l : Line) :
    canonical (s.badLine cid l).state.memories = true := by
  unfold State.badLine
  dsimp only
  (repeat' split) <;> simp [Attempt.state, h]

theorem State.attemptCtx_canonical (h : canonical s.memories = true) (cid : Nat) :
    canonical (s.attemptCtx cid).state.memories = true := by
  unfold State.attemptCtx
  extract_lets f t0 s1 c is t s2 w vs
  have hf : canonical f.memories = true := by simp [f, h]
  have ht0 : canonical t0.memories = true := by simp [t0, h]
  have hs1 : canonical s1.memories = true := by simp [s1, ht0]
  split
  · split <;> simp [Attempt.state, hf]
  · split
    · simp [Attempt.state, ht0]
    · split
      · simp [Attempt.state, hf]
      · split
        · split
          · simp [Attempt.state, hf]
          · have ht : canonical t.memories = true := by simp [t, ht0]
            have hs : canonical s2.memories = true := by simp [s2, hs1]
            have hw : canonical w.memories = true := by simp [w, hf]
            split
            · exact State.issueBundle_canonical hs is
            · have asked : canonical (w.noteRequest is vs).memories = true := by simp [hw]
              split <;> exact asked
            · simp only [Attempt.state, State.coreHolds_memories]
              split <;> assumption
            · simp [Attempt.state, ht]
            · exact State.bundleFault_canonical hw _ _ _ _
        · exact State.badLine_canonical ht0 cid _
        · exact h

theorem State.askCtxs_canonical (h : canonical s.memories = true) (core : Nat) (l : List Nat) :
    canonical (s.askCtxs core l).state.memories = true := by
  induction l generalizing s with
  | nil => exact h
  | cons cid rest ih =>
    unfold State.askCtxs
    dsimp only
    have tried := State.attemptCtx_canonical h cid
    split
    · exact ih h
    · split
      · rename_i e
        rw [e] at tried
        exact ih (by simpa [Attempt.state] using tried)
      · rename_i e
        rw [e] at tried
        split
        · exact h
        · simpa [Attempt.state] using tried

theorem State.coreAttempt_canonical (h : canonical s.memories = true) (core : Nat) :
    canonical (s.coreAttempt core).state.memories = true := by
  unfold State.coreAttempt
  extract_lets t s0 k
  have h0 : canonical s0.memories = true := by simp [s0, h]
  split
  · rename_i x _
    extract_lets c
    have tried := State.attemptCtx_canonical h0 x
    split
    · exact h0
    · split
      · split
        · rename_i e
          rw [e] at tried
          exact State.askCtxs_canonical (by simpa [Attempt.state] using tried) _ _
        · rename_i e
          rw [e] at tried
          simpa [Attempt.state] using tried
      · exact State.askCtxs_canonical (s := s0.coreLeaves x) (by simp [h0]) _ _
  · exact State.askCtxs_canonical h0 _ _

theorem State.issueOrGrant_keeps (s : State) (core : Nat) : Keeps s (s.issueOrGrant core) := by
  intro t e w
  have tried := State.coreAttempt_canonical w core
  unfold State.issueOrGrant at e
  dsimp only at e
  split at e
  · exact exec_keeps (.leaseGrant (core / 4)) _ t e (by simpa using w)
  · split at e <;> cases e <;> simpa [*, Attempt.state] using tried

end

/-- What a question for the next event answers keeps the canonical form. -/
def AskKept (s : State) (o : Option Res) : Prop := ∀ r, o = some r → Keeps s r

theorem askKept_map {α : Type} (s : State) (o : Option α) (i : α → Instr) : AskKept s (o.map fun a => exec (i a) s) := by
  intro r e
  obtain ⟨a, -, rfl⟩ := Option.map_eq_some_iff.1 e
  exact exec_keeps _ s

theorem askKept_ite {s : State} {c : Bool} (i : Instr) {o : Option Res} (h : AskKept s o) : AskKept s (if c then some (exec i s) else o) := by
  split
  · rintro _ ⟨⟩
    exact exec_keeps i s
  · exact h

theorem askKept_none (s : State) : AskKept s none := nofun

theorem askKept_one (s : State) (due : Bool) (i : Instr) : AskKept s (oneEvent due (exec i) s) := askKept_ite i (askKept_none s)

theorem askKept_pickFirst {α : Type} {s : State} {f : α → Option Res} (h : ∀ a, AskKept s (f a)) (l : List α) :
    AskKept s (pickFirst f l) := by
  induction l with
  | nil => exact askKept_none s
  | cons a l ih =>
    unfold pickFirst
    split
    · rintro _ ⟨⟩
      exact h a _ ‹_›
    · exact ih

theorem askKept_far (s : State) (p : Nat → FarEntry → Bool) (i : Nat → Nat → Instr) :
    AskKept s (s.farEvent p fun c n => exec (i c n)) :=
  askKept_pickFirst (fun c => askKept_map s ((s.ctx c).far.find? (p c)) fun e : FarEntry => i c e.id) _

theorem askKept_op (s : State) (rank : Nat) : AskKept s (s.opEvent rank) := by
  unfold State.opEvent
  split
  · rintro _ ⟨⟩
    split
    · exact exec_keeps (.phaserArrivalCount _) s
    · exact exec_keeps (.phaserDropApply _) s
    · exact exec_keeps (.phaserRegistrationApply _) s
    · exact exec_keeps (.phaseDelivery _) s
  · exact askKept_none s

theorem askKept_packet (s : State) (q : Nat) : AskKept s (s.packetEvent q) :=
  askKept_ite (.launchPacket q) <| askKept_ite (.waitseqPacket q) <| askKept_ite (.eventObjectPoll q) <|
    askKept_ite (.evwaitPacket q) <| askKept_ite (.evsigPacket q) <| askKept_ite (.graphPacket q) (askKept_none s)

theorem landings_kept (s : State) : ∀ ask ∈ State.landings, AskKept s (ask s) := by
  simp only [State.landings, List.forall_mem_cons]
  exact ⟨askKept_map s _ .resultLanding, askKept_map s _ .arrayCommandComplete, askKept_map s _ .mfreeMarkerSignal,
    askKept_map s _ .tileCommandComplete, askKept_map s _ .tsCopyComplete, askKept_map s _ .rlyInitComplete,
    askKept_map s _ .chunkTagWrite, askKept_map s _ .droverCommandComplete, askKept_map s _ .drainComplete,
    askKept_map s _ .scCommandComplete, askKept_map s _ .scDirectoryPoint, askKept_map s _ .colTimeout,
    askKept_map s _ .colCommandComplete, askKept_map s _ .launchComplete, nofun⟩

theorem memoryEvents_kept (s : State) : ∀ ask ∈ State.memoryEvents, AskKept s (ask s) := by
  simp only [State.memoryEvents, List.forall_mem_cons]
  exact ⟨askKept_map s _ .storePublicationDone, askKept_map s _ fun p : Posted => .globalStorePerform p.id, askKept_far s _ .farLoadArrival,
    askKept_map s _ .peerRequestTimeout, askKept_far s _ .pageWalkComplete, askKept_op s 0, askKept_op s 1, askKept_op s 2,
    askKept_op s 3, askKept_map s _ .faultQueueWrite, askKept_map s _ .parkEventPost, askKept_map s _ .trapEventPost, nofun⟩

theorem tickEvents_kept (s : State) : ∀ ask ∈ State.tickEvents, AskKept s (ask s) := by
  simp only [State.tickEvents, List.forall_mem_cons]
  exact ⟨askKept_one s _ .roundBoundary, askKept_one s _ .membershipLapse, askKept_map s _ fun p : Peer => .peerSilent p.pkg,
    askKept_map s _ fun p : Peer => .peerDeparted p.pkg, askKept_map s _ fun o : Nat × Nat => .welcomeSend o.1, askKept_one s _ .heartbeatSend,
    askKept_one s _ .powerInterval, askKept_one s _ .overdrawWindow, askKept_map s _ .overdrawCapRise, askKept_map s _ .clockRaise,
    askKept_one s _ .xlinvDone, askKept_map s _ fun m : Nat × Nat => .msixMessage m.1 m.2, nofun⟩

theorem schedulerEvents_kept (s : State) : ∀ ask ∈ State.schedulerEvents, AskKept s (ask s) := by
  simp only [State.schedulerEvents, List.forall_mem_cons]
  exact ⟨askKept_map s _ .watchdogExpiry, askKept_map s _ .contextFreeze, askKept_map s _ .suspendSaveComplete,
    askKept_map s _ .consignmentComplete, askKept_map s _ .completionRecordWrite, askKept_map s _ .queueClosed,
    askKept_map s _ .packetFetch, askKept_pickFirst (askKept_packet s) _, askKept_map s _ .schedulerSelection,
    askKept_map s _ .scratchImageCopyDone, askKept_map s _ .groupStart, askKept_map s _ .groupRejoin,
    askKept_map s _ .contextRejoin, nofun⟩

theorem ctxEvents_kept (s : State) : ∀ ask ∈ State.ctxEvents, AskKept s (ask s) := by
  simp only [State.ctxEvents, List.forall_mem_cons]
  exact ⟨askKept_map s _ .leaseGrant, askKept_map s _ .shadowStackSpillFill, askKept_map s _ .bundleFetch,
    askKept_map s _ .quantumEnd, askKept_map s _ .waitTimeout, askKept_map s _ .phTimeout, nofun⟩

theorem askKept_asks {s : State} {asks : List (State → Option Res)} (h : ∀ ask ∈ asks, AskKept s (ask s)) :
    AskKept s (pickFirst (fun f : State → Option Res => f s) asks) := by
  induction asks with
  | nil => exact askKept_none s
  | cons ask asks ih =>
    rw [List.forall_mem_cons] at h
    unfold pickFirst
    split
    · rintro _ ⟨⟩
      exact h.1 _ ‹_›
    · exact ih h.2

theorem eventBefore_kept (s : State) : AskKept s s.eventBefore := by
  refine askKept_asks ?_
  simp only [List.forall_mem_cons, List.forall_mem_append]
  exact ⟨askKept_one s _ .powerOn, ⟨⟨⟨⟨landings_kept s, memoryEvents_kept s⟩, tickEvents_kept s⟩, schedulerEvents_kept s⟩, ctxEvents_kept s⟩⟩

theorem eventAfter_kept (s : State) : AskKept s s.eventAfter := by
  refine askKept_asks ?_
  simp only [List.forall_mem_cons]
  exact ⟨askKept_map s _ .leaseGrant, askKept_map s _ .resultLanding, askKept_map s _ .arrayUpdateBegin, askKept_map s _ .arrayCommandStart,
    askKept_map s _ .tileCommandStart, askKept_map s _ .tsCopyStart, askKept_map s _ .tsCopyBeat, askKept_map s _ .tsCopyYield,
    askKept_map s _ .rlyInitStart, askKept_map s _ .droverCommandStart, askKept_map s _ .droverChunkCommit, askKept_map s _ .drainStart,
    askKept_map s _ .scCommandStart, askKept_map s _ .colCommandStart, askKept_map s _ .launchCommandStart,
    askKept_map s _ .leaseIdleExpiry, askKept_map s _ fun a : AtomicReq => .atomicPerform a.id, nofun⟩

theorem endCycle_keeps (s : State) : Keeps s (endCycle s) := by
  unfold endCycle
  split
  · exact exec_keeps _ { s with inputs := _ }
  · split
    · exact keeps_next.2 fun w => State.outside_canonical (by exact w) _
    · exact keeps_next.2 fun w => State.advance_canonical w

theorem step_keeps (s : State) : Keeps s (step s) := by
  unfold step
  split
  · exact exec_keeps _ { s with inputs := _ }
  · split
    · exact eventBefore_kept s _ ‹_›
    · split
      · exact s.issueOrGrant_keeps _
      · split
        · exact eventAfter_kept s _ ‹_›
        · exact endCycle_keeps s

/-- Settles O46: every meaning that a step can answer keeps the canonical form. -/
theorem stepKeepsMemoryCanonical : Obligations.StepKeepsMemoryCanonical := by
  unfold Obligations.StepKeepsMemoryCanonical
  exact fun s t w e => step_keeps s t e w

end Sys2Proof.Machine
end

section
/-! SUPPORT. The verdict of a bundle (R364): the trap that counts has the highest rank among those found and, of these, the lowest slot. -/

namespace Sys2Proof.Machine

open Sys2Proof

/-- Trap `a` counts before trap `b`, or stands in the same rank and slot (R364). -/
def countsBefore (a b : Nat × Cause × Word) : Prop := a.2.1.rank < b.2.1.rank ∨ (a.2.1.rank = b.2.1.rank ∧ a.1 ≤ b.1)

theorem countsBefore_refl (a : Nat × Cause × Word) : countsBefore a a := Or.inr ⟨rfl, le_rfl⟩

theorem countsBefore_trans {a b c : Nat × Cause × Word} (h : countsBefore a b) (g : countsBefore b c) : countsBefore a c := by
  unfold countsBefore at *
  omega

theorem betterTrap_counts (a b : Nat × Cause × Word) :
    (betterTrap a b = a ∨ betterTrap a b = b) ∧ countsBefore (betterTrap a b) a ∧ countsBefore (betterTrap a b) b := by
  unfold betterTrap
  split
  · rename_i h
    exact ⟨Or.inl rfl, countsBefore_refl a, by simpa [countsBefore] using h⟩
  · rename_i h
    refine ⟨Or.inr rfl, ?_, countsBefore_refl b⟩
    simp only [Bool.or_eq_true, decide_eq_true_eq, Bool.and_eq_true, not_or, not_and, not_lt, not_le] at h
    unfold countsBefore
    omega

/-- The trap `x` stands among the verdicts and counts before each trap among them. -/
def LeadsTraps (vs : List (Nat × Verdict)) (x : Nat × Cause × Word) : Prop :=
  (x.1, Verdict.trap x.2.1 x.2.2) ∈ vs ∧ ∀ y : Nat × Cause × Word, (y.1, Verdict.trap y.2.1 y.2.2) ∈ vs → countsBefore x y

theorem topTrap_concat (vs : List (Nat × Verdict)) (v : Nat × Verdict) :
    topTrap (vs ++ [v]) = match v.2 with
      | .trap c t => some (match topTrap vs with | some x => betterTrap x (v.1, c, t) | none => (v.1, c, t))
      | _ => topTrap vs := by
  rw [topTrap, List.foldl_append]
  rfl

/-- The leading trap is what the fold over the verdicts reports, and it reports none where there is none. -/
theorem topTrap_leads (vs : List (Nat × Verdict)) :
    match topTrap vs with
    | some x => LeadsTraps vs x
    | none => ∀ y : Nat × Cause × Word, (y.1, Verdict.trap y.2.1 y.2.2) ∉ vs := by
  induction vs using List.reverseRecOn with
  | nil => simp [topTrap]
  | append_singleton vs v ih =>
    obtain ⟨k, w⟩ := v
    rw [topTrap_concat]
    cases w with
    | trap c t =>
      cases e : topTrap vs with
      | none =>
        rw [e] at ih
        refine ⟨by simp, fun y hy => ?_⟩
        obtain h | h := List.mem_append.1 hy
        · exact absurd h (ih y)
        · obtain ⟨rfl, rfl, rfl⟩ : y.1 = k ∧ y.2.1 = c ∧ y.2.2 = t := by simpa using h
          exact countsBefore_refl y
      | some x =>
        rw [e] at ih
        obtain ⟨mem, least⟩ := ih
        obtain ⟨which, before, after⟩ := betterTrap_counts x (k, c, t)
        refine ⟨?_, fun y hy => ?_⟩
        · obtain h | h := which <;> simp [h, mem]
        · obtain h | h := List.mem_append.1 hy
          · exact countsBefore_trans before (least y h)
          · obtain ⟨rfl, rfl, rfl⟩ : y.1 = k ∧ y.2.1 = c ∧ y.2.2 = t := by simpa using h
            exact after
    | _ =>
      cases e : topTrap vs <;> rw [e] at ih <;> simpa [LeadsTraps] using ih

theorem topTrap_of_bundleVerdict {vs : List (Nat × Verdict)} {k : Nat} {c : Cause} {tv : Word}
    (h : bundleVerdict vs = (k, .trap c tv)) : topTrap vs = some (k, c, tv) := by
  unfold bundleVerdict at h
  split at h
  · cases h
  · split at h
    · cases h
    · split at h
      · rename_i v found
        subst h
        simpa using List.find?_some found
      · split at h <;> cases h
        assumption

/-- Settles O39: the tables of the causes, and the leading trap of a bundle. -/
theorem causeCodesTargetsAndRanks : Obligations.CauseCodesTargetsAndRanks := by
  refine ⟨by decide, fun c => by cases c <;> decide, fun c => by cases c <;> decide, by decide, rfl, fun vs k c tv h => ?_⟩
  have leads := topTrap_leads vs
  rw [topTrap_of_bundleVerdict h] at leads
  exact ⟨leads.1, fun j d tw g => leads.2 (j, d, tw) g⟩

end Sys2Proof.Machine
end

section
/-! SUPPORT. The package registers (R228, R232, R332, R374, R378 to R380, R406, R415): what a count does to ERRCNT, ERRCNT2 and MERR, and
the clocks that are lowered to what they may be. -/

namespace Sys2Proof.Machine

open Sys2Proof

/-! ### Counts -/

theorem getLsbD_addCount (x : Word) (lo n : Nat) {i : Nat} (h : i < 64) :
    (addCount x lo n).getLsbD i =
      if lo ≤ i ∧ i < lo + 16 then (min 65535 ((x.extractLsb' lo 16).toNat + n)).testBit (i - lo) else x.getLsbD i := by
  have small : min 65535 ((x.extractLsb' lo 16).toNat + n) < 2 ^ 16 := by omega
  have ones : ∀ j < 64, BitVec.getLsbD (0xFFFF : Word) j = decide (j < 16) := by decide
  unfold addCount
  simp only [BitVec.getLsbD_or, BitVec.getLsbD_and, BitVec.getLsbD_not, BitVec.getLsbD_shiftLeft, BitVec.getLsbD_ofNat, h, decide_true,
    Bool.true_and]
  rw [ones _ (by omega)]
  generalize min 65535 ((x.extractLsb' lo 16).toNat + n) = sum at small ⊢
  by_cases hlo : i < lo
  · simp [hlo, Nat.not_le.2 hlo]
  · by_cases hi : i < lo + 16
    · have : i - lo < 16 := by omega
      simp [hlo, hi, this, Nat.le_of_not_lt hlo, show i - lo < 64 by omega]
    · have : ¬ i - lo < 16 := by omega
      have zero := Nat.testBit_lt_two_pow (small.trans_le (Nat.pow_le_pow_right (by decide) (Nat.le_of_not_lt this)))
      simp [hlo, hi, this, zero]

theorem addCount_self (x : Word) (lo n : Nat) (h : lo ≤ 48) :
    ((addCount x lo n).extractLsb' lo 16).toNat = min 65535 ((x.extractLsb' lo 16).toNat + n) := by
  have small : min 65535 ((x.extractLsb' lo 16).toNat + n) < 2 ^ 16 := by omega
  have field : (addCount x lo n).extractLsb' lo 16 = BitVec.ofNat 16 (min 65535 ((x.extractLsb' lo 16).toNat + n)) := by
    refine BitVec.eq_of_getLsbD_eq fun i hi => ?_
    rw [BitVec.getLsbD_extractLsb', getLsbD_addCount x lo n (by omega), BitVec.getLsbD_ofNat, if_pos (by omega), Nat.add_sub_cancel_left]
  rw [field, BitVec.toNat_ofNat, Nat.mod_eq_of_lt small]

theorem addCount_other (x : Word) (lo n : Nat) {at_ len : Nat} (fits : at_ + len ≤ 64) (apart : at_ + len ≤ lo ∨ lo + 16 ≤ at_) :
    (addCount x lo n).extractLsb' at_ len = x.extractLsb' at_ len := by
  refine BitVec.eq_of_getLsbD_eq fun i hi => ?_
  rw [BitVec.getLsbD_extractLsb', BitVec.getLsbD_extractLsb', getLsbD_addCount x lo n (by omega), if_neg (by omega)]

/-- Counts of one register are noted one after the other in the field `get` that holds it. -/
theorem PkgRegs.foldl_count (reg : Nat) {get : PkgRegs → Word} {put : PkgRegs → Word → PkgRegs} {note : Word → Nat × Nat → Word}
    (count : ∀ p b, PkgRegs.count p (reg, b) = put p (note (get p) b)) (get_put : ∀ p x, get (put p x) = x)
    (put_put : ∀ p x y, put (put p x) y = put p y) (put_get : ∀ p, put p (get p) = p) (l : List (Nat × Nat × Nat)) (p : PkgRegs) :
    (l.filter fun b => b.1 == reg).foldl PkgRegs.count p = put p (((l.filter fun b => b.1 == reg).map (·.2)).foldl note (get p)) := by
  induction l generalizing p with
  | nil => exact (put_get p).symm
  | cons b l ih =>
    obtain ⟨r, b⟩ := b
    by_cases h : r = reg
    · subst h
      simp only [List.filter_cons, beq_self_eq_true, if_true, List.foldl_cons, List.map_cons, ih, count, put_put, get_put]
    · simp only [List.filter_cons, beq_eq_false_iff_ne.2 h, Bool.false_eq_true, if_false, ih]

theorem PkgRegs.written_errcnt (p : PkgRegs) : p.written 0x817 =
    { p with errcnt := ((p.bumps.filter fun b => b.1 == 0x817).map (·.2)).foldl (fun y b => addCount y b.1 b.2) p.errcnt } :=
  PkgRegs.foldl_count 0x817 (get := PkgRegs.errcnt) (put := fun p x => { p with errcnt := x }) (fun _ _ => rfl) (fun _ _ => rfl)
    (fun _ _ _ => rfl) (fun _ => rfl) p.bumps p

theorem PkgRegs.written_errcnt2 (p : PkgRegs) : p.written 0x818 =
    { p with errcnt2 := ((p.bumps.filter fun b => b.1 == 0x818).map (·.2)).foldl (fun y b => addCount y b.1 b.2) p.errcnt2 } :=
  PkgRegs.foldl_count 0x818 (get := PkgRegs.errcnt2) (put := fun p x => { p with errcnt2 := x }) (fun _ _ => rfl) (fun _ _ => rfl)
    (fun _ _ _ => rfl) (fun _ => rfl) p.bumps p

/-- MERR after a place `b` with its count is noted. -/
def merrNoted (x : Word) (b : Nat × Nat) : Word := (x &&& 3#64) ||| ((1 : Word) <<< b.1) ||| (BitVec.ofNat 64 b.2 <<< 8)

theorem merrNoted_keeps {x : Word} {i : Nat} (h : i < 2) (set : x.getLsbD i = true) (b : Nat × Nat) : (merrNoted x b).getLsbD i = true := by
  have low : ∀ j < 2, (3#64).getLsbD j = true := by decide
  simp [merrNoted, set, low i h]

theorem merrNoted_sets (x : Word) {b : Nat × Nat} (h : b.1 < 2) : (merrNoted x b).getLsbD b.1 = true := by
  simp [merrNoted, show b.1 < 64 by omega]

theorem foldl_merrNoted_keeps {i : Nat} (h : i < 2) (l : List (Nat × Nat)) {x : Word} (set : x.getLsbD i = true) :
    (l.foldl merrNoted x).getLsbD i = true := by
  induction l generalizing x with
  | nil => exact set
  | cons b l ih => exact ih (merrNoted_keeps h set b)

theorem foldl_merrNoted_sets {b : Nat × Nat} (h : b.1 < 2) {l : List (Nat × Nat)} (mem : b ∈ l) (x : Word) :
    (l.foldl merrNoted x).getLsbD b.1 = true := by
  induction l generalizing x with
  | nil => cases mem
  | cons c l ih =>
    obtain rfl | mem := List.mem_cons.1 mem
    · exact foldl_merrNoted_keeps h l (merrNoted_sets x h)
    · exact ih mem _

theorem PkgRegs.written_merr (p : PkgRegs) : p.written 0x833 =
    { p with merr := ((p.bumps.filter fun b => b.1 == 0x833).map (·.2)).foldl merrNoted p.merr } :=
  PkgRegs.foldl_count 0x833 (get := PkgRegs.merr) (put := fun p x => { p with merr := x }) (fun _ _ => rfl) (fun _ _ => rfl)
    (fun _ _ _ => rfl) (fun _ => rfl) p.bumps p

/-! ### Fields of a written word -/

theorem keepBits_eq {lo : Nat} (v : Word)
    (field : ∀ i < 64, (BitVec.ofNat 64 (2 ^ 52 - 2 ^ lo)).getLsbD i = (decide (lo ≤ i) && decide (i < 52))) :
    keepBits 51 lo v = BitVec.ofNat 64 (v.toNat % 2 ^ 52 / 2 ^ lo * 2 ^ lo) := by
  refine BitVec.eq_of_getLsbD_eq fun i hi => ?_
  rw [keepBits, BitVec.getLsbD_and, field i hi, BitVec.getLsbD_ofNat, Nat.testBit_mul_two_pow, Nat.testBit_div_two_pow, Nat.testBit_mod_two_pow]
  by_cases h : lo ≤ i
  · simp [h, hi, BitVec.getLsbD, Bool.and_comm]
  · simp [h]

theorem errcnt2_field (v : Word) : ∀ i < 64, (v &&& 0x0000FFFFFFFFFFFF#64).getLsbD i = (decide (i < 48) && v.getLsbD i) := by
  have ones : ∀ i < 64, (0x0000FFFFFFFFFFFF#64).getLsbD i = decide (i < 48) := by decide
  intro i hi
  rw [BitVec.getLsbD_and, ones i hi, Bool.and_comm]

theorem merr_cleared (m v : Word) : ∀ i < 64, (m &&& ~~~(v &&& 3#64)).getLsbD i = (m.getLsbD i && !(decide (i < 2) && v.getLsbD i)) := by
  have ones : ∀ i < 64, (3#64).getLsbD i = decide (i < 2) := by decide
  intro i hi
  rw [BitVec.getLsbD_and, BitVec.getLsbD_not, BitVec.getLsbD_and, ones i hi, Bool.and_comm (v.getLsbD i)]
  simp [hi]

/-! ### Clocks and throttle levels -/

/-- What a fold over the serais does to serai `q` where each round changes its own serai alone, by `f`. -/
theorem State.serai_foldl {P : State → Prop} {g : State → Nat → State} {f : Nat → Serai → Serai} (keeps : ∀ t k, P t → P (g t k))
    (own : ∀ t k q, P t → (g t k).serai q = if q = k then f k (t.serai k) else t.serai q) {s : State} (h : P s) (n q : Nat) :
    P ((List.range n).foldl g s) ∧ ((List.range n).foldl g s).serai q = if q < n then f q (s.serai q) else s.serai q := by
  induction n with
  | zero => exact ⟨h, rfl⟩
  | succ n ih =>
    obtain ⟨hp, hq⟩ := ih
    rw [List.range_succ, List.foldl_append]
    refine ⟨keeps _ n hp, (own _ n q hp).trans ?_⟩
    by_cases e : q = n
    · subst e
      rw [if_pos rfl, if_pos (Nat.lt_succ_self q), hq, if_neg (lt_irrefl q)]
    · rw [if_neg e, hq]
      exact if_congr (by omega) rfl rfl

/-- The clock of a serai, lowered where it runs faster than it may (R374, R382). -/
def Serai.lowered (x : Serai) (want tick : Nat) : Serai := if want < x.clk then { x with clk := want, changed := some tick } else x

theorem Serai.lowered_clk (x : Serai) (want tick : Nat) : (x.lowered want tick).clk = min x.clk want := by
  unfold Serai.lowered
  split
  · exact (Nat.min_eq_right (Nat.le_of_lt ‹_›)).symm
  · exact (Nat.min_eq_left (Nat.le_of_not_lt ‹_›)).symm

theorem Serai.lowered_ocap (x : Serai) (want tick : Nat) : (x.lowered want tick).ocap = x.ocap := by unfold Serai.lowered; split <;> rfl

theorem State.serai_lowerClocks (s : State) {k : Nat} (h : k < 48) : s.lowerClocks.serai k = (s.serai k).lowered (s.wantClk k) s.tick := by
  have same := State.serai_foldl (P := fun t => t.pk = s.pk ∧ t.pace = s.pace ∧ t.tick = s.tick)
    (g := fun t k => if t.wantClk k < (t.serai k).clk then t.setClk k (t.wantClk k) else t)
    (f := fun k x => x.lowered (min (min s.pk.target s.pace.ceil) (min (capOf s.pace.ecap) (capOf x.ocap))) s.tick)
    (fun t k ⟨hpk, hpace, htick⟩ => by split <;> exact ⟨hpk, hpace, htick⟩)
    (fun t k q ⟨hpk, hpace, htick⟩ => by
      rw [State.wantClk, hpk, hpace, Serai.lowered]
      split
      · rw [State.setClk, State.serai_modSerai, htick]
      · split <;> simp [*])
    (s := s) ⟨rfl, rfl, rfl⟩ 48 k
  rw [State.lowerClocks, same.2, if_pos h]
  rfl

theorem State.lowerClocks_pk (s : State) : s.lowerClocks.pk = s.pk :=
  foldl_keeps State.pk (fun t k => by split <;> rfl) _ s

theorem State.lowerClocks_pace (s : State) : s.lowerClocks.pace = s.pace :=
  foldl_keeps State.pace (fun t k => by split <;> rfl) _ s

theorem State.wantClk_lowerClocks (s : State) {k : Nat} (h : k < 48) : s.lowerClocks.wantClk k = s.wantClk k := by
  rw [State.wantClk, State.lowerClocks_pk, State.lowerClocks_pace, s.serai_lowerClocks h, Serai.lowered_ocap]
  rfl

/-- A serai whose clock may go on is left; another comes down to what it may run at (R374, R382). -/
theorem State.clk_lowerClocks (s : State) {k : Nat} (h : k < 48) :
    (s.lowerClocks.serai k).clk = min (s.serai k).clk (s.lowerClocks.wantClk k) := by
  rw [s.serai_lowerClocks h, Serai.lowered_clk, s.wantClk_lowerClocks h]

theorem execThrottleWrite_levels (v : Word) (s : State) : ∃ t, exec (.throttleWrite v) s = .next t ∧
    (∀ k < 48, (t.serai k).level = v.toNat % 8 ∧ (t.serai k).clk = (s.serai k).clk) ∧ t.pk = s.pk ∧ sameMemory s t := by
  refine ⟨_, rfl, fun k hk => ?_, foldl_keeps State.pk (fun t k => by split <;> rfl) _ s, sameMemory_of_memories (by simp)⟩
  rw [(State.serai_foldl (P := fun _ => True) (f := fun _ x => { x with level := bitsOf v.toNat 0 3 }) (fun _ _ _ => trivial)
    (fun t k q _ => ?_) trivial 48 k).2, if_pos hk]
  · exact ⟨by simp [bitsOf], rfl⟩
  · split
    · rename_i same
      split
      · subst q
        rw [← same]
      · rfl
    · rw [State.serai_modSerai]

theorem controlRegisterWrite_tmon (s : State) (v : Word) {m : Nat} (h : m < 10) : exec (.controlRegisterWrite (0x820 + m) v) s =
    .next (s.modTmon m fun t =>
      { t with thr := bitsOf v.toNat 9 9, hyst := bitsOf v.toNat 18 5, aen := v.getLsbD 24, sem := bitsOf v.toNat 25 6 }) := by
  interval_cases m <;> rfl

/-- Settles O47: each register's write, by the fields it has. -/
theorem registerWritesComplete : Obligations.RegisterWritesComplete := by
  intro s v
  refine ⟨⟨_, rfl, ?_, sameMemory_of_memories (by simp), fun k hk => State.clk_lowerClocks _ hk⟩, execThrottleWrite_levels v s, ?_, ?_, ?_,
    rfl, rfl, ?_, ?_⟩
  · rw [State.lowerClocks_pk]
    simp [State.modPk, bitsOf]
  · rintro _ rfl
    refine ⟨?_, ⟨_, ?_, errcnt2_field v⟩, _,
      ((s.pk.bumps.filter fun b => b.1 == 0x833).map (·.2)).foldl merrNoted (s.pk.merr &&& ~~~(v &&& 3#64)), ?_, merr_cleared s.pk.merr v, ?_, ?_⟩
    · exact congrArg (fun p => Host.Outcome.next { s with pk := p }) (PkgRegs.written_errcnt { s.pk with errcnt := v })
    · exact congrArg (fun p => Host.Outcome.next { s with pk := p })
        (PkgRegs.written_errcnt2 { s.pk with errcnt2 := v &&& 0x0000FFFFFFFFFFFF#64 })
    · exact congrArg (fun p => Host.Outcome.next { s with pk := p })
        (PkgRegs.written_merr { s.pk with merr := s.pk.merr &&& ~~~(v &&& 3#64) })
    · intro none_
      exact congrArg (List.foldl merrNoted (s.pk.merr &&& ~~~(v &&& 3#64))) none_
    · exact fun b mem low => foldl_merrNoted_sets low mem _
  · intro closed
    have : s.queues.any (fun q => q.2.st != .closed) = false := by simpa using closed
    simp [exec, execQpartWrite, this, State.modPk, bitsOf]
  · intro q mem open_
    have : s.queues.any (fun q => q.2.st != .closed) = true := List.any_eq_true.2 ⟨q, mem, by simpa using open_⟩
    refine ⟨addCount s.pk.errcnt2 32 1, ?_, addCount_self _ _ _ (by decide)⟩
    simp only [exec, execQpartWrite, this, if_true]
    rfl
  · intro i lo f mem
    simp only [List.mem_cons, List.not_mem_nil, or_false] at mem
    obtain ⟨rfl, rfl, rfl⟩ | ⟨rfl, rfl, rfl⟩ | ⟨rfl, rfl, rfl⟩ | ⟨rfl, rfl, rfl⟩ | ⟨rfl, rfl, rfl⟩ := mem
    · exact congrArg (fun x => Host.Outcome.next { s with pk := { s.pk with astab := x } }) (keepBits_eq (lo := 7) v (by decide))
    · exact congrArg (fun x => Host.Outcome.next { s with pk := { s.pk with tollbase := x } }) (keepBits_eq (lo := 16) v (by decide))
    · exact congrArg (fun x => Host.Outcome.next { s with pk := { s.pk with qtab := x } }) (keepBits_eq (lo := 6) v (by decide))
    · exact congrArg (fun x => Host.Outcome.next { s with pk := { s.pk with coltab := x } }) (keepBits_eq (lo := 14) v (by decide))
    · exact congrArg (fun x => Host.Outcome.next { s with pk := { s.pk with cvtab := x } }) (keepBits_eq (lo := 6) v (by decide))
  · intro m hm
    refine ⟨_, controlRegisterWrite_tmon s v hm, ?_⟩
    simp only [State.tmon_modTmon, if_pos, State.modTmon_pk, bitsOf, Nat.shiftRight_eq_div_pow, true_and]
    exact ⟨rfl, rfl, rfl, sameMemory_of_memories rfl⟩

end Sys2Proof.Machine
end

section
/-! SUPPORT. `trap`, `sys` and `eret` (R370). -/

namespace Sys2Proof.Machine

open Sys2Proof

section
variable {s : State} {x : YW}

theorem targetVerdict_ok {t : Word} (h : t.toNat % 64 = 0) : targetVerdict t = .ok := if_neg (not_not.2 h)

theorem Ctx.leaveHandler_inh (c : Ctx) (n : Nat) : (c.leaveHandler n).regs.inh = false := by
  have top : ∀ w : Word, (w &&& ~~~((1 : Word) <<< 63)).getLsbD 63 = false := by simp
  exact top c.regs.tcause

/-- The checks of `eret`: in a handler, to an aligned return point, with no result pending (R370). -/
def State.eretVerdict (s : State) : Verdict :=
  ((if s.me.regs.inh then Verdict.ok else .trap .illop 0).both (targetVerdict s.me.regs.tepc)).both (if s.me.pend.isEmpty then .ok else .stall)

theorem exec_eret : exec (.eret x) s = slotOp 7 (.eret x) State.eretVerdict (fun s => s.modMe fun c => c.leaveHandler s.myCycle) s :=
  Eq.refl (execEret x s)

theorem exec_trap (h : s.performs (.trap x)) : exec (.trap x) s = .next (s.takeTrap s.issue.cid
    ⟨.brk, 0, 7, s.issue.pc, s.nextPc, 0, YWcode x, false, false, none⟩) :=
  (Eq.refl (execTrap x s)).trans (slotOp_performs h)

theorem exec_sys (h : s.performs (.sys x)) : exec (.sys x) s = .next (s.takeTrap s.issue.cid
    ⟨.sys, if x.bv = 1 then s.me.rs x.bi else 0, 7, s.issue.pc, s.nextPc, 0, YWcode x, false, false, none⟩) :=
  (Eq.refl (execSys x s)).trans (slotOp_performs h)

theorem eretVerdict_of_inh (inh : s.me.regs.inh = true) (aligned : s.me.regs.tepc.toNat % 64 = 0) :
    s.eretVerdict = if s.me.pend.isEmpty then .ok else .stall := by
  simp [State.eretVerdict, inh, targetVerdict_ok aligned]

theorem eretVerdict_outside (inh : s.me.regs.inh = false) : s.eretVerdict = .trap .illop 0 := by
  simp [State.eretVerdict, inh, Verdict.both]

end

/-- Settles O34: the trap of `trap` and `sys`, and the three ways of `eret`. -/
theorem trapSysAndEretResults : Obligations.TrapSysAndEretResults := by
  refine ⟨fun s x => ⟨exec_trap, exec_sys⟩, fun s x p w => ⟨fun inh aligned pend loops xfer aside => ?_, fun inh => ?_,
    fun inh aligned pend => ?_⟩⟩ <;> rw [exec_eret]
  · refine ⟨_, slotOp_of_ok p w (by rw [eretVerdict_of_inh inh aligned, pend]; rfl), ?_⟩
    rw [State.me_modMe]
    exact ⟨rfl, by simp [Ctx.leaveHandler, aside], by simp [Ctx.leaveHandler, aside], rfl, Ctx.leaveHandler_inh _ _, rfl, rfl, rfl, rfl, rfl, rfl⟩
  · exact slotOp_of_trap p w (eretVerdict_outside inh)
  · exact slotOp_waits p (.inr ((slotVerdict_ok w).trans ((eretVerdict_of_inh inh aligned).trans (if_neg (by simpa using pend)))))

end Sys2Proof.Machine
end

section
/-! SUPPORT. The taking of a trap (R366 to R369): the trap registers are written and the pending results wait, and then the handler is
entered, or the context stops, or its consignment ends. -/

namespace Sys2Proof.Machine

open Sys2Proof

/-! ### TCAUSE -/

theorem Cause.code_lt (c : Cause) : c.code < 2 ^ 8 := by cases c <;> decide

/-- The bits of TCAUSE above the code (R368). -/
theorem getLsbD_tcauseWord {code : Nat} (h : code < 2 ^ 8) (land defer xfer inh : Bool) (imm : BitVec 16) {i : Nat} (low : 8 ≤ i) (hi : i < 64) :
    (tcauseWord code land defer xfer imm inh).getLsbD i = (decide (i = 8) && land || decide (i = 9) && defer || decide (i = 10) && xfer ||
      decide (16 ≤ i) && imm.getLsbD (i - 16) || decide (i = 63) && inh) := by
  have above : code.testBit i = false := Nat.testBit_lt_two_pow (h.trans_le (Nat.pow_le_pow_right (by decide) low))
  have bit (b : Bool) (n k : Nat) (hn : ∀ j < 64, ((n : Nat) : Word).getLsbD j = decide (j = k)) :
      (((if b then n else 0 : Nat) : Word)).getLsbD i = (decide (i = k) && b) := by
    cases b
    · simp
    · exact (hn i hi).trans (by simp)
  have top : (if inh then (1 : Word) <<< 63 else 0).getLsbD i = (decide (i = 63) && inh) := by
    cases inh
    · simp
    · have one : ∀ j < 64, ((1 : Word) <<< 63).getLsbD j = decide (j = 63) := by decide
      exact (one i hi).trans (by simp)
  unfold tcauseWord
  simp only [BitVec.getLsbD_or, BitVec.getLsbD_ofNat, above, bit land 256 8 (by decide), bit defer 512 9 (by decide),
    bit xfer 1024 10 (by decide), top, BitVec.getLsbD_shiftLeft, BitVec.getLsbD_setWidth, hi]
  by_cases h16 : i < 16 <;> simp [h16, show i - 16 < 64 by omega, Nat.not_le.2, Nat.le_of_not_lt]

theorem tcauseWord_imm {code : Nat} (h : code < 2 ^ 8) (land defer xfer inh : Bool) (imm : BitVec 16) :
    (tcauseWord code land defer xfer imm inh).extractLsb' 16 16 = imm := by
  refine BitVec.eq_of_getLsbD_eq fun i hi => ?_
  rw [BitVec.getLsbD_extractLsb', getLsbD_tcauseWord h _ _ _ _ _ (by omega) (by omega)]
  simp [hi, show ¬ 16 + i = 8 by omega, show ¬ 16 + i = 9 by omega, show ¬ 16 + i = 10 by omega, show ¬ 16 + i = 63 by omega]

theorem tcauseWord_clear {code : Nat} (h : code < 2 ^ 8) (land defer xfer inh : Bool) (imm : BitVec 16) :
    (tcauseWord code land defer xfer imm inh).extractLsb' 11 5 = 0 ∧ (tcauseWord code land defer xfer imm inh).extractLsb' 32 31 = 0 := by
  constructor
  · refine BitVec.eq_of_getLsbD_eq fun i hi => ?_
    rw [BitVec.getLsbD_extractLsb', getLsbD_tcauseWord h _ _ _ _ _ (by omega) (by omega)]
    simp [show ¬ 11 + i = 8 by omega, show ¬ 11 + i = 9 by omega, show ¬ 11 + i = 10 by omega, show ¬ 16 ≤ 11 + i by omega,
      show ¬ 11 + i = 63 by omega]
  · refine BitVec.eq_of_getLsbD_eq fun i hi => ?_
    rw [BitVec.getLsbD_extractLsb', getLsbD_tcauseWord h _ _ _ _ _ (by omega) (by omega)]
    simp [show ¬ 32 + i = 8 by omega, show ¬ 32 + i = 9 by omega, show ¬ 32 + i = 10 by omega, show ¬ 32 + i = 63 by omega,
      imm.getLsbD_of_ge (32 + i - 16) (by omega)]

/-! ### The commit of the region (R245, R246) -/

section
variable (s : State) (k : Nat)

theorem State.releaseOf_region (scope : Nat) (rels : List Rel) (b : Posted → Bool) :
    (((s.releaseOf k scope rels b).2).ctx k).region = (s.ctx k).region := by
  unfold State.releaseOf
  dsimp only
  rw [State.ctx_modCtx, if_pos rfl]
  obtain ⟨l, h⟩ := State.publish_eq { s with posted := s.posted.map fun x => if b x then { x with rel := x.rel ++ rels } else x }
    scope (coreOf k) b
  rw [h]
  rfl

theorem State.commitOp_region (g : GateOp) : ((s.commitOp k g).ctx k).region = (s.ctx k).region := by
  cases g with
  | scratch side ws => rfl
  | global ea ps =>
    refine foldl_keeps (fun t : State => (t.ctx k).region) (fun t p => ?_) ps s
    rw [State.postPiece, State.ctx_modCtx, if_pos rfl]
    rfl
  | give rb => rfl
  | release sc id => exact s.releaseOf_region k _ _ _

theorem State.commitRegion_region : ((s.commitRegion k).ctx k).region = none := by
  unfold State.commitRegion
  split
  · assumption
  · refine (foldl_keeps (fun t : State => (t.ctx k).region) (fun t g => t.commitOp_region k g) _ _).trans ?_
    rw [State.ctx_modCtx, if_pos rfl]

/-- From `s` to `t` only contexts, posted stores, their numbers, late stores, relays and commands have changed. -/
def State.CommitsTo (t : State) : Prop := ∃ ctxs posted nextId late groups cmds,
  t = { s with ctxs := ctxs, posted := posted, nextId := nextId, late := late, groups := groups, cmds := cmds }

variable {s}

theorem State.CommitsTo.refl : s.CommitsTo s := ⟨_, _, _, _, _, _, rfl⟩

theorem State.CommitsTo.trans {t u : State} (h : s.CommitsTo t) (g : t.CommitsTo u) : s.CommitsTo u := by
  obtain ⟨_, _, _, _, _, _, rfl⟩ := h
  obtain ⟨_, _, _, _, _, _, rfl⟩ := g
  exact ⟨_, _, _, _, _, _, rfl⟩

theorem State.CommitsTo.foldl {α : Type} {f : State → α → State} (hf : ∀ (s : State) (x : α), s.CommitsTo (f s x)) (l : List α) (s : State) :
    s.CommitsTo (l.foldl f s) := by
  induction l generalizing s with
  | nil => exact .refl
  | cons x l ih => exact (hf s x).trans (ih _)

theorem State.commitsTo_releaseOf (s : State) (scope : Nat) (rels : List Rel) (b : Posted → Bool) :
    s.CommitsTo (s.releaseOf k scope rels b).2 := by
  unfold State.releaseOf
  dsimp only
  obtain ⟨l, h⟩ := State.publish_eq { s with posted := s.posted.map fun x => if b x then { x with rel := x.rel ++ rels } else x }
    scope (coreOf k) b
  rw [h]
  exact ⟨_, _, _, _, _, _, rfl⟩

theorem State.commitsTo_commitOp (s : State) (g : GateOp) : s.CommitsTo (s.commitOp k g) := by
  cases g with
  | scratch side ws => exact ⟨_, _, _, _, _, _, rfl⟩
  | global ea ps => exact .foldl (fun t p => ⟨_, _, _, _, _, _, rfl⟩) ps s
  | give rb => exact ⟨_, _, _, _, _, _, rfl⟩
  | release sc id => exact s.commitsTo_releaseOf k _ _ _

theorem State.commitsTo_commitRegion (s : State) : s.CommitsTo (s.commitRegion k) := by
  unfold State.commitRegion
  split
  · exact .refl
  · next r _ =>
    have opened : s.CommitsTo (s.modCtx k fun c => { c with region := none, far := c.far.filter fun e => !e.held }) := ⟨_, _, _, _, _, _, rfl⟩
    exact (opened.trans (.foldl (fun t g => t.commitsTo_commitOp k g) r.gate _)).trans ⟨_, _, _, _, _, _, rfl⟩

end

/-! ### What every trap notes (R366, R368) -/

section
variable (s : State) (k : Nat) (t : TrapInfo)

/-- The trap as it is noted, and the state in which its open values stand (log 18); an uncorrectable error is counted (R373). -/
def State.trapOpened : TrapInfo × State :=
  ((s.openTrap t).1, if t.cause = .eccu then (s.openTrap t).2.tally 0x817 48 1 else (s.openTrap t).2)

/-- The state in which the region is committed, the trap registers are written and the pending results wait (R366, R368). -/
def State.trapNoted : State :=
  let o := s.trapOpened t
  (o.2.commitRegion k).modCtx k fun c =>
    c.trapped o.1 (s.cycleOf k) ((s.ctx k).regs.inh && !isOutrider k && t.cause.target == .resolver)

/-- Trap `o` is trap `t` with the values that the manual leaves open in their place (log 18). -/
def TrapInfo.OpensTo (o : TrapInfo) : Prop := ∃ tval tlat, o = { t with tval := tval, tlat := tlat } ∧
  (t.cause.openTval = false ∨ t.land = true → tval = t.tval) ∧ (t.cause ≠ .timeout → tlat = t.tlat)

theorem State.openTrap_opens : t.OpensTo (s.openTrap t).1 := by
  unfold State.openTrap
  dsimp only
  split
  · rename_i open_
    refine ⟨_, _, rfl, fun closed => ?_, fun _ => rfl⟩
    obtain h | h := closed <;> simp [h] at open_
  · split
    · exact ⟨_, _, rfl, fun _ => rfl, fun h => absurd ‹_› h⟩
    · exact ⟨_, _, rfl, fun _ => rfl, fun _ => rfl⟩

theorem State.openTrap_cause : (s.openTrap t).1.cause = t.cause := by
  obtain ⟨_, _, h, -, -⟩ := s.openTrap_opens t
  rw [h]

theorem State.openTrap_state : ∃ n, (s.openTrap t).2 = { s with free := n } := by
  unfold State.openTrap
  dsimp only
  split
  · exact ⟨_, rfl⟩
  · split <;> exact ⟨_, rfl⟩

theorem State.trapOpened_state : ∃ n p, (s.trapOpened t).2 = { s with free := n, pk := p } := by
  obtain ⟨n, h⟩ := s.openTrap_state t
  unfold State.trapOpened
  rw [h]
  dsimp only
  split <;> exact ⟨_, _, rfl⟩

/-- A trap finds no handler, or arises in one (R369). -/
def Ctx.noHandler (c : Ctx) : Bool := decide (c.regs.thand &&& ~~~63#64 = 0) || c.regs.inh

/-- A trap is noted, and then taken by what its cause and its context ask for (R366, R367, R369). -/
theorem State.takeTrap_eq : s.takeTrap k t =
    let noted := s.trapNoted k t
    if isOutrider k then
      if (s.ctx k).noHandler then (noted.modCtx k fun c => { c with status := .outriderStopped }).outriderStop (locOf k - Config.outriderBase) t.cause.code
      else noted.modCtx k fun c => c.enterHandler (s.cycleOf k)
    else
      match t.cause.target with
      | .resolver =>
        let v := (noted.endLease k true).modCtx k fun c => { c with status := .stopped, pc := c.regs.tepc }
        let c := v.ctx k
        let (q, n) := v.conIds c
        { v with eventsOut := v.eventsOut ++ [⟨c.asid, 2, none, trapEvent c k t.cause.code q n⟩] }
      | .abort => match (s.ctx k).cons with | some n => noted.killCon n 4 t.cause.code | none => noted
      | .handler =>
        if (s.ctx k).noHandler then match (s.ctx k).cons with | some n => noted.killCon n 4 t.cause.code | none => noted
        else noted.modCtx k fun c => c.enterHandler (s.cycleOf k) := by
  obtain ⟨n, p, h⟩ := s.trapOpened_state t
  have cause := s.openTrap_cause t
  unfold State.trapOpened at h
  unfold State.takeTrap State.trapNoted State.trapOpened
  dsimp only at h ⊢
  generalize s.openTrap t = o at h cause
  obtain ⟨o, u⟩ := o
  dsimp only at h cause ⊢
  rw [← cause] at h ⊢
  rw [h]
  rfl

/-- A context that the commit of its region has changed differs in what the commit writes alone. -/
theorem Ctx.eq_of_flushed {c d : Ctx} (h : d.flushed = c.flushed) :
    d = { c with lastStore := d.lastStore, release := d.release, shadow := d.shadow, region := d.region, far := d.far } := by
  have whole : d = { d.flushed with
    lastStore := d.lastStore, release := d.release, shadow := d.shadow, region := d.region, far := d.far } := rfl
  rw [h] at whole
  exact whole

theorem State.ctx_trapNoted : ∃ (o : TrapInfo) (d : Ctx), t.OpensTo o ∧ d.flushed = (s.ctx k).flushed ∧ d.region = none ∧
    (s.trapNoted k t).ctx k = d.trapped o (s.cycleOf k) ((s.ctx k).regs.inh && !isOutrider k && t.cause.target == .resolver) := by
  obtain ⟨n, p, h⟩ := s.trapOpened_state t
  refine ⟨(s.trapOpened t).1, ((s.trapOpened t).2.commitRegion k).ctx k, s.openTrap_opens t, ?_, State.commitRegion_region _ k, ?_⟩
  · rw [State.commitRegion_flushed, h]
    rfl
  · rw [State.trapNoted, State.ctx_modCtx, if_pos rfl]

end

/-- What entering the handler leaves in the context (R366). -/
theorem State.ctx_takeTrap_enters {s : State} {k : Nat} {t : TrapInfo} (inh : (s.ctx k).regs.inh = false)
    (target : isOutrider k = true ∨ t.cause.target = .handler) (thand : (s.ctx k).regs.thand &&& ~~~63#64 ≠ 0) :
    ∃ (o : TrapInfo) (d : Ctx), t.OpensTo o ∧ d.flushed = (s.ctx k).flushed ∧ d.region = none ∧
      (s.takeTrap k t).ctx k = (d.trapped o (s.cycleOf k) false).enterHandler (s.cycleOf k) := by
  obtain ⟨o, d, opens, flushed, region, noted⟩ := s.ctx_trapNoted k t
  refine ⟨o, d, opens, flushed, region, ?_⟩
  have enters : s.takeTrap k t = (s.trapNoted k t).modCtx k fun c => c.enterHandler (s.cycleOf k) := by
    rw [State.takeTrap_eq]
    have handler : (s.ctx k).noHandler = false := by rw [Ctx.noHandler, inh, decide_eq_false thand, Bool.or_false]
    by_cases outrider : isOutrider k = true
    · simp [outrider, handler]
    · simp [outrider, handler, target.resolve_left outrider]
  rw [enters, State.ctx_modCtx, if_pos rfl, noted, inh]
  rfl

theorem CtxRegs.enters_tcause (r : CtxRegs) (t : TrapInfo) (xfer : Bool) (h : r.inh = false) :
    (r.trapped t xfer false).tcause ||| ((1 : Word) <<< 63) = tcauseWord t.cause.code t.land t.defer xfer t.imm true := by
  rw [CtxRegs.trapped, h]
  exact tcauseWord_or_inh _ _ _ _ _ _

/-- Settles O40: the context is that of the trap as it is noted, entering its handler. -/
theorem trapEntersHandler : Obligations.TrapEntersHandler := by
  intro s cid t c u hc hu inh target thand
  subst hc hu
  obtain ⟨o, d, ⟨tval, tlat, rfl, closed, timed⟩, flushed, region, entered⟩ := State.ctx_takeTrap_enters inh target thand
  rw [Ctx.eq_of_flushed flushed, region] at entered
  rw [entered]
  generalize s.ctx cid = c at *
  have tcause := CtxRegs.enters_tcause c.regs { t with tval := tval, tlat := tlat } c.xfer.isSome inh
  have clear := tcauseWord_clear t.cause.code_lt t.land t.defer c.xfer.isSome true t.imm
  have bit {i : Nat} := getLsbD_tcauseWord t.cause.code_lt t.land t.defer c.xfer.isSome true t.imm (i := i)
  refine ⟨rfl, rfl, ?_, ?_, ?_, ?_, ?_, ?_, ?_, ?_, rfl, rfl, rfl, ?_, ?_, rfl, rfl, rfl, ?_, ?_, ?_, (List.append_assoc _ _ _).symm, ?_, ?_, rfl, rfl, rfl,
    rfl, rfl, rfl, rfl, rfl, rfl, rfl, rfl⟩
  · exact (congrArg (BitVec.getLsbD · 63) tcause).trans ((bit (by decide) (by decide)).trans (by simp))
  · exact (congrArg (BitVec.extractLsb' 0 8) tcause).trans (tcauseWord_code _ _ _ _ _ _)
  · exact (congrArg (BitVec.getLsbD · 8) tcause).trans ((bit (by decide) (by decide)).trans (by simp))
  · exact (congrArg (BitVec.getLsbD · 9) tcause).trans ((bit (by decide) (by decide)).trans (by simp))
  · exact (congrArg (BitVec.getLsbD · 10) tcause).trans ((bit (by decide) (by decide)).trans (by simp))
  · exact (congrArg (BitVec.extractLsb' 11 5) tcause).trans clear.1
  · exact (congrArg (BitVec.extractLsb' 16 16) tcause).trans (tcauseWord_imm t.cause.code_lt _ _ _ _ _)
  · exact (congrArg (BitVec.extractLsb' 32 31) tcause).trans clear.2
  · exact closed
  · exact fun time => congrArg (fun n => BitVec.ofNat 64 (min n (2 ^ 32 - 1))) (timed time)
  · exact fun some_ => if_pos some_
  · intro none_ stays
    simp [Ctx.enterHandler, Ctx.trapped, none_, stays]
  · intro stays
    simp [Ctx.enterHandler, Ctx.trapped, stays]
  · simp [Ctx.enterHandler, Ctx.trapped, inh]
  · intro l mem
    rw [List.eq_of_mem_replicate mem]
    rfl

end Sys2Proof.Machine
end

section
/-! SUPPORT. Traps that stop their context or end its consignment (R366, R367, R369). -/

namespace Sys2Proof.Machine

open Sys2Proof

section
variable (s : State) (k : Nat)

theorem State.trapNoted_frame (t : TrapInfo) : (s.trapNoted k t).eventsOut = s.eventsOut ∧ (s.trapNoted k t).cons = s.cons := by
  obtain ⟨n, p, h⟩ := s.trapOpened_state t
  obtain ⟨_, _, _, _, _, _, commit⟩ := (s.trapOpened t).2.commitsTo_commitRegion k
  rw [State.trapNoted, commit, h]
  exact ⟨rfl, rfl⟩

theorem State.endLease_eventsOut (again : Bool) : (s.endLease k again).eventsOut = s.eventsOut := by
  unfold State.endLease
  split
  · rfl
  · dsimp only
    split
    · split
      · split <;> rfl
      · rfl
    · rfl

theorem State.endLease_ctx (again : Bool) : ∃ w, (s.endLease k again).ctx k = { s.ctx k with leaseWanted := w } := by
  unfold State.endLease
  split
  · exact ⟨_, rfl⟩
  · dsimp only
    split
    · split
      · split
        · exact ⟨_, by rw [State.ctx_modCtx, if_pos rfl]; rfl⟩
        · exact ⟨_, rfl⟩
      · exact ⟨_, rfl⟩
    · exact ⟨_, rfl⟩

theorem State.outriderStop_frame (die code : Nat) :
    (s.outriderStop die code).ctxs = s.ctxs ∧ (s.outriderStop die code).eventsOut = s.eventsOut := by
  simp only [State.outriderStop, State.tally, State.msi, State.modPk_ctxs, State.modPk_eventsOut]
  split <;> split <;> exact ⟨rfl, rfl⟩

theorem Ctx.trapped_inh (c : Ctx) (t : TrapInfo) (n : Nat) (keep : Bool) : (c.trapped t n keep).regs.inh = c.regs.inh := by
  show BitVec.getLsbD (c.regs.trapped t c.xfer.isSome keep).tcause 63 = c.regs.inh
  rw [CtxRegs.trapped, getLsbD_tcauseWord t.cause.code_lt _ _ _ _ _ (by decide) (by decide)]
  simp

theorem trapEvent_length (c : Ctx) (code q n : Nat) : (trapEvent c k code q n).length = 32 := by simp [trapEvent, natLe_length]

variable {s k} {t : TrapInfo}

/-- The context stops at its return point, and its lease ends (R367). -/
def State.stopsAt (s : State) (k : Nat) : State :=
  (s.endLease k true).modCtx k fun c => { c with status := .stopped, pc := c.regs.tepc }

theorem State.ctx_stopsAt (s : State) (k : Nat) :
    ∃ w, (s.stopsAt k).ctx k = { s.ctx k with status := .stopped, pc := (s.ctx k).regs.tepc, leaseWanted := w } := by
  obtain ⟨w, lease⟩ := s.endLease_ctx k true
  exact ⟨w, by rw [State.stopsAt, State.ctx_modCtx, if_pos rfl, lease]⟩

/-- A trap for the resolver stops the context and posts a trap event (R367). -/
theorem State.takeTrap_of_resolver (serves : isOutrider k = false) (target : t.cause.target = .resolver) {v : State}
    (hv : v = (s.trapNoted k t).stopsAt k) : ∃ q n, s.takeTrap k t =
      { v with eventsOut := v.eventsOut ++ [⟨(v.ctx k).asid, 2, none, trapEvent (v.ctx k) k t.cause.code q n⟩] } := by
  rw [State.takeTrap_eq]
  simp only [serves, target, Bool.false_eq_true, if_false]
  subst hv
  exact ⟨_, _, rfl⟩

/-- A trap that finds no handler, or arises in one, and MARKOV end the consignment (R369). -/
theorem State.takeTrap_of_abort (serves : isOutrider k = false)
    (target : t.cause.target = .abort ∨ (t.cause.target = .handler ∧ (s.ctx k).noHandler = true)) {n : Nat} (con : (s.ctx k).cons = some n) :
    s.takeTrap k t = (s.trapNoted k t).killCon n 4 t.cause.code := by
  rw [State.takeTrap_eq, serves]
  obtain target | ⟨target, none_⟩ := target
  · simp [target, con]
  · simp [target, none_, con]

/-- An outrider without a handler stops (R369). -/
theorem State.takeTrap_of_outrider (outrider : isOutrider k = true) (none_ : (s.ctx k).noHandler = true) : s.takeTrap k t =
    ((s.trapNoted k t).modCtx k fun c => { c with status := .outriderStopped }).outriderStop (locOf k - Config.outriderBase) t.cause.code := by
  rw [State.takeTrap_eq]
  simp only [outrider, none_, if_true]

end

theorem Ctx.noHandler_iff (c : Ctx) : c.noHandler = true ↔ c.regs.inh = true ∨ c.regs.thand &&& ~~~63#64 = 0 := by
  rw [Ctx.noHandler, Bool.or_eq_true, decide_eq_true_iff, or_comm]

/-- Settles O41: the three ways of a trap that no handler takes. -/
theorem trapStopsOrAborts : Obligations.TrapStopsOrAborts := by
  intro s cid t c u hc hu
  subst hc hu
  obtain ⟨o, d, ⟨tval, tlat, rfl, -, -⟩, flushed, region, noted⟩ := s.ctx_trapNoted cid t
  obtain ⟨events, cons⟩ := s.trapNoted_frame cid t
  refine ⟨fun serves target => ?_, fun serves target n x con running active => ?_, fun outrider none_ => ?_⟩
  · obtain ⟨w, stopped⟩ := (s.trapNoted cid t).ctx_stopsAt cid
    have inh : ((s.trapNoted cid t).ctx cid).regs.inh = d.regs.inh := by
      rw [noted]
      exact Ctx.trapped_inh _ _ _ _
    have kept := congrArg CtxRegs.inh (congrArg Ctx.regs flushed)
    have asid := congrArg Ctx.asid flushed
    have tpc := congrArg (fun c => c.regs.tpc) noted
    have pend := congrArg Ctx.pend noted
    have asids := congrArg Ctx.asid noted
    have events' : ((s.trapNoted cid t).stopsAt cid).eventsOut = s.eventsOut := ((s.trapNoted cid t).endLease_eventsOut cid true).trans events
    have lease := (s.trapNoted cid t).endLease_lease cid true
    have serais : ((s.trapNoted cid t).stopsAt cid).serai (seraiOf cid) = ((s.trapNoted cid t).endLease cid true).serai (seraiOf cid) := rfl
    obtain ⟨q, n, taken⟩ := State.takeTrap_of_resolver serves target (v := (s.trapNoted cid t).stopsAt cid) rfl
    generalize (s.trapNoted cid t).stopsAt cid = v at stopped taken events' serais
    have regs := congrArg Ctx.regs stopped
    rw [taken]
    refine ⟨congrArg Ctx.status stopped, ?_, ?_, ?_, fun l held serai => lease serai l (serais ▸ held), ?_⟩
    · exact (congrArg CtxRegs.inh regs).trans (inh.trans kept)
    · exact (congrArg CtxRegs.tpc regs).trans tpc
    · exact (congrArg Ctx.pend stopped).trans pend
    · exact ⟨_, congrArg (· ++ _) events', (congrArg Ctx.asid stopped).trans (asids.trans asid), rfl, trapEvent_length _ _ _ _ _, rfl, rfl⟩
  · rw [← Ctx.noHandler_iff] at target
    rw [State.takeTrap_of_abort serves target con]
    exact ⟨_, State.killCon_con? (by rw [State.con?, cons]; exact running) active, rfl, rfl, rfl⟩
  · rw [← Ctx.noHandler_iff] at none_
    rw [State.takeTrap_of_outrider outrider none_]
    have status : (((s.trapNoted cid t).modCtx cid fun c => { c with status := .outriderStopped }).ctx cid).status = .outriderStopped := by
      rw [State.ctx_modCtx, if_pos rfl]
    obtain ⟨ctxs, kept⟩ := ((s.trapNoted cid t).modCtx cid fun c => { c with status := .outriderStopped }).outriderStop_frame
      (locOf cid - Config.outriderBase) t.cause.code
    refine ⟨?_, kept.trans events⟩
    rw [State.ctx, ctxs]
    exact status

end Sys2Proof.Machine
end

section
/-! SUPPORT. Errors, samples and boot (R372 to R376, R392, R393, R412 to R416). -/

namespace Sys2Proof.Machine

open Sys2Proof

/-! ### Errors (R373, R374) -/

theorem exec_correctableError (s : State) (hbm : Bool) (n : Nat) : exec (.correctableError hbm n) s = .next { s with pk := { s.pk with
    errcnt := addCount s.pk.errcnt (if hbm then 16 else 0) n, bumps := s.pk.bumps ++ [(0x817, if hbm then 16 else 0, n)] } } :=
  (Eq.refl (execCorrectableError hbm n s)).trans rfl

theorem exec_pcieCorrectableError (s : State) (port : Nat) : exec (.pcieCorrectableError port) s = .next { s with pk := { s.pk with
    errcnt2 := addCount s.pk.errcnt2 16 1, bumps := s.pk.bumps ++ [(0x818, 16, 1)] } } :=
  (Eq.refl (execPcieCorrectableError port s)).trans rfl

theorem State.poisonPlace_pk (s : State) (p : Place) : (s.poisonPlace p).pk = s.pk := by
  unfold State.poisonPlace
  split
  · rfl
  · rfl
  · split
    · split <;> rfl
    · rfl
  · split <;> rfl

theorem State.mem_poisonPlace (s : State) (a : Nat) : Place.memory a ∈ (s.poisonPlace (.memory a)).poison := by
  unfold State.poisonPlace
  dsimp only
  split
  · exact List.contains_iff_mem.1 ‹_›
  · simp

/-! ### Samples (R375, R376, R392) -/

theorem State.semChange_frame (s : State) (gid core n : Nat) (d : Int) :
    (s.semChange gid core n d).tmons = s.tmons ∧ (s.semChange gid core n d).memories = s.memories := by
  simp [State.semChange, State.semPut]

theorem State.alertRises_tmon (s : State) (i j : Nat) (old : Bool) : (s.alertRises i old).tmon j = s.tmon j := by
  unfold State.alertRises
  dsimp only
  split
  · rw [State.tmon, (s.semChange_frame _ _ _ _).1]
    rfl
  · rfl

theorem sampled_of_clear (since : Option Nat) (temp x h tick : Nat) : (sampled false since temp x h tick).1 = decide (x ≤ temp) := by
  unfold sampled
  by_cases hx : x ≤ temp <;> simp [hx]

theorem Tmon.sample_temp (t : Tmon) (temp tick : Nat) : (t.sample temp tick).temp = temp % 512 := rfl

theorem Tmon.sample_alert {t : Tmon} (h : t.alert = false) (temp tick : Nat) : (t.sample temp tick).alert = decide (t.thr ≤ temp % 512) := by
  show (sampled t.alert _ _ _ _ _).1 = _
  rw [h]
  exact sampled_of_clear _ _ _ _ _

theorem Tmon.steps_href {t : Tmon} (h : t.href = 0) (tick : Nat) :
    (t.steps tick).href = if 190 ≤ t.temp then 2 else if 170 ≤ t.temp then 1 else 0 := by
  show (if (sampled (decide (2 ≤ t.href)) _ _ _ _ _).1 then 2 else if (sampled (decide (1 ≤ t.href)) _ _ _ _ _).1 then 1 else 0) = _
  rw [h]
  simp [sampled_of_clear]

theorem Tmon.steps_hcap {t : Tmon} (h : t.hcap = 0) (tick : Nat) :
    (t.steps tick).hcap = if 210 ≤ t.temp then 2 else if 190 ≤ t.temp then 1 else 0 := by
  show (if (sampled (decide (2 ≤ t.hcap)) _ _ _ _ _).1 then 2 else if (sampled (decide (1 ≤ t.hcap)) _ _ _ _ _).1 then 1 else 0) = _
  rw [h]
  simp [sampled_of_clear]

/-! ### Boot (R412 to R416) -/

/-- A write at home changes poison, posted stores, their numbers and the memories alone. -/
theorem State.writeHome_eq (s : State) (mt a : Nat) (d : List Byte) : ∃ poison posted nextId mem peerMem hostMem hostMem1, s.writeHome mt a d =
    { s with poison := poison, posted := posted, nextId := nextId, mem := mem, peerMem := peerMem, hostMem := hostMem, hostMem1 := hostMem1 } := by
  unfold State.writeHome
  dsimp only
  split
  · unfold State.performed
    obtain ⟨l, h⟩ := State.enter_eq { s with poison := clearPoison mt a d.length (clearPoison mt a d.length s.poison) }
      [Posted.atHome .host s.nextId Config.outriderBase mt a d]
    rw [h]
    exact ⟨_, _, _, _, _, _, _, rfl⟩
  · unfold State.setBacking
    split <;> exact ⟨_, _, _, _, _, _, _, rfl⟩

theorem State.enterBody_pk (s : State) : s.enterBody.pk = s.pk := by
  obtain ⟨_, _, _, _, _, _, _, h⟩ := s.writeHome_eq 0 Config.firmwareBase (imagePart s.flash 512 (bodyLen s.flash))
  have pk := congrArg State.pk h
  exact pk

/-- The package registers after power-on, with what the boot ROM has found (R413, R414). -/
def State.poweredUp (s : State) : State :=
  (s.modPk fun p =>
    { p with
      poweredOn := true
      bootState := if bootCause s.flashBad s.flash = 0 then 1 else 2
      bootCause := bootCause s.flashBad s.flash
      svn := dnum s.flash 8 4 }).msi 2 [0, 1]

theorem exec_powerOn {s : State} (off : s.pk.poweredOn = false) :
    exec .powerOn s = .next (if bootCause s.flashBad s.flash = 0 then s.poweredUp.enterBody else s.poweredUp) :=
  (Eq.refl (execPowerOn s)).trans (if_neg (by simp [off]))

theorem length_of_bootCause {bad : Bool} {img : List Byte} (h : bootCause bad img = 0) : bodyLen img + 17120 ≤ img.length := by
  have form : imageForm img = true := by
    by_contra none_
    rw [Bool.not_eq_true] at none_
    unfold bootCause at h
    cases bad <;> simp [none_] at h
  simp only [imageForm, Bool.and_eq_true, decide_eq_true_iff] at form
  exact form.2

theorem getElem?_imagePart {img : List Byte} {lo n i : Nat} (h : i < n) : (imagePart img lo n)[i]? = img[lo + i]? := by
  rw [imagePart, List.getElem?_take, if_pos h, List.getElem?_drop]

theorem State.enterBody_mem {s : State} (quiet : s.posted = []) (fits : bodyLen s.flash + 17120 ≤ s.flash.length) {i : Nat}
    (h : i < bodyLen s.flash) : s.enterBody.mem.get (Config.firmwareBase + i) = (s.flash[512 + i]?).getD 0 := by
  have none_ : ∀ l : List Place, ({ s with poison := l } : State).posted.any (fun p => p.out && p.meets 0 Config.firmwareBase
      (imagePart s.flash 512 (bodyLen s.flash)).length) = false := by simp [quiet]
  have length : (imagePart s.flash 512 (bodyLen s.flash)).length = bodyLen s.flash := by simp [imagePart]; omega
  have mem : s.enterBody.mem = s.mem.setBytes Config.firmwareBase (imagePart s.flash 512 (bodyLen s.flash)) := by
    show (s.writeHome 0 Config.firmwareBase _).mem = _
    rw [State.writeHome]
    dsimp only
    rw [none_]
    rfl
  rw [mem, Store.get_setBytes, if_pos (by omega), Nat.add_sub_cancel_left, getElem?_imagePart h]

theorem State.enterBody_ctx (s : State) : (s.enterBody.ctx 800).status = .ready ∧ (s.enterBody.ctx 800).priv = true := by
  have ctx : ∀ (t : State) (c : Ctx), (t.setCtx 800 c).ctx 800 = c := fun t c => by rw [State.ctx_setCtx, if_pos rfl]
  exact ⟨congrArg Ctx.status (ctx _ _), congrArg Ctx.priv (ctx _ _)⟩

theorem State.rebooted_memories {s : State} (quiet : s.posted = []) : sameMemory s s.rebooted := by
  have nothing : ∀ u : State, u.posted = [] → u.settleAll = u := fun u none_ => by
    rw [State.settleAll, none_, settle, ← none_]
  have settled := nothing ({ s with
    now := s.now + 1
    ctxs := []
    posted := (s.posted.filter fun p => !p.pub.isEmpty).map fun p => { p with performed := true, wait := 0, pub := p.pub ++ [(7, p.core)] } })
    (by simp [quiet])
  have mem := congrArg State.mem settled
  have host := congrArg State.hostMem settled
  have host1 := congrArg State.hostMem1 settled
  have peer := congrArg State.peerMem settled
  exact fun a => ⟨congrArg (Store.get · a) mem, congrArg (Store.get · a) host, congrArg (Store.get · a) host1, congrArg (Store.get · a) peer⟩

/-- Settles O48: each event by its own definition. -/
theorem errorsSamplesAndBoot : Obligations.ErrorsSamplesAndBoot := by
  refine ⟨fun s hbm n => ⟨_, exec_correctableError s hbm n, ?_⟩, fun s p => ⟨_, rfl, ?_, ?_, ?_⟩,
    fun s port => ⟨_, exec_pcieCorrectableError s port, addCount_self _ _ _ (by decide)⟩, fun s die temp hdie => ?_, fun s stack temp hstack => ?_,
    fun s pkg tick => ⟨fun trained => ?_, fun fresh => ?_⟩, fun s off => ?_, fun img => rfl, fun s => ⟨_, rfl, rfl, rfl, rfl, rfl, rfl, rfl, rfl, rfl,
      State.rebooted_memories⟩, fun s => ⟨fun state => ?_, fun state => ?_⟩⟩
  · refine ⟨addCount_self _ _ _ (by split <;> decide), ?_, addCount_other _ _ _ (by decide) (by cases hbm <;> decide)⟩
    cases hbm <;> exact addCount_other _ _ _ (by decide) (by decide)
  · exact sameMemory_of_memories (by simp)
  · rw [← s.poisonPlace_pk p]
    exact addCount_self _ _ _ (by decide)
  · rintro a rfl
    exact s.mem_poisonPlace a
  · refine ⟨_, (Eq.refl (execTempSample die temp s)).trans (if_neg (by omega)), ?_, ?_, sameMemory_of_memories (by simp)⟩
    · rw [State.alertRises_tmon, State.tmon_modTmon, if_pos rfl, Tmon.sample_temp]
    · intro clear
      rw [State.alertRises_tmon, State.tmon_modTmon, if_pos rfl, Tmon.sample_alert clear]
  · refine ⟨_, (Eq.refl (execHbmTempSample stack temp s)).trans (if_neg (by omega)), ?_, ?_, ?_⟩
    · rw [State.alertRises_tmon, State.tmon_modTmon, if_pos rfl]
      rfl
    · intro clear
      rw [State.alertRises_tmon, State.tmon_modTmon, if_pos rfl, Tmon.steps_href (by exact clear)]
      rfl
    · intro clear
      rw [State.alertRises_tmon, State.tmon_modTmon, if_pos rfl, Tmon.steps_hcap (by exact clear)]
      rfl
  · exact (Eq.refl (execLinkTraining pkg tick s)).trans (if_pos trained)
  · exact ⟨_, (Eq.refl (execLinkTraining pkg tick s)).trans (if_neg (by simp [fresh])), rfl, rfl, rfl, sameMemory_of_memories rfl⟩
  · have pk : (if bootCause s.flashBad s.flash = 0 then s.poweredUp.enterBody else s.poweredUp).pk = s.poweredUp.pk := by
      split
      · exact s.poweredUp.enterBody_pk
      · rfl
    refine ⟨_, exec_powerOn off, congrArg PkgRegs.poweredOn pk, congrArg PkgRegs.bootCause pk, congrArg PkgRegs.bootState pk, ?_⟩
    split
    · exact ⟨s.poweredUp.enterBody_ctx.1, s.poweredUp.enterBody_ctx.2,
        fun quiet i hi => State.enterBody_mem (s := s.poweredUp) quiet (length_of_bootCause ‹_›) hi⟩
    · exact ⟨rfl, sameMemory_of_memories rfl⟩
  · exact (Eq.refl (execBootFlash s)).trans (if_pos state)
  · by_cases good : bootCause false s.staged = 0
    · exact ⟨_, (Eq.refl (execBootFlash s)).trans ((if_neg (not_not.2 state)).trans (if_pos good)), by rw [if_pos good]; exact ⟨rfl, rfl⟩⟩
    · exact ⟨_, (Eq.refl (execBootFlash s)).trans ((if_neg (not_not.2 state)).trans (if_neg good)), by rw [if_neg good]; rfl⟩

end Sys2Proof.Machine
end

section
/-! SUPPORT. Semaphores (R268 to R272). -/

namespace Sys2Proof.Machine

open Sys2Proof

/-! ### Changes are clamped (R269) -/

section
variable (s : State) (g core n : Nat) (d : Int)

theorem semClamp_mod (x : Int) : ((semClamp x).1 % 65536 : Nat) = (semClamp x).1 := Nat.mod_eq_of_lt (Nat.lt_succ_of_le (semClamp_le x))

theorem State.semChange_eq : s.semChange g core n d =
    s.semPut g core n (semClamp ((s.semVal g core n : Int) + d)).1 (s.semSat g core n || (semClamp ((s.semVal g core n : Int) + d)).2) := rfl

theorem State.semAssign_eq : s.semAssign g core n d = s.semPut g core n (semClamp d).1 (semClamp d).2 := rfl

theorem State.semVal_semChange (m : Nat) : (s.semChange g core n d).semVal g core m =
    if m = n then (semClamp ((s.semVal g core n : Int) + d)).1 else s.semVal g core m := by
  rw [State.semChange_eq, State.semVal_semPut, semClamp_mod]

theorem State.semVal_semAssign (m : Nat) : (s.semAssign g core n d).semVal g core m = if m = n then (semClamp d).1 else s.semVal g core m := by
  rw [State.semAssign_eq, State.semVal_semPut, semClamp_mod]

theorem State.semSat_semChange : (s.semChange g core n d).semSat g core n = (s.semSat g core n || (semClamp ((s.semVal g core n : Int) + d)).2) :=
  State.semSat_semPut ..

theorem State.semSat_semAssign : (s.semAssign g core n d).semSat g core n = (semClamp d).2 := State.semSat_semPut ..

end

/-! ### The instructions (R271, R272) -/

section
variable {s : State} {x : YW}

theorem exec_wait : exec (.wait x) s = slotOp 7 (.wait x) (fun s => s.waitVerdict x) (fun s => s.waitTake x) s := Eq.refl (execWait x s)

theorem exec_semAdd : exec (.semAdd x) s =
    slotOp 7 (.semAdd x) (fun s => s.semVerdict (YWsem x)) (fun s => s.semByContext false (YWsem x) (s.addAmount x)) s := Eq.refl (execSemAdd x s)

theorem exec_semSet : exec (.semSet x) s =
    slotOp 7 (.semSet x) (fun s => s.semVerdict (YWsem x)) (fun s => s.semByContext true (YWsem x) (s.setAmount x)) s := Eq.refl (execSemSet x s)

theorem exec_semRd : exec (.semRd x) s = slotOp 7 (.semRd x) (fun s => s.semVerdict (YWsem x)) (fun s =>
    ((s.semNote s.issue.cid (YWsem x)).modMe fun c => { c with semReads := c.semReads ++ [(YWsem x, s.nextId)] }).landS 7 (x.co.extractLsb' 8 6)
      (s.semRead x) 2) s := Eq.refl (execSemRd x s)

theorem State.semVerdict_ok {n : Nat} (h : n < (s.group s.me.gid).nsems) : s.semVerdict n = .ok := if_neg (Nat.not_le.2 h)

theorem State.semVerdict_absent {n : Nat} (h : (s.group s.me.gid).nsems ≤ n) : s.semVerdict n = .trap .access (BitVec.ofNat 64 (0x200 + n)) :=
  if_pos h

theorem wait_threshold (w : Instr.wf (.wait x) = true) : YWthr x ≠ 0 := by
  obtain ⟨-, ne⟩ := Bool.and_eq_true_iff.1 w
  exact fun z => of_decide_eq_true ne (BitVec.eq_of_toNat_eq z)

theorem State.waitVerdict_eq (w : Instr.wf (.wait x) = true) (h : x.yws.toNat < (s.group s.me.gid).nsems) :
    s.waitVerdict x = if x.ywt.toNat ≤ s.semVal s.me.gid (coreOf s.issue.cid) x.yws.toNat then .ok else .stall := by
  rw [State.waitVerdict, if_neg (wait_threshold w), State.semVerdict_ok h]
  simp only [Verdict.both, State.waitHolds, YWthr]
  exact if_congr decide_eq_true_iff rfl rfl

/-- With no release of its context in progress a change acts at once. -/
theorem State.semByContext_now (h : s.me.release = none) (set : Bool) (n : Nat) (v : Int) : ∃ ws, s.semByContext set n v =
    { if set then s.semAssign s.me.gid (coreOf s.issue.cid) n v else s.semChange s.me.gid (coreOf s.issue.cid) n v with
      semWrites := ws, nextId := s.nextId + 1 } := by
  unfold State.semByContext
  rw [h]
  cases set <;> exact ⟨_, rfl⟩

/-- A release in progress holds a change back (R266). -/
theorem State.semByContext_held {r : Nat} (h : s.me.release = some r) (set : Bool) (n : Nat) (v : Int) :
    (s.semByContext set n v).me.heldSem = s.me.heldSem ++ [⟨r, s.nextId, set, n, v⟩] ∧ (s.semByContext set n v).groups = s.groups := by
  unfold State.semByContext
  rw [h]
  have m := State.me_modMe s fun c => { c with heldSem := c.heldSem ++ [⟨r, s.nextId, set, n, v⟩] }
  exact ⟨congrArg Ctx.heldSem m, rfl⟩

/-- Issued by itself an instruction shares its bundle with no wait. -/
theorem State.semRead_whole (p : s.issue.phase = .whole) : s.semRead x = BitVec.ofNat 64 (s.semVal s.me.gid (coreOf s.issue.cid) (YWsem x)) |||
    (if s.semSat s.me.gid (coreOf s.issue.cid) (YWsem x) then 0x10000 else 0) := by
  simp [State.semRead, p]

end

/-- Settles O31: the clamp of a change, and the four instructions by their verdicts. -/
theorem semaphoreResults : Obligations.SemaphoreResults := by
  refine ⟨fun s g core n d _ => ⟨?_, ?_, ?_, ?_, fun m _ ne => ⟨?_, ?_⟩⟩, fun s x n v p => ⟨fun w legal hv => ⟨fun le => ?_, fun lt => ?_⟩,
    fun hn legal hv => ⟨fun w idle => ?_, fun w idle => ?_, fun r i hi w held => ?_, fun w => ?_⟩, fun i hi w absent => ?_⟩⟩
  · rw [State.semVal_semChange, if_pos rfl, semClamp_fst]
  · rw [State.semSat_semChange, Bool.or_eq_true, semClamp_snd]
  · rw [State.semVal_semAssign, if_pos rfl, semClamp_fst]
  · rw [State.semSat_semAssign, semClamp_snd]
  · rw [State.semVal_semChange, if_neg ne]
  · rw [State.semVal_semAssign, if_neg ne]
  · rw [exec_wait, slotOp_of_ok p w ((State.waitVerdict_eq w legal).trans (if_pos (hv ▸ le)))]
    exact congrArg Host.Outcome.next (if_neg (wait_threshold w))
  · rw [exec_wait]
    exact slotOp_waits p (.inr ((slotVerdict_ok w).trans ((State.waitVerdict_eq w legal).trans (if_neg (hv ▸ Nat.not_le.2 lt)))))
  · obtain rfl := hn
    rw [exec_semAdd, slotOp_of_ok p w (State.semVerdict_ok legal)]
    obtain ⟨ws, e⟩ := State.semByContext_now idle false (YWsem x) (s.addAmount x)
    exact ⟨ws, congrArg Host.Outcome.next e⟩
  · obtain rfl := hn
    rw [exec_semSet, slotOp_of_ok p w (State.semVerdict_ok legal)]
    obtain ⟨ws, e⟩ := State.semByContext_now idle true (YWsem x) (s.setAmount x)
    exact ⟨ws, congrArg Host.Outcome.next e⟩
  · obtain rfl := hn
    simp only [List.mem_cons, List.not_mem_nil, or_false] at hi
    rcases hi with rfl | rfl
    · obtain ⟨h, g⟩ := State.semByContext_held held false (YWsem x) (s.addAmount x)
      exact ⟨_, _, exec_semAdd.trans (slotOp_of_ok p w (State.semVerdict_ok legal)), h, rfl, rfl, g⟩
    · obtain ⟨h, g⟩ := State.semByContext_held held true (YWsem x) (s.setAmount x)
      exact ⟨_, _, exec_semSet.trans (slotOp_of_ok p w (State.semVerdict_ok legal)), h, rfl, rfl, g⟩
  · obtain rfl := hn
    obtain rfl := hv
    rw [exec_semRd, slotOp_of_ok p w (State.semVerdict_ok legal), State.semRead_whole p]
    rfl
  · simp only [List.mem_cons, List.not_mem_nil, or_false] at hi
    rcases hi with rfl | rfl | rfl
    · exact exec_semAdd.trans (slotOp_of_trap p w (State.semVerdict_absent absent))
    · exact exec_semSet.trans (slotOp_of_trap p w (State.semVerdict_absent absent))
    · exact exec_semRd.trans (slotOp_of_trap p w (State.semVerdict_absent absent))

end Sys2Proof.Machine
end

section
/-! SUPPORT. The phaser instructions where R277 lets them act (R274, R277, R281). -/

namespace Sys2Proof.Machine

open Sys2Proof

/-! ### The parcel's table -/

section
variable {s : State} {n : Nat} {r : PhReg}

theorem Ctx.phReg?_modReg {c : Ctx} {f : PhReg → PhReg} (keeps : ∀ q, (f q).ph = q.ph) (h : c.phReg? n = some r) :
    (c.modReg n f).phReg? n = some (f r) := by
  have same : ((fun q : PhReg => q.ph == n) ∘ fun q => if q.ph = n then f q else q) = fun q => q.ph == n := by
    funext q
    by_cases e : q.ph = n <;> simp [e, keeps]
  have here : r.ph = n := by simpa using List.find?_some h
  show (c.phregs.map _).find? _ = _
  rw [List.find?_map, same, show c.phregs.find? (fun q => q.ph == n) = some r from h]
  exact congrArg some (if_pos here)

theorem Ctx.phReg?_raiseAp {c : Ctx} (h : c.phReg? n = some r) : (c.raiseAp n).phReg? n = some { r with ap := phaseAdd r.ap 1 } :=
  Ctx.phReg?_modReg (fun _ => rfl) h

/-! ### The actions -/

/-- A release of a context changes the posted stores, and of the context the cycle to which it publishes. -/
theorem State.releaseAs_eq (s : State) (cid scope : Nat) (rels : List Rel) : ∃ (l : List Posted) (till : Ctx → Nat),
    (s.releaseAs cid scope rels).2 = ({ s with posted := l } : State).modCtx cid fun c => { c with release := some (till c) } := by
  obtain ⟨l, h⟩ := State.publish_eq { s with posted := s.posted.map fun x => if x.before s cid then { x with rel := x.rel ++ rels } else x }
    scope (coreOf cid) fun x => x.before s cid
  exact ⟨l, fun c => max (c.release.getD 0) (s.releaseAs cid scope rels).1, congrArg (fun t : State => t.modCtx cid fun c =>
    { c with release := some (max (c.release.getD 0) (s.releaseAs cid scope rels).1) }) h⟩

/-- An arrival: AP rises, and the operation leaves for the phaser (R277). -/
theorem State.arrive_eq (s : State) (n : Nat) : ∃ (l : List Posted) (till : Ctx → Nat) (due : Nat), s.arrive n = ((({ s with posted := l } : State).modMe fun c =>
    { c with release := some (till c) }).sendPh s.issue.cid n .arrive due false).modMe fun c => c.raiseAp n := by
  unfold State.arrive
  dsimp only
  generalize [Rel.phase _ _ _] = rels
  obtain ⟨l, till, h⟩ := s.releaseAs_eq s.issue.cid (phScope n) rels
  rw [h]
  exact ⟨l, till, _, rfl⟩

theorem State.arrive_ctx (s : State) (n : Nat) : ∃ till, (s.arrive n).me = ({ s.me with release := some till } : Ctx).raiseAp n := by
  obtain ⟨l, till, due, e⟩ := s.arrive_eq n
  have m := State.me_modMe { s with posted := l } fun c => { c with release := some (till c) }
  rw [e, State.me_modMe]
  exact ⟨_, congrArg (·.raiseAp n) m⟩

theorem State.arrive_me (h : s.me.phReg? n = some r) : (s.arrive n).me.phReg? n = some { r with ap := phaseAdd r.ap 1 } ∧
    (s.arrive n).me.phWait = s.me.phWait ∧ (s.arrive n).me.regs.inh = s.me.regs.inh := by
  obtain ⟨till, e⟩ := s.arrive_ctx n
  rw [e]
  exact ⟨Ctx.phReg?_raiseAp h, rfl, rfl⟩

theorem State.arrive_phops (s : State) (n : Nat) : ∃ o : PhOp, (s.arrive n).phops = s.phops ++ [o] ∧ o.ph = n ∧ o.act = .arrive := by
  obtain ⟨l, till, due, e⟩ := s.arrive_eq n
  rw [e]
  exact ⟨_, rfl, rfl, rfl⟩

theorem State.phReturn_eq (h : s.me.phReg? n = some r) : s.phReturn s.issue.cid n =
    (s.acquirePhase s.issue.cid (s.me.phOwner n) n r.wp).modMe fun c => c.modReg n fun r => { r with wp := phaseAdd r.wp 1 } := by
  unfold State.phReturn
  dsimp only
  rw [show (s.ctx s.issue.cid).phReg? n = some r from h]
  rfl

theorem State.phEnded_eq (h : s.me.phReg? n = some r) : s.phEnded s.issue.cid n = laterPhase (s.phSeen s.me.gid n) r.wp := by
  unfold State.phEnded
  dsimp only
  rw [show (s.ctx s.issue.cid).phReg? n = some r from h]
  rfl

/-- A registration that may wait and has arrived passes the checks of R277. -/
theorem State.phWaitVerdict_ok (named : s.phNamed n) (h : s.me.phReg? n = some r) (waits : r.mode ≠ 1) (arrived : r.mode = 3 → r.wp ≠ r.ap) :
    s.phWaitVerdict n = if laterPhase (s.phSeen s.me.gid n) r.wp then .ok else .block := by
  have both : (decide (r.mode = 3) && decide (r.wp = r.ap)) = false := by
    by_cases m : r.mode = 3 <;> simp [m, arrived]
  rw [State.phWaitVerdict_eq named h, if_neg waits, both, State.phEnded_eq h]
  rfl

theorem State.arriveVerdict_ok (named : s.phNamed n) (h : s.me.phReg? n = some r) (signals : r.mode ≠ 2)
    (ahead : r.ap ≠ phaseAdd (s.phSeen s.me.gid n) 2) : s.arriveVerdict n = .ok := by
  rw [State.arriveVerdict_eq named h, if_neg signals, if_neg ahead]

end

/-! ### A drain that arrives (R281) -/

section
variable {s : State} {y : CW} {n : Nat} {r : PhReg}

/-- The push of a drain that arrives: the arrival is held, and the command remembers it and the phase it stands for (R281). -/
def State.pushArrival (s : State) (y : CW) (n : Nat) : State :=
  (((s.sendPh s.issue.cid n .arrive 0 true).modMe fun c => c.raiseAp n).push (.drain s.issue.cid) y.tail
    (.drain (y.ci.extractLsb' 0 8).toNat (y.ci.extractLsb' 8 3).toNat (y.ci.getLsbD 11) (some n) false) 0).modCmd (s.nextId + 1) fun c =>
      { c with aux := s.nextId, lead := match s.me.phReg? n with | some r => r.ap | none => 0 }

theorem exec_drain_arrives (p : s.issue.phase = .whole) (w : Instr.wf (.drain y) = true) (arrives : y.ci.getLsbD 12 = true)
    (may : s.arriveVerdict (drainPh y) = .ok) (tail : s.tailOk y.tail) (room : s.hasRoom (.drain s.issue.cid)) :
    exec (.drain y) s = .next (s.pushArrival y (drainPh y)) := by
  have arrival : drainArrives y = some (drainPh y) := by rw [drainArrives, arrives]; rfl
  refine (Eq.refl (execDrain y s)).trans ?_
  rw [execDrain, slotOp_of_ok p w]
  · simp only [arrival]
    rfl
  · simp only [arrival, may, tailVerdict_ok.2 tail, State.roomVerdict_ok room, Verdict.ok_both]

theorem State.pushArrival_me (y : CW) (h : s.me.phReg? n = some r) : (s.pushArrival y n).me.phReg? n = some { r with ap := phaseAdd r.ap 1 } := by
  have pushed : (s.pushArrival y n).me = ((s.sendPh s.issue.cid n .arrive 0 true).modMe fun c => c.raiseAp n).me :=
    State.push_me (q := .drain s.issue.cid) (tail := y.tail) (n := 0)
      (op := .drain (y.ci.extractLsb' 0 8).toNat (y.ci.extractLsb' 8 3).toNat (y.ci.getLsbD 11) (some n) false) ..
  rw [pushed, State.me_modMe]
  exact Ctx.phReg?_raiseAp h

theorem State.pushArrival_frame (s : State) (y : CW) (n : Nat) : (∃ o : PhOp, (s.pushArrival y n).phops = s.phops ++ [o] ∧ o.act = .arrive ∧
    o.held = true) ∧ (s.pushArrival y n).cmds.length = s.cmds.length + 1 := by
  obtain ⟨c, l, e, -⟩ := ((s.sendPh s.issue.cid n .arrive 0 true).modMe fun c => c.raiseAp n).push_eq (.drain s.issue.cid) y.tail
    (.drain (y.ci.extractLsb' 0 8).toNat (y.ci.extractLsb' 8 3).toNat (y.ci.getLsbD 11) (some n) false) 0
  unfold State.pushArrival
  rw [e]
  refine ⟨⟨_, rfl, rfl, rfl⟩, ?_⟩
  rw [State.cmds_modCmd, List.length_map, List.length_append]
  rfl

end

/-- Settles O32: each instruction by its checks, then by what it does to the parcel's table and to the operations under way. -/
theorem phaserInstructionResults : Obligations.PhaserInstructionResults := by
  intro s x n hn p named
  obtain rfl : n = YWph x := hn
  refine ⟨fun w unregistered few => ?_, fun r reg => ⟨fun w => ?_, fun signals ahead => ⟨fun w => ?_, fun w waits => ?_⟩,
    fun w waits arrived => ⟨fun ended => ?_, fun pending => ?_⟩, fun y w arrives hn signals ahead tail room => ?_⟩⟩
  · have ok : s.regVerdict (YWph x) = .ok := by
      rw [State.regVerdict_eq named, if_neg (by simp [unregistered]), if_neg (Nat.not_le.2 few)]
    refine ⟨_, _, exec_phReg.trans (slotOp_of_ok p w ok), ?_, rfl, rfl, rfl⟩
    rw [State.phRegister, State.me_modMe]
    rfl
  · have ok : s.dropVerdict (YWph x) = .ok := by
      rw [State.dropVerdict, State.phName_ok named, Verdict.ok_both, if_pos (by simp [reg])]
    refine ⟨_, _, exec_phDrop.trans (slotOp_of_ok p w ok), ?_, rfl, rfl, rfl⟩
    have m := State.me_modMe (s.sendPh s.issue.cid (YWph x) .drop (s.phStart s.issue.cid + s.phCount (YWph x)) false)
      fun c => { c with phregs := c.phregs.filter fun r => r.ph != YWph x }
    exact congrArg Ctx.phregs m
  · obtain ⟨o, hops, hph, hact⟩ := s.arrive_phops (YWph x)
    exact ⟨_, o, exec_phArr.trans (slotOp_of_ok p w (State.arriveVerdict_ok named reg signals ahead)), (State.arrive_me reg).1, hops, hph, hact⟩
  · obtain ⟨o, hops, hph, hact⟩ := s.arrive_phops (YWph x)
    obtain ⟨hreg, hwait, hinh⟩ := State.arrive_me reg
    have ok : s.arwVerdict (YWph x) = .ok := by
      rw [State.arwVerdict, State.arriveVerdict_ok named reg signals ahead, reg]
      exact if_neg waits
    have m := State.me_modMe (s.arrive (YWph x)) fun c => { c with phWait := c.phWait ++ [(YWph x, YWphTicks x, c.regs.inh)] }
    refine ⟨_, o, exec_phArw.trans (slotOp_of_ok p w ok), (congrArg (·.phReg? (YWph x)) m).trans hreg, hops, hph, hact,
      (congrArg Ctx.phWait m).trans ?_⟩
    show (s.arrive (YWph x)).me.phWait ++ [(YWph x, YWphTicks x, (s.arrive (YWph x)).me.regs.inh)] = _
    rw [hwait, hinh]
    rfl
  · refine ⟨_, exec_phWait.trans (slotOp_of_ok p w ((State.phWaitVerdict_ok named reg waits arrived).trans (if_pos ended))), ?_, ?_⟩
    · rw [State.phReturn_eq reg, State.me_modMe]
      exact Ctx.phReg?_modReg (fun _ => rfl) reg
    · rw [State.phReturn_eq reg]
      rfl
  · exact exec_phWait.trans (slotOp_waits p (.inl ((slotVerdict_ok w).trans
      ((State.phWaitVerdict_ok named reg waits arrived).trans (if_neg (by simp [pending]))))))
  · rw [exec_drain_arrives p w arrives (by rw [hn]; exact State.arriveVerdict_ok named reg signals ahead) tail room, hn]
    obtain ⟨⟨o, hops, hact, hheld⟩, hcmds⟩ := s.pushArrival_frame y (YWph x)
    exact ⟨_, o, rfl, State.pushArrival_me y reg, hops, hact, hheld, hcmds⟩

end Sys2Proof.Machine
end

section
/-! SUPPORT. Global memory: addresses, translations and posted stores (R226, R240, R246, R256, R259). -/

namespace Sys2Proof.Machine

open Sys2Proof

/-! ### Addresses and translations (R226, R240) -/

section
variable {s : State} {x : LW} {ea : Word} {n al : Nat} {p : PAddr}

theorem vaVerdict_ok (aligned : ea.toNat % al = 0) (low : ea.toNat < 2 ^ 57) : vaVerdict ea al = .ok := by
  have top : vaOk ea = true := by
    refine decide_eq_true (BitVec.eq_of_toNat_eq ?_)
    rw [BitVec.extractLsb'_toNat, Nat.shiftRight_eq_div_pow, Nat.div_eq_of_lt low]
    rfl
  rw [vaVerdict, if_neg (not_not.2 aligned), if_pos top]

theorem State.storeVerdict_ok {kind : Nat} {ps : List (PAddr × Nat)} (walk : s.noWalk ea)
    (found : s.translate (s.portOf s.issue.cid) s.me.asid ea.toNat n .write s.me.priv = .ok ps) : s.storeVerdict kind ea n = .ok := by
  have walked : s.walked ea = true := by
    unfold State.walked
    split
    next a t h =>
      by_cases e : a = ea
      · subst e
        simpa using walk t h
      · simp [e]
    next => rfl
  simp only [State.storeVerdict, walked, found, Bool.not_true, Bool.false_eq_true, if_false]

/-- A store within one page is cut into its elements from one piece (R240, R253). -/
theorem State.piecesFor_one {data : List Byte} {el : Nat}
    (found : s.translate (s.portOf s.issue.cid) s.me.asid ea.toNat data.length .write s.me.priv = .ok [(p, data.length)]) :
    s.piecesFor ea data el = splitPiece el ⟨p, data⟩ := by
  simp only [State.piecesFor, found, cutParts, List.map_cons, List.map_nil, List.flatten_cons, List.flatten_nil, List.append_nil, List.take_length]

/-- Bytes that make up one element are one piece. -/
theorem splitPiece_one {data : List Byte} (h : data.length = n) (pos : 0 < n) : splitPiece n ⟨p, data⟩ = [⟨p, data⟩] := by
  have one : (n + n - 1) / n = 1 := Nat.div_eq_of_lt_le (by omega) (by omega)
  simp [splitPiece, h, one, List.take_of_length_le (Nat.le_of_eq h)]

end

/-! ### The bytes of a vector by elements -/

theorem natLe_drop (k n v : Nat) : (natLe n v).drop k = natLe (n - k) (v / 256 ^ k) := by
  induction k generalizing n v with
  | zero => simp
  | succ k ih =>
    cases n with
    | zero => simp [natLe]
    | succ n => rw [natLe, List.drop_succ_cons, ih, Nat.add_sub_add_right, Nat.div_div_eq_div_mul, Nat.pow_succ']

theorem natLe_take {k n : Nat} (h : k ≤ n) (v : Nat) : (natLe n v).take k = natLe k v := by
  induction k generalizing n v with
  | zero => rfl
  | succ k ih =>
    obtain ⟨m, rfl⟩ : ∃ m, n = m + 1 := ⟨n - 1, by omega⟩
    rw [natLe, List.take_succ_cons, ih (by omega), natLe]

theorem natLe_mod (n v : Nat) : natLe n (v % 2 ^ (8 * n)) = natLe n v := by
  induction n generalizing v with
  | zero => rfl
  | succ n ih =>
    have split : 2 ^ (8 * (n + 1)) = 256 * 2 ^ (8 * n) := by rw [show 8 * (n + 1) = 8 + 8 * n by ring, Nat.pow_add]
    have low : BitVec.ofNat 8 (v % 2 ^ (8 * (n + 1))) = BitVec.ofNat 8 v := by
      refine BitVec.eq_of_toNat_eq ?_
      rw [BitVec.toNat_ofNat, BitVec.toNat_ofNat, split]
      exact Nat.mod_mul_right_mod v (2 ^ 8) _
    rw [natLe, natLe, low, split, Nat.mod_mul_right_div_self, ih]

/-- The 32-bit elements of a vector are its bytes, four by four (R240). -/
theorem vBytes_element (v : VWord) {i : Nat} (h : i < 32) : ((vBytes v).drop (4 * i)).take 4 = natLe 4 (elem v 32 i) := by
  rw [vBytes, natLe_drop, natLe_take (by omega), elem, natLe_mod 4, Nat.shiftRight_eq_div_pow, Nat.mul_comm 32 i, Nat.mul_comm 4 i, Nat.pow_mul',
    Nat.pow_mul']

theorem splitPiece_vBytes (p : PAddr) (v : VWord) : splitPiece 4 ⟨p, vBytes v⟩ =
    (List.range 32).map fun i => ⟨⟨p.mt, p.addr + 4 * i⟩, natLe 4 (elem v 32 i)⟩ := by
  rw [splitPiece, show (vBytes v).length = 128 from natLe_length ..]
  exact List.map_congr_left fun i hi => by rw [vBytes_element v (List.mem_range.1 hi)]

/-! ### The instructions (R240, R246) -/

section
variable {s : State} {x : LW} {p : PAddr}

theorem exec_stg (h : s.issue.phase = .whole) (w : Instr.wf (.stg x) = true) (low : (s.ea x).toNat < 2 ^ 57) (room : s.gateRoom)
    (walk : s.noWalk (s.ea x)) (aligned : (s.ea x).toNat % accBytes x.fn = 0)
    (found : s.translate (s.portOf s.issue.cid) s.me.asid (s.ea x).toNat (accBytes x.fn) .write s.me.priv = .ok [(p, accBytes x.fn)]) :
    exec (.stg x) s = .next (s.gateOrDo (.global (s.ea x) [⟨p, natLe (accBytes x.fn) (s.me.rs (x.dr.extractLsb' 0 6)).toNat⟩])) := by
  refine (Eq.refl (execStg x s)).trans ?_
  rw [execStg, slotOp_of_ok h w]
  · rw [State.piecesFor_one (by rw [natLe_length]; exact found), splitPiece_one (n := accBytes x.fn) (natLe_length ..) (Nat.two_pow_pos _)]
  · rw [vaVerdict_ok aligned low, State.storeVerdict_ok walk found, State.gateVerdict_ok room, Verdict.ok_both, Verdict.ok_both]

theorem exec_vstg (h : s.issue.phase = .whole) (w : Instr.wf (.vstg x) = true) (low : (s.ea x).toNat < 2 ^ 57) (room : s.gateRoom)
    (walk : s.noWalk (s.ea x)) (aligned : (s.ea x).toNat % 4 = 0)
    (found : s.translate (s.portOf s.issue.cid) s.me.asid (s.ea x).toNat 128 .write s.me.priv = .ok [(p, 128)]) :
    exec (.vstg x) s = .next (s.gateOrDo (.global (s.ea x)
      ((List.range 32).map fun i => ⟨⟨p.mt, p.addr + 4 * i⟩, natLe 4 (elem (s.me.rv x.dr) 32 i)⟩))) := by
  refine (Eq.refl (execVstg x s)).trans ?_
  rw [execVstg, slotOp_of_ok h w]
  · rw [State.piecesFor_one (by rw [vBytes, natLe_length]; exact found), splitPiece_vBytes]
  · rw [vaVerdict_ok aligned low, State.storeVerdict_ok walk found, State.gateVerdict_ok room, Verdict.ok_both, Verdict.ok_both]

/-- With no region open each piece of a global store is posted (R240). -/
theorem State.gateOrDo_global_of_none {ea : Word} {ps : List Piece} (closed : s.me.region = none) :
    s.gateOrDo (.global ea ps) = ps.foldl (fun t p => t.postPiece s.issue.cid s.nextId p) s := by
  simp only [State.gateOrDo, closed, State.commitOp]

end

/-! ### What a posted store shows (R240, R256, R259) -/

section
variable {vis : Posted → Bool} {mt a : Nat} {out : Bool} {b : Byte}

theorem overlay_append (l m : List Posted) : overlay vis mt a out (l ++ m) b = overlay vis mt a out m (overlay vis mt a out l b) := by
  induction l generalizing b with
  | nil => rfl
  | cons p l ih => exact ih

/-- A write that does not show, or covers another address, leaves what a viewer reads. -/
theorem overlay_append_hidden (l : List Posted) {p : Posted} (h : vis p = false ∨ p.piece.byteAt mt a = none ∨ p.out ≠ out) :
    overlay vis mt a out (l ++ [p]) b = overlay vis mt a out l b := by
  rw [overlay_append]
  rcases h with h | h | h <;> simp [overlay, h]

theorem overlay_append_shown (l : List Posted) {p : Posted} {x : Byte} (here : p.out = out) (shows : vis p = true)
    (h : p.piece.byteAt mt a = some x) : overlay vis mt a out (l ++ [p]) b = x := by
  rw [overlay_append]
  simp [overlay, here, shows, h]

theorem Piece.byteAt_inside (p : Piece) (i : Nat) : p.byteAt p.at_.mt (p.at_.addr + i) = p.data[i]? := by
  simp [Piece.byteAt]

theorem Piece.byteAt_outside {p : Piece} (h : a < p.at_.addr ∨ p.at_.addr + p.data.length ≤ a) : p.byteAt mt a = none := by
  unfold Piece.byteAt
  split
  next c =>
    obtain ⟨-, le⟩ := Bool.and_eq_true_iff.1 c
    exact List.getElem?_eq_none (by have := of_decide_eq_true le; omega)
  next => rfl

variable (s : State) (cid : Nat) (p : Piece)

/-- A posted store stands outside the coherence order and shows to its own core only (R256, R259). -/
theorem State.newStore_shows (q : Nat) : (s.newStore cid s.nextId p).shows q = (coreOf cid == q) := by
  simp [Posted.shows, Posted.ofCore, State.newStore]

theorem State.byteSeen_post (q mt a : Nat) : (s.post cid p).byteSeen q mt a =
    if mt = 0 && Config.hbmBytes ≤ a then Config.outsideByte s.now a
    else overlay (Posted.shows q) mt a false (s.posted ++ [s.newStore cid s.nextId p])
      (overlay (Posted.shows q) mt a true s.posted ((s.backing mt).get a)) :=
  congrArg (fun b => if mt = 0 && Config.hbmBytes ≤ a then Config.outsideByte s.now a
    else overlay (Posted.shows q) mt a false (s.posted ++ [s.newStore cid s.nextId p]) b)
    (overlay_append_hidden s.posted (.inr (.inr Bool.false_ne_true)))

/-- What a viewer reads where the store does not show or covers another address. -/
theorem State.byteSeen_post_hidden {q mt a : Nat} (h : coreOf cid ≠ q ∨ p.byteAt mt a = none) :
    (s.post cid p).byteSeen q mt a = s.byteSeen q mt a := by
  rw [State.byteSeen_post, overlay_append_hidden, State.byteSeen, State.byteBy]
  rcases h with h | h
  · exact .inl ((s.newStore_shows cid p q).trans (by simpa using h))
  · exact .inr (.inl h)

end

/-- Settles O18: the two stores by their checks and their pieces, and the posted store by what it overlays. -/
theorem globalStoreResults : Obligations.GlobalStoreResults := by
  refine ⟨?_, fun s cid p => ⟨fun inMap i hi => ?_, fun a out => ?_, fun q mt a other => ?_, sameMemory_of_memories rfl⟩⟩
  · rintro s x n p rfl h low room walk
    refine ⟨fun w aligned found => ⟨fun closed => ?_, fun r opened => ?_⟩, fun w aligned found => ⟨fun closed => ?_, fun r opened => ?_⟩⟩
    · rw [exec_stg h w low room walk aligned found, State.gateOrDo_global_of_none closed]
      rfl
    · rw [exec_stg h w low room walk aligned found, State.gateOrDo_of_some opened]
      rfl
    · rw [exec_vstg h w low room walk aligned found, State.gateOrDo_global_of_none closed, List.foldl_map]
    · rw [exec_vstg h w low room walk aligned found, State.gateOrDo_of_some opened]
  · have inside : (decide (p.at_.mt = 0) && decide (Config.hbmBytes ≤ p.at_.addr + i)) = false := by
      by_cases m : p.at_.mt = 0
      · have := inMap m
        simp [m]
        omega
      · simp [m]
    have byte : (s.newStore cid s.nextId p).piece.byteAt p.at_.mt (p.at_.addr + i) = some ((p.data[i]?).getD 0) := by
      refine (Piece.byteAt_inside p i).trans ?_
      simp [List.getElem?_eq_getElem hi]
    rw [State.byteSeen_post, inside]
    exact overlay_append_shown s.posted rfl ((s.newStore_shows cid p _).trans (by simp)) byte
  · exact s.byteSeen_post_hidden cid p (.inr (Piece.byteAt_outside out))
  · exact s.byteSeen_post_hidden cid p (.inl (Ne.symm other))

end Sys2Proof.Machine
end

section
/-! SUPPORT. Atomics leave for their home points (R241, R242, R244). -/

namespace Sys2Proof.Machine

open Sys2Proof

section
variable {s : State} {x : LW} {op : Nat} {p : PAddr}

/-- The nine atomics by their numbers. -/
theorem exec_atomic {i : Instr} (row : (op, i) ∈ [(0, Instr.amoAdd x), (1, .amoMin x), (2, .amoMax x), (3, .amoAnd x), (4, .amoOr x),
    (5, .amoXor x), (6, .amoSwap x), (7, .amoCas x), (8, .amoFadd x)]) : exec i s = amoOp op i x s := by
  simp only [List.mem_cons, List.not_mem_nil, or_false] at row
  rcases row with ⟨rfl, rfl⟩ | ⟨rfl, rfl⟩ | ⟨rfl, rfl⟩ | ⟨rfl, rfl⟩ | ⟨rfl, rfl⟩ | ⟨rfl, rfl⟩ | ⟨rfl, rfl⟩ | ⟨rfl, rfl⟩ | ⟨rfl, rfl⟩
  · exact Eq.refl (execAmoAdd x s)
  · exact Eq.refl (execAmoMin x s)
  · exact Eq.refl (execAmoMax x s)
  · exact Eq.refl (execAmoAnd x s)
  · exact Eq.refl (execAmoOr x s)
  · exact Eq.refl (execAmoXor x s)
  · exact Eq.refl (execAmoSwap x s)
  · exact Eq.refl (execAmoCas x s)
  · exact Eq.refl (execAmoFadd x s)

theorem State.amoVerdict_ok (aligned : (s.amoEa op x).toNat % accBytes x.fn = 0) (low : (s.amoEa op x).toNat < 2 ^ 57)
    (may : p.mt < 2 ∨ s.hostAmoOk op (accBytes x.fn) = true) (walk : s.noWalk (s.amoEa op x))
    (found : s.translate (s.portOf s.issue.cid) s.me.asid (s.amoEa op x).toNat (accBytes x.fn) .write s.me.priv = .ok [(p, accBytes x.fn)])
    (room : x.fn.getLsbD 2 = true → s.farRoom 5) : s.amoVerdict op x = .ok := by
  have queue : (if x.fn.getLsbD 2 then s.fqVerdict 5 else .ok) = .ok := by
    split
    next fetch => exact State.fqVerdict_ok (room fetch)
    next => rfl
  have host : ((([(p, accBytes x.fn)] : List (PAddr × Nat)).any fun p => decide (2 ≤ p.1.mt)) && !s.hostAmoOk op (accBytes x.fn)) = false := by
    rcases may with near | may
    · simp [Nat.not_le.2 near]
    · simp [may]
  simp only [State.amoVerdict, vaVerdict_ok aligned low, queue, State.storeVerdict_ok walk found, Verdict.ok_both, found, host, Bool.false_eq_true,
    if_false]

/-- An entry that joins the far-load queue makes it longer by one. -/
theorem State.putFar_far_length (s : State) (e : FarEntry) : (s.putFar e).me.far.length = s.me.far.length + 1 := by
  have split : ∀ f : FarEntry → Bool, (s.me.far.takeWhile f ++ e :: s.me.far.dropWhile f).length = s.me.far.length + 1 := fun f => by
    have whole := congrArg List.length (List.takeWhile_append_dropWhile (p := f) (l := s.me.far))
    simp only [List.length_append, List.length_cons] at whole ⊢
    omega
  unfold State.putFar
  rw [State.me_modMe]
  exact split _

/-- A read of the context under issue changes no more of it than the time of its last read. -/
theorem State.noteRead_me (s : State) : (s.noteRead s.issue.cid).me = { s.me with seen := s.nextId } := by
  unfold State.noteRead
  dsimp only
  generalize (fun x : Posted => _ || _) = f
  exact State.me_modMe (s.link s.issue.cid f) fun c => { c with seen := s.nextId }

/-- What leaves for the home point, and the entry of a fetching form (R242). -/
theorem State.sendAmo_sent
    (found : s.translate (s.portOf s.issue.cid) s.me.asid (s.amoEa op x).toNat (accBytes x.fn) .write s.me.priv = .ok [(p, accBytes x.fn)]) :
    ∃ r : AtomicReq, (s.sendAmo op x).atomics = s.atomics ++ [r] ∧ r.op = op ∧ r.at_ = p ∧ r.size = accBytes x.fn ∧
      r.operand = s.me.rs (x.dr.extractLsb' 0 6) ∧ r.compare = s.me.rs x.si ∧ r.fetch.isSome = x.fn.getLsbD 2 ∧
      (s.sendAmo op x).me.far.length = s.me.far.length + (if x.fn.getLsbD 2 then 1 else 0) ∧ (s.sendAmo op x).memories = s.memories := by
  simp only [State.sendAmo, found]
  by_cases fetch : x.fn.getLsbD 2 = true
  · simp only [fetch, if_true]
    refine ⟨_, rfl, rfl, rfl, rfl, rfl, rfl, rfl, ?_, rfl⟩
    exact (congrArg (fun c : Ctx => c.far.length) (State.noteRead_me _)).trans (State.putFar_far_length _ _)
  · simp only [Bool.not_eq_true] at fetch
    simp only [fetch, Bool.false_eq_true, if_false]
    exact ⟨_, rfl, rfl, rfl, rfl, rfl, rfl, rfl, rfl, rfl⟩

end

/-- Settles O19: the checks of an atomic, then what it sends. -/
theorem atomicsLeaveForHome : Obligations.AtomicsLeaveForHome := by
  rintro s x n p op i ea rfl h row rfl w aligned low may walk found room
  obtain ⟨r, atomics, hop, hat, hsize, hoperand, hcompare, hfetch, hfar, hmem⟩ := State.sendAmo_sent found
  exact ⟨r, _, (exec_atomic row).trans (slotOp_of_ok h w (State.amoVerdict_ok aligned low may walk found room)), atomics, hop, hat, hsize,
    hoperand, hcompare, hfetch, hfar, sameMemory_of_memories hmem⟩

end Sys2Proof.Machine
end

section
/-! SUPPORT. Fences: what a release publishes and what an acquire links (R257, R258, R265, R266). -/

namespace Sys2Proof.Machine

open Sys2Proof

/-! ### The coherence order and publication (R254, R258) -/

section
variable {s : State} {q x : Posted} {scope core : Nat} {p : Posted → Bool}

/-- A write that enters joins the posted stores; those that stand there stay. -/
theorem State.mem_enter {xs : List Posted} : q ∈ (s.enter xs).posted ↔ q ∈ s.posted ∨ ∃ x ∈ xs, q = { x with born := s.now } := by
  induction xs generalizing s with
  | nil => simp [State.enter]
  | cons y ys ih =>
    have joined : ∀ f : Posted → Bool, q ∈ (s.posted.takeWhile f ++ { y with born := s.now } :: s.posted.dropWhile f) ↔
        q ∈ s.posted ∨ q = { y with born := s.now } := fun f => by
      rw [List.mem_append, List.mem_cons, or_left_comm, ← List.mem_append, List.takeWhile_append_dropWhile, or_comm]
    refine Iff.trans ih ((or_congr (joined _) Iff.rfl).trans ?_)
    rw [List.exists_mem_cons_iff, or_assoc]

theorem Posted.mem_published : (scope, core) ∈
    (if x.pub.contains (scope, core) then x else { x with pub := x.pub ++ [(scope, core)] } : Posted).pub := by
  split
  · exact List.contains_iff_mem.1 ‹_›
  · simp

theorem Posted.published_id : (if x.pub.contains (scope, core) then x else { x with pub := x.pub ++ [(scope, core)] } : Posted).id = x.id ∧
    (if x.pub.contains (scope, core) then x else { x with pub := x.pub ++ [(scope, core)] } : Posted).piece = x.piece := by
  split <;> exact ⟨rfl, rfl⟩

/-- A store that the publication names and no release holds back is published (R258). -/
theorem State.publish_published (h : x ∈ s.posted) (named : p x = true) (free : x.wait ≤ s.cycleOf x.cid) :
    ∃ q ∈ (s.publish scope core p).posted, q.id = x.id ∧ q.piece = x.piece ∧ (scope, core) ∈ q.pub := by
  have now : (p x && !s.waits x) = true := by simp [named, State.waits, free]
  obtain ⟨hid, hpiece⟩ := Posted.published_id (x := x) (scope := scope) (core := core)
  unfold State.publish
  dsimp only
  by_cases e : (p x && !s.waits x && !x.out && decide (2 ≤ scope)) = true
  · exact ⟨_, State.mem_enter.2 (.inr ⟨_, List.mem_map_of_mem (List.mem_filter.2 ⟨h, e⟩), rfl⟩), hid, hpiece, Posted.mem_published⟩
  · refine ⟨_, State.mem_enter.2 (.inl (List.mem_map.2 ⟨x, List.mem_filter.2 ⟨h, Bool.not_eq_true' _ ▸ Bool.eq_false_iff.2 e⟩, if_pos now⟩)), hid, hpiece,
      Posted.mem_published⟩

/-- A publication keeps every store, and of one that it does not name all that it says (R258). -/
theorem State.publish_from (h : q ∈ (s.publish scope core p).posted) :
    ∃ x ∈ s.posted, q.id = x.id ∧ q.piece = x.piece ∧ (p x = false → q.pub = x.pub ∧ q.rel = x.rel) := by
  unfold State.publish at h
  dsimp only at h
  rcases State.mem_enter.1 h with stays | ⟨y, entered, rfl⟩
  · obtain ⟨x, hx, rfl⟩ := List.mem_map.1 stays
    obtain ⟨hid, hpiece⟩ := Posted.published_id (x := x) (scope := scope) (core := core)
    refine ⟨x, (List.mem_filter.1 hx).1, ?_⟩
    split
    next now => exact ⟨hid, hpiece, fun f => by simp [f] at now⟩
    next =>
      split
      next named => exact ⟨rfl, rfl, fun f => by simp [f] at named⟩
      next => exact ⟨rfl, rfl, fun _ => ⟨rfl, rfl⟩⟩
  · obtain ⟨x, hx, rfl⟩ := List.mem_map.1 entered
    obtain ⟨hid, hpiece⟩ := Posted.published_id (x := x) (scope := scope) (core := core)
    obtain ⟨hx, enters⟩ := List.mem_filter.1 hx
    exact ⟨x, hx, hid, hpiece, fun f => by simp [f] at enters⟩

end

/-! ### The release half (R257, R258, R266) -/

section
variable {s : State} {x : LW} {scope : Nat}

/-- The posted stores of a release: those that happen-before it take the fence. -/
def State.released (s : State) (cid scope : Nat) : State :=
  { s with posted := s.posted.map fun p => if p.before s cid then { p with rel := p.rel ++ [.fence cid (coreOf cid) scope s.nextId] } else p }

theorem State.releaseAt_posted (s : State) (cid scope : Nat) : (s.releaseAt cid scope).2.posted =
    ((s.released cid scope).publish scope (coreOf cid) fun p => p.before s cid).posted := rfl

theorem State.before_released (s : State) (cid scope : Nat) (p : Posted) :
    (if p.before s cid then { p with rel := p.rel ++ [.fence cid (coreOf cid) scope s.nextId] } else p : Posted).before s cid = p.before s cid := by
  split <;> rfl

/-- A release publishes what happens-before it and no earlier release holds back (R258, R266). -/
theorem State.releaseAt_published {p : Posted} {cid : Nat} (h : p ∈ s.posted) (before : p.before s cid = true) (free : p.wait ≤ s.cycleOf p.cid) :
    ∃ q ∈ (s.releaseAt cid scope).2.posted, q.id = p.id ∧ q.piece = p.piece ∧ (scope, coreOf cid) ∈ q.pub := by
  rw [s.releaseAt_posted]
  exact State.publish_published (x := { p with rel := p.rel ++ [.fence cid (coreOf cid) scope s.nextId] })
    (List.mem_map.2 ⟨p, h, if_pos before⟩) before free

theorem State.releaseAt_from {q : Posted} {cid : Nat} (h : q ∈ (s.releaseAt cid scope).2.posted) :
    ∃ p ∈ s.posted, q.id = p.id ∧ q.piece = p.piece ∧ (p.before s cid = false → q.pub = p.pub ∧ q.rel = p.rel) := by
  rw [s.releaseAt_posted] at h
  obtain ⟨y, hy, hid, hpiece, keeps⟩ := State.publish_from h
  obtain ⟨p, hp, rfl⟩ := List.mem_map.1 hy
  refine ⟨p, hp, ?_⟩
  rw [State.before_released] at keeps
  by_cases b : p.before s cid = true
  · rw [if_pos b] at hid hpiece
    exact ⟨hid, hpiece, fun f => by simp [b] at f⟩
  · rw [if_neg b] at hid hpiece keeps
    exact ⟨hid, hpiece, keeps⟩

/-- A release waits for the farthest home of its scope, and holds back the context's later writes (R266). -/
theorem State.releaseAt_until (s : State) (scope : Nat) :
    s.myCycle + s.pathCount s.issue.cid (releaseCount scope) ≤ (s.releaseAt s.issue.cid scope).1 ∧
    (s.releaseAt s.issue.cid scope).2.me.release = some (max (s.me.release.getD 0) (s.releaseAt s.issue.cid scope).1) := by
  constructor
  · exact Nat.add_le_add_left (Nat.le_trans (Nat.le_add_right _ _) (Nat.le_max_left _ _)) _
  · obtain ⟨l, h⟩ := State.publish_eq (s.released s.issue.cid scope) scope (coreOf s.issue.cid) fun p => p.before s s.issue.cid
    have m := congrArg (fun t : State => t.modCtx s.issue.cid fun c =>
      { c with release := some (max (c.release.getD 0) (s.releaseAt s.issue.cid scope).1) }) h
    have r := congrArg (fun t : State => t.me.release) m
    refine r.trans (congrArg Ctx.release (State.me_modMe _ _))

end

/-! ### The acquire half (R257, R265) -/

/-- What a context acquires happens-before what follows (R256). -/
theorem State.acquire_linked {s : State} {cid : Nat} {f : Posted → Bool} {p : Posted} (h : p ∈ s.posted) (named : f p = true) :
    ∃ q ∈ (s.acquire cid f).posted, q.id = p.id ∧ q.piece = p.piece ∧ ∃ h ∈ q.hb, h.1 = cid := by
  refine ⟨_, List.mem_map_of_mem (List.mem_map_of_mem h), ?_⟩
  have linked : ∃ l, (if f p && !(p.hb.any fun h => h.1 == cid) then { p with hb := (cid, s.nextId) :: p.hb } else p : Posted) =
      { p with hb := l } ∧ ∃ h ∈ l, h.1 = cid := by
    split
    next => exact ⟨_, rfl, _, .head _, rfl⟩
    next c => exact ⟨p.hb, rfl, by simpa [named] using c⟩
  obtain ⟨l, e, has⟩ := linked
  rw [e]
  split <;> exact ⟨rfl, rfl, has⟩

/-- A fence acquires by a release whose writes the context has read, each in the other's scope (R257). -/
theorem State.acquireFence_fence {s : State} {scope k c sc n : Nat} {p : Posted} {w : Nat × Nat × Nat} (h : p ∈ s.posted)
    (release : Rel.fence k c sc n ∈ p.rel) (read : w ∈ s.me.reads) (same : w.1 = k) (later : n ≤ w.2.2) (wide : sc ≠ 0) (here : scope ≠ 0)
    (reaches : c = coreOf s.issue.cid ∨ scopeHas sc c (coreOf s.issue.cid) = true)
    (reached : coreOf s.issue.cid = w.2.1 ∨ scopeHas scope (coreOf s.issue.cid) w.2.1 = true) :
    ∃ q ∈ (s.acquireFence s.issue.cid scope).posted, q.id = p.id ∧ q.piece = p.piece ∧ ∃ h ∈ q.hb, h.1 = s.issue.cid := by
  refine State.acquire_linked h (Bool.or_eq_true_iff.2 (.inl (List.any_eq_true.2 ⟨_, release, List.any_eq_true.2 ⟨w, read, ?_⟩⟩)))
  simp only [same, later, wide, here, beq_self_eq_true, decide_true, Bool.true_and, if_false, Bool.and_eq_true, Bool.or_eq_true, beq_iff_eq]
  exact ⟨reaches, reached⟩

theorem State.acquireFence_signal {s : State} {scope id : Nat} {p : Posted} {n : Nat × Nat} (h : p ∈ s.posted) (read : n ∈ s.me.semReads)
    (signal : Rel.signal s.me.gid (coreOf s.issue.cid) n.1 id ∈ p.rel) (earlier : id < n.2) :
    ∃ q ∈ (s.acquireFence s.issue.cid scope).posted, q.id = p.id ∧ q.piece = p.piece ∧ ∃ h ∈ q.hb, h.1 = s.issue.cid := by
  refine State.acquire_linked h (Bool.or_eq_true_iff.2 (.inr (List.any_eq_true.2 ⟨n, read, List.any_eq_true.2 ⟨_, signal, ?_⟩⟩)))
  simp [State.me, earlier]

/-! ### The instructions (R265) -/

section
variable {s : State} {x : LW}

theorem exec_fenceAcq (h : s.performs (.fenceAcq x)) : exec (.fenceAcq x) s = .next (s.fenceAcquire x) :=
  (Eq.refl (execFenceAcq x s)).trans (slotOp_performs h)

theorem exec_fenceRel (h : s.performs (.fenceRel x)) : exec (.fenceRel x) s = .next (s.fenceRelease x) :=
  (Eq.refl (execFenceRel x s)).trans (slotOp_performs h)

theorem exec_fenceAr (h : s.performs (.fenceAr x)) : exec (.fenceAr x) s = .next ((s.fenceRelease x).fenceAcquire x) :=
  (Eq.refl (execFenceAr x s)).trans (slotOp_performs h)

theorem State.fenceRelease_of_none (closed : s.me.region = none) : s.fenceRelease x =
    (s.releaseAt s.issue.cid (fenceScope x)).2.holdOwn s.issue.cid s.issue.first (s.releaseAt s.issue.cid (fenceScope x)).1 := by
  simp only [State.fenceRelease, closed]

theorem State.fenceRelease_of_some {r : Region} (opened : s.me.region = some r) : s.fenceRelease x =
    (s.gateMark s.issue.cid).modMe fun c => { c with region := some { r with gate := r.gate ++ [.release (fenceScope x) s.nextId] } } := by
  simp only [State.fenceRelease, opened]

/-- A release changes neither the issue nor the clocks. -/
theorem State.releaseAt_frame (s : State) (cid scope : Nat) : (s.releaseAt cid scope).2.issue = s.issue ∧
    ∀ k, (s.releaseAt cid scope).2.cycleOf k = s.cycleOf k := by
  obtain ⟨_, _, _, _, _, _, e⟩ := s.commitsTo_releaseOf (k := cid) scope [.fence cid (coreOf cid) scope s.nextId] fun p => p.before s cid
  unfold State.releaseAt State.releaseAs
  rw [e]
  exact ⟨rfl, fun _ => rfl⟩

theorem State.fenceAcquire_eq {t : State} {cid n : Nat} (issue : t.issue.cid = cid) (cycle : t.cycleOf cid = n) :
    t.fenceAcquire x = (t.acquireFence cid (fenceScope x)).modMe fun c => { c with acquireAt := n + 2, semReads := [] } := by
  subst issue cycle
  rfl

theorem State.fenceAcquire_me (s : State) : (s.fenceAcquire x).me = { s.me with acquireAt := s.myCycle + 2, semReads := [] } :=
  State.me_modMe ..

end

/-- Settles O20: the three fences by their halves, and the halves by what they publish, hold back and link. -/
theorem fenceResults : Obligations.FenceResults := by
  rintro s x scope rfl
  refine ⟨fun i hi w p => ?_, exec_fenceAcq, fun h closed => ?_, fun h r opened => ?_, fun h closed => ?_, fun h r opened => ?_,
    fun first done => ⟨sameMemory_of_memories (by simp), rfl, rfl, fun c hc => ⟨_, List.mem_map_of_mem hc, ?_⟩⟩,
    ⟨sameMemory_of_memories (by simp), rfl, fun p hp => ⟨_, List.mem_map_of_mem hp, ?_⟩⟩, s.releaseAt_until _, ?_, ?_,
    fun p hp n hn id signal earlier => State.acquireFence_signal hp hn signal earlier⟩
  · simp only [List.mem_cons, List.not_mem_nil, or_false] at hi
    rcases hi with rfl | rfl | rfl
    · exact ⟨_, exec_fenceAcq (.inr ⟨p, w⟩)⟩
    · exact ⟨_, exec_fenceRel (.inr ⟨p, w⟩)⟩
    · exact ⟨_, exec_fenceAr (.inr ⟨p, w⟩)⟩
  · rw [exec_fenceRel h, State.fenceRelease_of_none closed]
    rfl
  · rw [exec_fenceRel h, State.fenceRelease_of_some opened]
    rfl
  · obtain ⟨issue, cycle⟩ := s.releaseAt_frame s.issue.cid (fenceScope x)
    rw [exec_fenceAr h, State.fenceRelease_of_none closed]
    exact congrArg Host.Outcome.next (State.fenceAcquire_eq (congrArg Issue.cid issue) (cycle _))
  · have m := State.me_modMe (s.gateMark s.issue.cid) fun c =>
      { c with region := some { r with gate := r.gate ++ [.release (fenceScope x) s.nextId] } }
    refine ⟨_, exec_fenceAr h, ?_, ?_⟩
    · rw [State.fenceAcquire_me, State.fenceRelease_of_some opened]
      rfl
    · rw [State.fenceAcquire_me, State.fenceRelease_of_some opened]
      exact congrArg Ctx.region m
  · split
    next mine =>
      refine ⟨rfl, rfl, fun _ _ _ => Nat.le_max_right _ _, fun other => ?_⟩
      simp only [Bool.and_eq_true, decide_eq_true_eq] at mine
      omega
    next other =>
      refine ⟨rfl, rfl, fun mine later idle => ?_, fun _ => rfl⟩
      simp [mine, later, idle] at other
  · split <;> exact ⟨rfl, rfl, rfl, rfl⟩
  · rintro u rfl
    exact ⟨sameMemory_of_memories (by simp), fun p hp before free => State.releaseAt_published hp before free, fun q hq => State.releaseAt_from hq⟩
  · rintro u rfl
    exact ⟨sameMemory_of_memories (by simp), rfl, fun p hp k c sc n w release read same later wide here reaches reached =>
      State.acquireFence_fence hp release read same later wide here reaches reached⟩

end Sys2Proof.Machine
end

section
/-! SUPPORT. The order of the far-load queue (R237): a load joins it before the entries that later slots of its bundle push. -/

namespace Sys2Proof.Machine

open Sys2Proof

section
variable {s : State}

/-- An entry joins the queue before one that a later slot of the bundle under issue has pushed (R237). -/
theorem State.putFar_before {e a : FarEntry} (far : s.me.far = [a]) (bundle : s.issue.first ≤ a.id) (later : e.kind.slot < a.kind.slot) :
    (s.putFar e).me.far = [e, a] := by
  have behind : (decide (a.id < s.issue.first) || decide (a.kind.slot ≤ e.kind.slot)) = false := by simp [bundle, later]
  simp only [State.putFar, State.me_modMe, far, List.takeWhile_cons, List.dropWhile_cons, behind, Bool.false_eq_true, if_false, List.nil_append]

theorem State.sendFar_kind (s : State) (cid t : Nat) (e : FarEntry) : (s.sendFar cid t e).kind = e.kind := by
  unfold State.sendFar
  dsimp only
  split
  · split <;> rfl
  · rfl

theorem State.pushFar_before {kind : FarKind} {a : FarEntry} (far : s.me.far = [a]) (bundle : s.issue.first ≤ a.id)
    (later : kind.slot < a.kind.slot) (ea : Word) (n : Nat) (signed : Bool) :
    ∃ e, (s.pushFar kind ea n signed).me.far = [e, a] ∧ e.kind = kind := by
  unfold State.pushFar
  dsimp only
  refine ⟨_, (congrArg Ctx.far (State.noteRead_me _)).trans (State.putFar_before far bundle ?_), State.sendFar_kind ..⟩
  rw [State.sendFar_kind]
  exact later

theorem exec_ldf {x : LW} (p : s.issue.phase = .whole) (w : Instr.wf (.ldf x) = true) (aligned : (s.ea x).toNat % accBytes x.fn = 0)
    (low : (s.ea x).toNat < 2 ^ 57) (room : s.farRoom 4) :
    exec (.ldf x) s = .next (s.pushFar .load (s.ea x) (accBytes x.fn) (x.fn.getLsbD 2)) := by
  refine (Eq.refl (execLdf x s)).trans ?_
  rw [execLdf, slotOp_of_ok p w (Verdict.both_eq_ok.2 ⟨vaVerdict_ok aligned low, State.fqVerdict_ok room⟩)]

end

/-- The entry of an atomic of the bundle under issue. -/
def atomicEntry : FarEntry where
  id := 0
  kind := .atomic
  ea := 0
  size := 8
  signed := false
  data := .waiting
  held := false
  order := 0
  due := 0
  value := none
  pc := 0
  arrive := 0
  left := 0
  own := []
  src := []

/-- A context whose queue holds the entry of an atomic of the bundle under issue. -/
def atomicPushed : State := State.reset.modMe fun c => { c with far := [atomicEntry] }

/-- A far load of the byte at address 0. -/
def byteLoad : LW := ⟨0, 0, 0, 0, 0, 0⟩

/-- Refutes O16: slot 4 stands before slot 5, so a far load joins the queue before the entry of an atomic of the same bundle, not at its end
(R237, log 92). -/
theorem not_farLoadAndPopResults : ¬ Obligations.FarLoadAndPopResults := by
  intro h
  have queue : atomicPushed.me.far = [atomicEntry] := by decide
  have room : atomicPushed.farRoom 4 := by unfold State.farRoom; decide
  obtain ⟨load, -⟩ := h atomicPushed byteLoad 1 rfl rfl
  obtain ⟨e, t, run, joined, kind, -⟩ := load (by decide) (by decide) (by decide) room
  obtain ⟨f, before, -⟩ := State.pushFar_before (kind := .load) queue (Nat.zero_le _) (by decide) (atomicPushed.ea byteLoad) (accBytes byteLoad.fn)
    (byteLoad.fn.getLsbD 2)
  rw [exec_ldf rfl (by decide) (by decide) (by decide) room] at run
  obtain rfl := Host.Outcome.next.inj run
  rw [before, queue] at joined
  cases joined
  cases kind

end Sys2Proof.Machine
end

section
/-! SUPPORT. The pace instructions of the outrider (R385, R386, R388, R390, R391). -/

namespace Sys2Proof.Machine

open Sys2Proof

/-- A message to every other package of the table is one flit on the wire for each (R381, R383). -/
theorem State.paceAll_eq (s : State) (m : PaceMsg) :
    s.paceAll m = { s with outbox := s.outbox ++ s.cvOthers.map fun k => .pace k (paceFlit m) } := by
  have key : ∀ (l : List Nat) (t : State), l.foldl (fun t k => t.send (.pace k (paceFlit m))) t =
      { t with outbox := t.outbox ++ l.map fun k => .pace k (paceFlit m) } := by
    intro l
    induction l with
    | nil => intro t; simp
    | cons k l ih =>
      intro t
      refine (ih _).trans ?_
      rw [State.outbox_send, List.append_assoc]
      rfl
  exact key _ s

theorem boundaryOf_eq (tick : Nat) : boundaryOf tick = 100000 * ((tick + 103999) / 100000) :=
  congrArg (fun n => 100000 * (n / 100000)) (by omega : tick + 4000 + 99999 = tick + 103999)

theorem State.lowerClocks_outbox (s : State) : s.lowerClocks.outbox = s.outbox :=
  foldl_keeps (fun t : State => t.outbox) (fun t x => by split <;> rfl) _ s

section
variable {s : State} {x : YW} {lim : Nat}

theorem exec_paceAnn : exec (.paceAnn x) s =
    slotOp 7 (.paceAnn x) (fun s => s.annVerdict x) (fun s => s.announce (s.annLimit x) false) s := Eq.refl (execPaceAnn x s)

theorem exec_paceAnnE : exec (.paceAnnE x) s = slotOp 7 (.paceAnnE x) (fun s => s.annVerdict x)
    (fun s => (s.announce (s.annLimit x) true).emergency (s.annLimit x)) s := Eq.refl (execPaceAnnE x s)

/-- The checks of `pace.join`: no convoy yet, and a table that names this package (R385, R391). -/
def State.joinVerdict (s : State) : Verdict :=
  ((s.paceVerdict.both (if s.pace.mstate ≠ 0 then accessCode 0x11 else .ok)).both
    (if s.pk.cvtab = 0 || s.pace.cvn = 0 then accessCode 0x12 else .ok)).both (if s.cvTable.contains s.pace.pkg then .ok else accessCode 0x12)

/-- The pace unit of a package that joins: every other package of the table stands in it as ABSENT (R385). -/
def State.joining (s : State) : State := s.modPace fun p =>
  { p with
    mstate := 1
    boundary := boundaryOf s.tick
    cprime := 160
    welcomes := 0
    peers := s.cvOthers.map fun k =>
      ⟨k, .absent, 160, ((p.peers.find? fun x => x.pkg == k).map (·.announced)).getD [], s.tick, 160, none, none⟩ }

theorem exec_paceJoin : exec (.paceJoin x) s = slotOp 7 (.paceJoin x) State.joinVerdict
    (fun s => s.joining.paceAll (s.joining.paceMsg 3 false s.joining.pace.lim (boundaryOf s.tick))) s := Eq.refl (execPaceJoin x s)

/-- The checks of `pace.leave`: a member of a convoy (R385, R391). -/
def State.leaveVerdict (s : State) : Verdict := s.paceVerdict.both (if s.pace.mstate ≠ 2 then accessCode 0x10 else .ok)

theorem exec_paceLeave : exec (.paceLeave x) s = slotOp 7 (.paceLeave x) State.leaveVerdict (fun s =>
    (s.modPace fun p => { p with mstate := 3, boundary := boundaryOf s.tick }).paceAll (s.paceMsg 5 false 0 (boundaryOf s.tick))) s :=
  Eq.refl (execPaceLeave x s)

theorem State.paceVerdict_ok (outrider : s.issue.cid = 800) : s.paceVerdict = .ok := by
  unfold State.paceVerdict
  rw [outrider]
  rfl

/-- Only the outrider of die 0 speaks for the package (R12, R391). -/
theorem exec_pace_of_trap {i : Instr} {c : Cause} {tv : Word} (row : i ∈ [Instr.paceAnn x, .paceAnnE x, .paceJoin x, .paceLeave x])
    (p : s.issue.phase = .whole) (w : i.wf = true) (trap : s.paceVerdict = .trap c tv) : exec i s = .next (s.issueTrap 7 c tv) := by
  have ann : s.annVerdict x = .trap c tv := by rw [State.annVerdict, trap, Verdict.trap_both]
  simp only [List.mem_cons, List.not_mem_nil, or_false] at row
  rcases row with rfl | rfl | rfl | rfl
  · exact exec_paceAnn.trans (slotOp_of_trap p w ann)
  · exact exec_paceAnnE.trans (slotOp_of_trap p w ann)
  · exact exec_paceJoin.trans (slotOp_of_trap p w (by rw [State.joinVerdict, trap, Verdict.trap_both, Verdict.trap_both, Verdict.trap_both]))
  · exact exec_paceLeave.trans (slotOp_of_trap p w (by rw [State.leaveVerdict, trap, Verdict.trap_both]))

theorem State.annVerdict_ok (outrider : s.issue.cid = 800) (low : 16 ≤ s.annLimit x) (high : s.annLimit x ≤ 160) : s.annVerdict x = .ok := by
  rw [State.annVerdict, State.paceVerdict_ok outrider, Verdict.ok_both, need_ok (by simp [low, high])]

/-- An announcement changes what is pending, and in a convoy leaves in a flit to every other package (R386, R388). -/
theorem State.announce_eq (s : State) (lim : Nat) (emerg : Bool) : s.announce lim emerg = { s with
    pace := { s.pace with pending := putLimit s.pace.pending (boundaryOf s.tick) lim }
    outbox := s.outbox ++ if s.pace.mstate = 0 then [] else
      s.cvOthers.map fun k => .pace k (paceFlit (s.paceMsg 1 emerg lim (boundaryOf s.tick))) } := by
  unfold State.announce
  dsimp only
  by_cases h : s.pace.mstate = 0
  · refine (if_pos h).trans ?_
    rw [if_pos h, List.append_nil]
    rfl
  · refine (if_neg h).trans ?_
    rw [if_neg h, State.paceAll_eq]
    rfl

theorem State.emergency_pace (s : State) (lim : Nat) : (s.emergency lim).pace = { s.pace with
    emerg := min 65535 (s.pace.emerg + 1)
    emergencies := if lim < s.pace.ceil then s.pace.emergencies ++ [(boundaryOf s.tick, lim)] else s.pace.emergencies } :=
  State.lowerClocks_pace _

end

/-- Settles O35: announcements, joins and leaves by their checks and what they change of the pace unit. -/
theorem paceInstructionResults : Obligations.PaceInstructionResults := by
  intro s x e lim he p
  obtain rfl : e = boundaryOf s.tick := he.trans (boundaryOf_eq _).symm
  refine ⟨fun outrider hlim low high => ?_, fun outrider w free table number member => ?_, fun outrider w member => ?_, fun i hi w => ⟨fun other => ?_,
    fun outrider die => ?_⟩⟩
  · obtain rfl : lim = s.annLimit x := hlim
    have ok := State.annVerdict_ok outrider low high
    refine ⟨fun w => ⟨_, exec_paceAnn.trans (slotOp_of_ok p w ok), ?_⟩, fun w => ⟨_, exec_paceAnnE.trans (slotOp_of_ok p w ok), ?_⟩⟩
    · rw [State.announce_eq]
      exact ⟨rfl, rfl, rfl, fun convoy => by rw [if_neg convoy]⟩
    · have emergency := (s.announce (s.annLimit x) true).emergency_pace (s.annLimit x)
      rw [State.announce_eq] at emergency ⊢
      refine ⟨by rw [emergency]; rfl, by rw [emergency], fun below => ?_, fun above => ?_, fun k hk => ?_, fun convoy => ?_⟩
      · rw [emergency]
        exact ⟨if_pos below, (congrArg (fun l => Pace.ecap { s.pace with emergencies := l }) (if_pos below)).trans (Pace.ecap_append ..)⟩
      · rw [emergency]
        exact if_neg (Nat.not_lt.2 above)
      · exact State.clk_lowerClocks _ hk
      · refine (State.lowerClocks_outbox _).trans ?_
        exact congrArg (s.outbox ++ ·) (if_neg convoy)
  · have ok : s.joinVerdict = .ok := by
      have named : (decide (s.pk.cvtab = 0) || decide (s.pace.cvn = 0)) = false := by rw [decide_eq_false table, decide_eq_false number]; rfl
      rw [State.joinVerdict, State.paceVerdict_ok outrider, Verdict.ok_both, if_neg (not_not.2 free), named, Verdict.ok_both]
      exact if_pos (List.contains_iff_mem.2 member)
    refine ⟨_, exec_paceJoin.trans (slotOp_of_ok p w ok), ?_⟩
    rw [State.paceAll_eq]
    refine ⟨rfl, rfl, fun q hq => ?_, rfl⟩
    obtain ⟨k, hk, rfl⟩ := List.mem_map.1 hq
    unfold State.cvOthers at hk
    split at hk
    · exact absurd hk List.not_mem_nil
    · obtain ⟨named, other⟩ := List.mem_filter.1 (List.mem_eraseDups.1 hk)
      exact ⟨rfl, named, by simpa using other⟩
  · have ok : s.leaveVerdict = .ok := by
      rw [State.leaveVerdict, State.paceVerdict_ok outrider, Verdict.ok_both, if_neg (not_not.2 member)]
    refine ⟨_, exec_paceLeave.trans (slotOp_of_ok p w ok), ?_⟩
    rw [State.paceAll_eq]
    exact ⟨rfl, rfl, rfl, rfl⟩
  · exact exec_pace_of_trap hi p w (by rw [State.paceVerdict, other]; rfl)
  · refine exec_pace_of_trap hi p w ?_
    rw [State.paceVerdict, outrider]
    exact if_pos die

end Sys2Proof.Machine
end

section
/-! SUPPORT. Power, clocks and interrupts (R232, R347, R349, R350, R378, R410). -/

namespace Sys2Proof.Machine

open Sys2Proof

/-! ### The energy of an interval (R347, R350) -/

section
variable {s t u : State}

/-- From `s` to `t` each consignment `k` has been charged `e` of its packet, and no group has changed. -/
def State.Charged (s t : State) (e : Nat → Packet → Nat) : Prop :=
  t.groups = s.groups ∧ ∀ k, t.con? k = (s.con? k).map fun x => { x with energy := x.energy + e k x.pk }

theorem State.Charged.refl (s : State) : s.Charged s fun _ _ => 0 := ⟨rfl, fun k => by cases s.con? k <;> rfl⟩

theorem State.Charged.trans {e f : Nat → Packet → Nat} (h : s.Charged t e) (g : t.Charged u f) : s.Charged u fun k p => e k p + f k p := by
  obtain ⟨hg, hc⟩ := h
  obtain ⟨gg, gc⟩ := g
  refine ⟨gg.trans hg, fun k => ?_⟩
  rw [gc, hc]
  cases s.con? k with
  | none => rfl
  | some x => simp [Nat.add_assoc]

theorem State.Charged.packetOf {e : Nat → Packet → Nat} (h : s.Charged t e) (g : Group) : t.packetOf g = s.packetOf g := by
  unfold State.packetOf
  split
  next k _ =>
    rw [h.2 k]
    cases s.con? k <;> rfl
  next => rfl

theorem State.Charged.groupsOn {e : Nat → Packet → Nat} (h : s.Charged t e) (k : Nat) : t.groupsOn k = s.groupsOn k := by
  rw [State.groupsOn, h.1, State.groupsOn]

theorem State.Charged.sumOn {e : Nat → Packet → Nat} (h : s.Charged t e) (k : Nat) (f : Packet → Nat) : t.sumOn k f = s.sumOn k f := by
  unfold State.sumOn
  rw [h.groupsOn]
  congr 1
  exact List.map_congr_left fun g _ => by rw [h.packetOf]

/-- What consignment `k` with packet `p` is charged for a group, of an energy that is shared in proportion to declarations that make `total`
together (R350). -/
def groupShare (energy total : Nat) (g : Nat × Group) (k : Nat) (p : Packet) : Nat :=
  if g.2.cons = some k then energy * p.groupEnergy / total else 0

/-- One group is charged its share. -/
def State.chargeGroup (energy total : Nat) (s : State) (g : Nat × Group) : State :=
  match g.2.cons, s.packetOf g.2 with
  | some k, some p => s.modCon k fun x => { x with energy := x.energy + energy * p.groupEnergy / total }
  | _, _ => s

theorem State.charged_chargeGroup (energy total : Nat) (s : State) (g : Nat × Group) :
    s.Charged (s.chargeGroup energy total g) (groupShare energy total g) := by
  unfold State.chargeGroup
  cases hc : g.2.cons with
  | none => exact ⟨rfl, fun k => by cases s.con? k <;> simp [groupShare, hc]⟩
  | some j =>
    have packet : s.packetOf g.2 = (s.con? j).map (·.pk) := by rw [State.packetOf, hc]
    rw [packet]
    cases hx : s.con? j with
    | none =>
      refine ⟨rfl, fun k => ?_⟩
      by_cases e : k = j
      · subst e
        simp [hx]
      · cases hk : s.con? k <;> simp [hk, groupShare, hc, Ne.symm e]
    | some x =>
      refine ⟨by simp, fun k => ?_⟩
      by_cases e : k = j
      · subst e
        simp [State.con?_modCon, hx, groupShare, hc]
      · cases hk : s.con? k <;> simp [State.con?_modCon, hk, groupShare, hc, e, Ne.symm e]

/-- A fold of charges charges the sum. -/
theorem State.Charged.foldl {α : Type} {f : State → α → State} {share : α → Nat → Packet → Nat} (l : List α)
    (hf : ∀ t : State, (∃ e, s.Charged t e) → ∀ x, t.Charged (f t x) (share x)) {e : Nat → Packet → Nat} (h : s.Charged t e) :
    t.Charged (l.foldl f t) fun k p => (l.map fun x => share x k p).sum := by
  induction l generalizing t e with
  | nil => exact .refl t
  | cons x l ih =>
    have one := hf t ⟨e, h⟩ x
    exact one.trans (ih (h.trans one))

theorem State.charge_eq (s : State) (j i : Nat) :
    s.charge j i = (s.groupsOn j).foldl (State.chargeGroup (intervalEnergy j i) (s.sumOn j Packet.groupEnergy)) s := rfl

theorem State.charged_charge (s : State) (j i : Nat) : s.Charged (s.charge j i) fun k p =>
    ((s.groupsOn j).map fun g => groupShare (intervalEnergy j i) (s.sumOn j Packet.groupEnergy) g k p).sum := by
  rw [s.charge_eq]
  exact .foldl (s := s) _ (fun t _ g => t.charged_chargeGroup _ _ g) (.refl s)

/-- What is charged leaves the groups and their declarations, so every serai is charged as at the beginning (R350). -/
theorem State.charged_charges (s : State) (i : Nat) (l : List Nat) : s.Charged (l.foldl (fun t j => t.charge j i) s) fun k p =>
    (l.map fun j => ((s.groupsOn j).map fun g => groupShare (intervalEnergy j i) (s.sumOn j Packet.groupEnergy) g k p).sum).sum := by
  refine .foldl (s := s) l (fun t ⟨e, h⟩ j => ?_) (.refl s)
  have one := t.charged_charge j i
  rw [h.groupsOn, h.sumOn] at one
  exact one

/-- What charges and counts on consignments leave. -/
def State.SameBut (s t : State) : Prop :=
  t.now = s.now ∧ t.tick = s.tick ∧ t.serais = s.serais ∧ t.pk = s.pk ∧ t.lastPower = s.lastPower ∧ t.lastWindow = s.lastWindow ∧
    t.memories = s.memories

theorem State.SameBut.refl (s : State) : s.SameBut s := ⟨rfl, rfl, rfl, rfl, rfl, rfl, rfl⟩

theorem State.SameBut.trans (h : s.SameBut t) (g : t.SameBut u) : s.SameBut u := by
  obtain ⟨h1, h2, h3, h4, h5, h6, h7⟩ := h
  obtain ⟨g1, g2, g3, g4, g5, g6, g7⟩ := g
  exact ⟨g1.trans h1, g2.trans h2, g3.trans h3, g4.trans h4, g5.trans h5, g6.trans h6, g7.trans h7⟩

theorem State.SameBut.foldl {α : Type} {f : State → α → State} (hf : ∀ (t : State) (x : α), t.SameBut (f t x)) (l : List α) (s : State) :
    s.SameBut (l.foldl f s) := by
  induction l generalizing s with
  | nil => exact .refl s
  | cons x l ih => exact (hf s x).trans (ih _)

theorem State.sameBut_modCon (s : State) (k : Nat) (f : Cons → Cons) : s.SameBut (s.modCon k f) := by
  unfold State.modCon
  split
  · exact ⟨rfl, rfl, rfl, rfl, rfl, rfl, rfl⟩
  · exact .refl s

theorem State.sameBut_charge (s : State) (j i : Nat) : s.SameBut (s.charge j i) := by
  refine .foldl (fun t g => ?_) _ s
  split
  · exact t.sameBut_modCon _ _
  · exact .refl t

end

theorem exec_powerInterval {s : State} (h : s.intervalBegins = true) : ∃ t, exec .powerInterval s = .next t ∧ t.lastPower = s.tick ∧
    t.serais = s.serais ∧ t.pk = s.pk ∧ sameMemory s t ∧ ∀ k x, s.con? k = some x → t.con? k = some { x with energy := x.energy +
      ((List.range 48).map fun j => ((s.groupsOn j).map fun g => if g.2.cons = some k then
        intervalEnergy j (s.tick / 1000 - 1) * (x.pk.energy * x.pk.p * x.pk.c) / s.sumOn j Packet.groupEnergy else 0).sum).sum } := by
  obtain ⟨-, -, serais, pk, last, -, memories⟩ := State.SameBut.foldl (fun t j => t.sameBut_charge j (s.tick / 1000 - 1))
    (List.range 48) { s with lastPower := s.tick }
  refine ⟨_, (Eq.refl (execPowerInterval s)).trans (if_neg (by simp [h])), last, serais, pk, sameMemory_of_memories memories, fun k x hx => ?_⟩
  have charged := (State.charged_charges { s with lastPower := s.tick } (s.tick / 1000 - 1) (List.range 48)).2 k
  rw [show ({ s with lastPower := s.tick } : State).con? k = some x from hx] at charged
  exact charged

/-! ### Overdraws (R349) -/

section
variable (s : State)

/-- A serai whose overdraw cap has fallen by one step (R349). -/
def Serai.capped (x : Serai) (tick : Nat) : Serai := { x with ocap := max 16 (capOf x.ocap - 1), overdrawn := tick }

/-- What a lowered cap leaves: the time, the inputs of the clocks and the memories. -/
def State.SameInputs (s t : State) : Prop := t.tick = s.tick ∧ t.pk = s.pk ∧ t.lastWindow = s.lastWindow ∧ t.memories = s.memories

theorem State.SameInputs.trans {s t u : State} (h : s.SameInputs t) (g : t.SameInputs u) : s.SameInputs u := by
  obtain ⟨h1, h2, h3, h4⟩ := h
  obtain ⟨g1, g2, g3, g4⟩ := g
  exact ⟨g1.trans h1, g2.trans h2, g3.trans h3, g4.trans h4⟩

theorem State.SameBut.serai {s t : State} (h : s.SameBut t) (k : Nat) : t.serai k = s.serai k := by
  obtain ⟨now, -, serais, -⟩ := h
  rw [State.serai, serais, now, State.serai]

theorem State.SameBut.sameInputs {s t : State} (h : s.SameBut t) : s.SameInputs t := by
  obtain ⟨-, tick, -, pk, -, last, memories⟩ := h
  exact ⟨tick, pk, last, memories⟩

theorem State.lowerCap_effect (k : Nat) : s.SameInputs (s.lowerCap k) ∧ ∀ q, (s.lowerCap k).serai q =
    if q = k then (s.serai k).capped s.tick else s.serai q := by
  have capped : s.SameInputs (s.modSerai k fun x => { x with ocap := max 16 (capOf (s.serai k).ocap - 1), overdrawn := s.tick }) := ⟨rfl, rfl, rfl, rfl⟩
  have lowered := s.serai_modSerai k fun x => { x with ocap := max 16 (capOf (s.serai k).ocap - 1), overdrawn := s.tick }
  unfold State.lowerCap
  dsimp only
  split
  · exact ⟨capped, lowered⟩
  · have counted := State.SameBut.foldl (fun t j => t.sameBut_modCon j fun x => { x with overdraw := x.overdraw + 1 })
      ((s.modSerai k fun x => { x with ocap := max 16 (capOf (s.serai k).ocap - 1), overdrawn := s.tick }).consOn k)
      (s.modSerai k fun x => { x with ocap := max 16 (capOf (s.serai k).ocap - 1), overdrawn := s.tick })
    exact ⟨capped.trans counted.sameInputs, fun q => (counted.serai q).trans (lowered q)⟩

/-- Lowering the caps of the serais that `p` names lowers each once. -/
theorem State.lowerCaps (p : Nat → Bool) (n : Nat) : s.SameInputs (((List.range n).filter p).foldl (fun t k => t.lowerCap k) s) ∧
    ∀ q < n, (((List.range n).filter p).foldl (fun t k => t.lowerCap k) s).serai q =
      if p q then (s.serai q).capped s.tick else s.serai q := by
  have all := fun q => State.serai_foldl (P := s.SameInputs) (g := fun t k => if p k then t.lowerCap k else t)
    (f := fun k x => if p k then x.capped s.tick else x)
    (fun t k h => by
      split
      · exact h.trans (t.lowerCap_effect k).1
      · exact h)
    (fun t k q h => by
      cases p k
      · by_cases e : q = k <;> simp [e]
      · rw [if_pos rfl, if_pos rfl, (t.lowerCap_effect k).2, h.1])
    (s := s) ⟨rfl, rfl, rfl, rfl⟩ n q
  rw [List.foldl_filter]
  exact ⟨(all 0).1, fun q hq => (all q).2.trans (if_pos hq)⟩

end

/-- The state in which an overdraw window that has ended leaves the caps, before the clocks follow (R349). -/
def State.overdrawn (u : State) (w : Nat) : State :=
  if 2000000 < Config.packageEnergy w then
    ((List.range 48).filter u.active).foldl (fun s k => s.lowerCap k) (((List.range 48).filter fun k => u.overdraws k w).foldl (fun s k => s.lowerCap k) u)
  else ((List.range 48).filter fun k => u.overdraws k w).foldl (fun s k => s.lowerCap k) u

theorem State.overdrawn_effect (u : State) (w : Nat) : u.SameInputs (u.overdrawn w) ∧ ∀ k < 48, ((u.overdrawn w).serai k).clk = (u.serai k).clk ∧
    ∃ cap, cap = (if u.overdraws k w = true then max 16 (capOf (u.serai k).ocap - 1) else (u.serai k).ocap) ∧
      ((u.overdrawn w).serai k).ocap = if u.active k = true ∧ 2000000 < Config.packageEnergy w then max 16 (capOf cap - 1) else cap := by
  obtain ⟨own, first⟩ := u.lowerCaps (fun k => u.overdraws k w) 48
  have once : ∀ k < 48, ((((List.range 48).filter fun k => u.overdraws k w).foldl (fun s k => s.lowerCap k) u).serai k).clk = (u.serai k).clk ∧
      ((((List.range 48).filter fun k => u.overdraws k w).foldl (fun s k => s.lowerCap k) u).serai k).ocap =
        if u.overdraws k w = true then max 16 (capOf (u.serai k).ocap - 1) else (u.serai k).ocap := fun k hk => by
    rw [first k hk]
    split <;> exact ⟨rfl, rfl⟩
  unfold State.overdrawn
  by_cases big : 2000000 < Config.packageEnergy w
  · obtain ⟨package, second⟩ := State.lowerCaps (((List.range 48).filter fun k => u.overdraws k w).foldl (fun s k => s.lowerCap k) u) u.active 48
    rw [if_pos big]
    refine ⟨own.trans package, fun k hk => ?_⟩
    obtain ⟨clk, cap⟩ := once k hk
    rw [second k hk, ← clk, ← cap]
    by_cases act : u.active k = true
    · rw [if_pos act]
      exact ⟨rfl, _, rfl, (if_pos ⟨act, big⟩).symm⟩
    · rw [if_neg act]
      exact ⟨rfl, _, rfl, (if_neg fun both => act both.1).symm⟩
  · rw [if_neg big]
    refine ⟨own, fun k hk => ?_⟩
    obtain ⟨clk, cap⟩ := once k hk
    exact ⟨clk, _, cap, (if_neg fun both => big both.2).symm⟩

theorem exec_overdrawWindow {s : State} (h : s.windowEnds = true) : exec .overdrawWindow s =
    .next (({ s with lastWindow := s.tick } : State).overdrawn (s.tick / 100 - 1)).lowerClocks :=
  (Eq.refl (execOverdrawWindow s)).trans (if_neg (by simp [h]))

theorem State.lowerClocks_lastWindow (s : State) : s.lowerClocks.lastWindow = s.lastWindow :=
  foldl_keeps (fun t : State => t.lastWindow) (fun t x => by split <;> rfl) _ s

/-! ### Clocks and interrupts (R232, R378, R410) -/

theorem State.serai_setClk (s : State) (k c q : Nat) : (s.setClk k c).serai q =
    if q = k then { s.serai k with clk := c, changed := some s.tick } else s.serai q := State.serai_modSerai ..

/-- The overdraw cap of a serai risen by one step, from which 159 leads to no cap (R349). -/
def State.raisedCap (s : State) (k : Nat) : State :=
  s.modSerai k fun x => { x with ocap := if 159 ≤ (s.serai k).ocap then 0 else (s.serai k).ocap + 1, overdrawn := s.tick }

theorem State.serai_raisedCap (s : State) (k q : Nat) : (s.raisedCap k).serai q = if q = k then
    { s.serai k with ocap := if 159 ≤ (s.serai k).ocap then 0 else (s.serai k).ocap + 1, overdrawn := s.tick } else s.serai q :=
  State.serai_modSerai ..

/-- The cap of a serai rises, and a clock that it held rises with it (R349, R378). -/
def State.raiseCap (s : State) (k : Nat) : State :=
  if decide ((s.serai k).clk = (s.serai k).ocap) && decide ((s.serai k).ocap < (s.raisedCap k).wantClk k) then
    (s.raisedCap k).setClk k ((s.serai k).ocap + 1)
  else s.raisedCap k

theorem exec_overdrawCapRise {s : State} {k : Nat} (h : s.capRises k = true) : exec (.overdrawCapRise k) s = .next (s.raiseCap k) :=
  (Eq.refl (execOverdrawCapRise k s)).trans (if_neg (by simp [h]))

theorem State.raiseCap_effect (s : State) (k : Nat) :
    ((s.raiseCap k).serai k).ocap = (if 159 ≤ (s.serai k).ocap then 0 else (s.serai k).ocap + 1) ∧ (s.serai k).clk ≤ ((s.raiseCap k).serai k).clk ∧
    (∀ j, j ≠ k → (s.raiseCap k).serai j = s.serai j) ∧ sameMemory s (s.raiseCap k) := by
  have own := (s.serai_raisedCap k k).trans (if_pos rfl)
  have others : ∀ j, j ≠ k → (s.raisedCap k).serai j = s.serai j := fun j ne => (s.serai_raisedCap k j).trans (if_neg ne)
  unfold State.raiseCap
  by_cases rises : (decide ((s.serai k).clk = (s.serai k).ocap) && decide ((s.serai k).ocap < (s.raisedCap k).wantClk k)) = true
  · have set := (s.raisedCap k).serai_setClk k ((s.serai k).ocap + 1)
    obtain ⟨held, -⟩ := Bool.and_eq_true_iff.1 rises
    rw [if_pos rises, set k, if_pos rfl, own]
    exact ⟨rfl, Nat.le_of_lt (Nat.lt_succ_of_le (Nat.le_of_eq (of_decide_eq_true held))), fun j ne => ((set j).trans (if_neg ne)).trans (others j ne),
      sameMemory_of_memories rfl⟩
  · rw [if_neg rises, own]
    exact ⟨rfl, Nat.le_refl _, others, sameMemory_of_memories rfl⟩

/-- Settles O53: intervals, windows, caps, clocks and messages, each by what its event changes. -/
theorem powerAndClockEventsComplete : Obligations.PowerAndClockEventsComplete := by
  refine ⟨fun s h => exec_powerInterval h, ?_, fun s k h => ?_, fun s k h => ?_, fun s port vector h => ?_, fun s h => ?_⟩
  · rintro s u w h rfl rfl
    obtain ⟨⟨tick, pk, last, memories⟩, caps⟩ := State.overdrawn_effect { s with lastWindow := s.tick } (s.tick / 100 - 1)
    refine ⟨_, exec_overdrawWindow h, (State.lowerClocks_lastWindow _).trans last, (State.lowerClocks_pk _).trans pk,
      sameMemory_of_memories ((State.lowerClocks_memories _).trans memories), fun k hk => ?_, fun k hk => ?_⟩
    · obtain ⟨-, cap, hcap, ocap⟩ := caps k hk
      exact ⟨cap, hcap, (congrArg Serai.ocap (State.serai_lowerClocks _ hk)).trans ((Serai.lowered_ocap ..).trans ocap)⟩
    · obtain ⟨clk, -⟩ := caps k hk
      rw [State.clk_lowerClocks _ hk, clk]
      rfl
  · exact ⟨_, exec_overdrawCapRise h, State.raiseCap_effect s k⟩
  · obtain ⟨slower, -⟩ := Bool.and_eq_true_iff.1 h
    refine ⟨_, (Eq.refl (execClockRaise k s)).trans (if_pos h), ?_⟩
    have set := s.serai_setClk k (s.wantClk k)
    rw [set, if_pos rfl]
    exact ⟨rfl, of_decide_eq_true slower, rfl, fun j ne => (set j).trans (if_neg ne), sameMemory_of_memories rfl⟩
  · refine ⟨_, (Eq.refl (execMsixMessage port vector s)).trans (if_neg (by simp [h])), rfl, ?_, sameMemory_of_memories rfl⟩
    exact fun m => by simpa using (List.mem_filter.1 m).2
  · exact (Eq.refl (execXlinvDone s)).trans (if_pos h)

end Sys2Proof.Machine
end

section
/-! SUPPORT. RESUME and TRESUME, rejoins, and the freezing and saving of a suspended consignment (R250, R357 to R359, R371). -/

namespace Sys2Proof.Machine

open Sys2Proof

/-! ### Tables -/

section
variable {α : Type} {l : Table α} {k : Nat}

theorem Table.mem_of_find? {v : α} (h : Table.find? l k = some v) : (k, v) ∈ l := by
  induction l with
  | nil => cases h
  | cons x l ih =>
    obtain ⟨j, w⟩ := x
    by_cases e : k = j
    · subst e
      cases (if_pos rfl).symm.trans h
      exact .head _
    · exact .tail _ (ih ((if_neg e).symm.trans h))

theorem Table.found_of_mem {v : α} (h : (k, v) ∈ l) : ∃ w, Table.find? l k = some w := by
  induction l with
  | nil => cases h
  | cons x l ih =>
    obtain ⟨j, w⟩ := x
    by_cases e : k = j
    · exact ⟨w, if_pos e⟩
    · obtain ⟨v', hv⟩ := ih ((List.mem_cons.1 h).resolve_left fun h => e (congrArg Prod.fst h))
      exact ⟨v', (if_neg e).trans hv⟩

theorem Table.find?_of_mem {v : α} (unique : (l.map (·.1)).Nodup) (h : (k, v) ∈ l) : Table.find? l k = some v := by
  induction l with
  | nil => cases h
  | cons x l ih =>
    obtain ⟨j, w⟩ := x
    obtain ⟨fresh, unique⟩ := List.nodup_cons.1 unique
    rcases List.mem_cons.1 h with e | h
    · cases e
      exact if_pos rfl
    · have ne : k ≠ j := fun e => fresh (e ▸ List.mem_map_of_mem (f := (·.1)) h)
      exact (if_neg ne).trans (ih unique h)

theorem Table.mem_put {v : α} {x : Nat × α} (h : x ∈ Table.put l k v) : x = (k, v) ∨ x ∈ l := by
  induction l with
  | nil => exact .inl (List.mem_singleton.1 h)
  | cons y l ih =>
    obtain ⟨j, w⟩ := y
    unfold Table.put at h
    split at h
    · exact List.mem_cons.1 h
    split at h
    · exact (List.mem_cons.1 h).imp_right (.tail _)
    · rcases List.mem_cons.1 h with e | h
      · exact .inr (e ▸ .head _)
      · exact (ih h).imp_right (.tail _)

/-- What a write to a table replaces is what a look-up has found. -/
theorem Table.mem_put_or_found {v : α} {x : Nat × α} (h : x ∈ l) :
    x ∈ Table.put l k v ∨ ((k, v) ∈ Table.put l k v ∧ x.1 = k ∧ Table.find? l k = some x.2) := by
  induction l with
  | nil => cases h
  | cons y l ih =>
    obtain ⟨j, w⟩ := y
    unfold Table.put Table.find?
    split
    · exact .inl (.tail _ h)
    split
    next e =>
      rcases List.mem_cons.1 h with rfl | h
      · exact .inr ⟨.head _, e.symm, rfl⟩
      · exact .inl (.tail _ h)
    next ne =>
      rcases List.mem_cons.1 h with rfl | h
      · exact .inl (.head _)
      · exact (ih h).imp (.tail _) fun ⟨m, e, f⟩ => ⟨.tail _ m, e, f⟩

end

/-! ### FAULTED entries ask again (R250) -/

/-- The request of an entry has been sent, or its walk is under way. -/
def FarEntry.asked (e : FarEntry) : Prop := e.data = .walking ∨ e.data = .waiting

/-- Two contexts are parked on the same number, in the same address space and group. -/
def Ctx.sameSeat (c d : Ctx) : Prop := d.parked = c.parked ∧ d.asid = c.asid ∧ d.gid = c.gid

theorem Ctx.sameSeat.trans {c d e : Ctx} (h : c.sameSeat d) (g : d.sameSeat e) : c.sameSeat e := by
  obtain ⟨h1, h2, h3⟩ := h
  obtain ⟨g1, g2, g3⟩ := g
  exact ⟨g1.trans h1, g2.trans h2, g3.trans h3⟩

/-- From `s` to `t` far-load entries have asked again, and nothing else has changed. -/
structure State.Resent (s t : State) : Prop where
  frame : ∃ l, t = { s with ctxs := l }
  ids : ∀ k, (t.ctx k).far.map (·.id) = (s.ctx k).far.map (·.id)
  entries : ∀ k, ∀ x ∈ (t.ctx k).far, x ∈ (s.ctx k).far ∨ x.asked
  seat : ∀ k, (s.ctx k).sameSeat (t.ctx k)
  kept : ∀ y ∈ s.ctxs, ∃ z ∈ t.ctxs, z.1 = y.1 ∧ y.2.sameSeat z.2
  older : ∀ z ∈ t.ctxs, ∃ y ∈ s.ctxs, z.1 = y.1 ∧ y.2.sameSeat z.2

section
variable {s t u : State} {cid seq : Nat}

theorem State.Resent.refl (s : State) : s.Resent s :=
  ⟨⟨_, rfl⟩, fun _ => rfl, fun _ _ h => .inl h, fun _ => ⟨rfl, rfl, rfl⟩, fun y h => ⟨y, h, rfl, rfl, rfl, rfl⟩, fun y h => ⟨y, h, rfl, rfl, rfl, rfl⟩⟩

theorem State.Resent.trans (h : s.Resent t) (g : t.Resent u) : s.Resent u where
  frame := by
    obtain ⟨l, rfl⟩ := h.frame
    obtain ⟨m, rfl⟩ := g.frame
    exact ⟨m, rfl⟩
  ids k := (g.ids k).trans (h.ids k)
  entries k x hx := (g.entries k x hx).elim (h.entries k x) .inr
  seat k := (h.seat k).trans (g.seat k)
  kept y hy := by
    obtain ⟨z, hz, e, same⟩ := h.kept y hy
    obtain ⟨w, hw, f, also⟩ := g.kept z hz
    exact ⟨w, hw, f.trans e, same.trans also⟩
  older w hw := by
    obtain ⟨z, hz, f, also⟩ := g.older w hw
    obtain ⟨y, hy, e, same⟩ := h.older z hz
    exact ⟨y, hy, f.trans e, same.trans also⟩

theorem State.ctx_of_find? {c : Ctx} (h : Table.find? s.ctxs cid = some c) : s.ctx cid = c := by rw [State.ctx, h]; rfl

/-- A change of a context that keeps its seat keeps the seats of the table. -/
theorem State.seats_modCtx {f : Ctx → Ctx} (present : ∃ c, (cid, c) ∈ s.ctxs) (seat : ∀ c : Ctx, c.sameSeat (f c)) :
    (∀ y ∈ s.ctxs, ∃ z ∈ (s.modCtx cid f).ctxs, z.1 = y.1 ∧ y.2.sameSeat z.2) ∧
    (∀ z ∈ (s.modCtx cid f).ctxs, ∃ y ∈ s.ctxs, z.1 = y.1 ∧ y.2.sameSeat z.2) := by
  refine ⟨fun y hy => ?_, fun z hz => ?_⟩
  · rcases Table.mem_put_or_found (k := cid) (v := f (s.ctx cid)) hy with h | ⟨h, e, found⟩
    · exact ⟨y, h, rfl, rfl, rfl, rfl⟩
    · refine ⟨_, h, e.symm, ?_⟩
      rw [← State.ctx_of_find? found]
      exact seat _
  · rcases Table.mem_put hz with rfl | h
    · obtain ⟨c, hc⟩ := present
      obtain ⟨w, found⟩ := Table.found_of_mem hc
      refine ⟨_, Table.mem_of_find? found, rfl, ?_⟩
      rw [← State.ctx_of_find? found]
      exact seat _
    · exact ⟨z, h, rfl, rfl, rfl, rfl⟩

/-- The entries of one identity ask again. -/
theorem State.resent_modFar {id : Nat} {f : FarEntry → FarEntry} (present : ∃ c, (cid, c) ∈ s.ctxs) (hid : ∀ e, (f e).id = e.id)
    (asks : ∀ e, (f e).asked) : s.Resent (s.modFar cid id f) ∧ ∀ x ∈ ((s.modFar cid id f).ctx cid).far, x.id = id → x.asked := by
  obtain ⟨kept, older⟩ := State.seats_modCtx (f := fun c => { c with far := c.far.map fun e => if e.id = id then f e else e }) present
    fun c => ⟨rfl, rfl, rfl⟩
  have own : ((s.modFar cid id f).ctx cid) = { s.ctx cid with far := (s.ctx cid).far.map fun e => if e.id = id then f e else e } :=
    (s.ctx_modCtx cid _ cid).trans (if_pos rfl)
  have others : ∀ k, k ≠ cid → (s.modFar cid id f).ctx k = s.ctx k := fun k ne => (s.ctx_modCtx cid _ k).trans (if_neg ne)
  have entries : ∀ x ∈ ((s.modFar cid id f).ctx cid).far, (x ∈ (s.ctx cid).far ∧ x.id ≠ id) ∨ x.asked := fun x hx => by
    rw [own] at hx
    obtain ⟨e, he, rfl⟩ := List.mem_map.1 hx
    by_cases h : e.id = id
    · rw [if_pos h]
      exact .inr (asks e)
    · rw [if_neg h]
      exact .inl ⟨he, h⟩
  refine ⟨⟨⟨_, rfl⟩, fun k => ?_, fun k x hx => ?_, fun k => ?_, kept, older⟩, fun x hx e => (entries x hx).resolve_left fun h => h.2 e⟩
  · by_cases e : k = cid
    · subst e
      rw [own, List.map_map]
      exact List.map_congr_left fun e _ => by by_cases h : e.id = id <;> simp [h, hid]
    · rw [others k e]
  · by_cases e : k = cid
    · subst e
      exact (entries x hx).imp_left And.left
    · rw [others k e] at hx
      exact .inl hx
  · by_cases e : k = cid
    · subst e
      rw [own]
      exact ⟨rfl, rfl, rfl⟩
    · rw [others k e]
      exact ⟨rfl, rfl, rfl⟩

theorem State.Resent.present (h : s.Resent t) (here : ∃ c, (cid, c) ∈ s.ctxs) : ∃ c, (cid, c) ∈ t.ctxs := by
  obtain ⟨c, hc⟩ := here
  obtain ⟨⟨k, z⟩, hz, e, -⟩ := h.kept _ hc
  cases e
  exact ⟨z, hz⟩

theorem State.Resent.asked (h : s.Resent t) {id : Nat} (asked : ∀ x ∈ (s.ctx cid).far, x.id = id → x.asked) :
    ∀ x ∈ (t.ctx cid).far, x.id = id → x.asked := fun x hx e => (h.entries cid x hx).elim (fun old => asked x old e) fun a => a

theorem State.sendFar_asked (s : State) (cid t : Nat) (e : FarEntry) : (s.sendFar cid t e).id = e.id ∧ (s.sendFar cid t e).asked := by
  unfold State.sendFar
  dsimp only
  split
  · split
    · exact ⟨rfl, .inr rfl⟩
    · exact ⟨rfl, .inl rfl⟩
  · exact ⟨rfl, .inl rfl⟩

/-- The entries of a list that are FAULTED on the number ask again. -/
theorem State.resent_entries {time : Nat} (l : List FarEntry) (present : ∃ c, (cid, c) ∈ s.ctxs) :
    s.Resent (l.foldl (fun s e => if e.data = .notPresent seq then
      s.modFar cid e.id fun e => if savedBase ≤ cid then { e with data := .walking, due := 0 } else s.sendFar cid time e else s) s) ∧
    ∀ e ∈ l, e.data = .notPresent seq → ∀ x ∈ ((l.foldl (fun s e => if e.data = .notPresent seq then
      s.modFar cid e.id fun e => if savedBase ≤ cid then { e with data := .walking, due := 0 } else s.sendFar cid time e else s) s).ctx cid).far,
        x.id = e.id → x.asked := by
  induction l generalizing s with
  | nil => exact ⟨.refl s, fun _ h => absurd h List.not_mem_nil⟩
  | cons e l ih =>
    rw [List.foldl_cons]
    by_cases faulted : e.data = .notPresent seq
    · rw [if_pos faulted]
      obtain ⟨sent, own⟩ := State.resent_modFar (id := e.id)
        (f := fun e => if savedBase ≤ cid then { e with data := .walking, due := 0 } else s.sendFar cid time e) present
        (fun e => by split; exacts [rfl, (s.sendFar_asked cid time e).1]) (fun e => by split; exacts [.inl rfl, (s.sendFar_asked cid time e).2])
      obtain ⟨rest, asked⟩ := ih (sent.present present)
      refine ⟨sent.trans rest, fun d hd fd => ?_⟩
      rcases List.mem_cons.1 hd with rfl | hd
      · exact rest.asked own
      · exact asked d hd fd
    · rw [if_neg faulted]
      obtain ⟨rest, asked⟩ := ih present
      exact ⟨rest, fun d hd fd => asked d ((List.mem_cons.1 hd).resolve_left fun e => faulted (e ▸ fd)) fd⟩

/-- RESUME sends again what a context has FAULTED on the number (R250). -/
theorem State.resent_resendFar (present : ∃ c, (cid, c) ∈ s.ctxs) : s.Resent (s.resendFar cid seq) ∧
    ∀ e ∈ (s.ctx cid).far, e.data = .notPresent seq → ∀ x ∈ ((s.resendFar cid seq).ctx cid).far, x.id = e.id → x.asked :=
  State.resent_entries (s.ctx cid).far present

theorem State.ctx_resendFar {k : Nat} (ne : k ≠ cid) : (s.resendFar cid seq).ctx k = s.ctx k :=
  foldl_keeps (fun t : State => t.ctx k) (fun t e => by
    split
    · exact (t.ctx_modCtx cid _ k).trans (if_neg ne)
    · rfl) _ s

/-- RESUME over several contexts, each once. -/
theorem State.resent_contexts (l : List (Nat × Ctx)) (unique : (l.map (·.1)).Nodup) (present : ∀ y ∈ l, ∃ c, (y.1, c) ∈ s.ctxs) :
    s.Resent (l.foldl (fun s x => s.resendFar x.1 seq) s) ∧ ∀ y ∈ l, ∀ e ∈ (s.ctx y.1).far, e.data = .notPresent seq →
      ∀ x ∈ ((l.foldl (fun s x => s.resendFar x.1 seq) s).ctx y.1).far, x.id = e.id → x.asked := by
  induction l generalizing s with
  | nil => exact ⟨.refl s, fun _ h => absurd h List.not_mem_nil⟩
  | cons y l ih =>
    obtain ⟨fresh, unique⟩ := List.nodup_cons.1 unique
    obtain ⟨sent, own⟩ := State.resent_resendFar (seq := seq) (present y (.head _))
    obtain ⟨rest, asked⟩ := ih (s := s.resendFar y.1 seq) unique fun z hz => sent.present (present z (.tail _ hz))
    refine ⟨sent.trans rest, fun z hz e he faulted => ?_⟩
    rcases List.mem_cons.1 hz with rfl | hz
    · exact rest.asked (own e he faulted)
    · have ne : z.1 ≠ y.1 := fun h => fresh (List.mem_map.2 ⟨z, hz, h⟩)
      exact asked z hz e (by rw [State.ctx_resendFar ne]; exact he) faulted

/-! ### Rejoins are noted (R250, R371) -/

theorem le_foldl_max (l : List Nat) (a : Nat) : a ≤ l.foldl max a ∧ ∀ x ∈ l, x ≤ l.foldl max a := by
  induction l generalizing a with
  | nil => exact ⟨Nat.le_refl _, fun _ h => absurd h List.not_mem_nil⟩
  | cons y l ih =>
    obtain ⟨first, rest⟩ := ih (max a y)
    refine ⟨Nat.le_trans (Nat.le_max_left ..) first, fun x hx => ?_⟩
    rcases List.mem_cons.1 hx with rfl | hx
    · exact Nat.le_trans (Nat.le_max_right ..) first
    · exact rest x hx

/-- The tick of a rejoin that is noted now: not before this one, not before an earlier one's, and where none stands within 64 ticks. -/
theorem State.rejoinTick_bounds (s : State) : s.tick ≤ s.rejoinTick ∧ (s.rejoins = [] → s.rejoinTick ≤ s.tick + 64) ∧
    ∀ q ∈ s.rejoins, q.at_ ≤ s.rejoinTick := by
  obtain ⟨first, rest⟩ := le_foldl_max (s.rejoins.map (·.at_)) (s.tick + Config.rejoinDelay s.nextId % 65)
  refine ⟨Nat.le_trans (Nat.le_add_right ..) first, fun none => ?_, fun q hq => rest _ (List.mem_map_of_mem hq)⟩
  rw [State.rejoinTick, none]
  exact Nat.add_le_add_left (Nat.le_of_lt_succ (Nat.mod_lt _ (by decide))) _

theorem State.mem_parkedOn {seq asid : Nat} : cid ∈ s.parkedOn seq asid ↔ ∃ x, (cid, x) ∈ s.ctxs ∧ x.parked = some seq ∧ x.asid = asid ∧
    ∀ r ∈ s.rejoins, r.trap = false → (s.ctx r.cid).parked = some seq → (s.ctx r.cid).asid = asid → (s.ctx r.cid).gid ≠ x.gid := by
  have free : ∀ x : Ctx, (!s.rejoins.any fun r => !r.trap && ((s.ctx r.cid).parked == some seq && (s.ctx r.cid).asid == asid) &&
      (s.ctx r.cid).gid == x.gid) = true ↔ ∀ r ∈ s.rejoins, r.trap = false → (s.ctx r.cid).parked = some seq → (s.ctx r.cid).asid = asid →
        (s.ctx r.cid).gid ≠ x.gid := fun x => by
    simp only [Bool.not_eq_true', List.any_eq_false, Bool.and_eq_true, beq_iff_eq, not_and, and_imp, ne_eq]
  constructor
  · intro h
    obtain ⟨⟨k, x⟩, hx, rfl⟩ := List.mem_map.1 h
    obtain ⟨hx, test⟩ := List.mem_filter.1 hx
    obtain ⟨here, unnoted⟩ := Bool.and_eq_true_iff.1 test
    obtain ⟨parked, same⟩ := Bool.and_eq_true_iff.1 here
    exact ⟨x, hx, beq_iff_eq.1 parked, beq_iff_eq.1 same, (free x).1 unnoted⟩
  · rintro ⟨x, hx, parked, same, unnoted⟩
    refine List.mem_map.2 ⟨(cid, x), List.mem_filter.2 ⟨hx, ?_⟩, rfl⟩
    exact Bool.and_eq_true_iff.2 ⟨Bool.and_eq_true_iff.2 ⟨beq_iff_eq.2 parked, beq_iff_eq.2 same⟩, (free x).2 unnoted⟩

/-- Entries that ask again leave which contexts a RESUME is to rejoin. -/
theorem State.Resent.mem_parkedOn (h : s.Resent t) {seq asid : Nat} : cid ∈ t.parkedOn seq asid ↔ cid ∈ s.parkedOn seq asid := by
  have rejoins : t.rejoins = s.rejoins := by
    obtain ⟨l, rfl⟩ := h.frame
    rfl
  rw [State.mem_parkedOn, State.mem_parkedOn, rejoins]
  constructor
  · rintro ⟨x, hx, parked, here, free⟩
    obtain ⟨⟨k, y⟩, hy, e, p, a, g⟩ := h.older _ hx
    cases e
    refine ⟨y, hy, p.symm.trans parked, a.symm.trans here, fun r hr trap rp ra rg => free r hr trap ?_ ?_ ?_⟩
    · exact (h.seat _).1.trans rp
    · exact (h.seat _).2.1.trans ra
    · exact ((h.seat _).2.2.trans rg).trans g.symm
  · rintro ⟨y, hy, parked, here, free⟩
    obtain ⟨⟨k, x⟩, hx, e, p, a, g⟩ := h.kept _ hy
    cases e
    refine ⟨x, hx, p.trans parked, a.trans here, fun r hr trap rp ra rg => free r hr trap ?_ ?_ ?_⟩
    · exact (h.seat _).1.symm.trans rp
    · exact (h.seat _).2.1.symm.trans ra
    · exact ((h.seat _).2.2.symm.trans rg).trans g

/-- The entries of an address space that are FAULTED on a number ask again (R250). -/
def State.resent (s : State) (seq asid : Nat) : State :=
  (s.ctxs.filter fun x => x.2.asid == asid).foldl (fun s x => s.resendFar x.1 seq) s

/-- RESUME (R250). -/
theorem exec_resume (s : State) (seq asid : Nat) : ((s.resent seq asid).parkedOn seq asid = [] ∧ exec (.resume seq asid) s = .next (s.resent seq asid)) ∨
    ∃ c ∈ (s.resent seq asid).parkedOn seq asid, exec (.resume seq asid) s = .next ((s.resent seq asid).noteRejoin c false) := by
  have run : exec (.resume seq asid) s = .next (match (s.resent seq asid).parkedOn seq asid with
    | [] => s.resent seq asid
    | c :: _ => (s.resent seq asid).noteRejoin c false) := Eq.refl (execResume seq asid s)
  cases h : (s.resent seq asid).parkedOn seq asid with
  | nil => exact .inl ⟨rfl, by rw [run, h]⟩
  | cons c l => exact .inr ⟨c, .head _, by rw [run, h]⟩

end

section
variable (s : State) (seq asid : Nat)

theorem State.resent_spec (unique : (s.ctxs.map (·.1)).Nodup) : s.Resent (s.resent seq asid) ∧ ∀ c ∈ s.ctxs, c.2.asid = asid →
    ∀ e ∈ c.2.far, e.data = .notPresent seq → ∀ x ∈ ((s.resent seq asid).ctx c.1).far, x.id = e.id → x.asked := by
  obtain ⟨sent, asked⟩ := State.resent_contexts (s := s) (seq := seq) (s.ctxs.filter fun x => x.2.asid == asid)
    ((List.filter_sublist.map _).nodup unique) fun y hy => ⟨y.2, (List.mem_filter.1 hy).1⟩
  refine ⟨sent, fun c hc here e he faulted => asked c (List.mem_filter.2 ⟨hc, beq_iff_eq.2 here⟩) e ?_ faulted⟩
  rw [State.ctx_of_find? (Table.find?_of_mem unique hc)]
  exact he

/-- No entry of the address space stays FAULTED on the number, and each that was has asked again (R250). -/
theorem State.resent_far (unique : (s.ctxs.map (·.1)).Nodup) {c : Nat × Ctx} (hc : c ∈ s.ctxs) (here : c.2.asid = asid) :
    (∀ e ∈ ((s.resent seq asid).ctx c.1).far, e.data ≠ .notPresent seq) ∧ ∀ e ∈ c.2.far, e.data = .notPresent seq →
      ∃ x ∈ ((s.resent seq asid).ctx c.1).far, x.id = e.id ∧ (x.data = .walking ∨ x.data = .waiting) := by
  obtain ⟨sent, asked⟩ := s.resent_spec seq asid unique
  have own : s.ctx c.1 = c.2 := State.ctx_of_find? (Table.find?_of_mem unique hc)
  have notFaulted : ∀ x : FarEntry, x.asked → x.data ≠ .notPresent seq := by
    rintro x (h | h) e <;> cases h.symm.trans e
  refine ⟨fun x hx faulted => ?_, fun e he faulted => ?_⟩
  · rcases sent.entries _ x hx with old | a
    · exact notFaulted x (asked c hc here x (own ▸ old) faulted x hx rfl) faulted
    · exact notFaulted x a faulted
  · have named : e.id ∈ ((s.resent seq asid).ctx c.1).far.map (·.id) := by
      rw [sent.ids, own]
      exact List.mem_map_of_mem he
    obtain ⟨x, hx, same⟩ := List.mem_map.1 named
    exact ⟨x, hx, same, asked c hc here e he faulted x hx same⟩

end

/-! ### Parked contexts rejoin (R248, R250) -/

section
variable (s : State) (cid : Nat)

/-- Asking again for a lease changes the requests of a serai alone. -/
theorem State.askAgain_eq : ∃ l, s.askAgain cid = { s with serais := l } := by
  unfold State.askAgain
  split
  · split
    · exact ⟨_, rfl⟩
    · exact ⟨_, rfl⟩
  · exact ⟨_, rfl⟩

theorem State.unpark_ctx (k : Nat) : ((s.unpark cid).ctx k).parked = (if k = cid then none else (s.ctx k).parked) ∧
    ((s.unpark cid).ctx k).pc = (s.ctx k).pc := by
  have moved := s.ctx_modCtx cid (fun c => { c with parked := none, cycle0 := s.cycleOf cid, line := none }) k
  have base : ((s.modCtx cid fun c => { c with parked := none, cycle0 := s.cycleOf cid, line := none }).ctx k).parked =
      (if k = cid then none else (s.ctx k).parked) ∧
      ((s.modCtx cid fun c => { c with parked := none, cycle0 := s.cycleOf cid, line := none }).ctx k).pc = (s.ctx k).pc := by
    rw [moved]
    by_cases e : k = cid
    · subst e
      rw [if_pos rfl, if_pos rfl]
      exact ⟨rfl, rfl⟩
    · rw [if_neg e, if_neg e]
      exact ⟨rfl, rfl⟩
  unfold State.unpark
  dsimp only
  split
  · obtain ⟨l, h⟩ := (s.modCtx cid fun c => { c with parked := none, cycle0 := s.cycleOf cid, line := none }).askAgain_eq cid
    rw [h]
    exact base
  · exact base

theorem State.unparks_pc (l : List Nat) (k : Nat) : ((l.foldl (fun s k => s.unpark k) s).ctx k).pc = (s.ctx k).pc :=
  foldl_keeps (fun t : State => (t.ctx k).pc) (fun t j => (t.unpark_ctx j k).2) l s

theorem State.unparks_parked (l : List Nat) (k : Nat) (h : k ∈ l ∨ (s.ctx k).parked = none) :
    ((l.foldl (fun s k => s.unpark k) s).ctx k).parked = none := by
  induction l generalizing s with
  | nil => exact h.resolve_left List.not_mem_nil
  | cons j l ih =>
    refine ih (s.unpark j) ?_
    have own := (s.unpark_ctx j k).1
    by_cases e : k = j
    · exact .inr (own.trans (if_pos e))
    · rcases h with h | h
      · exact .inl ((List.mem_cons.1 h).resolve_left e)
      · exact .inr (own.trans ((if_neg e).trans h))

theorem exec_groupRejoin {s : State} {cid : Nat} (due : s.rejoinDue cid false = true) (parked : (s.ctx cid).parked.isSome = true) :
    ∃ t, exec (.groupRejoin cid) s = .next t ∧ (t.ctx cid).parked = none ∧ (t.ctx cid).pc = (s.ctx cid).pc ∧ sameMemory s t ∧
      ∀ r ∈ t.rejoins, ¬ (r.cid = cid ∧ r.trap = false) := by
  obtain ⟨c, found⟩ : ∃ c, Table.find? s.ctxs cid = some c := by
    cases h : Table.find? s.ctxs cid with
    | none => rw [State.ctx, h] at parked; cases parked
    | some c => exact ⟨c, rfl⟩
  have own : s.ctx cid = c := State.ctx_of_find? found
  have member : cid ∈ (s.ctxs.filter fun x => x.2.parked == (s.ctx cid).parked && x.2.parked.isSome && x.2.asid == (s.ctx cid).asid &&
      x.2.gid == (s.ctx cid).gid).map (·.1) := by
    refine List.mem_map.2 ⟨(cid, c), List.mem_filter.2 ⟨Table.mem_of_find? found, ?_⟩, rfl⟩
    rw [own] at parked ⊢
    simp [parked]
  refine ⟨_, (Eq.refl (execGroupRejoin cid s)).trans (if_neg (by simp [due])), State.unparks_parked s _ cid (.inl member), State.unparks_pc s _ cid,
    sameMemory_of_memories ?_, fun r hr => ?_⟩
  · exact State.memories_foldl (fun s k => s.unpark k) (fun t k => t.unpark_memories k) _ s
  · obtain ⟨-, other⟩ := List.mem_filter.1 hr
    simpa [imp_iff_not_or] using other

end

/-! ### Stopped contexts (R367, R371) -/

section
variable {s : State} {cid : Nat}

/-- Ending the lease of a context changes the leases of its serai, and notes in the context the lease that it is to ask for again. -/
theorem State.endLease_eq (s : State) (cid : Nat) (again : Bool) : ∃ l m, s.endLease cid again = { s with serais := l, ctxs := m } := by
  unfold State.endLease
  split
  · exact ⟨_, _, rfl⟩
  dsimp only
  split
  · split
    · split <;> exact ⟨_, _, rfl⟩
    · exact ⟨_, _, rfl⟩
  · exact ⟨_, _, rfl⟩

/-- A consignment that has not ended is being ended with the status and the reason (R351, R361). -/
theorem State.conEnding_killCon {k status reason : Nat} {x : Cons} (h : s.con? k = some x)
    (alive : x.state ≠ .complete ∧ x.state ≠ .killing ∧ x.state ≠ .completing) :
    (s.killCon k status reason).conEnding k status reason ∧ (s.killCon k status reason).pk = s.pk := by
  obtain ⟨complete, killing, completing⟩ := alive
  have runs : (decide (x.state = .complete) || decide (x.state = .killing) || decide (x.state = .completing)) = false := by
    simp [complete, killing, completing]
  have worked : ∀ (l : List Nat) (u : State), (l.foldl (fun s cid => (s.endLease cid false).modCtx cid Ctx.dropWork) u).cons = u.cons ∧
      (l.foldl (fun s cid => (s.endLease cid false).modCtx cid Ctx.dropWork) u).pk = u.pk := fun l u => by
    have step : ∀ (t : State) (j : Nat), (((t.endLease j false).modCtx j Ctx.dropWork).cons, ((t.endLease j false).modCtx j Ctx.dropWork).pk) =
        (t.cons, t.pk) := fun t j => by
      obtain ⟨_, _, e⟩ := t.endLease_eq j false
      rw [e]
      rfl
    exact Prod.ext_iff.1 (foldl_keeps (fun t : State => (t.cons, t.pk)) step l u)
  have ended := State.con?_modCon s k (fun c => { c with state := .killing, status := status, reason := reason, asked := s.tick }) k
  have table : (s.modCon k fun c => { c with state := .killing, status := status, reason := reason, asked := s.tick }).pk = s.pk := by
    unfold State.modCon
    split <;> rfl
  rw [if_pos rfl, h] at ended
  unfold State.killCon
  simp only [h, runs, Bool.false_eq_true, if_false]
  have con := fun l => (congrArg (Table.find? · k) (worked l (s.modCon k fun c =>
    { c with state := .killing, status := status, reason := reason, asked := s.tick })).1).trans ended
  exact ⟨⟨_, con _, rfl, rfl, rfl⟩, (worked _ _).2.trans table⟩

theorem exec_tresume_of_none {unit who asid : Nat} (h : s.stoppedAt unit who asid = none) :
    exec (.tresumeResume unit who asid) s = .next s ∧ exec (.tresumeAbort unit who asid) s = .next s := by
  have resume : execTresumeResume unit who asid s = .next s := by simp only [execTresumeResume, h]
  have abort : execTresumeAbort unit who asid s = .next s := by simp only [execTresumeAbort, h]
  exact ⟨(Eq.refl _).trans resume, (Eq.refl _).trans abort⟩

theorem exec_tresumeResume {unit who asid : Nat} (h : s.stoppedAt unit who asid = some cid) : exec (.tresumeResume unit who asid) s =
    if (s.rejoins.any fun r => r.cid == cid && r.trap) = true then .next s else .next (s.noteRejoin cid true) := by
  refine (Eq.refl (execTresumeResume unit who asid s)).trans ?_
  simp only [execTresumeResume, h]

theorem exec_tresumeAbort_of_some {unit who asid k : Nat} (h : s.stoppedAt unit who asid = some cid) (cons : (s.ctx cid).cons = some k) :
    exec (.tresumeAbort unit who asid) s = .next ((s.killCon k 4 ((s.ctx cid).regs.tcause.toNat % 256)).actionBegins [k] 3) := by
  refine (Eq.refl (execTresumeAbort unit who asid s)).trans ?_
  simp only [execTresumeAbort, h, cons]

theorem exec_tresumeAbort_of_none {unit who asid : Nat} (h : s.stoppedAt unit who asid = some cid) (cons : (s.ctx cid).cons = none) :
    exec (.tresumeAbort unit who asid) s = .next s := by
  refine (Eq.refl (execTresumeAbort unit who asid s)).trans ?_
  simp only [execTresumeAbort, h, cons]

theorem exec_contextRejoin (due : s.rejoinDue cid true = true) (stopped : (s.ctx cid).status = .stopped) :
    ∃ t, exec (.contextRejoin cid) s = .next t ∧ t.ctx cid = (s.ctx cid).proceed (s.cycleOf cid) ∧ sameMemory s t := by
  obtain ⟨l, e⟩ := ((s.dropRejoin cid true).modCtx cid fun c => c.proceed (s.cycleOf cid)).askAgain_eq cid
  refine ⟨_, (Eq.refl (execContextRejoin cid s)).trans (if_neg (by simp [due, stopped])), ?_, sameMemory_of_memories ?_⟩
  · rw [e]
    have own := (s.dropRejoin cid true).ctx_modCtx cid (fun c => c.proceed (s.cycleOf cid)) cid
    exact own.trans (if_pos rfl)
  · rw [e]
    rfl

theorem Ctx.proceed_spec (c : Ctx) (n : Nat) : (c.proceed n).status = .ready ∧ (c.proceed n).pc = c.regs.tepc ∧
    (c.proceed n).regs.inh = c.regs.inh ∧ (c.regs.inh = false → (c.proceed n).notBefore = n + 3) := by
  unfold Ctx.proceed
  dsimp only
  by_cases inh : c.regs.inh = true
  · rw [if_pos inh]
    exact ⟨rfl, rfl, rfl, fun off => by rw [off] at inh; cases inh⟩
  · rw [if_neg inh]
    exact ⟨rfl, rfl, (Ctx.leaveHandler_inh _ _).trans (Bool.eq_false_iff.2 inh).symm, fun _ => rfl⟩

end

/-! ### A suspended consignment freezes and is saved (R358, R359) -/

section
variable {s : State} {cid : Nat}

theorem exec_contextFreeze (due : s.freezeDue cid = true) : ∃ t w, exec (.contextFreeze cid) s = .next t ∧
    t.ctx cid = ({ s.ctx cid with leaseWanted := w } : Ctx).freeze (s.cycleOf cid) ∧ (t.core (coreOf cid)).holder ≠ some cid ∧ sameMemory s t := by
  obtain ⟨w, lease⟩ := s.endLease_ctx (k := cid) true
  refine ⟨_, w, (Eq.refl (execContextFreeze cid s)).trans (if_neg (by simp [due])), ?_, ?_, sameMemory_of_memories (by simp)⟩
  · have own := (s.endLease cid true).ctx_modCtx cid (fun c => c.freeze (s.cycleOf cid)) cid
    rw [if_pos rfl, lease] at own
    exact own
  · rw [State.core_modCore, if_pos rfl]
    split
    · exact fun h => Option.some_ne_none _ h.symm
    · assumption

theorem Table.find?_map {α β : Type} (l : Table α) (f : α → β) (k : Nat) :
    Table.find? (l.map fun x => (x.1, f x.2)) k = (Table.find? l k).map f := by
  induction l with
  | nil => rfl
  | cons x l ih =>
    obtain ⟨j, v⟩ := x
    by_cases e : k = j
    · simp only [List.map_cons, Table.find?, if_pos e, Option.map_some]
    · simp only [List.map_cons, Table.find?, if_neg e, ih]

/-- Of consignment `k` at most the phasers' records differ, and PREEMPT's actions under way are the same. -/
def State.SameCon (s t : State) (k : Nat) : Prop :=
  (∀ x, s.con? k = some x → ∃ p, t.con? k = some { x with phasers := p }) ∧ t.pk = s.pk

theorem State.SameCon.of_eq {t : State} {k : Nat} (cons : t.cons = s.cons) (pk : t.pk = s.pk) : s.SameCon t k :=
  ⟨fun x h => ⟨x.phasers, by rw [State.con?, cons]; exact h⟩, pk⟩

theorem State.SameCon.trans {s t u : State} {k : Nat} (h : s.SameCon t k) (g : t.SameCon u k) : s.SameCon u k := by
  refine ⟨fun x hx => ?_, g.2.trans h.2⟩
  obtain ⟨p, hp⟩ := h.1 x hx
  obtain ⟨q, hq⟩ := g.1 _ hp
  exact ⟨q, hq⟩

theorem State.SameCon.foldl {α : Type} {f : State → α → State} {k : Nat} (hf : ∀ t x, State.SameCon t (f t x) k) (l : List α) (s : State) :
    s.SameCon (l.foldl f s) k := by
  induction l generalizing s with
  | nil => exact .of_eq rfl rfl
  | cons x l ih => exact (hf s x).trans (ih _)

theorem State.sameCon_renameCtx (s : State) (old new k : Nat) : s.SameCon (s.renameCtx old new) k := by
  refine ⟨fun x h => ?_, rfl⟩
  have renamed := Table.find?_map s.cons (fun c : Cons => { c with phasers := c.phasers.map fun p : Nat × Phaser => (p.1, p.2.rename old new) }) k
  rw [show Table.find? s.cons k = some x from h] at renamed
  exact ⟨_, renamed⟩

theorem State.sameCon_saveCtx (s : State) (cid k : Nat) : s.SameCon (s.saveCtx cid) k := by
  unfold State.saveCtx
  dsimp only
  refine State.SameCon.trans (t := State.renameCtx _ _ _) (State.SameCon.trans ?_ (State.sameCon_renameCtx _ _ _ _)) (.of_eq rfl rfl)
  exact .of_eq rfl rfl

theorem State.sameCon_writeHandles (s : State) (gid k : Nat) : s.SameCon (s.writeHandles gid) k := by
  unfold State.writeHandles
  dsimp only
  split
  · exact .of_eq rfl rfl
  split
  · exact .of_eq rfl rfl
  · refine .foldl (fun t d => ?_) _ s
    refine .foldl (fun u b => ?_) _ t
    exact .of_eq rfl rfl

/-- The groups and contexts of a consignment as its save leaves them (R358, R359). -/
def State.savedGroups (s : State) (k : Nat) : State :=
  let gids := (s.groups.filter fun g => g.2.cons == some k && g.2.resident).map (·.1)
  let s := ((s.ctxs.filter fun x => x.2.cons == some k && decide (x.1 < savedBase)).map (·.1)).foldl (fun s c => s.saveCtx c) s
  let s := gids.foldl (fun s g => s.modGroup g fun x => { x with resident := false }) s
  gids.foldl (fun s g => if (s.group g).unit < 64 then s.writeHandles g else s) s

theorem State.sameCon_savedGroups (s : State) (k : Nat) : s.SameCon (s.savedGroups k) k := by
  have saved := State.SameCon.foldl (fun t c => t.sameCon_saveCtx c k)
    ((s.ctxs.filter fun x => x.2.cons == some k && decide (x.1 < savedBase)).map (·.1)) s
  unfold State.savedGroups
  dsimp only
  refine (saved.trans ?_).trans (.foldl (fun t g => ?_) _ _)
  · refine .foldl (fun t g => ?_) _ _
    exact .of_eq rfl rfl
  · split
    · exact t.sameCon_writeHandles g k
    · exact .of_eq rfl rfl

/-- The end of the save: the consignment is suspended, and its action of PREEMPT over (R358). -/
def State.saveEnds (s : State) (k : Nat) (order : List Nat) : State :=
  (s.modCon k fun x => { x with state := .suspended, saved := x.saved ++ order, bound := [], watch := s.tick - x.watch }).modPk
    fun p => { p with prBusy := p.prBusy.filter fun x => x != (k, 1) }

theorem State.con?_saveEnds {k : Nat} {x : Cons} (h : s.con? k = some x) (order : List Nat) : (s.saveEnds k order).con? k =
    some { x with state := .suspended, saved := x.saved ++ order, bound := [], watch := s.tick - x.watch } := by
  have own := s.con?_modCon k (fun x => { x with state := .suspended, saved := x.saved ++ order, bound := [], watch := s.tick - x.watch }) k
  rw [if_pos rfl, h] at own
  exact own

theorem State.prBusy_saveEnds (s : State) (k : Nat) (order : List Nat) : (k, 1) ∉ (s.saveEnds k order).pk.prBusy := fun h => by
  simpa using (List.mem_filter.1 h).2

/-- The groups of a consignment that its save adds to the saved ones, in the order of their indices (R358). -/
def State.saveOrder (s : State) (k : Nat) : List Nat :=
  (((s.groups.filter fun g => g.2.cons == some k && g.2.resident).map (·.1)).filter fun g =>
    decide (((s.savedGroups k).group g).unit < 64)).mergeSort fun a b =>
      decide (((s.savedGroups k).group a).index ≤ ((s.savedGroups k).group b).index)

theorem exec_suspendSaveComplete {k : Nat} (due : s.saveDue k = true) : exec (.suspendSaveComplete k) s =
    .next (if (match (s.savedGroups k).con? k with | some x => x.releaseAfter | none => false) then
      ((s.savedGroups k).saveEnds k (s.saveOrder k)).release k else (s.savedGroups k).saveEnds k (s.saveOrder k)) :=
  (Eq.refl (execSuspendSaveComplete k s)).trans (if_neg (by simp [due]))

/-- A suspended consignment that is released goes on from where it stood (R360). -/
theorem State.release_con? {k : Nat} {x : Cons} (h : s.con? k = some x) : ∃ y, (s.release k).con? k = some y ∧
    (y.state = .accepted ∨ y.state = .running ∨ y.state = .draining) ∧ y.bound = x.bound := by
  have own := s.con?_modCon k (fun x => { x with
    state := if x.nextGroup = 0 then .accepted else if x.saved.isEmpty && x.halted = x.pk.allParcels then .draining else .running
    watch := s.tick - x.watch
    releaseAfter := false }) k
  rw [if_pos rfl, h] at own
  refine ⟨_, own, ?_, rfl⟩
  dsimp only
  split
  · exact .inl rfl
  split
  · exact .inr (.inr rfl)
  · exact .inr (.inl rfl)

theorem State.release_pk (s : State) (k : Nat) : (s.release k).pk = s.pk := by
  unfold State.release State.modCon
  split <;> rfl

end

/-- Settles O51: RESUME by the entries that ask again and the group that it names, the others by the context or the consignment that they change. -/
theorem resumptionEventsComplete : Obligations.ResumptionEventsComplete := by
  refine ⟨fun s seq asid unique => ?_, fun s cid due parked => exec_groupRejoin due parked, fun s unit who asid h => exec_tresume_of_none h,
    fun s unit who asid cid h => ⟨fun ⟨r, hr, mine, trap⟩ => ?_, fun none => ?_, fun free => ?_⟩, fun s unit who asid cid k x h cons hx alive => ?_,
    fun s cid due stopped => ?_, fun s cid due => ?_, fun s k x due hx => ?_⟩
  · obtain ⟨sent, -⟩ := s.resent_spec seq asid unique
    have far := fun c hc here => s.resent_far seq asid unique (c := c) hc here
    obtain ⟨l, frame⟩ := sent.frame
    have rejoins : (s.resent seq asid).rejoins = s.rejoins := by rw [frame]
    have memory : sameMemory s (s.resent seq asid) := by rw [frame]; exact sameMemory_of_memories rfl
    rcases exec_resume s seq asid with ⟨none, run⟩ | ⟨c, hc, run⟩
    · refine ⟨_, run, memory, far, fun _ => rejoins, fun ⟨⟨k, c⟩, hc, parked, here, free⟩ => ?_⟩
      have named : k ∈ (s.resent seq asid).parkedOn seq asid := sent.mem_parkedOn.2 (State.mem_parkedOn.2 ⟨c, hc, parked, here, free⟩)
      rw [none] at named
      cases named
    · obtain ⟨x, hx, parked, here, free⟩ := State.mem_parkedOn.1 (sent.mem_parkedOn.1 hc)
      obtain ⟨now, soon, later⟩ := (s.resent seq asid).rejoinTick_bounds
      rw [rejoins] at soon later
      have tick : (s.resent seq asid).tick = s.tick := by rw [frame]
      rw [tick] at now soon
      refine ⟨_, run, memory, far, fun all => ?_, fun _ => ⟨⟨c, (s.resent seq asid).rejoinTick, false⟩, ?_, rfl, now, soon, later, x, hx, parked, here⟩⟩
      · obtain ⟨r, hr, trap, group, rp, ra⟩ := all _ hx parked here
        exact absurd group (free r hr trap rp ra)
      · exact congrArg (· ++ [_]) rejoins
  · refine (exec_tresumeResume h).trans (if_pos (List.any_eq_true.2 ⟨r, hr, ?_⟩))
    simp [mine, trap]
  · have idle : ¬ (s.rejoins.any fun r => r.cid == cid && r.trap) = true := fun any => by
      obtain ⟨r, hr, test⟩ := List.any_eq_true.1 any
      obtain ⟨mine, trap⟩ := Bool.and_eq_true_iff.1 test
      rw [none r hr (beq_iff_eq.1 mine)] at trap
      cases trap
    obtain ⟨now, soon, later⟩ := s.rejoinTick_bounds
    refine ⟨_, ⟨cid, s.rejoinTick, true⟩, (exec_tresumeResume h).trans (if_neg idle), ?_, rfl, rfl, rfl, now, soon, later, rfl,
      sameMemory_of_memories rfl⟩
    simp [State.tresumeBusy, State.noteRejoin]
  · exact exec_tresumeAbort_of_none h free
  · have open_ : x.state ≠ .complete ∧ x.state ≠ .killing ∧ x.state ≠ .completing := by rcases alive with e | e | e <;> simp [e]
    obtain ⟨ending, -⟩ := State.conEnding_killCon (status := 4) (reason := (s.ctx cid).regs.tcause.toNat % 256) hx open_
    refine ⟨(s.killCon k 4 ((s.ctx cid).regs.tcause.toNat % 256)).actionBegins [k] 3, exec_tresumeAbort_of_some h cons, ?_, ending⟩
    simp [State.tresumeBusy, State.actionBegins, State.modPk]
  · obtain ⟨t, run, own, memory⟩ := exec_contextRejoin due stopped
    obtain ⟨status, pc, inh, issue⟩ := Ctx.proceed_spec (s.ctx cid) (s.cycleOf cid)
    exact ⟨t, run, by rw [own, status], by rw [own, pc], by rw [own, inh], fun off => by rw [own, issue off], memory⟩
  · obtain ⟨t, w, run, own, holder, memory⟩ := exec_contextFreeze due
    refine ⟨t, run, ?_⟩
    rw [own]
    exact ⟨rfl, rfl, rfl, holder, rfl, rfl, rfl, rfl, memory⟩
  · have run := exec_suspendSaveComplete due
    obtain ⟨p, hp⟩ := (s.sameCon_savedGroups k).1 x hx
    have ended := State.con?_saveEnds hp (s.saveOrder k)
    rw [hp] at run
    by_cases again : x.releaseAfter = true
    · obtain ⟨y, hy, state, bound⟩ := State.release_con? ended
      refine ⟨_, y, run.trans (congrArg Host.Outcome.next (if_pos again)), hy, bound, ?_, fun off => absurd (again.symm.trans off) (by decide), fun _ e => ?_⟩
      · rw [State.release_pk]
        exact State.prBusy_saveEnds _ k _
      · rcases state with h | h | h <;> cases h.symm.trans e
    · exact ⟨_, _, run.trans (congrArg Host.Outcome.next (if_neg again)), ended, rfl, State.prBusy_saveEnds _ k _, fun _ => rfl,
        fun on => absurd on again⟩

end Sys2Proof.Machine
end

section
/-! SUPPORT. Queues and PREEMPT (R332, R333, R356 to R362, R408, R412). -/

namespace Sys2Proof.Machine

open Sys2Proof

/-! ### Writes of the device -/

section
variable {s t u : State}

/-- From `s` to `t` the device has written to memory, and nothing else has changed. -/
def State.WritesTo (s t : State) : Prop := ∃ poison posted nextId mem peerMem hostMem hostMem1, t =
  { s with poison := poison, posted := posted, nextId := nextId, mem := mem, peerMem := peerMem, hostMem := hostMem, hostMem1 := hostMem1 }

theorem State.WritesTo.refl (s : State) : s.WritesTo s := ⟨_, _, _, _, _, _, _, rfl⟩

theorem State.WritesTo.trans (h : s.WritesTo t) (g : t.WritesTo u) : s.WritesTo u := by
  obtain ⟨_, _, _, _, _, _, _, rfl⟩ := h
  obtain ⟨_, _, _, _, _, _, _, rfl⟩ := g
  exact ⟨_, _, _, _, _, _, _, rfl⟩

theorem State.WritesTo.foldl {α : Type} {f : State → α → State} (hf : ∀ (t : State) (x : α), t.WritesTo (f t x)) (l : List α) (s : State) :
    s.WritesTo (l.foldl f s) := by
  induction l generalizing s with
  | nil => exact .refl s
  | cons x l ih => exact (hf s x).trans (ih _)

theorem State.WritesTo.queue (h : s.WritesTo t) (q : Nat) : t.queue q = s.queue q := by
  obtain ⟨_, _, _, _, _, _, _, rfl⟩ := h
  rfl

theorem State.WritesTo.con? (h : s.WritesTo t) (k : Nat) : t.con? k = s.con? k := by
  obtain ⟨_, _, _, _, _, _, _, rfl⟩ := h
  rfl

/-- The tables of the queues and consignments, the contexts, the groups and the package registers stay. -/
theorem State.WritesTo.tables (h : s.WritesTo t) : t.queues = s.queues ∧ t.cons = s.cons ∧ t.pk = s.pk ∧ t.ctxs = s.ctxs ∧ t.groups = s.groups := by
  obtain ⟨_, _, _, _, _, _, _, rfl⟩ := h
  exact ⟨rfl, rfl, rfl, rfl, rfl⟩

theorem State.writesTo_writeHome (s : State) (mt a : Nat) (d : List Byte) : s.WritesTo (s.writeHome mt a d) := s.writeHome_eq mt a d

theorem State.writesTo_asidPut (s : State) (die asid va : Nat) (bs : List Byte) : s.WritesTo (s.asidPut die asid va bs) := by
  unfold State.asidPut State.asidWrite
  split
  next s' h =>
    split at h
    · cases h
      exact .foldl (fun t p => t.writesTo_writeHome _ _ _) _ s
    · cases h
  next => exact .refl s

theorem State.writesTo_statusWrite (s : State) (q off : Nat) (bs : List Byte) : s.WritesTo (s.statusWrite q off bs) := by
  unfold State.statusWrite
  split
  · exact .refl s
  · exact s.writesTo_asidPut _ _ _ _

end

/-! ### Consignments that an action names -/

section
variable {s : State} {k : Nat} {x : Cons}

/-- What no change of a list names stays. -/
theorem State.foldl_modCon_other {f : State → Nat → Cons → Cons} {l : List Nat} (h : k ∉ l) :
    (l.foldl (fun t j => t.modCon j (f t j)) s).con? k = s.con? k := by
  induction l generalizing s with
  | nil => rfl
  | cons j l ih =>
    obtain ⟨ne, rest⟩ := not_or.1 (mt List.mem_cons.2 h)
    exact (ih rest).trans ((s.con?_modCon j (f s j) k).trans (if_neg ne))

theorem State.foldl_modCon_keeps {P : Cons → Prop} {f : State → Nat → Cons → Cons} (stays : ∀ t j y, P y → P (f t j y)) {l : List Nat}
    (h : s.con? k = some x) (now : P x) : ∃ y, (l.foldl (fun t j => t.modCon j (f t j)) s).con? k = some y ∧ P y := by
  induction l generalizing s x with
  | nil => exact ⟨x, h, now⟩
  | cons j l ih =>
    have own := s.con?_modCon j (f s j) k
    by_cases e : k = j
    · subst e
      rw [if_pos rfl, h] at own
      exact ih own (stays _ _ _ now)
    · rw [if_neg e, h] at own
      exact ih own now

/-- A property that each change brings about and keeps holds of every consignment that the changes name. -/
theorem State.foldl_modCon_reaches {P : Cons → Prop} {f : State → Nat → Cons → Cons} (stays : ∀ t j y, P y → P (f t j y)) {l : List Nat}
    (named : k ∈ l) (h : s.con? k = some x) (first : ∀ t j, P (f t j x)) : ∃ y, (l.foldl (fun t j => t.modCon j (f t j)) s).con? k = some y ∧ P y := by
  induction l generalizing s with
  | nil => cases named
  | cons j l ih =>
    have own := s.con?_modCon j (f s j) k
    by_cases e : k = j
    · subst e
      rw [if_pos rfl, h] at own
      exact State.foldl_modCon_keeps (s := s.modCon k (f s k)) stays own (first _ _)
    · rw [if_neg e, h] at own
      exact ih ((List.mem_cons.1 named).resolve_left e) own

theorem State.mem_victims {q seq : Nat} {p : Cons → Bool} (h : s.con? k = some x) (queue : x.queue = q) (number : x.seq = seq)
    (accepted : x.status ≠ 2) (test : p x = true) : k ∈ s.victims q seq p := by
  refine List.mem_map.2 ⟨(k, x), List.mem_filter.2 ⟨Table.mem_of_find? h, ?_⟩, rfl⟩
  simp [queue, number, accepted, test]

theorem State.of_mem_victims {q seq : Nat} {p : Cons → Bool} (h : k ∈ s.victims q seq p) : ∃ y, (k, y) ∈ s.cons ∧ p y = true := by
  obtain ⟨⟨j, y⟩, hy, rfl⟩ := List.mem_map.1 h
  obtain ⟨hy, test⟩ := List.mem_filter.1 hy
  exact ⟨y, hy, (Bool.and_eq_true_iff.1 test).2⟩

theorem State.preemptBusy_actionBegins {ks : List Nat} {op : Nat} (named : k ∈ ks) (other : op ≠ 3) : (s.actionBegins ks op).preemptBusy = true := by
  refine List.any_eq_true.2 ⟨(k, op), List.mem_append_right _ (List.mem_map.2 ⟨k, named, rfl⟩), ?_⟩
  simpa using other

/-! ### Kills (R356, R361) -/

theorem Table.find?_mapKey {α β : Type} (l : Table α) (f : Nat → α → β) (k : Nat) :
    Table.find? (l.map fun x => (x.1, f x.1 x.2)) k = (Table.find? l k).map (f k) := by
  induction l with
  | nil => rfl
  | cons x l ih =>
    obtain ⟨j, v⟩ := x
    by_cases e : k = j
    · subst e
      simp only [List.map_cons, Table.find?, if_pos, Option.map_some]
    · simp only [List.map_cons, Table.find?, if_neg e, ih]

/-- A kill ends one consignment and its contexts' work, and puts the queue of its replay into ERROR. -/
theorem State.killCon_eq {status reason : Nat} (h : s.con? k = some x)
    (alive : (decide (x.state = .complete) || decide (x.state = .killing) || decide (x.state = .completing)) = false) :
    ∃ serais ctxs cmds, s.killCon k status reason = { s with
      cons := Table.put s.cons k { x with state := .killing, status := status, reason := reason, asked := s.tick }
      serais := serais
      ctxs := ctxs
      cmds := cmds
      queues := s.queues.map fun q => (q.1, if q.1 = 8192 + k then { q.2 with st := .error, packet := none } else q.2) } := by
  have worked : ∀ (l : List Nat) (u : State), ∃ serais ctxs,
      l.foldl (fun s cid => (s.endLease cid false).modCtx cid Ctx.dropWork) u = { u with serais := serais, ctxs := ctxs } := by
    intro l
    induction l with
    | nil => exact fun u => ⟨_, _, rfl⟩
    | cons j l ih =>
      intro u
      obtain ⟨_, _, e⟩ := u.endLease_eq j false
      obtain ⟨_, _, rest⟩ := ih ((u.endLease j false).modCtx j Ctx.dropWork)
      rw [List.foldl_cons, rest, e]
      exact ⟨_, _, rfl⟩
  have ending : s.modCon k (fun c => { c with state := .killing, status := status, reason := reason, asked := s.tick }) =
      { s with cons := Table.put s.cons k { x with state := .killing, status := status, reason := reason, asked := s.tick } } := by
    unfold State.modCon
    rw [h]
  unfold State.killCon
  simp only [h, alive, Bool.false_eq_true, if_false, ending]
  obtain ⟨_, _, rest⟩ := worked ((s.ctxs.filter fun x => x.2.cons == some k).map (·.1))
    { s with cons := Table.put s.cons k { x with state := .killing, status := status, reason := reason, asked := s.tick } }
  rw [rest]
  exact ⟨_, _, _, rfl⟩

theorem State.killCon_frame (s : State) (k status reason : Nat) : (∀ j, j ≠ k → (s.killCon k status reason).con? j = s.con? j) ∧
    (s.killCon k status reason).pk = s.pk ∧ (∀ q, (s.queue q).st ≠ .open_ → ((s.killCon k status reason).queue q).st ≠ .open_) := by
  cases h : s.con? k with
  | none =>
    have same : s.killCon k status reason = s := by unfold State.killCon; rw [h]
    rw [same]
    exact ⟨fun _ _ => rfl, rfl, fun _ n => n⟩
  | some x =>
    cases alive : (decide (x.state = .complete) || decide (x.state = .killing) || decide (x.state = .completing)) with
    | true =>
      have same : s.killCon k status reason = s := by
        unfold State.killCon
        simp only [h, alive, if_true]
      rw [same]
      exact ⟨fun _ _ => rfl, rfl, fun _ n => n⟩
    | false =>
      obtain ⟨_, _, _, e⟩ := State.killCon_eq (status := status) (reason := reason) h alive
      rw [e]
      refine ⟨fun j ne => (Table.find?_put ..).trans (if_neg ne), rfl, fun q closed => ?_⟩
      have found := Table.find?_mapKey s.queues
        (fun (j : Nat) (x : Queue) => if j = 8192 + k then { x with st := .error, packet := none } else x) q
      rw [State.queue]
      refine (congrArg (fun o : Option Queue => (o.getD .closed).st ≠ .open_) found).mpr ?_
      rw [State.queue] at closed
      cases hq : Table.find? s.queues q with
      | none => exact QState.noConfusion
      | some y =>
        rw [hq] at closed
        dsimp only [Option.map_some, Option.getD_some]
        split
        · exact QState.noConfusion
        · exact closed

theorem State.killCon_ended {status reason : Nat} (h : s.con? k = some x) (killing : x.state = .killing) : s.killCon k status reason = s := by
  unfold State.killCon
  rw [h]
  simp [killing]

/-- What is being ended stays so. -/
theorem State.conEnding_killCon_stays {j status reason status' reason' : Nat} (h : s.conEnding k status reason) :
    (s.killCon j status' reason').conEnding k status reason := by
  obtain ⟨y, hy, killing, rest⟩ := h
  by_cases e : k = j
  · subst e
    rw [State.killCon_ended hy killing]
    exact ⟨y, hy, killing, rest⟩
  · exact ⟨y, ((s.killCon_frame j _ _).1 k e).trans hy, killing, rest⟩

/-- Kills end every consignment that they name. -/
theorem State.conEnding_kills {status reason : Nat} {l : List Nat} (named : k ∈ l) (h : s.con? k = some x)
    (alive : x.state ≠ .complete ∧ x.state ≠ .killing ∧ x.state ≠ .completing) :
    (l.foldl (fun s k => s.killCon k status reason) s).conEnding k status reason := by
  have stays : ∀ (l : List Nat) (t : State), t.conEnding k status reason → (l.foldl (fun s k => s.killCon k status reason) t).conEnding k status reason := by
    intro l
    induction l with
    | nil => exact fun t h => h
    | cons j l ih => exact fun t h => ih _ (State.conEnding_killCon_stays h)
  induction l generalizing s with
  | nil => cases named
  | cons j l ih =>
    by_cases e : k = j
    · subst e
      exact stays l _ (State.conEnding_killCon h alive).1
    · exact ih ((List.mem_cons.1 named).resolve_left e) (((s.killCon_frame j status reason).1 k e).trans h)

theorem State.kills_frame (status reason : Nat) (l : List Nat) (s : State) : (l.foldl (fun s k => s.killCon k status reason) s).pk = s.pk ∧
    ∀ q, (s.queue q).st ≠ .open_ → ((l.foldl (fun s k => s.killCon k status reason) s).queue q).st ≠ .open_ := by
  induction l generalizing s with
  | nil => exact ⟨rfl, fun _ h => h⟩
  | cons j l ih =>
    obtain ⟨-, pk, queue⟩ := s.killCon_frame j status reason
    obtain ⟨pk', queue'⟩ := ih (s.killCon j status reason)
    exact ⟨pk'.trans pk, fun q h => queue' q (queue q h)⟩

end

/-! ### Opening, closing and killing queues (R333, R356) -/

section
variable {s : State} {q : Nat}

theorem State.queue_modQueue_self (s : State) (q : Nat) (f : Queue → Queue) : (s.modQueue q f).queue q = f (s.queue q) :=
  (s.queue_modQueue q f q).trans (if_pos rfl)

theorem State.queue_statusWrite (s : State) (p off : Nat) (bs : List Byte) (q : Nat) : (s.statusWrite p off bs).queue q = s.queue q :=
  (s.writesTo_statusWrite p off bs).queue q

theorem not_replay (host : q < 8192) : ¬ replayBase ≤ q := Nat.not_le.2 host

theorem exec_queueOpen_off (off : s.pk.bootState ≠ 1) : exec (.queueOpen q) s = .next s := by
  refine (Eq.refl (execQueueOpen q s)).trans (if_pos ?_)
  simp [off]

theorem exec_queueOpen_again (host : q < 8192) (boot : s.pk.bootState = 1) (there : (s.queue q).st ≠ .closed) :
    exec (.queueOpen q) s = .next (s.modQueue q fun x => { x with dev := (s.describedQueue q).dev }) := by
  refine (Eq.refl (execQueueOpen q s)).trans ((if_neg ?_).trans (if_pos there))
  simp [not_replay host, boot]

theorem exec_queueOpen_closed (host : q < 8192) (boot : s.pk.bootState = 1) (closed : (s.queue q).st = .closed) : exec (.queueOpen q) s =
    if s.descriptorOk q then .next (((s.modQueue q fun _ => s.describedQueue q).statusWrite q 0
      (natLe 4 (s.describedQueue q).consumed ++ natLe 4 (s.describedQueue q).completed)).statusWrite q 12 (natLe 20 1))
    else .next ((s.modQueue q fun _ => s.describedQueue q).queueError q 3 (s.describedQueue q).expect 0) := by
  refine (Eq.refl (execQueueOpen q s)).trans ((if_neg ?_).trans (if_neg (not_not.2 closed)))
  simp [not_replay host, boot]

theorem State.queueError_st (host : q < 8192) (err found addr : Nat) : ((s.queueError q err found addr).queue q).st = .error := by
  rw [State.queueError, if_neg (not_replay host), State.queue_statusWrite, State.queue_modQueue_self]

theorem State.closeQueue_live (live : (s.queue q).st = .open_ ∨ (s.queue q).st = .error) : s.closeQueue q =
    (s.modQueue q fun x => { x with st := .closing, packet := none }).statusWrite q 12 [2#8] := by
  unfold State.closeQueue
  rcases live with h | h <;> rw [h]

theorem State.closeQueue_idle (idle : (s.queue q).st = .closed ∨ (s.queue q).st = .closing) : s.closeQueue q = s := by
  unfold State.closeQueue
  rcases idle with h | h <;> rw [h]

theorem State.closeQueue_closing (live : (s.queue q).st = .open_ ∨ (s.queue q).st = .error) : ((s.closeQueue q).queue q).st = .closing ∧
    ((s.closeQueue q).queue q).packet = none ∧ (s.closeQueue q).cons = s.cons := by
  rw [State.closeQueue_live live, State.queue_statusWrite, State.queue_modQueue_self]
  exact ⟨rfl, rfl, (State.writesTo_statusWrite _ q _ _).tables.2.1⟩

/-- Closing a queue opens none, and leaves the consignments and the registers. -/
theorem State.closeQueue_frame (s : State) (q : Nat) : (s.closeQueue q).cons = s.cons ∧ (s.closeQueue q).pk = s.pk ∧
    ((s.closeQueue q).queue q).st ≠ .open_ ∧ ∀ p, (s.queue p).st ≠ .open_ → ((s.closeQueue q).queue p).st ≠ .open_ := by
  have two : ((s.queue q).st = .open_ ∨ (s.queue q).st = .error) ∨ ((s.queue q).st = .closed ∨ (s.queue q).st = .closing) := by
    cases (s.queue q).st <;> simp
  rcases two with live | idle
  · obtain ⟨closing, -, -⟩ := State.closeQueue_closing live
    rw [closing]
    rw [State.closeQueue_live live]
    obtain ⟨-, cons, pk, -, -⟩ := ((s.modQueue q fun x => { x with st := .closing, packet := none }).writesTo_statusWrite q 12 [2#8]).tables
    refine ⟨cons, pk, QState.noConfusion, fun p closed => ?_⟩
    rw [State.queue_statusWrite, State.queue_modQueue]
    split
    · exact QState.noConfusion
    · exact closed
  · rw [State.closeQueue_idle idle]
    refine ⟨rfl, rfl, ?_, fun _ h => h⟩
    rcases idle with h | h <;> rw [h] <;> exact QState.noConfusion

theorem State.killQueue_frame (s : State) (q : Nat) : (s.killQueue q).pk = s.pk ∧ ((s.killQueue q).queue q).st ≠ .open_ ∧
    ∀ p, (s.queue p).st ≠ .open_ → ((s.killQueue q).queue p).st ≠ .open_ := by
  obtain ⟨-, pk, closed, keeps⟩ := s.closeQueue_frame q
  obtain ⟨pk', stays⟩ := State.kills_frame 3 0 (s.consOf q) (s.closeQueue q)
  exact ⟨pk'.trans pk, stays q closed, fun p h => stays p (keeps p h)⟩

theorem State.killQueue_ends {k : Nat} {x : Cons} (h : s.con? k = some x) (mine : x.queue = q) (running : x.state = .running) :
    (s.killQueue q).conEnding k 3 0 := by
  have named : k ∈ s.consOf q := List.mem_map.2 ⟨(k, x), List.mem_filter.2 ⟨Table.mem_of_find? h, by simp [mine]⟩, rfl⟩
  refine State.conEnding_kills (x := x) named ?_ (by simp [running])
  rw [State.con?, (s.closeQueue_frame q).1]
  exact h

theorem exec_queueDoorbell_open {prod : Nat} (host : q < 8192) (live : (s.queue q).st ≠ .closed) (own : (s.queue q).dev = false) :
    exec (.queueDoorbell q prod) s = .next (s.modQueue q fun x => { x with prod := prod % 2 ^ 32 }) := by
  refine (Eq.refl (execQueueDoorbell q prod s)).trans (if_neg ?_)
  simp [not_replay host, live, own]

theorem exec_queueDoorbell_idle {prod : Nat} (idle : (s.queue q).st = .closed ∨ (s.queue q).dev = true) :
    exec (.queueDoorbell q prod) s = .next s := by
  refine (Eq.refl (execQueueDoorbell q prod s)).trans (if_pos ?_)
  rcases idle with h | h <;> simp [h]

end

/-! ### PREEMPT (R357 to R362) -/

section
variable {s : State} {q seq k : Nat} {x : Cons}

theorem exec_preemptSuspend (s : State) (q seq : Nat) : exec (.preemptSuspend q seq) s =
    .next (((s.victims q seq fun x => x.canSuspend || x.state == .suspending).foldl (fun s k => s.modCon k fun x => x.suspend s.tick) s).actionBegins
      (s.victims q seq fun x => x.canSuspend || x.state == .suspending) 1) := Eq.refl (execPreemptSuspend q seq s)

theorem exec_preemptKill (s : State) (q seq : Nat) : exec (.preemptKill q seq) s =
    .next (((s.victims q seq fun x => x.state != .completing && x.state != .complete && x.state != .killing).foldl
      (fun s k => s.killCon k 3 0) s).actionBegins
        (s.victims q seq fun x => x.state != .completing && x.state != .complete && x.state != .killing) 2) := Eq.refl (execPreemptKill q seq s)

theorem exec_preemptRelease (s : State) (q seq : Nat) : exec (.preemptRelease q seq) s =
    .next ((s.victims q seq fun x => x.state == .suspending).foldl (fun s k => s.modCon k fun x => { x with releaseAfter := true })
      ((s.victims q seq fun x => x.state == .suspended).foldl (fun s k => s.release k) s)) := Eq.refl (execPreemptRelease q seq s)

/-- A suspended consignment as a release leaves it (R360). -/
def Cons.released (x : Cons) (tick : Nat) : Cons :=
  { x with
    state := if x.nextGroup = 0 then .accepted else if x.saved.isEmpty && x.halted = x.pk.allParcels then .draining else .running
    watch := tick - x.watch
    releaseAfter := false }

theorem State.release_eq (s : State) (k : Nat) : s.release k = s.modCon k fun x => x.released s.tick := rfl

theorem Cons.released_state (x : Cons) (tick : Nat) : (x.released tick).state = .accepted ∨ (x.released tick).state = .running ∨
    (x.released tick).state = .draining := by
  unfold Cons.released
  dsimp only
  split
  · exact .inl rfl
  split
  · exact .inr (.inr rfl)
  · exact .inr (.inl rfl)

/-- What is suspending stays so under a suspend, and takes back a release (R358, R362). -/
theorem Cons.suspend_suspending (h : x.state = .suspending) (tick : Nat) : (x.suspend tick).state = .suspending ∧
    (x.suspend tick).releaseAfter = false := by
  have settled : x.canSuspend = false := by simp [Cons.canSuspend, h]
  rw [Cons.suspend, settled]
  exact ⟨h, rfl⟩

theorem Cons.suspend_running (groups : x.pk.g ≠ 0) (h : x.state = .running) (tick : Nat) : (x.suspend tick).state = .suspending := by
  have may : x.canSuspend = true := by simp [Cons.canSuspend, h, groups]
  rw [Cons.suspend, may]
  rfl

end

/-! ### Function-level resets (R408) -/

section
variable (s : State) (port : Nat)

/-- The queues of a port (R407). -/
def State.portQueues : List Nat := (s.queues.filter fun q => decide (q.1 < replayBase) && s.dieOfQueue q.1 == port).map (·.1)

theorem exec_functionLevelReset : exec (.functionLevelReset port) s = .next (((s.portQueues port).foldl (fun s q => s.killQueue q) s).modPk fun p =>
    { p with
      memEn := p.memEn.set port false
      busEn := p.busEn.set port false
      msixEn := p.msixEn.set port false
      atomicEn := p.atomicEn.set port false
      mailbox := p.mailbox.set port ⟨[], [], []⟩
      msixDue := p.msixDue.filter fun x => x.1 != port }) := Eq.refl (execFunctionLevelReset port s)

/-- Queues that are killed one after the other are not OPEN. -/
theorem State.killQueues_frame (l : List Nat) (s : State) : (l.foldl (fun s q => s.killQueue q) s).pk = s.pk ∧
    ∀ q, q ∈ l ∨ (s.queue q).st ≠ .open_ → ((l.foldl (fun s q => s.killQueue q) s).queue q).st ≠ .open_ := by
  induction l generalizing s with
  | nil => exact ⟨rfl, fun q h => h.resolve_left List.not_mem_nil⟩
  | cons p l ih =>
    obtain ⟨pk, closed, keeps⟩ := s.killQueue_frame p
    obtain ⟨pk', rest⟩ := ih (s.killQueue p)
    refine ⟨pk'.trans pk, fun q h => rest q ?_⟩
    rcases h with named | h
    · rcases List.mem_cons.1 named with rfl | named
      · exact .inr closed
      · exact .inl named
    · exact .inr (keeps q h)

end

/-- Settles O50: queues by what their state becomes, PREEMPT by the consignments that it names. -/
theorem queueCommandsComplete : Obligations.QueueCommandsComplete := by
  refine ⟨fun s q host => ⟨exec_queueOpen_off, fun there boot => ?_, fun closed boot => ⟨fun ok => ?_, fun bad => ?_⟩, fun live => ?_, fun idle => ?_, ?_,
    fun prod => ⟨fun live own => exec_queueDoorbell_open host live own, exec_queueDoorbell_idle⟩⟩, fun s port => ?_,
    fun s q seq => ⟨?_, ?_, ?_⟩⟩
  · exact ⟨_, exec_queueOpen_again host boot there, State.queue_modQueue_self .., sameMemory_of_memories rfl⟩
  · have opened : (((s.modQueue q fun _ => s.describedQueue q).statusWrite q 0
        (natLe 4 (s.describedQueue q).consumed ++ natLe 4 (s.describedQueue q).completed)).statusWrite q 12 (natLe 20 1)).queue q =
        s.describedQueue q := by
      rw [State.queue_statusWrite, State.queue_statusWrite, State.queue_modQueue_self]
    exact ⟨_, (exec_queueOpen_closed host boot closed).trans (if_pos ok), opened, by rw [opened]; rfl⟩
  · exact ⟨_, (exec_queueOpen_closed host boot closed).trans (if_neg (by simp [bad])), State.queueError_st host _ _ _⟩
  · exact ⟨_, Eq.refl (execQueueClose q s), State.closeQueue_closing live⟩
  · exact (Eq.refl (execQueueClose q s)).trans (congrArg Host.Outcome.next (State.closeQueue_idle idle))
  · exact ⟨_, Eq.refl (execQueueKill q s), (s.killQueue_frame q).2.1, fun k x h mine running => State.killQueue_ends h mine running⟩
  · obtain ⟨pk, closed⟩ := State.killQueues_frame (s.portQueues port) s
    refine ⟨_, exec_functionLevelReset s port, ?_, ?_, ?_, ?_, fun q x hx host mine => closed q (.inl ?_)⟩
    · exact congrArg (fun p : PkgRegs => p.atomicEn.set port false) pk
    · exact congrArg (fun p : PkgRegs => p.memEn.set port false) pk
    · exact congrArg (fun p : PkgRegs => p.busEn.set port false) pk
    · exact congrArg (fun p : PkgRegs => p.msixEn.set port false) pk
    · exact List.mem_map.2 ⟨(q, x), List.mem_filter.2 ⟨hx, by simp [mine, replayBase, host]⟩, rfl⟩
  · refine ⟨_, exec_preemptSuspend s q seq, sameMemory_of_memories (by simp [State.actionBegins]), fun k x h queue number accepted =>
      ⟨fun groups running => ?_, fun suspending => ?_⟩⟩
    · have named : k ∈ s.victims q seq fun x => x.canSuspend || x.state == .suspending :=
        State.mem_victims h queue number accepted (by simp [Cons.canSuspend, running, groups])
      obtain ⟨y, hy, state⟩ := State.foldl_modCon_reaches (P := fun y => y.state = .suspending) (f := fun t _ y => y.suspend t.tick)
        (fun t _ y hy => (Cons.suspend_suspending hy t.tick).1) named h fun t _ => Cons.suspend_running groups running t.tick
      exact ⟨State.preemptBusy_actionBegins named (by decide), y, hy, state⟩
    · have named : k ∈ s.victims q seq fun x => x.canSuspend || x.state == .suspending :=
        State.mem_victims h queue number accepted (by simp [suspending])
      obtain ⟨y, hy, state, release⟩ := State.foldl_modCon_reaches (P := fun y => y.state = .suspending ∧ y.releaseAfter = false)
        (f := fun t _ y => y.suspend t.tick) (fun t _ y hy => Cons.suspend_suspending hy.1 t.tick) named h
        fun t _ => Cons.suspend_suspending suspending t.tick
      exact ⟨State.preemptBusy_actionBegins named (by decide), y, hy, state, release⟩
  · refine ⟨_, exec_preemptKill s q seq, fun k x h queue number accepted running => ?_⟩
    have named : k ∈ s.victims q seq fun x => x.state != .completing && x.state != .complete && x.state != .killing :=
      State.mem_victims h queue number accepted (by simp [running])
    exact ⟨State.preemptBusy_actionBegins named (by decide), State.conEnding_kills named h (by simp [running])⟩
  · refine ⟨_, exec_preemptRelease s q seq, sameMemory_of_memories (by simp [State.release]), fun k x h unique queue number accepted =>
      ⟨fun suspended => ?_, fun suspending => ?_⟩⟩
    · have named : k ∈ s.victims q seq fun x => x.state == .suspended := State.mem_victims h queue number accepted (by simp [suspended])
      obtain ⟨y, hy, state⟩ := State.foldl_modCon_reaches (P := fun y => y.state = .accepted ∨ y.state = .running ∨ y.state = .draining)
        (f := fun t _ y => y.released t.tick) (fun t _ y _ => y.released_state t.tick) named h fun t _ => x.released_state t.tick
      exact State.foldl_modCon_keeps (P := fun y => y.state = .accepted ∨ y.state = .running ∨ y.state = .draining)
        (f := fun _ _ y => { y with releaseAfter := true }) (fun _ _ _ now => now) hy state
    · have unnamed : k ∉ s.victims q seq fun x => x.state == .suspended := fun m => by
        obtain ⟨y, hy, test⟩ := State.of_mem_victims m
        rw [unique y hy, suspending] at test
        cases test
      have named : k ∈ s.victims q seq fun x => x.state == .suspending := State.mem_victims h queue number accepted (by simp [suspending])
      have kept := (State.foldl_modCon_other (f := fun t _ y => y.released t.tick) unnamed).trans h
      exact State.foldl_modCon_reaches (P := fun y => y.state = .suspending ∧ y.releaseAfter = true)
        (f := fun _ _ y => { y with releaseAfter := true }) (fun _ _ y now => ⟨now.1, rfl⟩) named kept fun _ _ => ⟨suspending, rfl⟩

end Sys2Proof.Machine
end

section
/-! SUPPORT. Requests of the host, of its mailbox and of peers (R235, R242, R375, R377, R404 to R408, R413, R417, R418). -/

namespace Sys2Proof.Machine

open Sys2Proof

/-! ### The base address registers (R404 to R406, R413) -/

section
variable {s : State} {a : HostAccess}

/-- An access of BAR0 that its registers answer: eight bytes, aligned, within them (R404, R405). -/
theorem bar0_answers (plain : a.atomic = false) (size : a.size = 8) (aligned : a.offset % 8 = 0) (low : a.offset < 2048) (on : s.barOn a.port = true) :
    ¬ (!s.barOn a.port || a.atomic || a.size ≠ 8 || a.offset % 8 ≠ 0 || 2 ^ 20 ≤ a.offset) = true := by
  simp [plain, size, aligned, on]
  omega

theorem exec_bar0_read (plain : a.atomic = false) (size : a.size = 8) (aligned : a.offset % 8 = 0) (low : a.offset < 2048)
    (on : s.barOn a.port = true) (read : a.write = false) :
    exec (.hostBar0Access a) s = .next (s.send (.completion a.port (natLe 8 ((s.barReg a.offset).getD 0).toNat))) :=
  (Eq.refl (execHostBar0Access a s)).trans ((if_neg (bar0_answers plain size aligned low on)).trans (if_neg (by simp [read])))

theorem exec_bar0_write {v : Word} (plain : a.atomic = false) (size : a.size = 8) (aligned : a.offset % 8 = 0) (low : a.offset < 2048)
    (on : s.barOn a.port = true) (write : a.write = true) (there : s.barReg a.offset = some v) : exec (.hostBar0Access a) s =
      .next { s with inputs := regEvents (0x800 + a.offset / 8) (BitVec.ofNat 64 (leNat (a.data.take 8))) ++ s.inputs } := by
  refine (Eq.refl (execHostBar0Access a s)).trans ((if_neg (bar0_answers plain size aligned low on)).trans ((if_pos write).trans ?_))
  simp only [there]
  rfl

theorem State.barReg_running (low : a.offset < 2048) (running : s.pk.bootState ≠ 2) : s.barReg a.offset = s.pkgReg (0x800 + a.offset / 8) := by
  have inside : ¬ 0x800 ≤ a.offset := Nat.not_le.2 low
  have other : ¬ ((decide (s.pk.bootState = 2) && barIndex a.offset != 0x832 && barIndex a.offset != 0x833 && barIndex a.offset != 0x818) = true) := by
    simp [running]
  rw [State.barReg, if_neg inside, if_neg other]
  rfl

theorem exec_bar_off {i : Instr} (row : i ∈ [Instr.hostBar0Access a, .hostBar2Access a]) (plain : a.atomic = false) (off : s.barOn a.port = false) :
    exec i s = .next (if a.write then s else s.send (.unsupported a.port)) := by
  simp only [List.mem_cons, List.not_mem_nil, or_false] at row
  rcases row with rfl | rfl
  · refine (Eq.refl (execHostBar0Access a s)).trans ((if_pos ?_).trans ?_)
    · simp [off]
    · rw [plain]
      simp
  · exact (Eq.refl (execHostBar2Access a s)).trans ((if_neg (by simp [plain])).trans (if_pos (by simp [off])))

theorem exec_bar2 {base : Nat} (plain : a.atomic = false) (running : s.pk.bootState ≠ 2) (on : s.barOn a.port = true)
    (hb : base = (s.window a.port).1) (inside : a.offset + a.size ≤ (s.window a.port).2) (map : base + a.offset + a.size ≤ Config.hbmBytes) :
    exec (.hostBar2Access a) s = if a.write then .next (s.hostWrite (base + a.offset) (a.data.take a.size))
      else .next (s.send (.completion a.port (s.bytesSeen viewHost 0 (base + a.offset) a.size))) := by
  subst hb
  have addr : s.barAddr a = some ((s.window a.port).1 + a.offset) := by
    unfold State.barAddr
    exact if_pos (Bool.and_eq_true_iff.2 ⟨decide_eq_true inside, decide_eq_true map⟩)
  refine (Eq.refl (execHostBar2Access a s)).trans ((if_neg (by simp [plain])).trans ((if_neg (by simp [on])).trans ((if_neg running).trans ?_)))
  simp only [addr]

/-- With no write under way a write at home changes the bytes it names. -/
theorem State.mem_writeHome (quiet : s.posted = []) (n : Nat) (d : List Byte) (x : Nat) :
    (s.writeHome 0 n d).mem.get x = if n ≤ x ∧ x < n + d.length then (d[x - n]?).getD 0 else s.mem.get x := by
  have home : (s.writeHome 0 n d).mem = s.mem.setBytes n d := by
    unfold State.writeHome
    simp only [quiet, List.any_nil, Bool.false_eq_true, if_false]
    rfl
  rw [home, Store.get_setBytes]

end

/-! ### The windows of the ports (R406) -/

section
variable (s : State)

theorem settle_pk (l : List Posted) (s : State) : (settle l s).2.pk = s.pk := by
  induction l generalizing s with
  | nil => rfl
  | cons p l ih =>
    unfold settle
    split
    · split
      · refine (ih _).trans ?_
        unfold State.setBacking
        split <;> rfl
      · rfl
    · exact ih s

theorem State.settleAll_pk : s.settleAll.pk = s.pk := settle_pk s.posted s

theorem State.flushLate_pk : s.flushLate.pk = s.pk := by
  have written := foldl_keeps State.pk (fun (t : State) (l : Late) => (rfl : (t.padWrite l.gid l.side l.addr l.data).pk = t.pk))
    (s.late.mergeSort fun a b => decide (coreOf a.cid ≤ coreOf b.cid)) { s with late := [] }
  unfold State.flushLate
  dsimp only
  split
  · exact written
  · exact written

theorem State.maskSteps_pk : s.maskSteps.pk = s.pk := by unfold State.maskSteps; split <;> rfl

theorem State.refreshLeases_pk : s.refreshLeases.pk = s.pk := foldl_keeps State.pk (fun s k => by split <;> rfl) _ s

theorem State.noteHold_pk (cid : Nat) : (s.noteHold cid).pk = s.pk := by
  unfold State.noteHold
  dsimp only
  split
  · rfl
  · split
    · rfl
    · split <;> rfl

/-- A port meets PWIN as it stands when the cycle begins (R406). -/
theorem State.advance_windows : s.advance.pk.windows = s.pk.pwin := by
  have kept : s.maskSteps.flushLate.settleAll.refreshLeases.pk = s.pk :=
    ((State.refreshLeases_pk _).trans (State.settleAll_pk _)).trans ((State.flushLate_pk _).trans s.maskSteps_pk)
  unfold State.advance
  dsimp only
  refine (congrArg PkgRegs.windows (foldl_keeps State.pk State.noteHold_pk _ _)).trans ?_
  exact congrArg PkgRegs.pwin kept

theorem State.window_eq {port : Nat} (h : port < 2) : s.window port = (2 ^ 30 * (s.pk.windows.extractLsb' (32 * port) 16).toNat,
    2 ^ 30 * min 512 (s.pk.windows.extractLsb' (32 * port + 16) 16).toNat) := by
  rw [State.window, Nat.mod_eq_of_lt h, BitVec.extractLsb'_toNat, BitVec.extractLsb'_toNat, Nat.mul_comm (2 ^ 30), Nat.mul_comm (2 ^ 30)]
  rfl

end

/-! ### The mailbox (R417, R418) -/

section
variable {s : State} {port code : Nat} {r : Res} {i : Instr}

/-- A message leaves the mailbox of a port with a code and bytes, and only the mailbox's log and the free values move. -/
def State.Answers (s : State) (port code : Nat) (bytes : List Byte) (r : Res) : Prop := ∃ (m : List SpdmLog) (n : Nat),
  r = .next { s with outbox := s.outbox ++ [.doe port code bytes], pk := { s.pk with mailbox := m }, free := n }

/-- The code with which the mailbox answers a request in RUN. -/
def spdmCode : Instr → Nat
  | .getVersion _ => 0x04
  | .getDigests _ => 0x01
  | .getCapabilities _ => 0x61
  | .negotiateAlgorithms _ => 0x63
  | .getCertificate _ k _ _ => if k ≠ 0 then 0x7F else 0x02
  | .challenge _ k _ => if k ≠ 0 then 0x7F else 0x03
  | .getMeasurements _ k sg ask => if 4 < k && k ≠ 0xFF || sg && ask.param ≠ 0 then 0x7F else 0x60
  | _ => 0x7F

theorem State.answers_error (s : State) (port error data : Nat) :
    s.Answers port 0x7F (spdmMsg 0x7F error data []) (s.spdmError port error data) := ⟨_, _, rfl⟩

/-- The mailbox answers a request in RUN, and Busy otherwise (R418). -/
theorem exec_spdm (run : exec i s = s.spdm port r) {bytes : List Byte} (answer : s.Answers port (spdmCode i) bytes r) :
    ∃ (code : Nat) (bytes : List Byte) (m : List SpdmLog) (n : Nat),
      exec i s = .next { s with outbox := s.outbox ++ [.doe port code bytes], pk := { s.pk with mailbox := m }, free := n } ∧
      (s.pk.bootState ≠ 1 → code = 0x7F ∧ bytes = [0x13#8, 0x7F#8, 0x03#8, 0#8]) ∧ (s.pk.bootState = 1 → code = spdmCode i) := by
  by_cases boot : s.pk.bootState = 1
  · obtain ⟨m, n, e⟩ := answer
    exact ⟨_, _, m, n, run.trans ((if_pos boot).trans e), fun h => absurd boot h, fun _ => rfl⟩
  · obtain ⟨m, n, e⟩ := s.answers_error port 0x03 0
    exact ⟨_, _, m, n, run.trans ((if_neg boot).trans e), fun _ => ⟨rfl, rfl⟩, fun h => absurd h boot⟩

theorem exec_mailbox (row : i ∈ [Instr.getVersion port, .getDigests port] ∨
      (∃ req, req.port = port ∧ i ∈ [Instr.getCapabilities req, .negotiateAlgorithms req]) ∨
      (∃ k o l, i = .getCertificate port k o l) ∨ (∃ k ask, i = .challenge port k ask) ∨
      (∃ k sg ask, i = .getMeasurements port k sg ask) ∨ (∃ c, i = .spdmUnsupportedRequest port c)) :
    ∃ (r : Res) (bytes : List Byte), exec i s = s.spdm port r ∧ s.Answers port (spdmCode i) bytes r := by
  rcases row with row | ⟨req, rfl, row⟩ | ⟨k, o, l, rfl⟩ | ⟨k, ask, rfl⟩ | ⟨k, sg, ask, rfl⟩ | ⟨c, rfl⟩
  · simp only [List.mem_cons, List.not_mem_nil, or_false] at row
    rcases row with rfl | rfl
    · exact ⟨_, _, Eq.refl (execGetVersion port s), _, _, rfl⟩
    · exact ⟨_, _, Eq.refl (execGetDigests port s), _, _, rfl⟩
  · simp only [List.mem_cons, List.not_mem_nil, or_false] at row
    rcases row with rfl | rfl
    · exact ⟨_, _, Eq.refl (execGetCapabilities req s), _, _, rfl⟩
    · exact ⟨_, _, Eq.refl (execNegotiateAlgorithms req s), _, _, rfl⟩
  · by_cases other : k ≠ 0
    · rw [show spdmCode (.getCertificate port k o l) = 0x7F from if_pos other]
      exact ⟨_, _, (Eq.refl (execGetCertificate port k o l s)).trans (congrArg (s.spdm port) (if_pos other)), s.answers_error port 7 0x82⟩
    · rw [show spdmCode (.getCertificate port k o l) = 0x02 from if_neg other]
      exact ⟨_, _, (Eq.refl (execGetCertificate port k o l s)).trans (congrArg (s.spdm port) (if_neg other)), _, _, rfl⟩
  · by_cases other : k ≠ 0
    · rw [show spdmCode (.challenge port k ask) = 0x7F from if_pos other]
      exact ⟨_, _, (Eq.refl (execChallenge port k ask s)).trans (congrArg (s.spdm port) (if_pos other)), s.answers_error port 7 0x83⟩
    · rw [show spdmCode (.challenge port k ask) = 0x03 from if_neg other]
      exact ⟨_, _, (Eq.refl (execChallenge port k ask s)).trans (congrArg (s.spdm port) (if_neg other)), _, _, rfl⟩
  · by_cases refused : (4 < k && k ≠ 0xFF || sg && ask.param ≠ 0) = true
    · rw [show spdmCode (.getMeasurements port k sg ask) = 0x7F from if_pos refused]
      exact ⟨_, _, (Eq.refl (execGetMeasurements port k sg ask s)).trans (congrArg (s.spdm port) (if_pos refused)), s.answers_error port 7 0xE0⟩
    · rw [show spdmCode (.getMeasurements port k sg ask) = 0x60 from if_neg refused]
      cases sg with
      | true => exact ⟨_, _, (Eq.refl (execGetMeasurements port k true ask s)).trans (congrArg (s.spdm port) (if_neg refused)), _, _, rfl⟩
      | false => exact ⟨_, _, (Eq.refl (execGetMeasurements port k false ask s)).trans (congrArg (s.spdm port) (if_neg refused)), _, _, rfl⟩
  · exact ⟨_, _, Eq.refl (execSpdmUnsupportedRequest port c s), s.answers_error port 7 c⟩

end

/-! ### Peers (R235, R242, R375, R377) -/

section
variable {s : State}

theorem exec_peerMemoryRequest {r : PeerReq} (untolled : s.tollBase = 0) (map : r.addr + r.size ≤ Config.hbmBytes) (plain : r.atomic = none) :
    exec (.peerMemoryRequest r) s = if r.write then .next (s.writeHome 0 r.addr (r.data.take r.size))
      else .next (s.send (.peerData r.pkg (s.bytesSeen (if s.convoyHas r.pkg then viewPeer else viewOutside) 0 r.addr r.size))) := by
  have toll : s.tollPeer r = s := if_pos untolled
  refine (Eq.refl (execPeerMemoryRequest r s)).trans ((if_neg (by simp [devOk, map])).trans ?_)
  simp only [plain, toll]

/-- A request to a peer that has drawn no response stands among the late ones (R377). -/
theorem State.mem_peerLate {id : Nat}
    (h : (∃ p ∈ s.posted, p.id = id ∧ p.performed = false ∧ unanswered id p.piece.at_ = true ∧ p.left + 200000 ≤ s.tick) ∨
     (∃ a ∈ s.atomics, a.id = id ∧ unanswered id a.at_ = true ∧ a.left + 200000 ≤ s.tick) ∨
     (∃ c ∈ s.ctxs, ∃ e ∈ (s.ctx c.1).far, e.id = id ∧ e.data = .waiting ∧ (e.kind = .load ∨ e.kind = .vector) ∧
       s.farUnanswered c.1 e = true ∧ e.left + 200000 ≤ s.tick)) : id ∈ s.peerLate := by
  unfold State.peerLate peerPatience
  rw [List.mem_append, List.mem_append]
  rcases h with ⟨p, hp, rfl, waits, peer, late⟩ | ⟨a, ha, rfl, peer, late⟩ | ⟨c, hc, e, he, rfl, waits, kind, peer, late⟩
  · exact .inl (.inl (List.mem_map.2 ⟨p, List.mem_filter.2 ⟨hp, by simp [waits, peer, late]⟩, rfl⟩))
  · exact .inl (.inr (List.mem_map.2 ⟨a, List.mem_filter.2 ⟨ha, by simp [peer, late]⟩, rfl⟩))
  · refine .inr (List.mem_flatMap.2 ⟨c, hc, List.mem_map.2 ⟨e, List.mem_filter.2 ⟨he, ?_⟩, rfl⟩⟩)
    rcases kind with kind | kind <;> simp [waits, kind, peer, late, peerPatience]

/-- The state without the request that a peer has not answered (R377). -/
def State.givenUp (s : State) (id : Nat) : State :=
  { s with
    posted := s.posted.filter fun p => !(((s.posted.filter fun p => p.id == id).map (·.head)).contains p.head && s.peerLate.contains p.id)
    atomics := s.atomics.filter fun a => a.id != id
    ctxs := s.ctxs.map fun x =>
      (x.1, { x.2 with far := x.2.far.map fun e =>
        if (id :: (s.atomics.filter fun a => a.id == id).filterMap fun a => a.fetch).contains e.id && e.data = .waiting then
          { e with data := .access } else e }) }

theorem exec_peerRequestTimeout {id : Nat} (late : id ∈ s.peerLate) : exec (.peerRequestTimeout id) s =
    .next (if (s.posted.any fun p => p.id == id) || s.atomics.any fun a => a.id == id && a.fetch.isNone then (s.givenUp id).tally 0x818 0 1
      else s.givenUp id) :=
  (Eq.refl (execPeerRequestTimeout id s)).trans (if_neg (by simp [late]))

theorem State.posted_givenUp {id : Nat} (late : id ∈ s.peerLate) : ∀ p ∈ (s.givenUp id).posted, p ∈ s.posted ∧ p.id ≠ id := fun p hp => by
  obtain ⟨hp, kept⟩ := List.mem_filter.1 hp
  refine ⟨hp, fun e => ?_⟩
  have head : p.head ∈ (s.posted.filter fun p => p.id == id).map (·.head) := List.mem_map_of_mem (List.mem_filter.2 ⟨hp, beq_iff_eq.2 e⟩)
  rw [List.contains_iff_mem.2 head, e, List.contains_iff_mem.2 late] at kept
  cases kept

theorem State.atomics_givenUp {id : Nat} : ∀ a ∈ (s.givenUp id).atomics, a ∈ s.atomics ∧ a.id ≠ id := fun a ha => by
  obtain ⟨ha, other⟩ := List.mem_filter.1 ha
  exact ⟨ha, by simpa using other⟩

/-- No entry of the request, or of an atomic of it, waits any longer. -/
theorem State.far_givenUp {id : Nat} : ∀ x ∈ (s.givenUp id).ctxs, ∀ e ∈ x.2.far, e.data = .waiting →
    e.id ≠ id ∧ ∀ a ∈ s.atomics, a.id = id → a.fetch ≠ some e.id := fun x hx e he waits => by
  obtain ⟨y, -, rfl⟩ := List.mem_map.1 hx
  obtain ⟨d, -, rfl⟩ := List.mem_map.1 he
  split at waits
  · cases waits
  next spared =>
    have free : d.id ∉ id :: (s.atomics.filter fun a => a.id == id).filterMap fun a => a.fetch := fun m => by
      rw [List.contains_iff_mem.2 m] at spared
      exact spared (decide_eq_true waits)
    rw [if_neg spared]
    refine ⟨fun e => free (e ▸ .head _), fun a ha e fetch => free (.tail _ (List.mem_filterMap.2 ⟨a, List.mem_filter.2 ⟨ha, ?_⟩, fetch⟩))⟩
    exact beq_iff_eq.2 e

end

/-- Settles O49: accesses by the register or the memory that answers, the mailbox by its codes, peers by their answers and time limits. -/
theorem portRequestsComplete : Obligations.PortRequestsComplete := by
  refine ⟨fun s a plain size aligned low running on => ⟨fun read => ?_, fun write there => ?_⟩,
    fun s a base plain running on hb inside map => ⟨fun read => ?_, fun write len quiet => ?_⟩,
    fun s a => ⟨fun atomic => (Eq.refl (execHostBar2Access a s)).trans (if_pos atomic), fun plain off i row => exec_bar_off row plain off⟩,
    fun s port v inside => ⟨?_, rfl⟩, fun s port i row => ?_, fun s port h => ⟨s.window_eq h, s.advance_windows⟩,
    fun s r untolled map plain quiet => ⟨fun read => ?_, fun write len => ?_⟩, fun s id h => ?_⟩
  · rw [exec_bar0_read plain size aligned low on read, State.barReg_running low running]
    rfl
  · obtain ⟨v, hv⟩ := Option.isSome_iff_exists.1 there
    exact exec_bar0_write plain size aligned low on write ((State.barReg_running low running).trans hv)
  · exact (exec_bar2 plain running on hb inside map).trans (if_neg (by simp [read]))
  · have whole : a.data.take a.size = a.data := List.take_of_length_le (Nat.le_of_eq len)
    have bytes : ∀ x, (s.hostWrite (base + a.offset) a.data).mem.get x = if base + a.offset ≤ x ∧ x < base + a.offset + a.data.length then
        (a.data[x - (base + a.offset)]?).getD 0 else s.mem.get x := State.mem_writeHome quiet _ _
    refine ⟨_, (exec_bar2 plain running on hb inside map).trans ((if_pos write).trans (by rw [whole])), fun i hi => ?_, fun x hx => ?_⟩
    · rw [bytes, if_pos ⟨Nat.le_add_right .., by rw [len]; omega⟩, Nat.add_sub_cancel_left]
    · rw [bytes, if_neg (by rw [len]; omega)]
  · show (s.pk.memEn.set port (v.testBit 1)).getD port false = _
    simp [inside]
  · obtain ⟨r, bytes, run, answer⟩ := exec_mailbox (s := s) row
    obtain ⟨code, bytes, m, n, run, busy, served⟩ := exec_spdm run answer
    refine ⟨code, bytes, m, n, run, busy, fun boot => ?_⟩
    rw [served boot]
    refine ⟨?_, ?_, ?_, ?_, ?_, ?_, ?_, ?_⟩
    · rintro rfl; rfl
    · rintro rfl; rfl
    · rintro o l rfl; rfl
    · rintro ask rfl; rfl
    · rintro sg ask rfl signed
      refine if_neg ?_
      cases sg with
      | true => simp [signed rfl]
      | false => simp
    · rintro req rfl; rfl
    · rintro req rfl; rfl
    · rintro c rfl; rfl
  · exact (exec_peerMemoryRequest untolled map plain).trans (if_neg (by simp [read]))
  · have whole : r.data.take r.size = r.data := List.take_of_length_le (Nat.le_of_eq len)
    refine ⟨_, (exec_peerMemoryRequest untolled map plain).trans ((if_pos write).trans (by rw [whole])), fun i hi => ?_, fun x hx => ?_⟩
    · rw [State.mem_writeHome quiet, if_pos ⟨Nat.le_add_right .., by rw [len]; omega⟩, Nat.add_sub_cancel_left]
    · rw [State.mem_writeHome quiet, if_neg (by rw [len]; omega)]
  · have late := State.mem_peerLate h
    have counts : ((s.posted.any fun p => p.id == id) || s.atomics.any fun a => a.id == id && a.fetch.isNone) = true ↔
        ((∃ p ∈ s.posted, p.id = id) ∨ ∃ a ∈ s.atomics, a.id = id ∧ a.fetch = none) := by
      simp [List.any_eq_true, Option.isNone_iff_eq_none]
    refine ⟨_, exec_peerRequestTimeout late, ?_, ?_, ?_, ?_, ?_⟩
    all_goals by_cases c : ((s.posted.any fun p => p.id == id) || s.atomics.any fun a => a.id == id && a.fetch.isNone) = true
    · rw [if_pos c]; exact sameMemory_of_memories rfl
    · rw [if_neg c]; exact sameMemory_of_memories rfl
    · rw [if_pos c, if_pos (counts.1 c)]
      simp only [State.tally, State.modPk]
      rfl
    · rw [if_neg c, if_neg (mt counts.2 c)]
      rfl
    · rw [if_pos c]; exact State.posted_givenUp late
    · rw [if_neg c]; exact State.posted_givenUp late
    · rw [if_pos c]; exact State.atomics_givenUp
    · rw [if_neg c]; exact State.atomics_givenUp
    · rw [if_pos c]; exact State.far_givenUp
    · rw [if_neg c]; exact State.far_givenUp

end Sys2Proof.Machine
end

section
/-! SUPPORT. The pace unit: the fields of its flit, what a message does to the record of its sender, and what a boundary, silence and a lapse
leave behind (R381 to R390). -/

namespace Sys2Proof.Machine

open Sys2Proof

/-! ### The flit of a message (R383) -/

theorem leNat_natLe_of_lt {n x : Nat} (h : x < 2 ^ (8 * n)) : leNat (natLe n x) = x := by
  rw [leNat_natLe, Nat.mod_eq_of_lt h]

theorem paceFlit_length (m : PaceMsg) : (paceFlit m).length = 64 := by simp [paceFlit]

theorem paceOfFlit_paceFlit {m : PaceMsg} (type : m.type < 256) (src : m.src < 4096) (cvn : m.cvn < 65536) (limit : m.limit < 256)
    (ceil : m.ceil < 256) (eff : m.eff < 2 ^ 64) (round : m.round < 2 ^ 32) (sent : m.sent < 2 ^ 64) : paceOfFlit (paceFlit m) = m := by
  have beyond (n k v : Nat) (h : n ≤ k) : (natLe n v).drop k = [] := List.drop_eq_nil_of_le (by rw [natLe_length]; exact h)
  have bit : (leNat (natLe 1 m.emerg.toNat)).testBit 0 = m.emerg := by cases m.emerg <;> decide
  have source : leNat (natLe 2 (m.src % 4096)) % 4096 = m.src := by
    rw [Nat.mod_eq_of_lt src, leNat_natLe_of_lt (by omega), Nat.mod_eq_of_lt src]
  have fields : paceOfFlit (paceFlit m) = ⟨leNat (natLe 1 m.type), (leNat (natLe 1 m.emerg.toNat)).testBit 0,
      leNat (natLe 2 (m.src % 4096)) % 4096, leNat (natLe 2 m.cvn), leNat (natLe 1 m.limit), leNat (natLe 1 m.ceil), leNat (natLe 8 m.eff),
      leNat (natLe 4 m.round), leNat (natLe 8 m.sent)⟩ := by
    simp [paceOfFlit, paceFlit, List.drop_append, beyond]
  rw [fields, bit, source, leNat_natLe_of_lt type, leNat_natLe_of_lt cvn, leNat_natLe_of_lt limit, leNat_natLe_of_lt ceil,
    leNat_natLe_of_lt eff, leNat_natLe_of_lt round, leNat_natLe_of_lt sent]

/-! ### Messages (R384 to R387) -/

section
variable {s : State} {m : PaceMsg} {join : Bool} {f : Pace → Pace}

/-- The pace unit after a message was heard: its sender is on record, heard in this tick, and no longer SILENT (R384, R389). -/
def State.paceHeard (s : State) (m : PaceMsg) : Pace :=
  ((s.pace.withPeer m.src s.tick).modPeer m.src fun x => { x with last := s.tick, view := if x.view = .silent then .live else x.view }).thaw

theorem State.hear_unheard (h : s.hears m join = false) : s.hear m join f = .next s := if_pos (by simp [h])

theorem State.hear_heard (h : s.hears m join = true) : ∃ t, s.hear m join f = .next t ∧ t.pace = f (s.paceHeard m) :=
  ⟨_, if_neg (by simp [h]), State.lowerClocks_pace _⟩

/-- Where a change reaches the records of one package, a record of it is a changed one. -/
theorem mem_mapPeer {l : List Peer} {k : Nat} {g : Peer → Peer} {y : Peer} (h : y ∈ l.map fun x => if x.pkg = k then g x else x)
    (own : y.pkg = k) : ∃ x ∈ l, x.pkg = k ∧ y = g x := by
  obtain ⟨x, hx, rfl⟩ := List.mem_map.1 h
  by_cases same : x.pkg = k
  · exact ⟨x, hx, same, if_pos same⟩
  · rw [if_neg same] at own
    exact absurd own same

/-- What the sender's record is once it was heard: a record of old, or the new one of an ABSENT peer. -/
theorem State.mem_paceHeard {x : Peer} (h : x ∈ (s.paceHeard m).peers) (own : x.pkg = m.src) :
    x.last = s.tick ∧ x.view ≠ .silent ∧ (x.view = .departed → ∃ y ∈ s.pace.peers, y.pkg = m.src ∧ y.view = .departed) := by
  obtain ⟨y, hy, pkg, rfl⟩ := mem_mapPeer h own
  refine ⟨rfl, ?_, fun departed => ?_⟩
  · show (if y.view = .silent then View.live else y.view) ≠ .silent
    split
    · exact View.noConfusion
    · assumption
  · have gone : y.view = .departed := by
      by_cases silent : y.view = .silent
      · exact absurd ((if_pos silent).symm.trans departed) View.noConfusion
      · exact (if_neg silent).symm.trans departed
    have old : y ∈ s.pace.peers ∨ y = ⟨m.src, .absent, 160, [], s.tick, 160, none, none⟩ := by
      unfold Pace.withPeer at hy
      split at hy
      · exact .inl hy
      · exact (List.mem_append.1 hy).imp_right List.mem_singleton.1
    rcases old with old | rfl
    · exact ⟨y, old, pkg, gone⟩
    · cases gone

theorem State.paceHeard_rest (s : State) (m : PaceMsg) : (s.paceHeard m).mstate = s.pace.mstate ∧ (s.paceHeard m).late = s.pace.late ∧
    (s.paceHeard m).counts = s.pace.counts ∧ (s.paceHeard m).owe = s.pace.owe ∧ (s.paceHeard m).welcomes = s.pace.welcomes ∧
    (s.paceHeard m).cprime = s.pace.cprime := by
  unfold State.paceHeard Pace.withPeer
  split <;> exact ⟨rfl, rfl, rfl, rfl, rfl, rfl⟩

/-- A DEPARTED peer is not heard but for a JOIN. -/
theorem State.not_departed_of_hears (h : s.hears m false = true) : ¬ ∃ y ∈ s.pace.peers, y.pkg = m.src ∧ y.view = .departed := by
  rintro ⟨y, hy, pkg, departed⟩
  have gone : (s.pace.peers.any fun x => x.pkg == m.src && x.view == .departed) = true := List.any_eq_true.2 ⟨y, hy, by simp [pkg, departed]⟩
  simp [State.hears, gone] at h

/-! Each message but a JOIN counts where its sender is heard; what it changes then (R384 to R388). -/

theorem exec_annReceive (m : PaceMsg) (s : State) : ∃ f, exec (.annReceive m) s = s.hear m false f ∧
    (s.roundTick < m.eff → ∀ p, f p = p.modPeer m.src fun x => { x with announced := putLimit x.announced m.eff m.limit }) ∧
    (m.eff ≤ s.roundTick → ∀ p, p.mstate = 2 → f p =
      { p.modPeer m.src fun x => { x with limit := m.limit } with late := min (2 ^ 32 - 1) (p.late + 1) }.settleLate m.src m.limit
        (s.wasSilent m.src)) :=
  ⟨_, Eq.refl (execAnnReceive m s), fun early _ => if_neg (Nat.not_le.2 early), fun late _ member =>
    (if_pos late).trans (if_pos (.inl member))⟩

theorem exec_hbReceive (m : PaceMsg) (s : State) : exec (.hbReceive m) s = s.hear m false fun p => p.modPeer m.src fun x =>
    if s.wasSilent m.src then { x with limit := m.limit }
    else if p.mstate = 2 && x.view == .absent then { x with view := .live, limit := m.limit } else x := Eq.refl (execHbReceive m s)

theorem exec_welcomeReceive (m : PaceMsg) (s : State) : ∃ f, exec (.welcomeReceive m) s = s.hear m false f ∧ ∀ p, p.mstate = 1 → f p =
    { p.modPeer m.src fun x => { x with view := .live, limit := m.limit } with cprime := min p.cprime m.ceil, welcomes := p.welcomes + 1 } :=
  ⟨_, Eq.refl (execWelcomeReceive m s), fun _ joining => if_pos joining⟩

theorem exec_leaveReceive (m : PaceMsg) (s : State) : ∃ f, exec (.leaveReceive m) s = s.hear m false f ∧
    (m.eff ≤ s.roundTick → ∀ p, p.mstate ≠ 0 → f p = p.modPeer m.src fun x => { x with view := .departed }) ∧
    (s.roundTick < m.eff → ∀ p, p.mstate ≠ 0 → f p = p.modPeer m.src fun x => { x with leaveAt := some m.eff }) :=
  ⟨_, Eq.refl (execLeaveReceive m s), fun late _ inside => (if_neg inside).trans (if_pos late),
    fun early _ inside => (if_neg inside).trans (if_neg (Nat.not_le.2 early))⟩

theorem exec_joinReceive (m : PaceMsg) (s : State) : ∃ f, exec (.joinReceive m) s = s.hear m true f ∧
    ∀ p, (p.mstate = 1 ∨ p.mstate = 2) → (f p).owe = p.owe ++ [(m.src, s.tick)] := by
  refine ⟨_, Eq.refl (execJoinReceive m s), fun p inside => ?_⟩
  rw [if_pos inside]
  dsimp only
  split <;> rfl

theorem exec_unheard {i : Instr} (row : i ∈ [Instr.annReceive m, .hbReceive m, .welcomeReceive m, .leaveReceive m])
    (unheard : s.hears m false = false) : exec i s = .next s := by
  simp only [List.mem_cons, List.not_mem_nil, or_false] at row
  rcases row with rfl | rfl | rfl | rfl
  · exact (Eq.refl (execAnnReceive m s)).trans (State.hear_unheard unheard)
  · exact (Eq.refl (execHbReceive m s)).trans (State.hear_unheard unheard)
  · exact (Eq.refl (execWelcomeReceive m s)).trans (State.hear_unheard unheard)
  · exact (Eq.refl (execLeaveReceive m s)).trans (State.hear_unheard unheard)

/-- An announcement waits for its boundary (R388). -/
theorem exec_annReceive_early (heard : s.hears m false = true) (early : s.roundTick < m.eff) : ∃ t, exec (.annReceive m) s = .next t ∧
    ∀ p ∈ t.pace.peers, p.pkg = m.src → (m.eff, m.limit) ∈ p.announced ∧ p.last = s.tick := by
  obtain ⟨f, run, waits, -⟩ := exec_annReceive m s
  obtain ⟨t, next, pace⟩ := State.hear_heard heard (f := f)
  refine ⟨t, run.trans next, fun p hp own => ?_⟩
  rw [pace, waits early] at hp
  obtain ⟨x, hx, pkg, rfl⟩ := mem_mapPeer hp own
  exact ⟨List.mem_append_right _ (.head _), (State.mem_paceHeard hx pkg).1⟩

/-- An announcement that comes late changes at once what its sender counts (log 61). -/
theorem exec_annReceive_late (heard : s.hears m false = true) (late : m.eff ≤ s.roundTick) (member : s.pace.mstate = 2) :
    ∃ t, exec (.annReceive m) s = .next t ∧ t.pace.late = min (2 ^ 32 - 1) (s.pace.late + 1) ∧
      t.pace.counts = s.pace.counts.map (fun x => if x.1 = m.src then (m.src, if s.wasSilent m.src then min x.2 m.limit else m.limit) else x) ∧
      ∀ p ∈ t.pace.peers, p.pkg = m.src → p.limit = m.limit := by
  obtain ⟨f, run, -, counts⟩ := exec_annReceive m s
  obtain ⟨t, next, pace⟩ := State.hear_heard heard (f := f)
  obtain ⟨mstate, lates, old, -⟩ := s.paceHeard_rest m
  rw [counts late _ (mstate.trans member)] at pace
  refine ⟨t, run.trans next, ?_, ?_, fun p hp own => ?_⟩
  · rw [pace, ← lates]; rfl
  · rw [pace, ← old]; rfl
  · rw [pace] at hp
    obtain ⟨x, -, -, rfl⟩ := mem_mapPeer hp own
    rfl

/-- A heartbeat leaves its sender LIVE in a MEMBER (R384, R385). -/
theorem exec_hbReceive_member (heard : s.hears m false = true) (member : s.pace.mstate = 2)
    (spoken : ∀ x ∈ s.pace.peers, x.pkg = m.src → x.view ≠ .silent) :
    ∃ t, exec (.hbReceive m) s = .next t ∧ ∀ p ∈ t.pace.peers, p.pkg = m.src → p.view = .live ∧ p.last = s.tick := by
  have known : s.wasSilent m.src = false := by
    refine List.any_eq_false.2 fun x hx => ?_
    simpa using spoken x hx
  obtain ⟨t, next, pace⟩ := State.hear_heard heard (f := fun p => p.modPeer m.src fun x =>
    if s.wasSilent m.src then { x with limit := m.limit }
    else if p.mstate = 2 && x.view == .absent then { x with view := .live, limit := m.limit } else x)
  refine ⟨t, (exec_hbReceive m s).trans next, fun p hp own => ?_⟩
  rw [pace] at hp
  simp only [known, Bool.false_eq_true, if_false, (s.paceHeard_rest m).1, member, decide_true, Bool.true_and, beq_iff_eq] at hp
  obtain ⟨x, hx, pkg, rfl⟩ := mem_mapPeer hp own
  obtain ⟨last, spoke, departed⟩ := State.mem_paceHeard hx pkg
  split
  · exact ⟨rfl, last⟩
  · refine ⟨?_, last⟩
    cases view : x.view with
    | absent => contradiction
    | live => rfl
    | silent => exact absurd view spoke
    | departed => exact absurd (departed view) (State.not_departed_of_hears heard)

/-- A WELCOME counts while the package is JOINING (R385). -/
theorem exec_welcomeReceive_joining (heard : s.hears m false = true) (joining : s.pace.mstate = 1) :
    ∃ t, exec (.welcomeReceive m) s = .next t ∧ t.pace.welcomes = s.pace.welcomes + 1 ∧ t.pace.cprime = min s.pace.cprime m.ceil ∧
      ∀ p ∈ t.pace.peers, p.pkg = m.src → p.view = .live ∧ p.limit = m.limit := by
  obtain ⟨f, run, counts⟩ := exec_welcomeReceive m s
  obtain ⟨t, next, pace⟩ := State.hear_heard heard (f := f)
  obtain ⟨mstate, -, -, -, welcomes, cprime⟩ := s.paceHeard_rest m
  rw [counts _ (mstate.trans joining)] at pace
  refine ⟨t, run.trans next, ?_, ?_, fun p hp own => ?_⟩
  · rw [pace, ← welcomes]
  · rw [pace, ← cprime]
  · rw [pace] at hp
    obtain ⟨x, -, -, rfl⟩ := mem_mapPeer hp own
    exact ⟨rfl, rfl⟩

/-- A LEAVE counts at its boundary, and at once where that has passed (R385, log 61). -/
theorem exec_leaveReceive_late (heard : s.hears m false = true) (inside : s.pace.mstate ≠ 0) (late : m.eff ≤ s.roundTick) :
    ∃ t, exec (.leaveReceive m) s = .next t ∧ ∀ p ∈ t.pace.peers, p.pkg = m.src → p.view = .departed := by
  obtain ⟨f, run, gone, -⟩ := exec_leaveReceive m s
  obtain ⟨t, next, pace⟩ := State.hear_heard heard (f := f)
  refine ⟨t, run.trans next, fun p hp own => ?_⟩
  rw [pace, gone late _ (by rwa [(s.paceHeard_rest m).1])] at hp
  obtain ⟨x, -, -, rfl⟩ := mem_mapPeer hp own
  rfl

theorem exec_leaveReceive_early (heard : s.hears m false = true) (inside : s.pace.mstate ≠ 0) (early : s.roundTick < m.eff) :
    ∃ t, exec (.leaveReceive m) s = .next t ∧ ∀ p ∈ t.pace.peers, p.pkg = m.src → p.leaveAt = some m.eff ∧ p.view ≠ .silent := by
  obtain ⟨f, run, -, waits⟩ := exec_leaveReceive m s
  obtain ⟨t, next, pace⟩ := State.hear_heard heard (f := f)
  refine ⟨t, run.trans next, fun p hp own => ?_⟩
  rw [pace, waits early _ (by rwa [(s.paceHeard_rest m).1])] at hp
  obtain ⟨x, hx, pkg, rfl⟩ := mem_mapPeer hp own
  exact ⟨rfl, (State.mem_paceHeard hx pkg).2.1⟩

/-- A JOIN leaves a WELCOME to be sent (R385). -/
theorem exec_joinReceive_owes (heard : s.hears m true = true) (inside : s.pace.mstate = 1 ∨ s.pace.mstate = 2) :
    ∃ t, exec (.joinReceive m) s = .next t ∧ t.pace.owe = s.pace.owe ++ [(m.src, s.tick)] := by
  obtain ⟨f, run, owes⟩ := exec_joinReceive m s
  obtain ⟨t, next, pace⟩ := State.hear_heard heard (f := f)
  obtain ⟨mstate, -, -, owe, -⟩ := s.paceHeard_rest m
  exact ⟨t, run.trans next, by rw [pace, owes _ (by rwa [mstate]), owe]⟩

end

/-! ### Boundaries (R382, R385, R388, R390) -/

theorem le_foldl_min (l : List Nat) (a c : Nat) : c ≤ l.foldl min a ↔ c ≤ a ∧ ∀ x ∈ l, c ≤ x := by
  induction l generalizing a with
  | nil => simp
  | cons x l ih => rw [List.foldl_cons, ih, Nat.le_min, List.forall_mem_cons, and_assoc]

section
variable {p : Pace} {e : Nat}

/-- CEIL is the greatest number that no limit which counts lies below (R382). -/
theorem Pace.le_ceilOf (l : List (Nat × Nat)) (cap : Bool) (c : Nat) :
    c ≤ p.ceilOf l cap ↔ c ≤ p.lim ∧ (∀ x ∈ l, c ≤ x.2) ∧ (cap = true → c ≤ p.freeze) := by
  have least : c ≤ (l.map (·.2)).foldl min p.lim ↔ c ≤ p.lim ∧ ∀ x ∈ l, c ≤ x.2 := by
    rw [le_foldl_min, List.forall_mem_map]
  cases cap with
  | false => simpa [Pace.ceilOf] using least
  | true => simp [Pace.ceilOf, least, and_assoc]

theorem Pace.forall_limits (c : Nat) : (∀ x ∈ p.limits, c ≤ x.2) ↔
    (∀ x ∈ p.peers, x.view = .live → c ≤ x.limit) ∧ ∀ x ∈ p.peers, x.view = .silent → c ≤ x.frozen := by
  simp only [Pace.limits, List.forall_mem_append, List.forall_mem_map, List.mem_filter, beq_iff_eq, and_imp]

theorem Pace.le_ceil_settleWith (extra : List (Nat × Nat)) (c : Nat) : c ≤ (p.settleWith extra).ceil ↔ c ≤ p.lim ∧
    ((∀ x ∈ p.peers, x.view = .live → c ≤ x.limit) ∧ ∀ x ∈ p.peers, x.view = .silent → c ≤ x.frozen) ∧
    (∀ x ∈ extra, c ≤ x.2) ∧ (p.frozen = true → c ≤ p.freeze) := by
  show c ≤ p.ceilOf (p.limits ++ extra) p.frozen ↔ _
  rw [Pace.le_ceilOf, List.forall_mem_append, Pace.forall_limits, and_assoc]

/-- The pace unit at a boundary before its state and its ceiling change: limits and emergencies whose boundary has come, and the records of
the peers (R385, R388). -/
def Pace.arrived (p : Pace) (e : Nat) : Pace :=
  { p with
    lim := (applyLimits p.lim p.pending e).1
    pending := (applyLimits p.lim p.pending e).2
    emergencies := p.emergencies.filter fun x => decide (e < x.1)
    peers := p.peers.map fun (x : Peer) => x.atBoundary e (!(p.mstate == 1 && decide (p.boundary ≤ e)) || decide (0 < p.welcomes)) }.thaw

theorem Pace.atBoundary_outside (h : p.mstate = 0) : p.atBoundary e = { p.arrived e with ceil := (p.arrived e).lim } := if_pos h

theorem Pace.atBoundary_unwelcomed (h : p.mstate = 1) (come : p.boundary ≤ e) (alone : p.welcomes = 0) :
    p.atBoundary e = { p.arrived e with ceil := (p.arrived e).lim, mstate := 2, counts := [], capped := false } :=
  (if_neg (show p.mstate ≠ 0 by omega)).trans ((if_pos (by simp [h, come])).trans (if_pos alone))

theorem Pace.atBoundary_joined (h : p.mstate = 1) (come : p.boundary ≤ e) (welcomed : p.welcomes ≠ 0) :
    p.atBoundary e = { (p.arrived e).settleWith [(p.pkg, p.cprime)] with mstate := 2 } :=
  (if_neg (show p.mstate ≠ 0 by omega)).trans ((if_pos (by simp [h, come])).trans (if_neg welcomed))

theorem Pace.atBoundary_joining (h : p.mstate = 1) (early : e < p.boundary) : p.atBoundary e = p.arrived e :=
  (if_neg (show p.mstate ≠ 0 by omega)).trans ((if_neg (by simp [early])).trans (if_pos h))

theorem Pace.atBoundary_left (h : p.mstate = 3) (come : p.boundary ≤ e) :
    p.atBoundary e = { (p.arrived e).forget with ceil := (p.arrived e).lim, mstate := 0 } :=
  (if_neg (show p.mstate ≠ 0 by omega)).trans ((if_neg (by simp [h])).trans ((if_neg (show p.mstate ≠ 1 by omega)).trans
    (if_pos (by show (p.mstate = 3 && decide (p.boundary ≤ e)) = true; simp [h, come]))))

theorem Pace.atBoundary_settled (h : p.mstate ≠ 0 ∧ p.mstate ≠ 1 ∧ ¬ (p.mstate = 3 ∧ p.boundary ≤ e)) :
    p.atBoundary e = (p.arrived e).settle := by
  obtain ⟨inside, joined, left⟩ := h
  exact (if_neg inside).trans ((if_neg (by simp [joined])).trans ((if_neg joined).trans (if_neg (by
    show ¬ (p.mstate = 3 && decide (p.boundary ≤ e)) = true
    simpa using left))))

/-- What every boundary does, whatever the package is in the convoy. -/
theorem Pace.atBoundary_always (p : Pace) (e : Nat) : (p.atBoundary e).lim = (applyLimits p.lim p.pending e).1 ∧
    (p.atBoundary e).emergencies = p.emergencies.filter fun x => decide (e < x.1) := by
  by_cases outside : p.mstate = 0
  · rw [Pace.atBoundary_outside outside]; exact ⟨rfl, rfl⟩
  by_cases joining : p.mstate = 1
  · by_cases come : p.boundary ≤ e
    · by_cases alone : p.welcomes = 0
      · rw [Pace.atBoundary_unwelcomed joining come alone]; exact ⟨rfl, rfl⟩
      · rw [Pace.atBoundary_joined joining come alone]; exact ⟨rfl, rfl⟩
    · rw [Pace.atBoundary_joining joining (Nat.not_le.1 come)]; exact ⟨rfl, rfl⟩
  by_cases left : p.mstate = 3 ∧ p.boundary ≤ e
  · rw [Pace.atBoundary_left left.1 left.2]; exact ⟨rfl, rfl⟩
  · rw [Pace.atBoundary_settled ⟨outside, joining, left⟩]
    unfold Pace.settle
    split <;> exact ⟨rfl, rfl⟩

/-- The state after the boundary of a join (R385). -/
theorem Pace.mstate_atBoundary_joining (h : p.mstate = 1) : (p.atBoundary e).mstate = if p.boundary ≤ e then 2 else 1 := by
  by_cases come : p.boundary ≤ e
  · rw [if_pos come]
    by_cases alone : p.welcomes = 0
    · rw [Pace.atBoundary_unwelcomed h come alone]
    · rw [Pace.atBoundary_joined h come alone]
  · rw [if_neg come, Pace.atBoundary_joining h (Nat.not_le.1 come)]
    exact h

/-- The ceiling of R382, wherever limits of others count. -/
theorem Pace.le_ceil_atBoundary
    (h : p.mstate = 2 ∨ (p.mstate = 3 ∧ e < p.boundary) ∨ (p.mstate = 1 ∧ p.boundary ≤ e ∧ p.welcomes ≠ 0)) (c : Nat) :
    c ≤ (p.atBoundary e).ceil ↔ c ≤ (p.atBoundary e).lim ∧ (∀ x ∈ (p.atBoundary e).peers, x.view = .live → c ≤ x.limit) ∧
      (∀ x ∈ (p.atBoundary e).peers, x.view = .silent → c ≤ x.frozen) ∧ ((p.atBoundary e).frozen = true → c ≤ (p.atBoundary e).freeze) ∧
      (p.mstate = 1 → c ≤ p.cprime) := by
  have settled (member : p.mstate = 2 ∨ (p.mstate = 3 ∧ e < p.boundary)) : p.atBoundary e = (p.arrived e).settleWith [] :=
    (Pace.atBoundary_settled (by omega)).trans (if_pos (show p.mstate = 2 ∨ p.mstate = 3 by omega))
  rw [← or_assoc] at h
  rcases h with member | ⟨joining, come, welcomed⟩
  · have other : p.mstate ≠ 1 := by omega
    rw [settled member, Pace.le_ceil_settleWith]
    simp [other, and_assoc, Pace.settleWith]
  · rw [Pace.atBoundary_joined joining come welcomed]
    refine (Pace.le_ceil_settleWith _ c).trans ?_
    simp [joining, and_assoc, and_comm, and_left_comm, Pace.settleWith]

end

theorem exec_roundBoundary_halted {s : State} (due : s.roundDue = true) (halted : s.pace.halted = true) :
    exec .roundBoundary s = .next { s with lastRound := s.tick / 100000 } :=
  (Eq.refl (execRoundBoundary s)).trans ((if_pos due).trans (congrArg Host.Outcome.next (if_pos halted)))

theorem State.lowerClocks_lastRound (s : State) : s.lowerClocks.lastRound = s.lastRound :=
  foldl_keeps (fun t : State => t.lastRound) (fun t x => by split <;> rfl) _ s

theorem exec_roundBoundary {s : State} (due : s.roundDue = true) (runs : s.pace.halted = false) :
    ∃ t, exec .roundBoundary s = .next t ∧ t.pace = s.pace.atBoundary (100000 * (s.tick / 100000)) ∧ t.lastRound = s.tick / 100000 ∧
      sameMemory s t ∧ ∀ k < 48, (t.serai k).clk = min (s.serai k).clk (t.wantClk k) :=
  ⟨_, (Eq.refl (execRoundBoundary s)).trans ((if_pos due).trans (congrArg Host.Outcome.next (if_neg (by simp [runs])))),
    State.lowerClocks_pace _, State.lowerClocks_lastRound _, sameMemory_of_memories (by simp), fun _ hk => State.clk_lowerClocks _ hk⟩

/-! ### WELCOME, heartbeats, silence and lapse (R384, R385, R389) -/

section
variable {s : State}

theorem exec_welcomeSend {k : Nat} (h : s.owes k = true) : exec (.welcomeSend k) s = .next
    { s with
      outbox := s.outbox ++ s.cvOthers.map fun j => .pace j (paceFlit (s.paceMsg 4 false s.pace.lim 0))
      pace := { s.pace with owe := s.pace.owe.filter fun x => x.1 != k } } :=
  (Eq.refl (execWelcomeSend k s)).trans ((if_pos h).trans (by rw [State.paceAll_eq]; rfl))

theorem exec_heartbeatSend (h : s.beats = true) : exec .heartbeatSend s = .next
    { s with
      lastBeat := s.tick / 20000
      outbox := s.outbox ++ s.cvOthers.map fun j => .pace j (paceFlit (s.paceMsg 2 false s.pace.lim 0)) } :=
  (Eq.refl (execHeartbeatSend s)).trans ((if_pos h).trans (by rw [State.paceAll_eq]; rfl))

theorem exec_peerSilent {x : Peer} (known : x ∈ s.pace.peers) (late : s.silentNow x = true) : exec (.peerSilent x.pkg) s = .next
    (s.modPace fun p => { p.modPeer x.pkg fun x => { x with view := .silent, frozen := min p.ceil x.limit } with
      freeze := p.ceil, frozen := true, capped := true }) :=
  (Eq.refl (execPeerSilent x.pkg s)).trans (if_pos (List.any_eq_true.2 ⟨x, known, by simp [late]⟩))

theorem exec_peerDeparted {x : Peer} (known : x ∈ s.pace.peers) (late : s.departedNow x = true) : exec (.peerDeparted x.pkg) s = .next
    (s.modPace fun p => (p.modPeer x.pkg fun x => { x with view := .departed }).thaw) :=
  (Eq.refl (execPeerDeparted x.pkg s)).trans (if_pos (List.any_eq_true.2 ⟨x, known, by simp [late]⟩))

/-- The pace unit after its membership has lapsed (R385). -/
def Pace.lapsed (p : Pace) : Pace :=
  { p.forget with
    mstate := 0
    pending := []
    peers := p.forget.peers.map fun x => { x with announced := [] }
    emergencies := []
    ceil := p.lim }

theorem exec_membershipLapse (h : s.lapses = true) : exec .membershipLapse s = .next (s.modPace Pace.lapsed).lowerClocks :=
  (Eq.refl (execMembershipLapse s)).trans (if_pos h)

theorem Pace.absent_lapsed {p : Pace} : ∀ x ∈ p.lapsed.peers, x.view = .absent := fun x hx => by
  obtain ⟨y, hy, rfl⟩ := List.mem_map.1 hx
  obtain ⟨z, -, rfl⟩ := List.mem_map.1 hy
  rfl

end

/-- Settles O52: messages by the record of their sender, boundaries by the state of the package in the convoy. -/
theorem convoyEventsComplete : Obligations.ConvoyEventsComplete := by
  refine ⟨fun m type src cvn limit ceil eff round sent => ⟨paceFlit_length m, paceOfFlit_paceFlit type src cvn limit ceil eff round sent⟩,
    ?_, fun s k owes => ⟨_, _, exec_welcomeSend owes, rfl, rfl, rfl, ?_, sameMemory_of_memories rfl⟩,
    fun s beats => ⟨_, _, exec_heartbeatSend beats, rfl, rfl, rfl, rfl, sameMemory_of_memories rfl⟩, ?_,
    fun s x known late => ⟨_, exec_peerSilent known late, rfl, rfl, ?_, rfl, sameMemory_of_memories rfl⟩,
    fun s x known late => ⟨_, exec_peerDeparted known late, ?_, rfl, sameMemory_of_memories rfl⟩, fun s lapses => ?_⟩
  · rintro s m e rfl
    exact ⟨fun i row unheard => exec_unheard row unheard,
      fun unheard => (Eq.refl (execJoinReceive m s)).trans (State.hear_unheard unheard),
      fun heard => ⟨exec_annReceive_early heard, exec_annReceive_late heard, exec_hbReceive_member heard, exec_welcomeReceive_joining heard,
        exec_leaveReceive_late heard, exec_leaveReceive_early heard⟩, exec_joinReceive_owes⟩
  · intro o ho
    simpa using (List.mem_filter.1 ho).2
  · rintro s e due rfl
    cases halted : s.pace.halted with
    | true => exact ⟨_, exec_roundBoundary_halted due halted, rfl, sameMemory_of_memories rfl, fun _ => rfl, fun runs => Bool.noConfusion runs⟩
    | false =>
      obtain ⟨t, run, pace, round, same, clocks⟩ := exec_roundBoundary due halted
      refine ⟨t, run, round, same, fun h => Bool.noConfusion h, fun _ => ?_⟩
      rw [pace]
      obtain ⟨lim, emergencies⟩ := s.pace.atBoundary_always (100000 * (s.tick / 100000))
      refine ⟨lim, fun outside => ?_, Pace.mstate_atBoundary_joining, fun leaving come => ?_, fun joining come alone => ?_,
        Pace.le_ceil_atBoundary, emergencies, fun past => ?_, clocks⟩
      · rw [Pace.atBoundary_outside outside]
        exact ⟨rfl, outside⟩
      · rw [Pace.atBoundary_left leaving come]
        exact ⟨rfl, rfl⟩
      · rw [Pace.atBoundary_unwelcomed joining come alone]
      · have none_left : (s.pace.emergencies.filter fun x => decide (100000 * (s.tick / 100000) < x.1)) = [] :=
          List.filter_eq_nil_iff.2 fun x hx => by simpa using past x hx
        exact congrArg (List.foldl _ 0) (emergencies.trans none_left)
  · intro p hp own
    obtain ⟨y, -, -, rfl⟩ := mem_mapPeer hp own
    rfl
  · intro p hp own
    obtain ⟨y, -, -, rfl⟩ := mem_mapPeer hp own
    rfl
  · refine ⟨_, exec_membershipLapse lapses, ?_⟩
    rw [State.lowerClocks_pace]
    exact ⟨rfl, rfl, rfl, rfl, Pace.absent_lapsed, sameMemory_of_memories (by simp)⟩

end Sys2Proof.Machine
end

section
/-! SUPPORT. Packets and completion: what a queue keeps where a packet is consumed, the consignments that packets start, and the completion
record (R333, R334, R337 to R342, R351, R352). -/

namespace Sys2Proof.Machine

open Sys2Proof

/-! ### Writes in an address space (R230, R341, R351) -/

section
variable {s t u : State} {die asid va : Nat}

theorem State.writesTo_asidWrite {bs : List Byte} (h : s.asidWrite die asid va bs = .ok t) : s.WritesTo t := by
  have put := s.writesTo_asidPut die asid va bs
  rwa [State.asidPut, h] at put

theorem State.writesTo_eventAdd (s : State) (die asid va inc : Nat) : s.WritesTo (s.eventAdd die asid va inc) := by
  unfold State.eventAdd
  split
  · exact s.writesTo_asidPut _ _ _ _
  · exact .refl s

theorem State.backing_setBacking (s : State) (mt : Nat) (m : Store 8) : (s.setBacking mt m).backing mt = m := by
  match mt with
  | 0 => rfl
  | 1 => rfl
  | 2 => rfl
  | _ + 3 => rfl

/-- With no write under way a write at home changes the bytes it names, whichever memory it reaches. -/
theorem State.backing_writeHome (quiet : s.posted = []) (mt n : Nat) (d : List Byte) (x : Nat) :
    ((s.writeHome mt n d).backing mt).get x = if n ≤ x ∧ x < n + d.length then (d[x - n]?).getD 0 else (s.backing mt).get x := by
  have home : (s.writeHome mt n d).backing mt = (s.backing mt).setBytes n d := by
    unfold State.writeHome
    simp only [quiet, List.any_nil, Bool.false_eq_true, if_false, State.backing_setBacking]
    rfl
  rw [home, Store.get_setBytes]

/-- A write that one page takes whole changes the bytes it names. -/
theorem State.asidWrite_page {p : PAddr} {bs : List Byte} (page : s.asidRange die asid true va bs.length = .ok [(p, bs.length)]) :
    s.asidWrite die asid va bs = .ok (s.writeHome p.mt p.addr bs) := by
  unfold State.asidWrite
  rw [page]
  simp only [cutParts, List.foldl_cons, List.foldl_nil, List.take_length]

end

/-! ### What a queue keeps (R333, R334, R337) -/

section
variable {s : State} {q : Nat}

theorem State.queue_consume (s : State) (q : Nat) : (s.consume q).queue q = { s.queue q with
    k := (s.queue q).k + 1
    expect := ((s.queue q).expect + 1) % 2 ^ 32
    consumed := (s.queue q).expect
    packet := none
    pollTick := 0 } :=
  (State.queue_statusWrite _ q 0 _ q).trans (s.queue_modQueue_self q _)

theorem State.con?_consume (s : State) (q k : Nat) : (s.consume q).con? k = s.con? k := (State.writesTo_statusWrite _ q 0 _).con? k

/-- COMPLETED moves over the packets that are done, and nothing else of the queue changes (R334). -/
theorem Queue.moved_eq (n : Nat) (x : Queue) : ∃ c d, Queue.moved n x = { x with completed := c, done := d } := by
  induction n generalizing x with
  | zero => exact ⟨_, _, rfl⟩
  | succ n ih =>
    unfold Queue.moved
    dsimp only
    split
    · obtain ⟨c, d, e⟩ := ih { x with completed := (x.completed + 1) % 2 ^ 32, done := x.done.filter fun d => d != (x.completed + 1) % 2 ^ 32 }
      exact ⟨c, d, e⟩
    · exact ⟨_, _, rfl⟩

theorem State.packetDone_writes (s : State) (q seq : Nat) : ∃ c d : _, State.WritesTo
    (s.modQueue q fun x => { x with completed := c, done := d }) (s.packetDone q seq) := by
  obtain ⟨c, d, e⟩ := Queue.moved_eq ((s.queue q).done.length + 1) { s.queue q with done := (s.queue q).done ++ [seq] }
  have moved : s.modQueue q (fun x => Queue.moved (x.done.length + 1) { x with done := x.done ++ [seq] }) =
      s.modQueue q fun x => { x with completed := c, done := d } := congrArg (fun x => { s with queues := Table.put s.queues q x }) e
  refine ⟨c, d, ?_⟩
  unfold State.packetDone
  rw [moved]
  dsimp only
  split
  · exact .refl _
  · exact State.writesTo_statusWrite ..

theorem State.queue_packetDone (s : State) (q seq : Nat) : ∃ c d, (s.packetDone q seq).queue q = { s.queue q with completed := c, done := d } := by
  obtain ⟨c, d, w⟩ := s.packetDone_writes q seq
  exact ⟨c, d, (w.queue q).trans (s.queue_modQueue_self q _)⟩

theorem State.queue_queueError (s : State) (q err found addr : Nat) : ((s.queueError q err found addr).queue q).st = .error := by
  unfold State.queueError
  split
  · rw [State.queue_modQueue_self]
  · rw [State.queue_statusWrite, State.queue_modQueue_self]

/-- A packet that a queue has consumed and completed leaves the queue one further (R334). -/
theorem State.consumed_spec (s : State) (q seq : Nat) : (((s.consume q).packetDone q seq).queue q).k = (s.queue q).k + 1 ∧
    (((s.consume q).packetDone q seq).queue q).packet = none ∧ (((s.consume q).packetDone q seq).queue q).consumed = (s.queue q).expect ∧
    (((s.consume q).packetDone q seq).queue q).expect = ((s.queue q).expect + 1) % 2 ^ 32 := by
  obtain ⟨c, d, e⟩ := (s.consume q).queue_packetDone q seq
  rw [e, State.queue_consume]
  exact ⟨rfl, rfl, rfl, rfl⟩

theorem exec_queueClosed (h : s.closedNow q = true) : exec (.queueClosed q) s =
    .next ((s.modQueue q fun x => { x with st := .closed }).statusWrite q 12 [0#8]) :=
  (Eq.refl (execQueueClosed q s)).trans (if_pos h)

theorem exec_packetFetch {b : List Byte} (due : (s.queue q).fetchDue = true) (ring : s.asidRead (s.dieOfQueue q) (s.queue q).asid
      (wrap64 ((s.queue q).ring.toNat + 128 * ((s.queue q).k % (s.queue q).rsize))) 128 = .ok b) :
    exec (.packetFetch q) s = if dnum b 0 4 ≠ (s.queue q).expect then .next (s.queueError q 1 (dnum b 0 4) 0)
      else if dnum b 4 1 = 0 || 5 < dnum b 4 1 then .next (s.queueError q 3 (s.queue q).expect 0)
      else .next (s.modQueue q fun y => { y with packet := some b, pollTick := 0 }) := by
  refine (Eq.refl (execPacketFetch q s)).trans ((if_neg (by simp [due])).trans ?_)
  rw [ring]

theorem exec_waitseqPacket {b : List Byte} (head : s.headPacket q 2 = some b) (holds : s.waitseqHolds q b = true) :
    exec (.waitseqPacket q) s = .next ((s.consume q).packetDone q (s.queue q).expect) := by
  refine (Eq.refl (execWaitseqPacket q s)).trans ?_
  unfold execWaitseqPacket
  rw [head]
  exact if_pos holds

theorem exec_evwaitPacket {b : List Byte} (head : s.headPacket q 3 = some b) (holds : s.evwaitHolds q b = true) :
    exec (.evwaitPacket q) s = .next ((s.consume q).packetDone q (s.queue q).expect) := by
  refine (Eq.refl (execEvwaitPacket q s)).trans ?_
  unfold execEvwaitPacket
  rw [head]
  exact if_pos holds

/-- Every awaited event object is to be read again (R341). -/
def State.pollAgain (s : State) : State := { s with queues := s.queues.map fun (x : Nat × Queue) => (x.1, { x.2 with pollTick := 0 }) }

theorem State.queue_pollAgain (s : State) (q : Nat) : s.pollAgain.queue q = { s.queue q with pollTick := 0 } := by
  show (Table.find? (s.queues.map fun x => (x.1, ({ x.2 with pollTick := 0 } : Queue))) q).getD .closed = _
  rw [Table.find?_map s.queues (fun x => ({ x with pollTick := 0 } : Queue)) q, State.queue]
  cases Table.find? s.queues q <;> rfl

theorem exec_evsigPacket {b : List Byte} (head : s.headPacket q 4 = some b) : exec (.evsigPacket q) s = .next
    (((s.eventAdd (s.dieOfQueue q) (s.queue q).asid (dnum b 8 8) (dnum b 16 8)).pollAgain.consume q).packetDone q (s.queue q).expect) := by
  refine (Eq.refl (execEvsigPacket q s)).trans ?_
  unfold execEvsigPacket
  rw [head]
  rfl

theorem exec_eventObjectPoll (h : s.pollDue q = true) : exec (.eventObjectPoll q) s =
    .next (s.modQueue q fun x => { x with pollTick := s.tick + 1 }) :=
  (Eq.refl (execEventObjectPoll q s)).trans (if_pos h)

end

/-! ### Consignments that packets start (R338, R339, R342) -/

section
variable {s : State} {q : Nat} {b : List Byte}

theorem State.con?_addCons (s : State) (x : Cons) : (s.addCons x).con? s.nextId = some x :=
  (Table.find?_put s.cons s.nextId x s.nextId).trans (if_pos rfl)

/-- The consignment of a LAUNCH packet (R338, R339, R353). -/
def State.launched (s : State) (q : Nat) (b : List Byte) (r : Nat) : Cons :=
  s.newCons q (Packet.ofBytes b) (if r = 0 then .accepted else .completing) (if r = 0 then 1 else 2) r
    ((s.queue q).predecessor (Packet.ofBytes b))

theorem exec_launchPacket (ready : s.launchReady? q = some b) : exec (.launchPacket q) s = .next
    (((s.addCons (s.launched q b (refusal b (decide (replayBase ≤ q))))).consume q).modQueue q fun x =>
      { x with lastLaunch := some s.nextId, issuers := x.issuers.filter fun p => decide (x.k ≤ p.1) }) := by
  refine (Eq.refl (execLaunchPacket q s)).trans ?_
  unfold execLaunchPacket
  rw [ready]
  rfl

theorem exec_graphPacket_illegal {o : List Byte} (head : s.headPacket q 5 = some b)
    (object : s.asidRead (s.dieOfQueue q) (s.queue q).asid (dnum b 8 8) 64 = .ok o) (word : dnum b 8 8 < 2 ^ 64) (illegal : graphLegal o = false) :
    exec (.graphPacket q) s = .next (s.replayEnds q 2 1) := by
  refine (Eq.refl (execGraphPacket q s)).trans ?_
  unfold execGraphPacket
  rw [head]
  simp only [State.graphStep, BitVec.toNat_ofNat, Nat.mod_eq_of_lt word, object, illegal, Bool.not_false, Bool.true_or, if_true, Option.getD_some]

theorem exec_graphPacket_starts {o : List Byte} {i : Nat} {u : State} (head : s.headPacket q 5 = some b)
    (object : s.asidRead (s.dieOfQueue q) (s.queue q).asid (dnum b 8 8) 64 = .ok o) (word : dnum b 8 8 < 2 ^ 64) (legal : graphLegal o = true)
    (count : dnum b 24 4 ≤ 4096) (free : s.graphBlock (s.queue q).asid (BitVec.ofNat 64 (dnum b 8 8)) (dnum o 24 1 == 1) = some i)
    (filled : s.fillBlock (s.dieOfQueue q) (s.queue q).asid (dnum o 16 8) (wrap64 (dnum o 16 8 + (i + 1) * dnum o 12 4)) (dnum o 12 4)
      (dnum b 16 8) (dnum b 24 4) = .ok u) :
    exec (.graphPacket q) s = .next
      (u.replayStarts q o (BitVec.ofNat 64 (dnum b 8 8)) i (wrap64 (dnum o 16 8 + (i + 1) * dnum o 12 4))) := by
  refine (Eq.refl (execGraphPacket q s)).trans ?_
  unfold execGraphPacket
  rw [head]
  simp only [State.graphStep, BitVec.toNat_ofNat, Nat.mod_eq_of_lt word, object, legal, Bool.not_true, Bool.false_or, decide_eq_true_eq,
    Nat.not_lt.2 count, if_false, free, filled, Option.getD_some]

end

/-! ### Completion (R351, R352, R361) -/

section
variable {s : State} {k : Nat} {x : Cons}

theorem State.returnUnits_con? (s : State) (k j : Nat) : (s.returnUnits k).con? j = s.con? j := rfl

theorem exec_consignmentComplete (done : s.conDone k = true) : ∃ t, exec (.consignmentComplete k) s = .next t ∧ ∀ x, s.con? k = some x →
    t.con? k = some { x with state := .completing, watch := s.tick, ended := s.nextId } := by
  refine ⟨_, (Eq.refl (execConsignmentComplete k s)).trans (if_pos done), fun x h => ?_⟩
  obtain ⟨l, published⟩ := State.publish_eq ({ s with posted := s.posted.map fun p => p.letGo k } : State) 7 0 fun p => p.cons == some k
  have table : (s.publishAll k).con? k = some x := (congrArg (State.con? · k) published).trans h
  have ended := (s.publishAll k).con?_modCon k (fun x => { x with state := .completing, watch := s.tick, ended := s.nextId }) k
  rw [if_pos rfl, table] at ended
  split
  · exact ended
  · exact ended

theorem State.conDone_con? (done : s.conDone k = true) : ∃ x, s.con? k = some x := by
  unfold State.conDone at done
  cases h : s.con? k with
  | none => rw [h] at done; cases done
  | some x => exact ⟨x, rfl⟩

/-- After its record a consignment is gone with all it held; the host's queues stay as they are (R351). -/
theorem State.afterRecord_spec (s : State) (k : Nat) (x : Cons) : (s.afterRecord k x).con? k = none ∧
    (∀ c ∈ (s.afterRecord k x).ctxs, c.2.cons ≠ some k) ∧ (∀ g ∈ (s.afterRecord k x).groups, g.2.cons ≠ some k) ∧
    ∀ q < 8192, (s.afterRecord k x).queue q = s.queue q := by
  obtain ⟨u, w, e⟩ : ∃ u, s.WritesTo u ∧ s.afterRecord k x = u.returnAll k := by
    unfold State.afterRecord
    split
    · exact ⟨s, .refl s, rfl⟩
    · exact ⟨_, s.writesTo_eventAdd _ _ _ _, rfl⟩
  rw [e]
  refine ⟨?_, fun c hc => ?_, fun g hg => ?_, fun q host => ?_⟩
  · exact (Table.find?_drop _ k k).trans (if_pos rfl)
  · simpa using (List.mem_filter.1 hc).2
  · simpa using (List.mem_filter.1 hg).2
  · have other : q ≠ replayBase + k := by unfold replayBase; omega
    exact (congrArg (·.getD .closed) ((Table.find?_drop u.queues (replayBase + k) q).trans (if_neg other))).trans (w.queue q)

theorem exec_completionRecordWrite_replay {a : Nat} (h : s.con? k = some x) (ready : s.recordReady k = true) (replay : x.graph = some a) :
    exec (.completionRecordWrite k) s = .next ((s.addSums a x).afterRecord k x) := by
  refine (Eq.refl (execCompletionRecordWrite k s)).trans ?_
  unfold execCompletionRecordWrite
  simp only [h, ready, Bool.not_true, Bool.false_eq_true, if_false, replay]

/-- Where the next completion record of a queue goes (R334). -/
def Queue.recordSlot (y : Queue) : Nat := wrap64 (y.cpl.toNat + 32 * (y.nrec % y.csize))

/-- The queue of a consignment whose record cannot be written: its packet counts as completed, and the queue enters ERROR (R334, R351). -/
def State.recordFails (s : State) (x : Cons) (e : DFail) : State :=
  (s.modQueue x.queue fun y => { y with done := y.done ++ [x.seq + 2 ^ 32] }).queueError x.queue 4 (s.queue x.queue).expect e.va

/-- The queue of a consignment whose record stands in slot `j` of the ring, with the interrupt (R334, R351, R410). -/
def State.withRecord (s : State) (x : Cons) (j : Nat) : State :=
  ((s.modQueue x.queue fun y =>
    { y with nrec := y.nrec + 1, records := (y.records.filter fun r => r.1 != j) ++ [(j, x.seq)] }).packetDone x.queue x.seq).msi 0
      [s.dieOfQueue x.queue]

theorem State.nrec_withRecord (s : State) (x : Cons) (j : Nat) : ((s.withRecord x j).queue x.queue).nrec = (s.queue x.queue).nrec + 1 := by
  obtain ⟨c, d, e⟩ := (s.modQueue x.queue fun y =>
    { y with nrec := y.nrec + 1, records := (y.records.filter fun r => r.1 != j) ++ [(j, x.seq)] }).queue_packetDone x.queue x.seq
  rw [State.queue_modQueue_self] at e
  exact congrArg Queue.nrec e

theorem exec_completionRecordWrite_fails {e : DFail} (h : s.con? k = some x) (ready : s.recordReady k = true) (host : x.graph = none)
    (fails : s.asidWrite (s.dieOfQueue x.queue) (s.queue x.queue).asid (s.queue x.queue).recordSlot x.record = .error e) :
    exec (.completionRecordWrite k) s = .next ((s.recordFails x e).afterRecord k x) := by
  unfold Queue.recordSlot at fails
  refine (Eq.refl (execCompletionRecordWrite k s)).trans ?_
  unfold execCompletionRecordWrite
  simp only [h, ready, Bool.not_true, Bool.false_eq_true, if_false, host, fails, State.recordFails, State.queue_modQueue_self]

theorem exec_completionRecordWrite {u : State} (h : s.con? k = some x) (ready : s.recordReady k = true) (host : x.graph = none)
    (written : s.asidWrite (s.dieOfQueue x.queue) (s.queue x.queue).asid (s.queue x.queue).recordSlot x.record = .ok u) :
    exec (.completionRecordWrite k) s =
      .next ((u.withRecord x ((s.queue x.queue).nrec % (s.queue x.queue).csize)).afterRecord k x) := by
  unfold Queue.recordSlot at written
  refine (Eq.refl (execCompletionRecordWrite k s)).trans ?_
  unfold execCompletionRecordWrite
  simp only [h, ready, Bool.not_true, Bool.false_eq_true, if_false, host, written]
  exact Eq.refl _

theorem Cons.record_length (x : Cons) : x.record.length = 32 := by simp [Cons.record]

/-- The fields of a completion record (R351). -/
theorem Cons.record_fields (x : Cons) : dnum x.record 0 4 = x.seq % 2 ^ 32 ∧ dnum x.record 4 1 = x.status % 256 ∧
    dnum x.record 5 1 = x.reason % 256 ∧ dnum x.record 6 2 = 0 ∧ dnum x.record 8 8 = x.skips % 2 ^ 64 ∧
    dnum x.record 16 8 = x.energy % 2 ^ 64 ∧ dnum x.record 24 4 = x.overdraw % 2 ^ 32 ∧
    dnum x.record 28 4 = (x.watch - x.accepted) % 2 ^ 32 := by
  have beyond (n k v : Nat) (h : n ≤ k) : (natLe n v).drop k = [] := List.drop_eq_nil_of_le (by rw [natLe_length]; exact h)
  have whole (n v : Nat) : (natLe n v).take n = natLe n v := List.take_of_length_le (by rw [natLe_length])
  refine ⟨?_, ?_, ?_, ?_, ?_, ?_, ?_, ?_⟩ <;> simp [dnum, Cons.record, List.drop_append, beyond, whole, leNat_natLe]

theorem exec_watchdogExpiry (late : s.watchdogOver k = true) : exec (.watchdogExpiry k) s = .next (s.killCon k 5 0) :=
  (Eq.refl (execWatchdogExpiry k s)).trans (if_pos late)

theorem State.watchdogOver_alive (late : s.watchdogOver k = true) : ∃ x, s.con? k = some x ∧
    x.state ≠ .complete ∧ x.state ≠ .killing ∧ x.state ≠ .completing := by
  unfold State.watchdogOver at late
  cases h : s.con? k with
  | none => rw [h] at late; cases late
  | some x =>
    rw [h] at late
    obtain ⟨-, alive⟩ := Bool.and_eq_true_iff.1 late
    refine ⟨x, rfl, ?_, ?_, ?_⟩ <;> · intro e; rw [e] at alive; exact absurd alive (by decide)

end

/-- Settles O54: packets by what their queue and their consignment keep, completion by the record and by what returns. -/
theorem queueEventsComplete : Obligations.QueueEventsComplete := by
  refine ⟨fun s q closed => ⟨_, exec_queueClosed closed, ?_⟩, fun s q b due ring => ⟨fun number low high => ?_, fun bad => ?_⟩,
    fun s q r b ready e => ?_, fun s q b i row => ?_, fun s u v q b head hu hv => ?_, fun s die asid va inc n p quiet num page x => ?_,
    fun s q due => ⟨_, exec_eventObjectPoll due, ?_, ?_, sameMemory_of_memories rfl⟩,
    fun s q b o head object word => ⟨fun illegal => ?_, fun i u legal count free filled => ?_⟩, fun s k done => ?_,
    fun s k x h ready => ⟨fun a replay => ⟨_, exec_completionRecordWrite_replay h ready replay, (State.afterRecord_spec ..).1⟩,
      fun e host low fails => ?_, fun u host low written => ?_⟩,
    fun s u die asid va x p quiet page written => ?_, fun x => ⟨x.record_length, x.record_fields⟩, fun s k late => ?_⟩
  · rw [State.queue_statusWrite, State.queue_modQueue_self]
  · refine ⟨_, (exec_packetFetch due ring).trans ((if_neg (not_not.2 number)).trans (if_neg ?_)), ?_, ?_, sameMemory_of_memories rfl⟩
    · simpa using ⟨Nat.ne_of_gt low, high⟩
    · rw [State.queue_modQueue_self]
    · rw [State.queue_modQueue_self]
  · by_cases number : dnum b 0 4 ≠ (s.queue q).expect
    · exact ⟨_, (exec_packetFetch due ring).trans (if_pos number), s.queue_queueError ..⟩
    · have type : (dnum b 4 1 = 0 || 5 < dnum b 4 1) = true := by simpa using bad.resolve_left number
      exact ⟨_, (exec_packetFetch due ring).trans ((if_neg number).trans (if_pos type)), s.queue_queueError ..⟩
  · subst e
    refine ⟨_, _, exec_launchPacket ready, (State.con?_consume _ q s.nextId).trans (s.con?_addCons _), rfl, rfl, fun accepted => ?_, fun refused => ?_,
      ?_, ?_, ?_⟩
    · exact ⟨if_pos accepted, if_pos accepted⟩
    · exact ⟨if_neg refused, if_neg refused, rfl⟩
    all_goals rw [State.queue_modQueue_self, State.queue_consume]
    rfl
  · rcases row with ⟨rfl, head, holds⟩ | ⟨rfl, head, holds⟩ | ⟨rfl, head⟩
    · exact ⟨_, exec_waitseqPacket head holds, s.consumed_spec q _⟩
    · exact ⟨_, exec_evwaitPacket head holds, s.consumed_spec q _⟩
    · refine ⟨_, exec_evsigPacket head, ?_⟩
      have spec := State.consumed_spec (s.eventAdd (s.dieOfQueue q) (s.queue q).asid (dnum b 8 8) (dnum b 16 8)).pollAgain q (s.queue q).expect
      rw [State.queue_pollAgain, (s.writesTo_eventAdd _ _ _ _).queue] at spec
      exact spec
  · subst hv hu
    exact exec_evsigPacket head
  · have one : (natLe 8 (n + inc)).length = 8 := natLe_length ..
    have put : s.eventAdd die asid va inc = s.writeHome p.mt p.addr (natLe 8 (n + inc)) := by
      rw [State.eventAdd, num]
      dsimp only
      rw [State.asidPut, State.asidWrite_page (by rw [one]; exact page)]
    rw [put, State.backing_writeHome quiet, one]
  · rw [State.queue_modQueue_self]
  · rw [State.queue_modQueue_self]
  · exact ⟨_, _, exec_graphPacket_illegal head object word illegal, (State.con?_consume _ q s.nextId).trans (s.con?_addCons _), rfl, rfl⟩
  · refine ⟨_, _, exec_graphPacket_starts head object word legal count free filled,
      (State.con?_consume _ q u.nextId).trans (u.con?_addCons _), rfl, ?_, ?_⟩
    · exact congrArg Queue.st (State.queue_modQueue_self _ (replayBase + u.nextId) _)
    · exact congrArg Queue.prod (State.queue_modQueue_self _ (replayBase + u.nextId) _)
  · obtain ⟨x, h⟩ := State.conDone_con? done
    obtain ⟨t, run, con⟩ := exec_consignmentComplete done
    exact ⟨t, _, run, con x h, rfl, rfl⟩
  · obtain ⟨gone, -, -, queues⟩ := (s.recordFails x e).afterRecord_spec k x
    exact ⟨_, exec_completionRecordWrite_fails h ready host fails, gone, by rw [queues _ low, State.recordFails, State.queue_queueError]⟩
  · obtain ⟨gone, ctxs, groups, queues⟩ := (u.withRecord x ((s.queue x.queue).nrec % (s.queue x.queue).csize)).afterRecord_spec k x
    refine ⟨_, exec_completionRecordWrite h ready host written, gone, ?_, ctxs, groups⟩
    rw [queues _ low, State.nrec_withRecord, (State.writesTo_asidWrite written).queue]
  · have one : x.record.length = 32 := x.record_length
    rw [State.asidWrite_page (by rw [one]; exact page)] at written
    cases written
    refine ⟨fun i hi => ?_, fun a ha => ?_⟩
    · rw [State.backing_writeHome quiet, one, if_pos ⟨Nat.le_add_right .., by omega⟩, Nat.add_sub_cancel_left]
    · rw [State.backing_writeHome quiet, one, if_neg (by omega)]
  · obtain ⟨x, h, alive⟩ := State.watchdogOver_alive late
    exact ⟨_, exec_watchdogExpiry late, (State.conEnding_killCon h alive).1⟩

end Sys2Proof.Machine
end

section
/-! SUPPORT. The engines from start to completion: drovers, drains, step caches, collective engines and launch units (R282, R285 to R291, R298,
R306 to R314, R355, R395 to R399). -/

namespace Sys2Proof.Machine

open Sys2Proof

/-! ### What the writes of an engine leave (R254) -/

section
variable {s t u : State} {c : Cmd}

/-- From `s` to `t` no command has changed, and every posted write is still there. -/
def State.Adds (s t : State) : Prop := t.cmds = s.cmds ∧ ∀ w ∈ s.posted, w ∈ t.posted

theorem State.Adds.refl (s : State) : s.Adds s := ⟨rfl, fun _ h => h⟩

theorem State.Adds.trans (h : s.Adds t) (g : t.Adds u) : s.Adds u := ⟨g.1.trans h.1, fun w hw => g.2 w (h.2 w hw)⟩

theorem State.Adds.foldl {α : Type} {f : State → α → State} (hf : ∀ (t : State) (x : α), t.Adds (f t x)) (l : List α) (s : State) :
    s.Adds (l.foldl f s) := by
  induction l generalizing s with
  | nil => exact .refl s
  | cons x l ih => exact (hf s x).trans (ih _)

/-- A write of the engines of a context stands among the posted ones (R254). -/
def State.Posts (s : State) (cid : Nat) (p : Piece) : Prop := ∃ w ∈ s.posted, w.kind = .engine ∧ w.cid = cid ∧ w.piece = p

theorem State.Posts.adds {cid : Nat} {p : Piece} (h : s.Posts cid p) (g : s.Adds t) : t.Posts cid p := by
  obtain ⟨w, hw, is⟩ := h
  exact ⟨w, g.2 w hw, is⟩

/-- Where one step of a fold posts a write and every step keeps what is posted, the write is posted at the end. -/
theorem State.posts_foldl {α : Type} {f : State → α → State} {cid : Nat} {p : Piece} (hf : ∀ (t : State) (x : α), t.Adds (f t x)) {l : List α}
    {x : α} (hx : x ∈ l) (posts : ∀ t, State.Posts (f t x) cid p) (s : State) : (l.foldl f s).Posts cid p := by
  induction l generalizing s with
  | nil => cases hx
  | cons y l ih =>
    rcases List.mem_cons.1 hx with rfl | hx
    · exact (posts s).adds (.foldl hf l _)
    · exact ih hx _

theorem State.writesTo_performed (s : State) (kind : WriteKind) (id cid mt a : Nat) (d : List Byte) : s.WritesTo (s.performed kind id cid mt a d) := by
  obtain ⟨l, e⟩ := State.enter_eq ({ s with poison := clearPoison mt a d.length s.poison } : State) [Posted.atHome kind id cid mt a d]
  exact ⟨_, _, _, _, _, _, _, e⟩

theorem State.adds_performed (s : State) (kind : WriteKind) (id cid mt a : Nat) (d : List Byte) : s.Adds (s.performed kind id cid mt a d) := by
  obtain ⟨_, _, _, _, _, _, _, e⟩ := s.writesTo_performed kind id cid mt a d
  exact ⟨by rw [e], fun w hw => State.mem_enter.2 (.inl hw)⟩

theorem State.adds_engineWrite (s : State) (cid mt a : Nat) (d : List Byte) : s.Adds (s.engineWrite cid mt a d) :=
  s.adds_performed .engine s.nextId cid mt a d

theorem State.posts_engineWrite (s : State) (cid mt a : Nat) (d : List Byte) : (s.engineWrite cid mt a d).Posts cid ⟨⟨mt, a⟩, d⟩ :=
  ⟨_, State.mem_enter.2 (.inr ⟨_, .head _, rfl⟩), rfl, rfl, rfl⟩

theorem State.adds_putBytes (s : State) (cid : Nat) (to_ : Aim) (bs : List DByte) : s.Adds (s.putBytes cid to_ bs) := by
  cases to_ with
  | pad g side a => exact ⟨rfl, fun _ h => h⟩
  | mem p =>
    have written := s.adds_engineWrite cid p.mt p.addr (bs.map (·.1))
    unfold State.putBytes
    dsimp only
    split
    · exact written
    · exact written

theorem State.posts_putBytes (s : State) (cid : Nat) (p : PAddr) (bs : List DByte) : (s.putBytes cid (.mem p) bs).Posts cid ⟨p, bs.map (·.1)⟩ := by
  have posted := s.posts_engineWrite cid p.mt p.addr (bs.map (·.1))
  unfold State.putBytes
  dsimp only
  split
  · exact posted
  · exact posted

theorem State.adds_putBits (s : State) (cid pos w v : Nat) (bad : Bool) : s.Adds (s.putBits cid pos w v bad) := s.adds_putBytes _ _ _

theorem State.adds_putElem (s : State) (cid : Nat) (p : ElemPut) : s.Adds (s.putElem cid p) := by
  unfold State.putElem
  split
  · exact .foldl (fun t _ => t.adds_putBits _ _ _ _ _) _ s
  · exact s.adds_putBits _ _ _ _ _

theorem State.adds_putStream (s : State) (cid g : Nat) (r : Relay) (slotWise : Bool) (p : Plan) : s.Adds (s.putStream cid g r slotWise p) :=
  (State.Adds.foldl (fun t _ => .foldl (fun t _ => t.adds_putBytes _ _ _) _ t) _ s).trans (.foldl (fun t _ => t.adds_putBytes _ _ _) _ _)

theorem State.adds_toll (s : State) (die : Nat) (parts : List (PAddr × Nat)) : s.Adds (s.toll die parts) := by
  unfold State.toll
  split
  · exact .refl s
  · exact ⟨rfl, fun _ h => h⟩

/-- A change of a state without a change of its commands, and then of one command. -/
theorem cmdChanged_modCmd (h : u.cmds = s.cmds) (id : Nat) (f : Cmd → Cmd) : cmdChanged s (u.modCmd id f) id f := by
  rw [cmdChanged, State.cmds_modCmd, h]

/-- A status record in the scratchpad (R289, R309, R396). -/
theorem State.padWrite_record (s : State) (gid a : Nat) (bs : List Byte) : (s.padWrite gid false a bs).cmds = s.cmds ∧
    sameMemory s (s.padWrite gid false a bs) ∧ ((s.padWrite gid false a bs).group gid).sp = (s.group gid).sp.setBytes a bs :=
  ⟨rfl, sameMemory_of_memories rfl, (s.padWrite_sp gid a gid bs).trans (if_pos rfl)⟩

end

/-! ### Drovers (R285 to R291, R298) -/

section
variable {s : State} {k : Nat} {c : Cmd} {v : Drv}

/-- A drover command with its descriptor copy as it starts (R285, R288, R299). -/
def State.droverStarted (s : State) (c : Cmd) (v : Drv) (d : List Byte) (x : Cmd) : Cmd :=
  if s.droverIllegal c v then { x with copyOf := d, work := c.op.first, fault := some (5, 0, 0), due := s.unitCycle c.queue + 8 }
  else if v.chunks ≤ c.op.first then { x with copyOf := d, work := c.op.first, due := s.unitCycle c.queue + 8 }
  else
    { x with
      copyOf := d
      work := c.op.first
      number := c.op.first
      aux := (s.chunkPaths c v c.op.first).1
      occ := (s.chunkPaths c v c.op.first).2
      lead := (s.chunkPaths c v c.op.first).1
      refused := (s.chunkPaths c v c.op.first).2
      due := s.unitCycle c.queue + 4 + (s.chunkPaths c v c.op.first).1 + c.relayPath v }

theorem exec_droverCommandStart (starts : s.droverStart? k = some c) (fresh : c.copyOf = [])
    (drv : ({ c with copyOf := (s.group c.gid).sp.bytes c.op.descAt 96 } : Cmd).drv? = some v) : exec (.droverCommandStart k) s =
      .next (s.startCmd c (s.droverStarted c v ((s.group c.gid).sp.bytes c.op.descAt 96))) := by
  refine (Eq.refl (execDroverCommandStart k s)).trans ?_
  unfold execDroverCommandStart State.droverStarted
  simp only [starts, fresh, List.isEmpty_nil, if_true, drv]
  by_cases illegal : s.droverIllegal c v = true
  · simp only [illegal, if_true]
  · by_cases over_ : v.chunks ≤ c.op.first
    · simp only [illegal, over_, if_false, if_true, Bool.false_eq_true]
    · simp only [illegal, over_, if_false, Bool.false_eq_true]

theorem State.droverStarted_copy (d : List Byte) (x : Cmd) : (s.droverStarted c v d x).work = c.op.first ∧
    (s.droverStarted c v d x).copyOf = d := by
  unfold State.droverStarted
  split
  · exact ⟨rfl, rfl⟩
  · split <;> exact ⟨rfl, rfl⟩

/-- What a chunk leaves before its command goes on to the next (R235, R290, R291). -/
def State.chunkWritten (s : State) (c : Cmd) (v : Drv) (p : Plan) (relay : Option (Nat × Nat × Relay × List Nat)) : State :=
  let s := p.writes.foldl (fun s w => s.putBytes c.cid w.1 w.2) s
  let s := p.elems.foldl (fun s e => s.putElem c.cid e) s
  let s := match relay with
    | some (g, n, r, _) =>
      let cyc := s.relayCycle g
      (s.putStream c.cid g r (v.kind == 3) p).modRelay g n fun x =>
        if v.kind = 3 then x.commitSlot cyc else x.commitStream cyc p.span
    | none => s
  let s := s.toll (dieOf c.cid) (linesAt p.reads ++ linesAt p.places)
  { s with free := s.free + (if v.kind = 1 then v.perChunk * (c.work + 1) else 0) }

/-- A drover command after a chunk has committed. -/
def Cmd.chunkDone (v : Drv) (p : Plan) (t : Nat) (x : Cmd) : Cmd :=
  { x with
    updating := false
    work := x.work + 1
    flags := x.flags ||| mxFlags p.flags
    due := if v.chunks ≤ x.work + 1 then t + 4 + x.refused else t }

theorem State.commitChunk_eq (p : Plan) (relay : Option (Nat × Nat × Relay × List Nat)) : s.commitChunk c v p relay =
    (s.chunkWritten c v p relay).modCmd c.id (Cmd.chunkDone v p ((s.chunkWritten c v p relay).unitCycle c.queue)) := rfl

/-- After its writes a chunk only adds. -/
theorem State.adds_chunkWritten (s : State) (c : Cmd) (v : Drv) (p : Plan) (relay : Option (Nat × Nat × Relay × List Nat)) :
    (p.writes.foldl (fun s w => s.putBytes c.cid w.1 w.2) s).Adds (s.chunkWritten c v p relay) := by
  have elems := State.Adds.foldl (fun t e => t.adds_putElem c.cid e) p.elems (p.writes.foldl (fun s w => s.putBytes c.cid w.1 w.2) s)
  cases relay with
  | none => exact elems.trans (State.adds_toll _ _ _)
  | some x => exact (elems.trans (State.adds_putStream _ c.cid x.1 x.2.2.1 (v.kind == 3) p)).trans (State.adds_toll _ _ _)

theorem State.chunkWritten_cmds (p : Plan) (relay : Option (Nat × Nat × Relay × List Nat)) : (s.chunkWritten c v p relay).cmds = s.cmds :=
  ((State.Adds.foldl (fun t w => t.adds_putBytes c.cid w.1 w.2) p.writes s).trans (s.adds_chunkWritten c v p relay)).1

theorem State.posts_commitChunk {p : Plan} (relay : Option (Nat × Nat × Relay × List Nat)) {q : PAddr} {bs : List DByte}
    (h : (Aim.mem q, bs) ∈ p.writes) : (s.commitChunk c v p relay).Posts c.cid ⟨q, bs.map (·.1)⟩ := by
  have written : (s.chunkWritten c v p relay).Posts c.cid ⟨q, bs.map (·.1)⟩ :=
    (State.posts_foldl (fun t w => t.adds_putBytes c.cid w.1 w.2) h (fun t => t.posts_putBytes c.cid q bs) s).adds (s.adds_chunkWritten c v p relay)
  exact written

theorem exec_droverChunkCommit_commits {p : Plan} {r : Option (Nat × Nat × Relay × List Nat)} (now : s.chunkNow? k = some (c, v, .ready p r))
    (checked : c.updating = true) : exec (.droverChunkCommit k) s = .next (s.commitChunk c v p r) := by
  refine (Eq.refl (execDroverChunkCommit k s)).trans ?_
  unfold execDroverChunkCommit
  simp only [now, checked, if_true]

/-- A drover command whose chunk has taken its slots (R290, R331). -/
theorem exec_droverChunkCommit_checks {p : Plan} {r : Option (Nat × Nat × Relay × List Nat)} (now : s.chunkNow? k = some (c, v, .ready p r))
    (unchecked : c.updating = false) : ∃ (u : State) (f : Cmd → Cmd), exec (.droverChunkCommit k) s = .next (u.modCmd c.id f) ∧ u.cmds = s.cmds ∧
      u.memories = s.memories ∧ ∀ x, (f x).updating = true := by
  have run : exec (.droverChunkCommit k) s = execDroverChunkCommit k s := Eq.refl _
  unfold execDroverChunkCommit at run
  simp only [now, unchecked, Bool.false_eq_true, if_false] at run
  cases r with
  | none => exact ⟨s, _, run, rfl, rfl, fun _ => rfl⟩
  | some x => exact ⟨s.modRelay x.1 x.2.1 fun r => r.claim c.id x.2.2.2, _, run, rfl, rfl, fun _ => rfl⟩

theorem exec_droverChunkCommit_waits (now : s.chunkNow? k = some (c, v, .wait)) : exec (.droverChunkCommit k) s =
    .next (State.modCmd { s with nextId := s.nextId + 1 } c.id fun x => { x with reached := s.nextId + 1 }) := by
  refine (Eq.refl (execDroverChunkCommit k s)).trans ?_
  unfold execDroverChunkCommit
  simp only [now]

theorem exec_droverChunkCommit_access {a : Nat} (now : s.chunkNow? k = some (c, v, .fail (.access a))) : exec (.droverChunkCommit k) s =
    .next (s.modCmd c.id fun x =>
      { x with updating := false, reached := 0, fault := some (2, a, 0), due := s.unitCycle c.queue + 4 + x.refused }) := by
  refine (Eq.refl (execDroverChunkCommit k s)).trans ?_
  unfold execDroverChunkCommit
  simp only [now, State.chunkFail]

theorem State.publish_keeps_cmds (s : State) (scope core : Nat) (p : Posted → Bool) : (s.publish scope core p).cmds = s.cmds := by
  obtain ⟨l, e⟩ := s.publish_eq scope core p
  rw [e]

theorem State.publishElement_cmds (s : State) (core : Nat) (p : PAddr) (n : Nat) : (s.publishElement core p n).cmds = s.cmds :=
  (State.publish_keeps_cmds _ _ _ _).trans rfl

/-- The tag of a chunk is counted whether its word can be written or not (R291). -/
theorem exec_chunkTagWrite (due : s.tagDue? k = some (c, v)) : ∃ t, exec (.chunkTagWrite k) s = .next t ∧
    cmdChanged s t c.id fun x => { x with number := x.number + 1 } := by
  have run : exec (.chunkTagWrite k) s = execChunkTagWrite k s := Eq.refl _
  unfold execChunkTagWrite at run
  simp only [due] at run
  split at run
  · refine ⟨_, run, ?_⟩
    rw [cmdChanged, (State.adds_toll _ _ _).1, State.fresh_cmds, (State.adds_performed _ _ _ _ _ _ _).1, State.publishElement_cmds]
    rfl
  · exact ⟨_, run, rfl⟩

theorem exec_droverCommandComplete (done : s.droverDone? k = some (c, v)) : exec (.droverCommandComplete k) s =
    .next ((s.padWrite c.gid false (c.op.descAt + 96) (c.droverStatus v)).endCmd c) := by
  refine (Eq.refl (execDroverCommandComplete k s)).trans ?_
  unfold execDroverCommandComplete
  simp only [done]

end

/-! ### Drains (R282, R283) -/

section
variable {s : State} {cid : Nat} {c : Cmd}

theorem exec_drainStart (starts : s.drainStart? cid = some c) : exec (.drainStart cid) s = .next (s.startCmd c fun x => x) := by
  refine (Eq.refl (execDrainStart cid s)).trans ?_
  unfold execDrainStart
  simp only [starts]

/-- The end of a drain signals and lets its arrival or its trigger go; commands, groups and memories stay (R282, R354). -/
theorem State.drainEnds_spec (s : State) (c : Cmd) : ∃ u : State, s.drainEnds c = u.endCmd c ∧ u.cmds = s.cmds ∧ sameMemory s u ∧
    u.groups = s.groups := by
  obtain ⟨posted, semWrites, nextId, e⟩ : ∃ posted semWrites nextId, s.drainSignals c =
      { s with posted := posted, semWrites := semWrites, nextId := nextId } := by
    unfold State.drainSignals
    dsimp only
    split
    · exact ⟨_, _, _, rfl⟩
    · exact ⟨_, _, _, rfl⟩
  unfold State.drainEnds
  rw [e]
  refine ⟨_, rfl, ?_⟩
  split
  · exact ⟨rfl, sameMemory_of_memories rfl, rfl⟩
  · split
    · unfold State.modCon
      split <;> exact ⟨rfl, sameMemory_of_memories rfl, rfl⟩
    · exact ⟨rfl, sameMemory_of_memories rfl, rfl⟩
  · exact ⟨rfl, sameMemory_of_memories rfl, rfl⟩

theorem exec_drainComplete_plain {cls scope : Nat} {a : Option Nat} {b : Bool} (done : s.drainDone? cid = some c)
    (plain : c.op = .drain cls scope false a b) : exec (.drainComplete cid) s = .next (s.drainEnds c) := by
  refine (Eq.refl (execDrainComplete cid s)).trans ?_
  unfold execDrainComplete
  simp only [done, plain]

theorem exec_drainComplete_published {cls scope : Nat} {a : Option Nat} {b : Bool} (done : s.drainDone? cid = some c)
    (release : c.op = .drain cls scope true a b) (published : c.updating = true) : exec (.drainComplete cid) s = .next (s.drainEnds c) := by
  refine (Eq.refl (execDrainComplete cid s)).trans ?_
  unfold execDrainComplete
  simp only [done, release, published, if_true]

theorem exec_drainComplete_releases {cls scope : Nat} {a : Option Nat} {b : Bool} (done : s.drainDone? cid = some c)
    (release : c.op = .drain cls scope true a b) (unpublished : c.updating = false) : exec (.drainComplete cid) s =
      .next ((s.releaseAs cid scope (s.drainRels c)).2.modCmd c.id fun x =>
        { x with updating := true, due := (s.releaseAt cid scope).1 }) := by
  refine (Eq.refl (execDrainComplete cid s)).trans ?_
  unfold execDrainComplete
  simp only [done, release, unpublished, Bool.false_eq_true, if_false]
  rfl

theorem State.releaseAs_cmds (s : State) (cid scope : Nat) (rels : List Rel) : (s.releaseAs cid scope rels).2.cmds = s.cmds := by
  obtain ⟨l, till, e⟩ := s.releaseAs_eq cid scope rels
  rw [e]
  rfl

end

/-! ### Step caches (R306 to R319) -/

section
variable {s : State} {k : Nat} {c : Cmd} {d : List Byte}

theorem exec_scCommandStart_legal (starts : s.scStart? k = some c) (fresh : c.copyOf = []) (copy : d = (s.group c.gid).sp.bytes c.op.descAt 64)
    (legal : scLegal c.op.stepKind d = true) : exec (.scCommandStart k) s = .next (s.startCmd c fun x =>
      { x with copyOf := d, aux := 0, due := s.unitCycle c.queue + 8 + s.dirCount c (scTag d) }) := by
  subst copy
  refine (Eq.refl (execScCommandStart k s)).trans ?_
  unfold execScCommandStart
  simp only [starts, fresh, List.isEmpty_nil, if_true, legal]

theorem exec_scCommandStart_illegal (starts : s.scStart? k = some c) (fresh : c.copyOf = []) (copy : d = (s.group c.gid).sp.bytes c.op.descAt 64)
    (illegal : scLegal c.op.stepKind d = false) : exec (.scCommandStart k) s = .next (s.startCmd c fun x =>
      { x with
        copyOf := d
        updating := true
        fault := some (5, 0, 0)
        verdict := if c.op.stepKind = 0 then 8 else 0
        due := s.unitCycle c.queue + 8 }) := by
  subst copy
  refine (Eq.refl (execScCommandStart k s)).trans ?_
  unfold execScCommandStart
  simp only [starts, fresh, List.isEmpty_nil, if_true, illegal, Bool.false_eq_true, if_false]

theorem exec_scDirectoryPoint_arrives (point : s.scPoint? k = some (c, false)) :
    exec (.scDirectoryPoint k) s = .next (s.modCmd c.id fun x => { x with aux := s.now + 1 }) := by
  refine (Eq.refl (execScDirectoryPoint k s)).trans ?_
  unfold execScDirectoryPoint
  simp only [point]

/-- A probe that finds no entry misses (R310). -/
theorem exec_scDirectoryPoint_probe (point : s.scPoint? k = some (c, true)) (probe : c.op.stepKind = 0) (absent : s.scEntry? c = none) :
    exec (.scDirectoryPoint k) s = .next (s.scDecide c 2 0 none (s.unitCycle c.queue)) := by
  refine (Eq.refl (execScDirectoryPoint k s)).trans ?_
  unfold execScDirectoryPoint
  simp only [point, probe, State.probePoint, absent]

/-- A commit that finds the directory full is refused (R312, log 43). -/
theorem exec_scDirectoryPoint_full (point : s.scPoint? k = some (c, true)) (commit : c.op.stepKind = 1)
    (full : 8192 ≤ (s.dir (scHome (scTag c.copyOf))).length) :
    exec (.scDirectoryPoint k) s = .next (s.scDecide c 0 0 (some (7, 0, 0)) (s.unitCycle c.queue)) := by
  refine (Eq.refl (execScDirectoryPoint k s)).trans ?_
  unfold execScDirectoryPoint
  simp only [point, commit, State.commitPoint, full, decide_true, if_true]

theorem exec_scDirectoryPoint_drop (point : s.scPoint? k = some (c, true)) (drop : c.op.stepKind = 2) : exec (.scDirectoryPoint k) s =
    .next ((s.dropEntry c).scDecide c (if (s.scEntry? c).isSome then 0 else 2) 0 none (s.unitCycle c.queue)) := by
  refine (Eq.refl (execScDirectoryPoint k s)).trans ?_
  unfold execScDirectoryPoint
  simp only [point, drop]

/-- The status record and the verdict of a step-cache command, after its work on the entry (R309, R310). -/
theorem exec_scCommandComplete {w : State} {y : Cmd} (done : s.scDone? k = some c) (hy : y = if s.scSpoilt c then c.spoilt else c)
    (hw : w = (s.scEffect y).unlock y) : ∃ u : State, exec (.scCommandComplete k) s = .next (u.endCmd y) ∧ u.cmds = w.cmds ∧ sameMemory w u ∧
      (u.group y.gid).sp = (w.group y.gid).sp.setBytes (y.op.descAt + 96) (y.scStatus (w.scAfter y).1 (w.scAfter y).2) := by
  have run : exec (.scCommandComplete k) s = execScCommandComplete k s := Eq.refl _
  unfold execScCommandComplete at run
  simp only [done, ← hy, ← hw] at run
  obtain ⟨cmds, memory, record⟩ := w.padWrite_record y.gid (y.op.descAt + 96) (y.scStatus (w.scAfter y).1 (w.scAfter y).2)
  split at run
  · exact ⟨_, run, cmds, memory, record⟩
  · exact ⟨_, run, cmds, memory, record⟩

end

/-! ### Launch units (R355) -/

section
variable {s : State} {k : Nat} {c : Cmd}

theorem exec_launchCommandStart (starts : s.launchStart? k = some c) : exec (.launchCommandStart k) s = .next (s.startCmd c fun x =>
    { x with copyOf := (s.group c.gid).sp.bytes c.op.descAt 128, due := s.unitCycle c.queue + 16 + s.ringCount c }) := by
  refine (Eq.refl (execLaunchCommandStart k s)).trans ?_
  unfold execLaunchCommandStart
  simp only [starts]

theorem exec_launchComplete_refused (done : s.launchDone? k = some c) (refused : s.launchable c = false) :
    exec (.launchComplete k) s = .next (s.launchEnds c 0 2) := by
  refine (Eq.refl (execLaunchComplete k s)).trans ?_
  unfold execLaunchComplete
  simp only [done, refused, Bool.not_false, if_true]

theorem exec_launchComplete_fails {q : Nat} {e : DFail} (done : s.launchDone? k = some c) (may : s.launchable c = true)
    (queue : q = c.op.launchQueue) (fails : s.asidRange (s.portOf c.cid) (s.queue q).asid true (s.queue q).prodSlot 128 = .error e) :
    exec (.launchComplete k) s = .next (s.launchEnds c 0 3) := by
  subst queue
  refine (Eq.refl (execLaunchComplete k s)).trans ?_
  unfold execLaunchComplete
  simp only [done, may, Bool.not_true, Bool.false_eq_true, if_false, fails]

/-- The number that a packet at PROD of a queue gets (R334, R355). -/
def Queue.nextSeq (x : Queue) : Nat := (x.expect + x.waiting) % 2 ^ 32

/-- The packet of a `launch` stands in the ring, piece by piece (R355). -/
def State.packetWritten (s : State) (c : Cmd) (seq : Nat) (ps : List (PAddr × Nat)) : State :=
  (cutParts ps (natLe 4 seq ++ c.copyOf.drop 4)).foldl (fun s p => s.engineWrite c.cid p.at_.mt p.at_.addr p.data) s

/-- The queue of a `launch` after the packet was appended, with PROD in its descriptor (R332, R355). -/
def State.packetAppended (s : State) (c : Cmd) (q seq : Nat) (ps : List (PAddr × Nat)) : State :=
  let s := s.packetWritten c seq ps
  let s := s.modQueue q fun x =>
    { x with
      prod := (x.prod + 1) % 2 ^ 32
      issuers := match (s.ctx c.cid).cons with | some k => x.issuers ++ [(x.k + x.waiting, k)] | none => x.issuers }
  s.writeHome 0 (s.qdAddr q + 36) (natLe 4 (s.queue q).prod)

theorem exec_launchComplete {q : Nat} {ps : List (PAddr × Nat)} (done : s.launchDone? k = some c) (may : s.launchable c = true)
    (queue : q = c.op.launchQueue) (ring : s.asidRange (s.portOf c.cid) (s.queue q).asid true (s.queue q).prodSlot 128 = .ok ps) :
    exec (.launchComplete k) s = .next ((s.packetAppended c q (s.queue q).nextSeq ps).launchEnds c (s.queue q).nextSeq 1) := by
  subst queue
  refine (Eq.refl (execLaunchComplete k s)).trans ?_
  unfold execLaunchComplete
  simp only [done, may, Bool.not_true, Bool.false_eq_true, if_false, ring]
  rfl

theorem State.writesTo_engineWrite (s : State) (cid mt a : Nat) (d : List Byte) : s.WritesTo (s.engineWrite cid mt a d) := by
  obtain ⟨_, _, _, _, _, _, _, e⟩ := s.writesTo_performed .engine s.nextId cid mt a d
  exact ⟨_, _, _, _, _, _, _, by rw [State.engineWrite, e]⟩

theorem State.adds_writeHome (s : State) (mt a : Nat) (d : List Byte) : s.Adds (s.writeHome mt a d) := by
  unfold State.writeHome
  dsimp only
  split
  · exact State.adds_performed ({ s with poison := clearPoison mt a d.length s.poison } : State) .host _ _ _ _ _
  · unfold State.setBacking
    split <;> exact ⟨rfl, fun _ h => h⟩

theorem State.posts_piece (s : State) (cid : Nat) (p : Piece) : (s.engineWrite cid p.at_.mt p.at_.addr p.data).Posts cid p :=
  s.posts_engineWrite cid p.at_.mt p.at_.addr p.data

theorem State.adds_modQueue (s : State) (q : Nat) (f : Queue → Queue) : s.Adds (s.modQueue q f) := ⟨rfl, fun _ h => h⟩

theorem State.writesTo_packetWritten (s : State) (c : Cmd) (seq : Nat) (ps : List (PAddr × Nat)) : s.WritesTo (s.packetWritten c seq ps) :=
  .foldl (fun t _ => t.writesTo_engineWrite _ _ _ _) _ s

/-- What the packet of a `launch` changes: its queue's PROD, and memory (R355). -/
theorem State.packetAppended_spec (s : State) (c : Cmd) (q seq : Nat) (ps : List (PAddr × Nat)) :
    (s.packetAppended c q seq ps).cmds = s.cmds ∧ (s.packetAppended c q seq ps).groups = s.groups ∧
    ((s.packetAppended c q seq ps).queue q).prod = ((s.queue q).prod + 1) % 2 ^ 32 ∧
    ∀ p ∈ cutParts ps (natLe 4 seq ++ c.copyOf.drop 4), (s.packetAppended c q seq ps).Posts c.cid p := by
  have w := s.writesTo_packetWritten c seq ps
  have adds : s.Adds (s.packetWritten c seq ps) := .foldl (fun t _ => t.adds_engineWrite _ _ _ _) _ s
  refine ⟨?_, ?_, ?_, fun p hp => ?_⟩
  · exact (State.adds_writeHome _ _ _ _).1.trans adds.1
  · exact (State.writesTo_writeHome _ _ _ _).tables.2.2.2.2.trans w.tables.2.2.2.2
  · refine (congrArg Queue.prod ((State.writesTo_writeHome _ _ _ _).queue q)).trans ?_
    rw [State.queue_modQueue_self, w.queue]
  · have written := State.posts_foldl (f := fun (t : State) (p : Piece) => t.engineWrite c.cid p.at_.mt p.at_.addr p.data)
      (fun t p => t.adds_engineWrite c.cid p.at_.mt p.at_.addr p.data) hp (fun t => t.posts_piece c.cid p) s
    unfold State.packetAppended
    exact (written.adds (State.adds_modQueue _ _ _)).adds (State.adds_writeHome _ _ _ _)

/-- The end of a `launch`: SEQ and LSTAT in its image (R355, log 54). -/
theorem State.launchEnds_spec (s : State) (c : Cmd) (seq lstat : Nat) : ∃ v : State, s.launchEnds c seq lstat = v.endCmd c ∧ v.cmds = s.cmds ∧
    sameMemory s v ∧ (v.group c.gid).sp = ((s.group c.gid).sp.setBytes c.op.descAt (natLe 4 (if lstat = 1 then seq else 0xFFFFFFFF))).setBytes
      (c.op.descAt + 6) [BitVec.ofNat 8 lstat] := by
  refine ⟨_, rfl, rfl, sameMemory_of_memories rfl, ?_⟩
  rw [(State.padWrite_record _ _ _ _).2.2, (State.padWrite_record _ _ _ _).2.2]

end

/-! ### Collective engines: the count of a table and what a start reads (R394 to R396) -/

section
variable (s : State) (key n : Nat)

/-- An engine has counted a command of a table (R395). -/
def State.counted : State := s.modPk fun p => { p with colCount := p.colCount.set key (BitVec.ofNat 64 n) }

/-! The count is no part of what the engine reads of memory. -/

theorem State.bytesSeen_counted (q mt a m : Nat) : (s.counted key n).bytesSeen q mt a m = s.bytesSeen q mt a m := by
  induction m generalizing a with
  | zero => rfl
  | succ m ih => exact congrArg (s.byteSeen q mt a :: ·) (ih (a + 1))

theorem State.devNum_counted (a m : Nat) : (s.counted key n).devNum a m = s.devNum a m := congrArg leNat (s.bytesSeen_counted key n _ _ _ _)

theorem State.walkFrom_counted (die va : Nat) (kind : Acc) (priv : Bool) (level table : Nat) :
    (s.counted key n).walkFrom die va kind priv level table = s.walkFrom die va kind priv level table := by
  induction level generalizing table with
  | zero => rfl
  | succ level ih =>
    unfold State.walkFrom
    simp only [State.devNum_counted, ih]
    rfl

theorem State.walk_counted (die asid va : Nat) (kind : Acc) (priv : Bool) :
    (s.counted key n).walk die asid va kind priv = s.walk die asid va kind priv := by
  have desc (off m : Nat) : (s.counted key n).descNum asid off m = s.descNum asid off m := s.devNum_counted key n _ _
  unfold State.walk State.descValid
  simp only [desc, State.walkFrom_counted]

theorem State.walkRange_counted (die asid : Nat) (priv write : Bool) (fuel va m : Nat) :
    (s.counted key n).walkRange die asid priv write fuel va m = s.walkRange die asid priv write fuel va m := by
  induction fuel generalizing va m with
  | zero => rfl
  | succ fuel ih =>
    unfold State.walkRange
    simp only [State.walk_counted, ih]

theorem State.rangesFail_counted (c : Cmd) (rs : List DRange) : (s.counted key n).rangesFail c rs = s.rangesFail c rs := by
  have fail (r : DRange) : (s.counted key n).rangeFail c.cid r = s.rangeFail c.cid r := by
    unfold State.rangeFail State.range
    rw [State.walkRange_counted]
    rfl
  unfold State.rangesFail
  rw [funext fail]
  rfl

theorem State.topoRanks_counted (t : Nat) : (s.counted key n).topoRanks t = s.topoRanks t := by
  unfold State.topoRanks
  simp only [State.devNum_counted]
  rfl

theorem State.topoRank?_counted (t die : Nat) (l : List (Nat × Nat)) : (s.counted key n).topoRank? t die l = s.topoRank? t die l := by
  unfold State.topoRank?
  simp only [State.devNum_counted]
  rfl

theorem State.colCount_counted (lt : n < 2 ^ 64) : ((s.counted key n).pk.colCount.get key).toNat = n := by
  have stored : (s.counted key n).pk.colCount.get key = BitVec.ofNat 64 n := (Store.get_set ..).trans (if_pos rfl)
  rw [stored, BitVec.toNat_ofNat, Nat.mod_eq_of_lt lt]

end

/-! ### Flits of a running collective command (R396, R397) -/

section
variable {s t u : State} {c : Cmd} {f : Flit} {die : Nat}

theorem cmdChanged.trans {id : Nat} {f g : Cmd → Cmd} (h : cmdChanged s t id f) (keeps : ∀ x, (f x).id = x.id) (h' : cmdChanged t u id g) :
    cmdChanged s u id fun x => g (f x) := by
  rw [cmdChanged, h', h, List.map_map]
  refine List.map_congr_left fun x _ => ?_
  by_cases own : x.id = id
  · simp only [Function.comp_apply, if_pos own, keeps]
  · simp only [Function.comp_apply, if_neg own]

/-- A flit goes to the next rank of the ring, whatever else has changed before. -/
theorem flitSent_sendFlit (inputs : u.inputs = s.inputs) (outbox : u.outbox = s.outbox) (pace : u.pace = s.pace) :
    flitSent s (u.sendFlit c f) c f := by
  unfold flitSent State.sendFlit
  dsimp only
  rw [pace]
  refine ⟨fun own => ?_, fun other => ?_⟩
  · rw [if_pos own]
    exact ⟨congrArg (· ++ _) inputs, outbox⟩
  · rw [if_neg other]
    exact ⟨inputs, congrArg (· ++ _) outbox⟩

theorem State.sendFlit_cmds (s : State) (c : Cmd) (f : Flit) : (s.sendFlit c f).cmds = s.cmds := by
  unfold State.sendFlit
  dsimp only
  split <;> rfl

theorem State.sendFlit_pk (s : State) (c : Cmd) (f : Flit) : (s.sendFlit c f).pk = s.pk := by
  unfold State.sendFlit
  dsimp only
  split <;> rfl

/-- The sum of a partial segment with this rank's input (R397). -/
def Cmd.partialSum (c : Cmd) (f : Flit) : List Nat × FpFlags := colSum (colX (colWire c.copyOf) (f.data.map (·.toNat))) (c.colLocal f.segment).1

/-- The poisoned elements of that sum. -/
def Cmd.partialBad (c : Cmd) (f : Flit) : List Nat := (f.bad ++ (c.colLocal f.segment).2.1).eraseDups

/-- The sum as it leaves, with the poison of its blocks. -/
def Cmd.partialFlit (c : Cmd) (f : Flit) (hop : Nat) (final : Bool) : Flit :=
  c.flit f.segment hop final (colQ (colWire c.copyOf) (c.partialSum f).1).1 (wireBad (colWire c.copyOf) (c.partialBad f))

/-- A partial segment is counted, with the flags of its sum. -/
def State.colAdded (s : State) (c : Cmd) (f : Flit) : State :=
  (s.colFlags c ((c.colLocal f.segment).2.2 ||| (c.partialSum f).2)).modCmd c.id fun x => { x with work := x.work + 1 }

theorem State.colPartial_passes (on : c.occ ≠ f.segment) : s.colPartial c f =
    ((s.colAdded c f).colFlags c (colQ (colWire c.copyOf) (c.partialSum f).1).2).sendFlit c (c.partialFlit f (f.hop + 1) false) := by
  unfold State.colPartial
  dsimp only
  rw [if_neg on]
  rfl

theorem State.colPartial_spreads (own : c.occ = f.segment) (all : c.op.collMode = 1) : s.colPartial c f =
    (((s.colAdded c f).colFlags c (colQ (colWire c.copyOf) (c.partialSum f).1).2).sendFlit c (c.partialFlit f 1 true)).colFinal c
      (c.partialFlit f 1 true) := by
  unfold State.colPartial
  dsimp only
  rw [if_pos own, if_pos all]
  rfl

theorem State.colPartial_ends (own : c.occ = f.segment) (one : c.op.collMode ≠ 1) : s.colPartial c f =
    (s.colAdded c f).colFinal c { c.flit f.segment 1 true (c.partialSum f).1 (c.partialBad f) with wire := 0 } := by
  unfold State.colPartial
  dsimp only
  rw [if_pos own, if_neg one]
  rfl

/-- A command that has added a partial segment. -/
def Cmd.added (c : Cmd) (f : Flit) (x : Cmd) : Cmd :=
  { x with flags := x.flags ||| mxFlags ((c.colLocal f.segment).2.2 ||| (c.partialSum f).2), work := x.work + 1 }

theorem State.colAdded_changed (s : State) (c : Cmd) (f : Flit) : cmdChanged s (s.colAdded c f) c.id (c.added f) := by
  have flags : cmdChanged s (s.colFlags c ((c.colLocal f.segment).2.2 ||| (c.partialSum f).2)) c.id fun x =>
      { x with flags := x.flags ||| mxFlags ((c.colLocal f.segment).2.2 ||| (c.partialSum f).2) } := cmdChanged_modCmd rfl _ _
  exact flags.trans (fun _ => rfl) (cmdChanged_modCmd rfl c.id fun x => { x with work := x.work + 1 })

theorem State.colAdded_flags_changed (s : State) (c : Cmd) (f : Flit) (fl : FpFlags) : cmdChanged s ((s.colAdded c f).colFlags c fl) c.id fun x =>
    { c.added f x with flags := (c.added f x).flags ||| mxFlags fl } :=
  (s.colAdded_changed c f).trans (fun _ => rfl) (cmdChanged_modCmd rfl c.id fun x => { x with flags := x.flags ||| mxFlags fl })

theorem exec_colFlitReceive (running : s.colFor? die f = some c) : exec (.colFlitReceive die f) s = .next (s.colTake c f) := by
  refine (Eq.refl (execColFlitReceive die f s)).trans ?_
  unfold execColFlitReceive
  rw [running]

theorem exec_colFlitReceive_waits (idle : s.colFor? die f = none) (table : f.table < 64)
    (later : (s.pk.colCount.get (colKey die f.table)).toNat ≤ f.cseq) :
    exec (.colFlitReceive die f) s = .next { s with flits := s.flits ++ [(die, f)] } := by
  refine (Eq.refl (execColFlitReceive die f s)).trans ?_
  unfold execColFlitReceive
  rw [idle]
  exact if_pos (by simp [table, later])

theorem exec_colFlitReceive_drops (idle : s.colFor? die f = none) (earlier : f.cseq < (s.pk.colCount.get (colKey die f.table)).toNat) :
    exec (.colFlitReceive die f) s = .next s := by
  refine (Eq.refl (execColFlitReceive die f s)).trans ?_
  unfold execColFlitReceive
  rw [idle]
  exact if_neg (by simp [earlier])

theorem State.colTake_failed (failed : c.fault.isSome = true) : s.colTake c f = s := if_pos failed

theorem State.colTake_disagrees (sound : c.fault = none) (disagrees : c.agrees f = false) :
    s.colTake c f = s.modCmd c.id fun x => { x with fault := some (9, 0, 0), due := s.tick } :=
  (if_neg (by simp [sound])).trans (if_pos (by simp [disagrees]))

theorem State.colTake_final (sound : c.fault = none) (agrees : c.agrees f = true) (final : f.final = true) : s.colTake c f =
    if f.hop < c.aux - 1 then (s.colFinal c f).sendFlit c { f with hop := f.hop + 1 } else s.colFinal c f :=
  (if_neg (by simp [sound])).trans ((if_neg (by simp [agrees])).trans (if_pos final))

theorem State.colTake_partial (sound : c.fault = none) (agrees : c.agrees f = true) (more : f.final = false) :
    s.colTake c f = s.colPartial c f :=
  (if_neg (by simp [sound])).trans ((if_neg (by simp [agrees])).trans (if_neg (by simp [more])))

/-- A final segment is kept and goes on to the end of the ring (R397). -/
theorem State.colTake_final_spec (sound : c.fault = none) (agrees : c.agrees f = true) (final : f.final = true) :
    cmdChanged s (s.colTake c f) c.id (fun x => { x with finals := x.finals ++ [f] }) ∧ sameMemory s (s.colTake c f) ∧
    (f.hop < c.aux - 1 → flitSent s (s.colTake c f) c { f with hop := f.hop + 1 }) ∧
    (c.aux - 1 ≤ f.hop → (s.colTake c f).inputs = s.inputs ∧ (s.colTake c f).outbox = s.outbox) := by
  rw [State.colTake_final sound agrees final]
  by_cases more : f.hop < c.aux - 1
  · rw [if_pos more]
    refine ⟨?_, sameMemory_of_memories (by simp [State.colFinal]), fun _ => flitSent_sendFlit rfl rfl rfl, fun last => absurd more (by omega)⟩
    rw [cmdChanged, State.sendFlit_cmds]
    rfl
  · rw [if_neg more]
    exact ⟨rfl, sameMemory_of_memories rfl, fun h => absurd h more, fun _ => ⟨rfl, rfl⟩⟩

/-- A partial segment adds this rank's input, and passes on, spreads or ends (R397). -/
theorem State.colPartial_spec (s : State) (c : Cmd) (fl : Flit) : ∃ f, cmdChanged s (s.colPartial c fl) c.id f ∧ sameMemory s (s.colPartial c fl) ∧
    (∀ x, (f x).work = x.work + 1) ∧
    (c.occ ≠ fl.segment → flitSent s (s.colPartial c fl) c (c.partialFlit fl (fl.hop + 1) false) ∧ ∀ x, (f x).finals = x.finals) ∧
    (c.occ = fl.segment → c.op.collMode = 1 → flitSent s (s.colPartial c fl) c (c.partialFlit fl 1 true) ∧
      ∀ x, (f x).finals = x.finals ++ [c.partialFlit fl 1 true]) ∧
    (c.occ = fl.segment → c.op.collMode ≠ 1 → (s.colPartial c fl).inputs = s.inputs ∧ (s.colPartial c fl).outbox = s.outbox ∧
      ∀ x, (f x).finals = x.finals ++ [{ c.flit fl.segment 1 true (c.partialSum fl).1 (c.partialBad fl) with wire := 0 }]) := by
  by_cases own : c.occ = fl.segment
  · by_cases all : c.op.collMode = 1
    · rw [State.colPartial_spreads own all]
      have sent := (s.colAdded_flags_changed c fl (colQ (colWire c.copyOf) (c.partialSum fl).1).2)
      have kept := State.sendFlit_cmds ((s.colAdded c fl).colFlags c (colQ (colWire c.copyOf) (c.partialSum fl).1).2) c (c.partialFlit fl 1 true)
      refine ⟨_, cmdChanged.trans (kept.trans sent) (fun _ => rfl) rfl, sameMemory_of_memories ?_, fun _ => rfl, fun h => absurd own h,
        fun _ _ => ⟨flitSent_sendFlit rfl rfl rfl, fun _ => rfl⟩, fun _ h => absurd all h⟩
      simp [State.colFinal, State.colFlags, State.colAdded]
    · rw [State.colPartial_ends own all]
      exact ⟨_, cmdChanged.trans (s.colAdded_changed c fl) (fun _ => rfl) rfl, sameMemory_of_memories rfl, fun _ => rfl, fun h => absurd own h,
        fun _ h => absurd h all, fun _ _ => ⟨rfl, rfl, fun _ => rfl⟩⟩
  · rw [State.colPartial_passes own]
    have sent := (s.colAdded_flags_changed c fl (colQ (colWire c.copyOf) (c.partialSum fl).1).2)
    have kept := State.sendFlit_cmds ((s.colAdded c fl).colFlags c (colQ (colWire c.copyOf) (c.partialSum fl).1).2) c
      (c.partialFlit fl (fl.hop + 1) false)
    refine ⟨_, kept.trans sent, sameMemory_of_memories ?_, fun _ => rfl, fun _ => ⟨flitSent_sendFlit rfl rfl rfl, fun _ => rfl⟩,
      fun h => absurd h own, fun h => absurd h own⟩
    simp [State.colFlags, State.colAdded]

end

/-! ### Start, completion and timeout of a collective command (R395, R396, R398, R399) -/

section
variable {s t u : State} {c : Cmd} {die : Nat} {d : List Byte}

theorem State.colStart?_spec (starts : s.colStart? die = some c) : c ∈ s.cmds ∧ c.queue = .coll die := by
  unfold State.colStart? at starts
  split at starts
  · cases starts
  · split at starts
    next x found =>
      split at starts
      · cases starts
        refine ⟨List.mem_of_find?_eq_some found, ?_⟩
        have named := List.find?_some found
        simp only [Bool.and_eq_true, beq_iff_eq] at named
        exact named.1.1
      · cases starts
    · cases starts

theorem exec_colCommandStart_illegal (starts : s.colStart? die = some c) (copy : d = (s.group c.gid).sp.bytes c.op.descAt 96) (table : 64 ≤ colTopo d) :
    exec (.colCommandStart die) s = .next (s.startCmd c fun x =>
      { x with copyOf := d, number := 0, fault := some (5, 0, 0), due := s.tick + 10 }) := by
  subst copy
  refine (Eq.refl (execColCommandStart die s)).trans ?_
  unfold execColCommandStart
  simp only [starts, table, if_true]

/-- From `s` to `t` the registers stay, and every command has the start and the number of one of its identity. -/
def State.Retains (s t : State) : Prop := t.pk = s.pk ∧ ∀ y ∈ t.cmds, ∃ x ∈ s.cmds, y.id = x.id ∧ y.start = x.start ∧ y.number = x.number

theorem State.Retains.of_eq (pk : t.pk = s.pk) (cmds : t.cmds = s.cmds) : s.Retains t :=
  ⟨pk, fun y hy => ⟨y, cmds ▸ hy, rfl, rfl, rfl⟩⟩

theorem State.Retains.trans (h : s.Retains t) (g : t.Retains u) : s.Retains u := by
  refine ⟨g.1.trans h.1, fun z hz => ?_⟩
  obtain ⟨y, hy, id, start, number⟩ := g.2 z hz
  obtain ⟨x, hx, id', start', number'⟩ := h.2 y hy
  exact ⟨x, hx, id.trans id', start.trans start', number.trans number'⟩

theorem State.retains_modCmd (s : State) (id : Nat) {f : Cmd → Cmd}
    (keeps : ∀ x, (f x).id = x.id ∧ (f x).start = x.start ∧ (f x).number = x.number) : s.Retains (s.modCmd id f) := by
  refine ⟨rfl, fun y hy => ?_⟩
  obtain ⟨x, hx, rfl⟩ := List.mem_map.1 hy
  refine ⟨x, hx, ?_⟩
  split
  · exact keeps x
  · exact ⟨rfl, rfl, rfl⟩

theorem State.retains_colFlags (s : State) (c : Cmd) (f : FpFlags) : s.Retains (s.colFlags c f) := s.retains_modCmd c.id fun _ => ⟨rfl, rfl, rfl⟩

theorem State.retains_colFinal (s : State) (c : Cmd) (f : Flit) : s.Retains (s.colFinal c f) := s.retains_modCmd c.id fun _ => ⟨rfl, rfl, rfl⟩

theorem State.retains_sendFlit (s : State) (c : Cmd) (f : Flit) : s.Retains (s.sendFlit c f) := .of_eq (s.sendFlit_pk c f) (s.sendFlit_cmds c f)

/-- A segment that leaves is kept where it is final. -/
theorem State.retains_segment (s : State) (c : Cmd) (fl : FpFlags) (m : Flit) (final : Bool) :
    s.Retains (if final then ((s.colFlags c fl).sendFlit c m).colFinal c m else (s.colFlags c fl).sendFlit c m) := by
  have sent := (s.retains_colFlags c fl).trans ((s.colFlags c fl).retains_sendFlit c m)
  cases final with
  | true => exact sent.trans (State.retains_colFinal _ c m)
  | false => exact sent

/-- The segments that a rank injects leave the commands' starts and numbers (R397). -/
theorem State.retains_colInject (s : State) (c : Cmd) : s.Retains (s.colInject c) := by
  unfold State.colInject
  dsimp only
  split
  · split
    · exact s.retains_segment c _ _ false
    · exact .of_eq rfl rfl
  · exact s.retains_segment c _ _ true
  · exact s.retains_segment c _ _ false

theorem State.startCmd_pk (s : State) (c : Cmd) (f : Cmd → Cmd) : (s.startCmd c f).pk = s.pk := by
  obtain ⟨l, acquired⟩ := s.tailAcquire_eq (c := c)
  have taken : ((s.tailAcquire c).tailTake c).pk = (s.tailAcquire c).pk := by
    unfold State.tailTake
    split <;> rfl
  exact taken.trans (by rw [acquired])

theorem State.cmd?_id {id : Nat} {x : Cmd} (h : s.cmd? id = some x) : x.id = id := by simpa using List.find?_some h

/-- A command that starts is there under its identity. -/
theorem State.cmd?_startCmd (there : c ∈ s.cmds) {f : Cmd → Cmd} (keeps : ∀ x, (f x).id = x.id) :
    (s.startCmd c f).cmd? c.id ≠ none := fun gone => by
  have mem : Cmd.startedAt (s.unitCycle c.queue) f c ∈ (s.startCmd c f).cmds := by
    rw [State.startCmd_cmds]
    exact List.mem_map.2 ⟨c, there, if_pos rfl⟩
  have own : (Cmd.startedAt (s.unitCycle c.queue) f c).id = c.id := keeps c
  exact absurd own (by simpa using List.find?_eq_none.1 gone _ mem)

/-- Every command of the identity of one that starts has its start, and what the unit makes of it. -/
theorem State.started_of_mem {f : Cmd → Cmd} {y : Cmd} (h : y ∈ (s.startCmd c f).cmds) (own : y.id = c.id) :
    ∃ x, y = Cmd.startedAt (s.unitCycle c.queue) f x := by
  rw [State.startCmd_cmds] at h
  obtain ⟨x, -, rfl⟩ := List.mem_map.1 h
  by_cases same : x.id = c.id
  · exact ⟨x, if_pos same⟩
  · rw [if_neg same] at own
    exact absurd own same

theorem State.toll_pk (s : State) (die : Nat) (parts : List (PAddr × Nat)) : (s.toll die parts).pk = s.pk := by
  unfold State.toll
  split <;> rfl

theorem State.toll_tick (s : State) (die : Nat) (parts : List (PAddr × Nat)) : (s.toll die parts).tick = s.tick := by
  unfold State.toll
  split <;> rfl

/-- The number of the next command of a table (R395). -/
def State.colSeq (s : State) (die t : Nat) : Nat := (s.pk.colCount.get (colKey die t)).toNat

/-- What a collective command does at its start, from a state in which its engine has counted it (R395 to R397). -/
theorem exec_colCommandStart {me t : Nat} (starts : s.colStart? die = some c) (copy : d = (s.group c.gid).sp.bytes c.op.descAt 96)
    (topo : t = colTopo d) (low : t < 64) (rank : s.topoRank? t die (s.topoRanks t) = some me) (legal : colLegal c.op.collMode d = true)
    (fits : colFits c.op.collMode (s.devNum (s.topoAddr t) 2) d = true)
    (ranges : s.rangesFail c (colRanges c.op.collMode (s.devNum (s.topoAddr t) 2) me d) = none) :
    ∃ (u : State) (f : Cmd → Cmd) (x : Cmd) (flits : List (Nat × Flit)) (inputs : List Instr),
      exec (.colCommandStart die) s = .next { (State.colInject { u.startCmd c f with flits := flits } x) with inputs := inputs } ∧
      u.pk = (s.counted (colKey die t) ((s.colSeq die t + 1) % 2 ^ 32)).pk ∧ u.memories = s.memories ∧ u.tick = s.tick ∧
      x.id = c.id ∧ ∀ y, (f y).number = s.colSeq die t := by
  have run : exec (.colCommandStart die) s = execColCommandStart die s := Eq.refl _
  have checked (w : State) (hw : w = s.counted (colKey die t) ((s.colSeq die t + 1) % 2 ^ 32)) :
      w.devNum (w.topoAddr t) 2 = s.devNum (s.topoAddr t) 2 ∧ w.topoRank? t die (w.topoRanks t) = some me ∧
        w.rangesFail c (colRanges c.op.collMode (s.devNum (s.topoAddr t) 2) me d) = none := by
    subst hw
    exact ⟨State.devNum_counted .., by rw [State.topoRanks_counted, State.topoRank?_counted, rank], by rw [State.rangesFail_counted, ranges]⟩
  unfold execColCommandStart at run
  simp only [starts, ← copy, ← topo, Nat.not_le.2 low, if_false] at run
  generalize hw : s.modPk (fun p =>
    { p with colCount := p.colCount.set (colKey die t) (BitVec.ofNat 64 (((s.pk.colCount.get (colKey die t)).toNat + 1) % 2 ^ 32)) }) = w at run
  obtain ⟨devs, ranks, good⟩ := checked w hw.symm
  simp only [devs, ranks, good, legal, fits, Bool.and_self, Bool.not_true, Bool.false_eq_true, if_false] at run
  split at run
  next gone =>
    refine absurd gone (State.cmd?_startCmd ?_ fun _ => rfl)
    rw [(State.adds_toll _ _ _).1, ← hw]
    exact (State.colStart?_spec starts).1
  next x found =>
    refine ⟨_, _, x, _, _, run, ?_, ?_, ?_, State.cmd?_id found, fun _ => rfl⟩
    · rw [State.toll_pk, ← hw]
      rfl
    · rw [State.toll_memories, ← hw]
      rfl
    · rw [State.toll_tick, ← hw]
      rfl


/-- A start counts the command at its engine, and numbers it by that count (R395). -/
theorem exec_colCommandStart_counts {me t : Nat} (starts : s.colStart? die = some c) (copy : d = (s.group c.gid).sp.bytes c.op.descAt 96)
    (topo : t = colTopo d) (low : t < 64) (rank : s.topoRank? t die (s.topoRanks t) = some me) (legal : colLegal c.op.collMode d = true)
    (fits : colFits c.op.collMode (s.devNum (s.topoAddr t) 2) d = true)
    (ranges : s.rangesFail c (colRanges c.op.collMode (s.devNum (s.topoAddr t) 2) me d) = none) :
    ∃ v, exec (.colCommandStart die) s = .next v ∧ sameMemory s v ∧
      (v.pk.colCount.get (colKey die t)).toNat = ((s.pk.colCount.get (colKey die t)).toNat + 1) % 2 ^ 32 ∧
      ∀ x ∈ v.cmds, x.id = c.id → x.start = some (s.unitCycle c.queue) ∧ x.number = (s.pk.colCount.get (colKey die t)).toNat := by
  obtain ⟨u, f, x, flits, inputs, run, pk, memories, tick, id, number⟩ := exec_colCommandStart starts copy topo low rank legal fits ranges
  obtain ⟨keptPk, keptCmds⟩ := State.retains_colInject { u.startCmd c f with flits := flits } x
  refine ⟨_, run, sameMemory_of_memories ?_, ?_, fun y hy own => ?_⟩
  · exact (State.colInject_memories _ x).trans ((State.startCmd_memories f).trans memories)
  · have counted := State.colCount_counted s (colKey die t) ((s.colSeq die t + 1) % 2 ^ 32) (by omega)
    rw [← pk, ← State.startCmd_pk u c f] at counted
    exact (congrArg (fun p : PkgRegs => (p.colCount.get (colKey die t)).toNat) keptPk).trans counted
  · obtain ⟨z, hz, same, start, num⟩ := keptCmds y hy
    obtain ⟨w, rfl⟩ := State.started_of_mem hz (same.symm.trans own)
    rw [start, num]
    refine ⟨congrArg some ?_, number w⟩
    rw [(State.colStart?_spec starts).2]
    exact tick

/-- The end of a collective command, with what it has become since it ran (R396). -/
def State.colEnds (s : State) (c : Cmd) (state : Nat) : State :=
  let y := (s.cmd? c.id).getD c
  (s.padWrite y.gid false (y.op.descAt + 96) (y.colStatus state 0xFFFF)).endCmd y

theorem State.colEnds_gone (s : State) (c : Cmd) (state : Nat) : ∀ x ∈ (s.colEnds c state).cmds, x.id ≠ c.id := fun x hx => by
  have own : ((s.cmd? c.id).getD c).id = c.id := by
    cases found : s.cmd? c.id with
    | none => rfl
    | some y => exact State.cmd?_id found
  unfold State.colEnds at hx
  rw [State.endCmd_cmds] at hx
  simpa [own] using (List.mem_filter.1 hx).2

theorem exec_colCommandComplete_fails (done : s.colDone? die = some c) (failed : c.fault.isSome = true) :
    exec (.colCommandComplete die) s = .next (s.colEnds c 2) := by
  refine (Eq.refl (execColCommandComplete die s)).trans ?_
  unfold execColCommandComplete
  simp only [done, failed, if_true]
  rfl

theorem exec_colCommandComplete (done : s.colDone? die = some c) (sound : c.fault = none)
    (ranges : s.rangesFail c ((colRanges c.op.collMode c.aux c.occ c.copyOf).drop 1) = none) :
    exec (.colCommandComplete die) s = .next ((s.colWrite c).colEnds c 1) := by
  refine (Eq.refl (execColCommandComplete die s)).trans ?_
  unfold execColCommandComplete
  simp only [done, sound, Option.isSome_none, Bool.false_eq_true, if_false, ranges]
  rfl

theorem exec_colTimeout {culprit : Nat} (late : s.colLate? die = some (c, culprit)) : exec (.colTimeout die) s =
    .next ((s.padWrite c.gid false (c.op.descAt + 96) (c.colStatus 3 culprit)).endCmd c) := by
  refine (Eq.refl (execColTimeout die s)).trans ?_
  unfold execColTimeout
  simp only [late]

end

/-- Settles O60: engine by engine, a command by what its start, its pieces and its end leave of it. -/
theorem engineEventsComplete : Obligations.EngineEventsComplete := by
  refine ⟨fun s k t0 c v starts fresh time drv => ?_, fun s k c v => ⟨fun p r now => ⟨fun unchecked => ?_, fun checked => ?_⟩, fun waits => ?_,
      fun a fails => ?_, fun due => ?_, fun done => ?_⟩,
    fun s cid c => ⟨fun starts => ?_, fun done cls scope a b plain => ?_,
      fun done cls scope a b release => ⟨fun published => ?_, fun unpublished => ?_⟩⟩,
    fun s k t0 c d starts fresh time copy => ?_, fun s k c => ⟨fun arrives => ?_, fun point probe absent => ?_, fun point drop => ?_,
      fun point commit full => ?_, fun w y done hy hw => ?_⟩,
    fun s die t0 c d starts copy topo => ⟨fun high => ?_, fun me low rank legal fits ranges => ?_⟩,
    fun s die culprit c => ⟨fun done ends => ?_, fun done same failed => ?_, fun w done sound hw ranges => ?_, fun late => ?_⟩,
    fun s die fl => ⟨exec_colFlitReceive_waits, exec_colFlitReceive_drops, fun c running sound disagrees => ?_, fun c running failed => ?_,
      fun c running sound agrees final => ?_, fun c sum bad w running sound agrees more hsum hbad hw => ?_⟩,
    fun s u c => ⟨fun starts => ?_, exec_launchComplete_refused, fun q e done may queue fails => exec_launchComplete_fails done may queue fails,
      fun q ps done may queue ring => ?_, s.launchEnds_spec c⟩⟩
  · subst time
    refine ⟨_, _, exec_droverCommandStart starts fresh drv, State.startCmd_cmds _, State.startCmd_groups _, sameMemory_of_memories (by simp),
      fun x => ⟨rfl, State.droverStarted_copy _ x⟩, fun illegal x => ?_, fun legal none_ x => ?_, fun legal some_ x => ?_⟩
    · simp only [Cmd.startedAt, State.droverStarted, illegal, if_true, and_self]
    · simp only [Cmd.startedAt, State.droverStarted, legal, none_, Bool.false_eq_true, if_false, if_true, and_self]
    · simp only [Cmd.startedAt, State.droverStarted, legal, Nat.not_le.2 some_, Bool.false_eq_true, if_false, and_self]
  · obtain ⟨u, f, run, cmds, memories, updating⟩ := exec_droverChunkCommit_checks now unchecked
    exact ⟨_, f, run, cmdChanged_modCmd cmds c.id f, updating, sameMemory_of_memories memories⟩
  · exact ⟨_, _, exec_droverChunkCommit_commits now checked, cmdChanged_modCmd (State.chunkWritten_cmds p r) c.id _, fun _ => ⟨rfl, rfl⟩,
      fun q bs h => State.posts_commitChunk r h⟩
  · exact ⟨_, _, exec_droverChunkCommit_waits waits, cmdChanged_modCmd rfl c.id _, sameMemory_of_memories rfl, fun _ => ⟨rfl, rfl, rfl⟩⟩
  · exact ⟨_, _, exec_droverChunkCommit_access fails, cmdChanged_modCmd rfl c.id _, sameMemory_of_memories rfl, fun _ => ⟨rfl, rfl⟩⟩
  · obtain ⟨t, run, changed⟩ := exec_chunkTagWrite due
    exact ⟨t, _, run, changed, fun _ => rfl⟩
  · exact ⟨_, exec_droverCommandComplete done, s.padWrite_record _ _ _⟩
  · exact ⟨_, _, exec_drainStart starts, State.startCmd_cmds _, fun _ => rfl, State.startCmd_groups _⟩
  · obtain ⟨u, e, spec⟩ := s.drainEnds_spec c
    exact ⟨u, e ▸ exec_drainComplete_plain done plain, spec⟩
  · obtain ⟨u, e, spec⟩ := s.drainEnds_spec c
    exact ⟨u, e ▸ exec_drainComplete_published done release published, spec⟩
  · exact ⟨_, _, exec_drainComplete_releases done release unpublished, cmdChanged_modCmd (s.releaseAs_cmds cid scope _) c.id _,
      fun _ => ⟨rfl, rfl⟩⟩
  · subst time
    cases legal : scLegal c.op.stepKind d with
    | true => exact ⟨_, _, exec_scCommandStart_legal starts fresh copy legal, State.startCmd_cmds _, State.startCmd_groups _, fun _ => ⟨rfl, rfl⟩,
        fun _ _ => rfl, fun h => Bool.noConfusion h⟩
    | false => exact ⟨_, _, exec_scCommandStart_illegal starts fresh copy legal, State.startCmd_cmds _, State.startCmd_groups _, fun _ => ⟨rfl, rfl⟩,
        fun h => Bool.noConfusion h, fun _ _ => ⟨rfl, rfl⟩⟩
  · exact ⟨_, _, exec_scDirectoryPoint_arrives arrives, cmdChanged_modCmd rfl c.id _, fun _ => rfl⟩
  · exact ⟨_, _, exec_scDirectoryPoint_probe point probe absent, cmdChanged_modCmd rfl c.id _, fun _ => ⟨rfl, rfl, rfl⟩⟩
  · exact ⟨_, _, exec_scDirectoryPoint_drop point drop, cmdChanged_modCmd rfl c.id _, fun _ => ⟨rfl, rfl⟩⟩
  · exact ⟨_, _, exec_scDirectoryPoint_full point commit full, cmdChanged_modCmd rfl c.id _, fun _ => ⟨rfl, rfl⟩⟩
  · exact exec_scCommandComplete done hy hw
  · subst topo
    exact ⟨_, _, exec_colCommandStart_illegal starts copy high, State.startCmd_cmds _, sameMemory_of_memories (by simp), fun _ => ⟨rfl, rfl, rfl⟩⟩
  · exact exec_colCommandStart_counts starts copy topo low rank legal fits ranges
  · rcases ends with failed | ranges
    · exact ⟨_, exec_colCommandComplete_fails done failed, s.colEnds_gone c 2⟩
    · cases sound : c.fault with
      | none => exact ⟨_, exec_colCommandComplete done sound ranges, State.colEnds_gone _ c 1⟩
      | some f => exact ⟨_, exec_colCommandComplete_fails done (by rw [sound]; rfl), s.colEnds_gone c 2⟩
  · refine ⟨s.padWrite c.gid false (c.op.descAt + 96) (c.colStatus 2 0xFFFF), (exec_colCommandComplete_fails done failed).trans ?_,
      s.padWrite_record _ _ _⟩
    rw [State.colEnds, same]
    rfl
  · subst hw
    exact ⟨_, _, exec_colCommandComplete done sound ranges, (State.padWrite_record _ _ _ _).1, (State.padWrite_record _ _ _ _).2.1,
      (State.padWrite_record _ _ _ _).2.2, rfl⟩
  · obtain ⟨cmds, -, record⟩ := s.padWrite_record c.gid (c.op.descAt + 96) (c.colStatus 3 culprit)
    exact ⟨_, exec_colTimeout late, cmds, record⟩
  · exact ⟨_, _, (exec_colFlitReceive running).trans (congrArg _ (State.colTake_disagrees sound disagrees)), cmdChanged_modCmd rfl c.id _,
      fun _ => rfl⟩
  · exact (exec_colFlitReceive running).trans (congrArg _ (State.colTake_failed failed))
  · exact ⟨_, exec_colFlitReceive running, State.colTake_final_spec sound agrees final⟩
  · subst hsum hbad hw
    obtain ⟨f, changed, memory, work, passes, spreads, ends⟩ := s.colPartial_spec c fl
    exact ⟨_, f, (exec_colFlitReceive running).trans (congrArg _ (State.colTake_partial sound agrees more)), changed, memory, work, passes,
      spreads, ends⟩
  · exact ⟨_, _, exec_launchCommandStart starts, State.startCmd_cmds _, State.startCmd_groups _, fun _ => ⟨rfl, rfl⟩⟩
  · exact ⟨_, exec_launchComplete done may queue ring, s.packetAppended_spec c q _ ps⟩

end Sys2Proof.Machine
end
